-- ==== Sys2Proof/Word.lean ====
section
/-! DEFINITION. The word types of the Trellux D7 model and the one shape in which it holds sparse data. -/
namespace Sys2Proof

/-- One byte, the smallest addressable unit (R5). -/
abbrev Byte := BitVec 8

/-- A 32-bit word: an FP32 or INT32 value, an instruction word, a register of 32 bits. -/
abbrev W32 := BitVec 32

/-- A 64-bit word: a core register, an address, a register of 64 bits. -/
abbrev W64 := BitVec 64

/-- Sparse data: values at the keys that hold something other than the default, keys strictly rising. -/
abbrev Sparse (α : Type) := List (Nat × α)

end Sys2Proof
end

