-- ==== Sys2Proof/Syntax.lean ====
section
/-! DEFINITION. The commands of the Trellux D7 block (spec/opcode_table.json), one constructor per row, with the row's
operands: which Frame, queue, port or ring the step is of, and what comes from outside the block with it. -/
namespace Sys2Proof

/-- Who writes a register (R7, R9). -/
inductive Agent where
  | host | studio
  deriving DecidableEq, Repr

/-- What the ECC check of the words that a step reads finds (R81, R133, R205, R218): nothing, a single-bit error, a
double-bit error, or a double-bit error in what steers the access (a tag, a packet header). -/
inductive Ecc where
  | ok | single | double | header
  deriving DecidableEq, Repr

/-- What the ECC check of the stores that a Spindle command reads finds (R56): nothing, a single-bit error in a store of physical
Spindle `m`, or a double-bit error there in a word read for issue, sub-tile or entry `at_` of the command. -/
inductive SpinEcc where
  | ok | single (m : Fin 9) | double (m : Fin 9) (at_ : Nat)
  deriving DecidableEq, Repr

/-- Which words of a Shuttle stretch an ECC check concerns: the index stream, the tensor scale, the block scales, the elements that are
read, or the destination bytes of a scatter-add or of a packed write. -/
inductive ShRead where
  | index | tensor | scale | data | dest
  deriving DecidableEq, Repr

/-- How a request that left the unit is answered (R182, R184, R341): served, or refused by a remote module with a
REJECT cause, or by the host with Unsupported Request or Completer Abort; or the host has sent no completion yet. -/
inductive Resp where
  | ok | hostUR | hostCA | rejected (cause : Fin 8) | late
  deriving DecidableEq, Repr

/-- The two Twist rings (R80). -/
inductive Ring where
  | S | Z
  deriving DecidableEq, Repr

/-- A codeword of RS(544,514) that a flit overlaps (R266): its symbol errors, and whether it ends in this flit, with which it is
counted. -/
structure Codeword where
  errs : Nat
  ends : Bool
  deriving DecidableEq, Repr

/-- How one read of an LPDDR block differs from what the block holds: places in it, and what each is exclusive-ored with. -/
abbrev Disturb := List (Nat × Byte)

/-- A request that reaches a Palette slice: a write of `data`, or a read of `len` bytes, for task `task`. -/
structure Access where
  write : Bool
  addr  : Nat
  len   : Nat
  data  : List Byte
  task  : Fin 16
  deriving DecidableEq, Repr

/-- A Weft record (Table 11-3): TYPE, LEN_M1, DEST, SRC, ADDR, VAL and its data bytes. -/
structure Record where
  typ  : Nat
  len1 : Nat
  dest : Nat
  src  : Nat
  addr : Nat
  val  : Nat
  data : List Byte
  deriving DecidableEq, Repr

/-- What a port finds in training: the module id and port number that the far end sends (R273), the lanes of this direction that train,
best first, and how many do in the other direction (R267). -/
structure Peer where
  mod   : Fin 65536
  port  : Fin 16
  lanes : List (Fin 5)
  far   : Fin 6
  deriving DecidableEq, Repr

/-- What is measured for one governor interval (R326 to R334): input and die-and-Palette power over the interval and over its
last 10 µs, in W; the activity estimate of each Frame in W; each Frame's junction temperature in °C. -/
structure Meas where
  inW  : Nat
  dieW : Nat
  inS  : Nat
  dieS : Nat
  est  : List Nat
  tj   : List Nat
  deriving DecidableEq, Repr

/-- What the die self-test of boot phase 3 finds: bad cell columns of Spindles, Spindles with a store that fails (R72), and
whether anything outside the Spindles fails. -/
structure DieTest where
  cols    : List (Fin 64 × Fin 9 × Fin 132)
  stores  : List (Fin 64 × Fin 9)
  outside : Bool
  deriving DecidableEq, Repr

/-- The transports of SPDM (R379): MCTP over PCIe vendor-defined messages, and over SMBus. -/
inductive Transport where
  | pcieVdm | smbus
  deriving DecidableEq, Repr

/-- Whose read of host memory stays without a completion (R341). -/
inductive HostReader where
  | shuttle (f : Fin 64) (j : Fin 16)
  | copy (n : Fin 64) (k : Nat)
  | remote (p : Fin 16) (rec : Record)
  deriving DecidableEq, Repr

/-- The commands of the block: one constructor per row of spec/opcode_table.json. -/
inductive Instr where
  /-- REGISTER_WRITE (R7): A host or Studio write to a register that has no row of its own takes effect according to each field's access code. -/
  | registerWrite (by_ : Agent) (off : Nat) (width : Nat) (value : Nat)
  /-- BAR2_RESIZE (R3): A host request through the resizable BAR capability sets the BAR2 size, and a 1 TiB variant offers at most 1 TiB. -/
  | bar2Resize (bytes : Nat)
  /-- BAR2_READ (R340): A host read through BAR2 goes directly to the LPDDR controllers, bypassing the Palette, and completes with Completer Abort beyond LPDDR or on an uncorrectable block. -/
  | bar2Read (ofs : Nat) (len : Nat)
  /-- BAR2_WRITE (R340): A host write through BAR2 goes directly to the LPDDR controllers, and is dropped and logged when it lies beyond LPDDR or is a partial write to an uncorrectable block. -/
  | bar2Write (ofs : Nat) (data : List Byte)
  /-- SLOAD (R67): The Spindle records a tile under its handle and writes the values and scales delivered by its Shuttle queues into the stationary buffer and the scale store. -/
  | sload (f : Fin 64) (q : Fin 9)
  /-- SPASS (R57): The Spindle checks its operand pair, then issues its chunks against the stationary tile in the fixed pass order and accumulates into its output block. -/
  | spass (f : Fin 64) (q : Fin 9) (ecc : SpinEcc)
  /-- SWPASS (R62): The Spindle runs a deferred weight pass over a dY slice and flushes each outer-product sub-tile into the wide buffer by compensated addition. -/
  | swpass (f : Fin 64) (q : Fin 9) (ecc : SpinEcc)
  /-- SDRAIN (R67): The Spindle drains the last output block begun at ACC_BASE to the Brush, Easel or a Shuttle queue, with its retry count and SAT flag, and may clear the block. -/
  | sdrain (f : Fin 64) (q : Fin 9) (ecc : SpinEcc)
  /-- SWDRAIN (R64): The Spindle reads wide-buffer pairs as RNE(s + c), sends them to a Shuttle queue or the Brush, and may clear them. -/
  | swdrain (f : Fin 64) (q : Fin 9) (ecc : SpinEcc)
  /-- SWCLR (R64): The Spindle sets a range of wide-buffer pairs to (0, 0). -/
  | swclr (f : Fin 64) (q : Fin 9)
  /-- SGANG (R70): The command joins 2 or 4 presented Spindles into a wide or deep gang, or dissolves a gang. -/
  | sgang (f : Fin 64) (q : Fin 9)
  /-- SPINDLE_CMD_COMPLETE (R66): A Spindle command's last write or beat lands, and the queue's completion count increments and the command's Knot receives its add. -/
  | spindleCmdComplete (f : Fin 64) (q : Fin 9)
  /-- SCALE_RETRY (R45): After a pass overflows in RETRY mode, the Spindle restores the accumulator and re-runs the pass with the products scaled by 2^(-8n). -/
  | scaleRetry (f : Fin 64) (q : Fin 9) (ecc : SpinEcc)
  /-- RING_BEAT (R83): A ring stage advances a beat to its matching port and to the next stage in a cycle in which every destination has room. -/
  | ringBeat (ring : Ring) (idx : Fin 512) (ecc : Ecc)
  /-- REDO_REQ (R102): A REDO_REQ notice reaches the segment head's injector, which schedules the run to be sent again. -/
  | redoReq (ring : Ring) (f : Fin 64)
  /-- REDO_RUN (R180): After the run it is currently sending, the injector re-executes a kept run with REDO set. -/
  | redoRun (ring : Ring) (f : Fin 64)
  /-- RETRY (R103): A RETRY notice from a reduce-segment tail makes each member re-run the named block with the next retry number. -/
  | retry (ring : Ring) (idx : Fin 512)
  /-- CONFIRM (R103): A CONFIRM notice marks a block's passes final, so each OUT = RING pass completes in RETRY mode. -/
  | confirm (ring : Ring) (idx : Fin 512)
  /-- HOP_WATCHDOG (R104): A stage has held a beat or notice for 100 µs, or a Glaze switch has found beats in flight for that long, and a segment error follows. -/
  | hopWatchdog (ring : Ring) (idx : Fin 512)
  /-- BOP (R143): The Brush computes an elementwise function selected by FN over streams A, B and C. -/
  | bop (f : Fin 64) (ecc : Ecc)
  /-- BACT (R143): The Brush computes a forward activation function on its input stream. -/
  | bact (f : Fin 64) (ecc : Ecc)
  /-- DACT (R113): The Brush computes dx = dy × f′ from a saved tensor by function code. -/
  | dact (f : Fin 64) (ecc : Ecc)
  /-- BCVT (R139): The Brush converts a stream into any data type, with scales where the type needs them. -/
  | bcvt (f : Fin 64) (ecc : Ecc)
  /-- BRED (R144): The Brush reduces a stream to one sum, sum of squares or maximum magnitude by a fixed tree, and may add the result into a compensated pair. -/
  | bred (f : Fin 64) (ecc : Ecc)
  /-- BOPT (R145): The Brush runs one SGD-with-momentum or AdamW optimiser step over a shard. -/
  | bopt (f : Fin 64) (ecc : Ecc)
  /-- BRUSH_CMD_COMPLETE (R140): A Brush command's last output is granted or accepted, and its completion count and Knot add follow. -/
  | brushCmdComplete (f : Fin 64)
  /-- EFWD (R115): The Easel computes softmax, layer norm or RMS norm forward for each row and writes the row's statistics. -/
  | efwd (f : Fin 64) (ecc : Ecc)
  /-- EBWD (R117): The Easel computes the backward of softmax or a norm from dy, the saved tensor and the row statistics, and may accumulate dγ and dβ. -/
  | ebwd (f : Fin 64) (ecc : Ecc) (stat : Ecc)
  /-- ESTAT (R122): The Easel moves statistics rows between its store and a Shuttle queue. -/
  | estat (f : Fin 64) (ecc : Ecc)
  /-- EPREAD (R118): The Easel reads dγ and dβ accumulator pairs as FP32 into a Shuttle queue and may clear them. -/
  | epread (f : Fin 64) (ecc : Ecc)
  /-- EASEL_CMD_COMPLETE (R123): An Easel command's last output is written, and its completion count and Knot add follow. -/
  | easelCmdComplete (f : Fin 64)
  /-- SXFER (R155): A Shuttle queue decodes an SXFER word and starts executing its list of items. -/
  | sxfer (f : Fin 64) (j : Fin 16)
  /-- DESCRIPTOR_BATCH (R157): A batch of up to 32 descriptors arrives for the queue's current word. -/
  | descriptorBatch (f : Fin 64) (j : Fin 16) (resp : Resp) (ecc : Ecc)
  /-- ITEM_DECODE (R162): The queue starts an item, checks its descriptors against every rule, and begins issuing its requests or rejects it. -/
  | itemDecode (f : Fin 64) (j : Fin 16)
  /-- SHUTTLE_RESPONSE (R182): A read response or write acknowledgement reaches a queue, is reordered into stream order, and is delivered onward. -/
  | shuttleResponse (f : Fin 64) (j : Fin 16) (n : Nat) (resp : Resp) (ecc : Ecc) (part : ShRead)
  /-- SXFER_COMPLETE (R159): The last item of an SXFER has been delivered, and the queue's completion count and Knot add follow. -/
  | sxferComplete (f : Fin 64) (j : Fin 16)
  /-- QUEUE_CANCEL (R183): A write of 1 to FRM_SQj_CTL.CANCEL cancels a Shuttle queue, discarding its words and stopping new requests. -/
  | queueCancel (f : Fin 64) (j : Fin 16)
  /-- REQUEST_TIMEOUT (R185): A Shuttle request has had no response for 10 ms, and the owning task ends with cause 0x08. -/
  | requestTimeout (f : Fin 64) (j : Fin 16)
  /-- ADD (R243): D = A + B. -/
  | add (f : Fin 64) (c : Fin 4) (d : Fin 32) (a : Fin 32) (b : Fin 32)
  /-- SUB (R243): D = A − B. -/
  | sub (f : Fin 64) (c : Fin 4) (d : Fin 32) (a : Fin 32) (b : Fin 32)
  /-- AND (R243): D = A and B. -/
  | and (f : Fin 64) (c : Fin 4) (d : Fin 32) (a : Fin 32) (b : Fin 32)
  /-- OR (R243): D = A or B. -/
  | or (f : Fin 64) (c : Fin 4) (d : Fin 32) (a : Fin 32) (b : Fin 32)
  /-- XOR (R243): D = A xor B. -/
  | xor (f : Fin 64) (c : Fin 4) (d : Fin 32) (a : Fin 32) (b : Fin 32)
  /-- SLL (R243): D = A shifted left by B[5:0]. -/
  | sll (f : Fin 64) (c : Fin 4) (d : Fin 32) (a : Fin 32) (b : Fin 32)
  /-- SRL (R243): D = A shifted logically right by B[5:0]. -/
  | srl (f : Fin 64) (c : Fin 4) (d : Fin 32) (a : Fin 32) (b : Fin 32)
  /-- SRA (R243): D = A shifted arithmetically right by B[5:0]. -/
  | sra (f : Fin 64) (c : Fin 4) (d : Fin 32) (a : Fin 32) (b : Fin 32)
  /-- SLT (R243): D = 1 if A < B signed, else 0. -/
  | slt (f : Fin 64) (c : Fin 4) (d : Fin 32) (a : Fin 32) (b : Fin 32)
  /-- SLTU (R243): D = 1 if A < B unsigned, else 0. -/
  | sltu (f : Fin 64) (c : Fin 4) (d : Fin 32) (a : Fin 32) (b : Fin 32)
  /-- MIN (R243): D = the signed minimum of A and B. -/
  | min (f : Fin 64) (c : Fin 4) (d : Fin 32) (a : Fin 32) (b : Fin 32)
  /-- MAX (R243): D = the signed maximum of A and B. -/
  | max (f : Fin 64) (c : Fin 4) (d : Fin 32) (a : Fin 32) (b : Fin 32)
  /-- MINU (R243): D = the unsigned minimum of A and B. -/
  | minu (f : Fin 64) (c : Fin 4) (d : Fin 32) (a : Fin 32) (b : Fin 32)
  /-- MAXU (R243): D = the unsigned maximum of A and B. -/
  | maxu (f : Fin 64) (c : Fin 4) (d : Fin 32) (a : Fin 32) (b : Fin 32)
  /-- MUL (R243): D = the low 64 bits of A × B. -/
  | mul (f : Fin 64) (c : Fin 4) (d : Fin 32) (a : Fin 32) (b : Fin 32)
  /-- MULH (R243): D = bits [127:64] of the signed product of A and B. -/
  | mulh (f : Fin 64) (c : Fin 4) (d : Fin 32) (a : Fin 32) (b : Fin 32)
  /-- MULHU (R243): D = bits [127:64] of the unsigned product of A and B. -/
  | mulhu (f : Fin 64) (c : Fin 4) (d : Fin 32) (a : Fin 32) (b : Fin 32)
  /-- DIV (R244): D = signed A ÷ B, truncated, with the defined results for a zero divisor and overflow. -/
  | div (f : Fin 64) (c : Fin 4) (d : Fin 32) (a : Fin 32) (b : Fin 32)
  /-- DIVU (R244): D = unsigned A ÷ B. -/
  | divu (f : Fin 64) (c : Fin 4) (d : Fin 32) (a : Fin 32) (b : Fin 32)
  /-- REM (R244): D = the signed remainder of A ÷ B. -/
  | rem (f : Fin 64) (c : Fin 4) (d : Fin 32) (a : Fin 32) (b : Fin 32)
  /-- REMU (R244): D = the unsigned remainder of A ÷ B. -/
  | remu (f : Fin 64) (c : Fin 4) (d : Fin 32) (a : Fin 32) (b : Fin 32)
  /-- ADDI (R242): D = A + sext(IMM). -/
  | addi (f : Fin 64) (c : Fin 4) (d : Fin 32) (a : Fin 32) (imm : BitVec 16)
  /-- ANDI (R242): D = A and zext(IMM). -/
  | andi (f : Fin 64) (c : Fin 4) (d : Fin 32) (a : Fin 32) (imm : BitVec 16)
  /-- ORI (R242): D = A or zext(IMM). -/
  | ori (f : Fin 64) (c : Fin 4) (d : Fin 32) (a : Fin 32) (imm : BitVec 16)
  /-- XORI (R242): D = A xor zext(IMM). -/
  | xori (f : Fin 64) (c : Fin 4) (d : Fin 32) (a : Fin 32) (imm : BitVec 16)
  /-- SLTI (R242): D = 1 if A < sext(IMM) signed, else 0. -/
  | slti (f : Fin 64) (c : Fin 4) (d : Fin 32) (a : Fin 32) (imm : BitVec 16)
  /-- SLTIU (R242): D = 1 if A < sext(IMM) unsigned, else 0. -/
  | sltiu (f : Fin 64) (c : Fin 4) (d : Fin 32) (a : Fin 32) (imm : BitVec 16)
  /-- SHI (R242): D = A shifted left, logically right or arithmetically right by IMM[5:0]. -/
  | shi (f : Fin 64) (c : Fin 4) (d : Fin 32) (a : Fin 32) (kind : Fin 3) (amt : BitVec 6)
  /-- INSH (R242): The instruction inserts a 16-bit immediate into halfword h of D. -/
  | insh (f : Fin 64) (c : Fin 4) (d : Fin 32) (h : Fin 4) (imm : BitVec 16)
  /-- LB (R238): The core loads a sign-extended byte. -/
  | lb (f : Fin 64) (c : Fin 4) (d : Fin 32) (a : Fin 32) (imm : BitVec 16) (ecc : Ecc)
  /-- LBU (R238): The core loads a zero-extended byte. -/
  | lbu (f : Fin 64) (c : Fin 4) (d : Fin 32) (a : Fin 32) (imm : BitVec 16) (ecc : Ecc)
  /-- LH (R238): The core loads a sign-extended halfword. -/
  | lh (f : Fin 64) (c : Fin 4) (d : Fin 32) (a : Fin 32) (imm : BitVec 16) (ecc : Ecc)
  /-- LHU (R238): The core loads a zero-extended halfword. -/
  | lhu (f : Fin 64) (c : Fin 4) (d : Fin 32) (a : Fin 32) (imm : BitVec 16) (ecc : Ecc)
  /-- LW (R238): The core loads a sign-extended word. -/
  | lw (f : Fin 64) (c : Fin 4) (d : Fin 32) (a : Fin 32) (imm : BitVec 16) (ecc : Ecc)
  /-- LWU (R238): The core loads a zero-extended word. -/
  | lwu (f : Fin 64) (c : Fin 4) (d : Fin 32) (a : Fin 32) (imm : BitVec 16) (ecc : Ecc)
  /-- LD (R238): The core loads a doubleword. -/
  | ld (f : Fin 64) (c : Fin 4) (d : Fin 32) (a : Fin 32) (imm : BitVec 16) (ecc : Ecc)
  /-- SB (R238): The core stores the low byte of B. -/
  | sb (f : Fin 64) (c : Fin 4) (b : Fin 32) (a : Fin 32) (imm : BitVec 16)
  /-- SH (R238): The core stores the low halfword of B. -/
  | sh (f : Fin 64) (c : Fin 4) (b : Fin 32) (a : Fin 32) (imm : BitVec 16)
  /-- SW (R238): The core stores the low word of B. -/
  | sw (f : Fin 64) (c : Fin 4) (b : Fin 32) (a : Fin 32) (imm : BitVec 16)
  /-- SD (R238): The core stores all 8 bytes of B. -/
  | sd (f : Fin 64) (c : Fin 4) (b : Fin 32) (a : Fin 32) (imm : BitVec 16)
  /-- BEQ (R242): The core branches if A = B. -/
  | beq (f : Fin 64) (c : Fin 4) (b : Fin 32) (a : Fin 32) (imm : BitVec 16)
  /-- BNE (R242): The core branches if A ≠ B. -/
  | bne (f : Fin 64) (c : Fin 4) (b : Fin 32) (a : Fin 32) (imm : BitVec 16)
  /-- BLT (R242): The core branches if A < B, compared signed. -/
  | blt (f : Fin 64) (c : Fin 4) (b : Fin 32) (a : Fin 32) (imm : BitVec 16)
  /-- BGE (R242): The core branches if A ≥ B, compared signed. -/
  | bge (f : Fin 64) (c : Fin 4) (b : Fin 32) (a : Fin 32) (imm : BitVec 16)
  /-- BLTU (R242): The core branches if A < B, compared unsigned. -/
  | bltu (f : Fin 64) (c : Fin 4) (b : Fin 32) (a : Fin 32) (imm : BitVec 16)
  /-- BGEU (R242): The core branches if A ≥ B, compared unsigned. -/
  | bgeu (f : Fin 64) (c : Fin 4) (b : Fin 32) (a : Fin 32) (imm : BitVec 16)
  /-- J (R242): The core jumps relative to the PC. -/
  | j (f : Fin 64) (c : Fin 4) (ofs : BitVec 26)
  /-- JAL (R242): The core jumps relative to the PC and links the return address in g31. -/
  | jal (f : Fin 64) (c : Fin 4) (ofs : BitVec 26)
  /-- JALR (R242): The core jumps to a register plus an offset and links the return address in D. -/
  | jalr (f : Fin 64) (c : Fin 4) (d : Fin 32) (a : Fin 32) (imm : BitVec 16)
  /-- UNDEFINED_ENCODING (R241): An undefined instruction word halts the core in STATE 5 and ends its task. -/
  | undefinedEncoding (f : Fin 64) (c : Fin 4) (w : BitVec 32)
  /-- ICACHE_FILL (R134): An instruction-cache miss line returns from segment 0 and releases the stalled core. -/
  | icacheFill (f : Fin 64) (c : Fin 4) (resp : Resp)
  /-- QPUSH (R246): The core writes a command word into a queue of its task, after its earlier stores are granted; a full queue or a queue of another task ends the task. -/
  | qpush (f : Fin 64) (c : Fin 4) (q : Fin 27) (a : Fin 32) (b : Fin 32)
  /-- QWAIT (R138): The core waits until a queue's DONE count reaches a threshold. -/
  | qwait (f : Fin 64) (c : Fin 4) (q : Fin 27) (a : Fin 32)
  /-- QWAIT_RELEASE (R138): A queue's DONE count reaches the threshold, and the waiting core is released. -/
  | qwaitRelease (f : Fin 64) (c : Fin 4)
  /-- QCANCEL (R183): The instruction cancels a Shuttle queue of the core's task. -/
  | qcancel (f : Fin 64) (c : Fin 4) (j : Fin 16)
  /-- KADD (R147): The core adds a signed delta to a Knot, and a negative delta is allowed only on its own Frame. -/
  | kadd (f : Fin 64) (c : Fin 4) (a : Fin 32) (b : Fin 32)
  /-- KSET (R147): The core sets a Knot of its own Frame. -/
  | kset (f : Fin 64) (c : Fin 4) (a : Fin 32) (b : Fin 32)
  /-- KWAIT (R149): The core waits until a Knot's value is at least a threshold. -/
  | kwait (f : Fin 64) (c : Fin 4) (a : Fin 32) (b : Fin 32)
  /-- KWAIT_RELEASE (R149): A Knot reaches the waiting core's threshold, and the core is released. -/
  | kwaitRelease (f : Fin 64) (c : Fin 4)
  /-- WAIT_TIMEOUT (R149): A KWAIT or QWAIT exceeds FRM_KWAIT_TO, and the waiting core's task ends with TMO set. -/
  | waitTimeout (f : Fin 64) (c : Fin 4)
  /-- KREAD (R247): The core reads a Knot's value, sampled at its Frame. -/
  | kread (f : Fin 64) (c : Fin 4) (d : Fin 32) (a : Fin 32)
  /-- SLEEP (R152): The core waits for a wake event. -/
  | sleep (f : Fin 64) (c : Fin 4)
  /-- SLEEP_WAKE (R152): A pending event, a WAKE write or a wait release retires the core's SLEEP. -/
  | sleepWake (f : Fin 64) (c : Fin 4)
  /-- HALT (R242): The core halts. -/
  | halt (f : Fin 64) (c : Fin 4)
  /-- PHASE (R249): The core posts a phase tag and hint, which select the Frame's token entry and are forwarded to the Studio. -/
  | phase (f : Fin 64) (c : Fin 4) (tag : BitVec 8) (hint : Bool)
  /-- SYSRD (R250): The core reads a system value from its own Frame. -/
  | sysrd (f : Fin 64) (c : Fin 4) (d : Fin 32) (sel : Fin 32)
  /-- SYSRD_CLAIM (R356): SYSRD selector 8 claims the highest deliverable event source for the core at the event controller. -/
  | sysrdClaim (f : Fin 64) (c : Fin 4) (d : Fin 32)
  /-- EVDONE (R357): A Frame core writes the completion of an event source it claimed. -/
  | evdone (f : Fin 64) (c : Fin 4) (a : Fin 32)
  /-- KNOT_WRITE (R147): A host or Studio write to FRM_KNOTk acts as a KSET. -/
  | knotWrite (f : Fin 64) (k : Fin 256) (value : BitVec 32)
  /-- WAKE (R152): A write of 1 to FRM_PWRCTL.WAKE wakes every core of the Frame that is in SLEEP. -/
  | wake (f : Fin 64)
  /-- FRAME_GATE (R153): A Frame whose cores all wait and whose engines are idle stops the clocks of its gated domain. -/
  | frameGate (f : Fin 64)
  /-- FRAME_UNGATE (R153): A release condition restarts a gated Frame's domain within 40 to 48 cycles. -/
  | frameUngate (f : Fin 64)
  /-- MESH_PACKET (R214): A router forwards a packet by dimension order, replicating multicast packets where their routes split. -/
  | meshPacket (f : Fin 64) (port : Fin 6) (vc : Fin 3) (ecc : Ecc) (mem : Ecc)
  /-- MESH_WATCHDOG (R219): A router has held a packet for 100 µs, and a module-fatal error follows. -/
  | meshWatchdog (f : Fin 64) (port : Fin 6)
  /-- PALETTE_ACCESS (R195): The home slice serves a read or write by hit, allocate or miss, in acceptance order. -/
  | paletteAccess (sl : Fin 64) (acc : Access) (ecc : Ecc)
  /-- LINE_FILL (R195): A missing line returns from its channel, is allocated by R420, and serves the waiting requests. -/
  | lineFill (sl : Fin 64) (ecc : Ecc)
  /-- WAYS_WRITE (R189): A write to MEM_PALf_WAYS changes the way roles while no task is loaded, and is refused while one is. -/
  | waysWrite (sl : Fin 64) (value : BitVec 32)
  /-- WAY_ROLE_CHANGE (R189): The last write-back of a way that leaves the cache role is accepted, and the way takes its new role. -/
  | wayRoleChange (sl : Fin 64) (ecc : Ecc)
  /-- PALETTE_CLEAN (R199): START with OP 0 writes back every dirty line of the whole cache or of a range. -/
  | paletteClean (ranged : Bool)
  /-- PALETTE_INVALIDATE (R199): START with OP 1 discards every line of the whole cache or of a range. -/
  | paletteInvalidate (ranged : Bool)
  /-- PALETTE_CLEAN_INVALIDATE (R199): START with OP 2 writes back and then discards every line of the whole cache or of a range. -/
  | paletteCleanInvalidate (ranged : Bool)
  /-- PALETTE_FLUSH_DONE (R199): Every slice has finished its lookups and its last write-back, and DONE is set. -/
  | paletteFlushDone (ecc : Ecc)
  /-- LPDDR_READ (R203): A channel reads a block, verifies its CRC, re-reads up to 3 times, and delivers the data or an uncorrectable error. -/
  | lpddrRead (addr : BitVec 41) (errs : List Disturb)
  /-- LPDDR_WRITE (R202): A channel writes a block with its CRC, as a read-modify-write when the write is partial. -/
  | lpddrWrite (addr : BitVec 41) (data : List Byte)
  /-- REFRESH (R206): A per-bank refresh is issued to a bank, at its deadline at the latest. -/
  | refresh (ch : Fin 128) (bank : Nat)
  /-- CHANNEL_RETRAIN (R207): The retraining interval elapses, and the channel pauses for up to 2 µs while its requests wait. -/
  | channelRetrain (ch : Fin 128)
  /-- RETRAINING_END (R207): A channel finishes retraining, and its queue drains in order. -/
  | retrainingEnd (ch : Fin 128)
  /-- REPAIR_AUTO_START (R208): A channel's corrected re-reads reach THRESH within WINDOW, and the Studio starts a repair or reports NOSPARE or GRPBUSY. -/
  | repairAutoStart (ch : Fin 128)
  /-- REPAIR_START (R208): A host write of START to MEM_REPAIR_CTL starts a repair of LCH if its group's spare is free. -/
  | repairStart (ch : Fin 128)
  /-- REPAIR_COPY (R209): A granule is copied from the failing channel to the spare with its check, and an uncorrectable block stops the repair as module-fatal. -/
  | repairCopy (grp : Fin 8)
  /-- MAP_SWITCH (R210): The old channel's queue has drained, MEM_CHc_MAP switches to the spare, and the repair is done. -/
  | mapSwitch (grp : Fin 8)
  /-- CLOCK_STRETCH (R224): A Frame's droop detector fires, and the Frame suppresses 1 to 4 edges of its compute clock. -/
  | clockStretch (f : Fin 64) (edges : Nat)
  /-- PHASE_ERROR (R222): A Frame crossing drifts beyond ±2 cycles, PHASEERR is set, and a module-fatal error follows. -/
  | phaseError (f : Fin 64)
  /-- FREQ_GO (R226): A write of GO to CLK_FREQ_CTL requests a die-wide frequency change, held or replacing a pending target by R227. -/
  | freqGo (mhz : BitVec 12)
  /-- GO_ACCEPT (R227): The CLK block accepts a held GO, chooses Ta, and sets PENDING, or completes at once when the target equals the frequency in force. -/
  | goAccept
  /-- FREQ_STOP (R226): At Ta every Frame suppresses its clock and the generators relock. -/
  | freqStop
  /-- FREQ_RESTART (R226): At Ta + 1.5 µs every Frame restarts at the new frequency, or an unlocked generator causes a module-fatal error. -/
  | freqRestart (unlocked : List (Fin 72))
  /-- REFERENCE_LOSS (R228): A generator's reference is absent for 1 µs, and the generator enters holdover. `tree` says which tree's
  reference it is: the primary (false) or the backup (true). -/
  | referenceLoss (g : Fin 72) (tree : Bool)
  /-- REFERENCE_RETURN (R228): The reference returns within 1 ms, and the generator relocks and leaves holdover. -/
  | referenceReturn (g : Fin 72) (tree : Bool)
  /-- HOLDOVER_TIMEOUT (R229): A generator has been in holdover for 1 ms, and the die moves to the backup tree at 800 MHz with SAFE set. -/
  | holdoverTimeout
  /-- RESTORE (R230): A write of 1 to CLK_REF_CTL.RESTORE returns the die to the primary tree once the primary reference is stable. -/
  | restore
  /-- BEACON (R232): The master's count reaches a multiple of 1,024, and each region slews, steps or holds its counter toward it. -/
  | beacon
  /-- PPS_IN_EDGE (R412): A rising edge of TIME_PPS_IN is taken as a second mark under SRC 2, and edges that come too early are ignored. -/
  | ppsInEdge
  /-- PPS_OUT (R233): The master crosses a multiple of 1,024,000,000 ticks, and TIME_PPS_OUT pulses for 1 µs. -/
  | ppsOut
  /-- FLIT (R270): A received flit is checked by CRC and sequence, then accepted, or discarded with a NAK; its acknowledgement and credits take effect. -/
  | flit (p : Fin 16) (bytes : List Byte) (cws : List Codeword)
  /-- NAK_REPEAT (R270): No good flit has arrived within 2 µs of a NAK, and the receiver sends the NAK again. -/
  | nakRepeat (p : Fin 16)
  /-- RETRY_EXHAUSTED (R271): No flit has been newly acknowledged for 1 ms while flits are outstanding, and the port goes down. -/
  | retryExhausted (p : Fin 16)
  /-- LANE_FAIL (R267): A lane fails, and the port retrains onto the spare, drops to 2 lanes, or goes down. -/
  | laneFail (p : Fin 16) (lane : Fin 5)
  /-- PORT_RETRAIN_DONE (R267): Lane retraining ends, and the port resumes at its new lane count. -/
  | portRetrainDone (p : Fin 16)
  /-- LOSS_OF_SIGNAL (R287): A port loses signal and goes down, answering its outstanding requests with REJECT cause 2. -/
  | lossOfSignal (p : Fin 16)
  /-- PORT_TRAIN_RETRY (R287): Every 100 ms a down port with a role tries to train, checking its peer. -/
  | portTrainRetry (p : Fin 16) (seen : Option Peer)
  /-- RETRAIN (R267): A write of 1 to LNK_PORTp_CTL.RETRAIN takes the port down and trains it again. -/
  | retrain (p : Fin 16)
  /-- DISABLE (R287): Setting LNK_PORTp_CTL.DISABLE holds the port down. -/
  | disable (p : Fin 16)
  /-- WRITE (R278): A WRITE record is delivered at its destination or forwarded along its route, and answered with ACK. -/
  | write (p : Fin 16) (rec : Record)
  /-- READ (R278): A READ record is served at its destination and answered with RDATA, or with a REJECT. -/
  | read (p : Fin 16) (rec : Record) (resp : Resp)
  /-- RDATA (R278): An RDATA response returns read data to the requesting queue. -/
  | rdata (p : Fin 16) (rec : Record)
  /-- ACK (R278): An ACK completes the oldest VAL unanswered requests of its source. -/
  | ack (p : Fin 16) (rec : Record)
  /-- REJECT (R278): A REJECT response ends the requesting task with Shuttle cause 0x07 and is logged in LNK_ERRLOG. -/
  | reject (p : Fin 16) (rec : Record)
  /-- KADD_RECORD (R280): A remote KADD record is applied once the source's earlier writes to this module have been delivered. -/
  | kaddRecord (p : Fin 16) (rec : Record)
  /-- MCAST (R283): A multicast write is forwarded on every port of its mask, delivered locally when LOCAL is 1, and acknowledged to the root. -/
  | mcast (p : Fin 16) (rec : Record)
  /-- SNAP (R278): A SNAP record carrying snapshot data is received and acknowledged. -/
  | snap (p : Fin 16) (rec : Record)
  /-- ACC (R292): An ACC record's pieces are checked and handled by Table 12-3 at the owner's Ply units, then acknowledged. -/
  | acc (p : Fin 16) (rec : Record) (ecc : Ecc)
  /-- TIME (R285): A TIME request is stamped and answered by the parent, or a TIME reply is used by the follower to correct its master. -/
  | time (p : Fin 16) (rec : Record) (replayed : Bool)
  /-- TIME_EXCHANGE (R285): Every 1,024,000 ticks a follower sends a TIME request to its parent. -/
  | timeExchange
  /-- LNK_KADD (R280): A 64-bit write of LNK_KADD sends one KADD record to a Knot on any module. -/
  | lnkKadd (value : BitVec 64)
  /-- STEP_ARRIVE (R302): AK reaches PLY_ATHR, and the module sends its arrival to the root and enters ARRIVED. -/
  | stepArrive
  /-- STEP_DEADLINE (R302): The step deadline passes in RUN, LATE is set, and the module reports a failure to the root. -/
  | stepDeadline
  /-- COMMIT (R302): CCOM increments, and the module advances its step, latches statistics, resets the Glaze and step Knots, and adds GO, or ends the job after the last step. -/
  | commit
  /-- REPLAY (R306): CREP increments, and the module enters QUIESCE and starts clearing, or ends the job when MAXREPLAY is reached. -/
  | replay
  /-- QUIESCE_DONE (R306): The clearing is complete, the starting Glaze is restored, and the module sends RDONE to the root and enters HELD. -/
  | quiesceDone
  /-- RESUME (R306): CRES increments, and the module increments ATTEMPT and restarts every core. -/
  | resume
  /-- ROOT_COMMIT (R303): RARR reaches the module count, and the root resets it and sends CCOM to every module. -/
  | rootCommit
  /-- ROOT_REPLAY (R303): RFAIL increments, or 1 ms passes after the root's deadline, and the root sends CREP to every module. -/
  | rootReplay
  /-- ROOT_RESUME (R303): RDONE reaches the module count, and the root resets its counts and sends CRES to every module. -/
  | rootResume
  /-- RDONE_TIMEOUT (R303): RDONE is incomplete 100 ms after CREP, and the root ends the job. -/
  | rdoneTimeout
  /-- ROOTLOST (R304): A module has waited too long for the root in ARRIVED, FAILED or HELD, and ends the job with JOBFAIL. -/
  | rootlost
  /-- GLAZE_REQUEST (R377): REQ_KNOT reaches k, and the Studio reads the request word and writes every Frame's shadows, or refuses the switch. -/
  | glazeRequest (ecc : Ecc)
  /-- GLAZE_SWITCH (R377): Every Frame reports both rings empty, all Frames take their shadows, the Studio writes the remaining values, and ACK_KNOT receives its add. -/
  | glazeSwitch
  /-- GOVERNOR_INTERVAL (R329): Every 100 µs the governor updates its learning, evaluates THROTTLE, computes the target frequency, and may issue a GO. -/
  | governorInterval (m : Meas)
  /-- FAST_LIMITER (R330): Every 10 µs the limiter compares input power with the cap and adjusts HOLD. -/
  | fastLimiter (inW : Nat) (dieW : Nat)
  /-- MODEL_MISMATCH (R334): In each 1 ms window the governor compares its estimate with measurement, and sets MODEL_MISMATCH after ten bad windows. -/
  | modelMismatch (estW : Nat) (dieW : Nat)
  /-- COOL_ID_SAMPLE (R323): The Studio samples COOL_ID every 1 ms, and a change makes the cap 1,600 W with a module-fatal error. -/
  | coolIdSample (code : BitVec 3)
  /-- THERMAL_TRIP (R333): A junction reaches 125 °C, THERM_TRIP_N is asserted, and the power stage stops drawing power. -/
  | thermalTrip (f : Fin 64) (tj : Nat)
  /-- PWR_CAP_USER_WRITE (R324): A host write of the user cap is clamped to the class cap and 800 W and takes effect at the next interval. -/
  | pwrCapUserWrite (watts : BitVec 16)
  /-- SQ_TAIL (R344): A doorbell write of T is accepted as new entries to fetch, or stops the ring when out of range. -/
  | sqTail (n : Fin 64) (t : BitVec 32)
  /-- ENTRY_FETCH (R345): Fetched submission entries arrive and their commands start in ring order. -/
  | entryFetch (n : Fin 64) (cnt : Nat)
  /-- FETCH_TIMEOUT (R345): A fetch has had no response for 50 ms, and the ring is stopped. -/
  | fetchTimeout (n : Fin 64)
  /-- CQ_HEAD (R348): A CQ_HEAD write frees completion slots and consumes entries, or stops the ring when its advance is invalid. -/
  | cqHead (n : Fin 64) (h : BitVec 32)
  /-- RING_ENABLE (R343): Setting HIF_RINGn_CFG.EN enables a ring and zeroes its counts. -/
  | ringEnable (n : Fin 64)
  /-- RING_DISABLE (R343): Clearing EN stops fetching and, once the commands other than a JOB_POST have completed, stops the ring. -/
  | ringDisable (n : Fin 64)
  /-- NOP (R346): A NOP completes when it starts. -/
  | nop (n : Fin 64) (k : Nat)
  /-- COPY (R347): The host-port engine copies LEN bytes between device-local addresses through the home slices. -/
  | copy (n : Fin 64) (k : Nat) (len : Nat) (resp : Resp) (ecc : Ecc)
  /-- HOST_KADD (R346): The ring command adds DELTA to a Knot. -/
  | hostKadd (n : Fin 64) (k : Nat)
  /-- FLUSH (R346): The ring command runs Palette maintenance and completes when it is done. -/
  | flush (n : Fin 64) (k : Nat)
  /-- JOB_POST (R349): The Studio reads the job record, checks it, loads the matching Skein by R259, and starts the job, or refuses it. -/
  | jobPost (n : Fin 64) (k : Nat) (at_ : Nat) (resp : Resp)
  /-- JOB_CTL (R350): ABORT stops the loaded job, and its JOB_POST completes with ABORTED. -/
  | jobCtl (n : Fin 64) (k : Nat)
  /-- HOST_COMMAND_COMPLETE (R348): A host command completes, and its completion entry is written after the command's writes are delivered. -/
  | hostCommandComplete (n : Fin 64) (k : Nat)
  /-- COALESCE_TIMEOUT (R360): The oldest unconsumed completion has waited HIF_RINGn_IRQ.TIME µs, and the ring's source is asserted. -/
  | coalesceTimeout (n : Fin 64)
  /-- READ_SHAPE (R260): The mailbox command copies the shape record to host memory. -/
  | readShape (n : Fin 64) (k : Nat)
  /-- SNAPSHOT (R321): The mailbox command requests a snapshot of version s + 1 streamed by each owner to host memory or the role-15 port. -/
  | snapshot (n : Fin 64) (k : Nat) (resp : Resp)
  /-- READ_LOG (R391): The mailbox command copies unread error records to host memory and marks them read. -/
  | readLog (n : Fin 64) (k : Nat)
  /-- FW_STAGE (R382): The mailbox command verifies a firmware bundle and writes it into the slot that did not boot, or refuses it. -/
  | fwStage (n : Fin 64) (k : Nat) (resp : Resp) (flashOk : Bool)
  /-- TELEM (R399): The mailbox command starts or stops telemetry windows. -/
  | telem (n : Fin 64) (k : Nat)
  /-- TELEM_WINDOW (R400): A window ends, and the counters are latched and a window record is written or counted as lost. -/
  | telemWindow
  /-- HOST_CLAIM (R356): A 32-bit read of INT_HOST_CLAIM claims the host's highest deliverable source. -/
  | hostClaim (width : Nat)
  /-- HOST_DONE (R357): A write of INT_HOST_DONE completes a source claimed by the host. -/
  | hostDone (value : BitVec 32)
  /-- MSIX_EN (R359): Setting MSIX_EN sends one message for each vector that has a deliverable source. -/
  | msixEn
  /-- KWATCH (R360): A write of INT_KWATCHw compares the watched Knot with THRESH and sets the source's level. -/
  | kwatch (w : Fin 256) (value : BitVec 64)
  /-- SWSET (R362): A W1S write to INT_SWSETr asserts software sources. -/
  | swset (r : Fin 8) (value : BitVec 32)
  /-- READY_ACK (R352): A write of READY_ACK makes HRB_N report host events. -/
  | readyAck
  /-- FLR (R342): A Function Level Reset aborts the job, disables the rings and idles every event source. -/
  | flr
  /-- D3HOT (R342): A request to enter D3hot is accepted only when no job is loaded. -/
  | d3hot
  /-- STANDBY_ON (R363): Standby power rises, the ROM starts, SLOT_ID is sampled, and phase 1 runs. -/
  | standbyOn (slotId : BitVec 6)
  /-- STANDBY_LOSS (R417): Standby power is lost, the stage switches off, and the log in Studio memory is lost. -/
  | standbyLoss
  /-- PWR_EN_ASSERT (R414): PWR_EN rises, and the stage soft-starts the rails. -/
  | pwrEnAssert
  /-- RAILS_UP (R414): The rails reach regulation, and PWR_GOOD rises. -/
  | railsUp
  /-- RAILFAIL (R415): The rails miss regulation within 100 ms, and the stage switches off with RAILFAIL set. -/
  | railfail
  /-- PWR_EN_DEASSERT (R416): PWR_EN falls, the rails ramp down, and a module stop is recorded if PERST_N was released. -/
  | pwrEnDeassert
  /-- INFAULT (R405): The 48 V input leaves its range, the input switch opens, and PWR_GOOD falls. -/
  | infault
  /-- PERST_ASSERT (R286): PERST_N falls, and the Weft transmitters go high-impedance within 1 µs. -/
  | perstAssert
  /-- PERST_RELEASE (R363): PERST_N is released, global time starts from 0, and the Studio restarts the boot from its ROM. -/
  | perstRelease
  /-- VERIFY (R369): Boot phase 1 ends with a slot verified and measured, or in recovery or limited mode. -/
  | verify
  /-- STUDIO_START (R363): Boot phase 2 ends with PWR_GOOD seen, the host port trained, and COOL_ID sampled. -/
  | studioStart (gen : Nat) (lanes : Nat) (coolId : BitVec 3)
  /-- DIE_TEST (R363): Boot phase 3 ends with the generators locked and the self-tests run. -/
  | dieTest (result : DieTest)
  /-- LPDDR_TRAINING (R200): Boot phase 4 ends with every channel trained and every block zero-written. -/
  | lpddrTraining (rates : List (Fin 136 × Nat))
  /-- WEFT_TRAINING (R267): Boot phase 5 ends with the ports trained or left to retry. -/
  | weftTraining (seen : List (Fin 16 × Peer))
  /-- APPLY (R374): Boot phase 6 applies the Underpainting, sets the seal, and raises the clock, or refuses it. -/
  | apply
  /-- READY (R367): Boot phase 7 releases HRB_N and burns the SVN floors and revocations. -/
  | ready
  /-- BOOT_TIMEOUT (R364): A phase overruns its limit, or the boot overruns 90 s, and the module enters limited mode with cause 0x08. -/
  | bootTimeout
  /-- ACTIVATE (R384): A write of ACTIVATE with STAGED = 2 sets the pending flag. -/
  | activate
  /-- GET_VERSION (R379): The SPDM responder answers GET_VERSION. -/
  | getVersion (tr : Transport)
  /-- GET_CAPABILITIES (R379): The SPDM responder answers GET_CAPABILITIES. -/
  | getCapabilities (tr : Transport)
  /-- NEGOTIATE_ALGORITHMS (R379): The SPDM responder answers NEGOTIATE_ALGORITHMS with P-384 and SHA-384. -/
  | negotiateAlgorithms (tr : Transport)
  /-- GET_DIGESTS (R379): The SPDM responder returns the certificate digests. -/
  | getDigests (tr : Transport)
  /-- GET_CERTIFICATE (R380): The SPDM responder returns the certificate chain of slot 0. -/
  | getCertificate (tr : Transport) (slot : Nat) (ofs : Nat) (len : Nat)
  /-- CHALLENGE (R379): The SPDM responder signs a challenge with the alias key. -/
  | challenge (tr : Transport) (slot : Nat) (nonce : Nat)
  /-- GET_MEASUREMENTS (R381): The SPDM responder returns signed measurements. -/
  | getMeasurements (tr : Transport) (index : Nat) (signed : Bool) (nonce : Nat)
  /-- SPDM_UNSUPPORTED (R379): Any other SPDM request is answered with ERROR UnsupportedRequest. -/
  | spdmUnsupported (tr : Transport) (code : BitVec 8)
  /-- TASK_ABORT_COMPLETE (R393): CANCEL_BUSY has cleared, the task's Knots are reset, and the abort record is written. -/
  | taskAbortComplete (task : Fin 16)
  /-- HOST_COMPLETION_TIMEOUT (R341): A module-issued read of host memory has no completion after the port's 8 ms completion timeout, and it is reported as cause 0x05, or as REJECT cause 7 to a remote requester. -/
  | hostCompletionTimeout (who : HostReader)
  /-- MSIX_UNMASK (R359): The host unmasks a vector in the BAR4 MSI-X table, and the module sends the pending message if a source of that vector is still deliverable. -/
  | msixUnmask (v : Fin 64)
  /-- SNAPSHOT_DELIVERED (R321): The last write of a snapshot is delivered, or its delivery fails, and the Studio then adds the deferred GO for step s + 2 or completes the snapshot with an error. -/
  | snapshotDelivered (ok : Bool)
  deriving DecidableEq, Repr

end Sys2Proof
end

