-- ==== Sys2Proof/WellFormed.lean ====
section
/-! DEFINITION. The shapes that the operands of a command have beyond their types: a flit is 512 bytes, a block 64, an
access stays within its granule, a written value within its width. A command whose operands are not of its row's shape stops with `Fault.illFormed`. -/
namespace Sys2Proof

/-- The bytes an access names. -/
def Access.size (a : Access) : Nat := if a.write then a.data.length else a.len

/-- An access to a Palette slice is of at least one byte and stays within one granule of 256 bytes (R193). -/
def Access.wf (a : Access) : Bool := 0 < a.size && a.addr % 256 + a.size ≤ 256

/-- The type carries data (Table 11-4). -/
def hasData (t : Nat) : Bool := t = 1 || t = 3 || t = 6 || t = 8 || t = 9 || t = 0xA

/-- A record's fields fit the header of Table 11-3, and it has LEN_M1 + 1 bytes of data where its type carries data. -/
def Record.wf (r : Record) : Bool :=
  r.typ < 16 && r.len1 < 4096 && r.dest < 65536 && r.src < 65536 && r.addr < 2 ^ 48 && r.val < 2 ^ 32 &&
    r.data.length = (if hasData r.typ then r.len1 + 1 else 0)

/-- A record of the type of its row. -/
def Record.wfAs (r : Record) (t : Nat) : Bool := r.wf && r.typ = t

/-- A write at a channel is of at least one byte and stays within one block of 64 bytes (R202). -/
def blockWf (addr : Nat) (data : List Byte) : Bool := 0 < data.length && addr % 64 + data.length ≤ 64

/-- A measurement covers the 64 Frames, with powers of 16 bits and temperatures of 8 (Table 14-4). -/
def Meas.wf (m : Meas) : Bool :=
  m.inW < 65536 && m.dieW < 65536 && m.inS < 65536 && m.dieS < 65536 && m.est.length = 64 && m.tj.length = 64 &&
    m.tj.all (· < 256)

/-- The operands of a command have the shape of its row. -/
def Instr.wf (i : Instr) : Bool :=
  match i with
  | .registerWrite _ _ width value => value < 2 ^ width
  | .studioStart gen lanes _ => 5 ≤ gen && gen ≤ 7 && (lanes = 4 || lanes = 8 || lanes = 16)
  | .lpddrTraining rates => rates.all (fun p => p.2 ≤ 3)
  | .paletteAccess _ x _ => x.wf
  | .lpddrWrite addr data => blockWf addr.toNat data
  | .clockStretch _ edges => 1 ≤ edges && edges ≤ 4
  | .flit _ bytes _ => bytes.length = 512
  | .write _ x => x.wfAs 1
  | .read _ x _ => x.wfAs 2
  | .rdata _ x => x.wfAs 3
  | .ack _ x => x.wfAs 4
  | .reject _ x => x.wfAs 5
  | .acc _ x _ => x.wfAs 6
  | .kaddRecord _ x => x.wfAs 7
  | .mcast _ x => x.wfAs 8
  | .snap _ x => x.wfAs 9
  | .time _ x _ => x.wfAs 10
  | .hostCompletionTimeout (.remote _ x) => x.wfAs 2
  | .governorInterval m => m.wf
  | .fastLimiter a b => a < 65536 && b < 65536
  | .modelMismatch a b => a < 65536 && b < 65536
  | .thermalTrip _ tj => tj < 256
  | _ => true

end Sys2Proof
end

