-- ==== Sys2Proof/Decode.lean ====
section
/-! DEFINITION. The word of a command. No row of spec/opcode_table.json gives bits, so no word spells a command. -/
namespace Sys2Proof

/-- The command that a word of `nbits` bits spells: none, since the table gives its rows no bits. -/
def decodeTableWord (_nbits _w : Nat) : Option Instr := none

end Sys2Proof
end

