-- ==== Sys2Proof/Machine/Bits.lean ====
section
/-! DEFINITION. Bit fields, sign extension and byte order (R5): the helpers that every encoding of the spec shares. -/
namespace Sys2Proof.Machine

/-- Bits [hi:lo] of `x` (R5). -/
def bits (x hi lo : Nat) : Nat := (x >>> lo) % 2 ^ (hi + 1 - lo)

/-- Bit `i` of `x`. -/
def bit (x i : Nat) : Bool := (x >>> i) % 2 = 1

/-- 1 for true, 0 for false. -/
def b2n (b : Bool) : Nat := if b then 1 else 0

/-- The little-endian bytes of `x`, `n` of them (R5). -/
def toLE (n x : Nat) : List Byte :=
  match n with
  | 0 => []
  | n' + 1 => BitVec.ofNat 8 x :: toLE n' (x / 256)

/-- The number whose little-endian bytes are `bs` (R5). -/
def ofLE (bs : List Byte) : Nat :=
  match bs with
  | [] => 0
  | b :: r => b.toNat + 256 * ofLE r

/-- The number whose big-endian bytes are `bs` (the P-384 fields of R366). -/
def ofBE (bs : List Byte) : Nat := bs.foldl (fun a b => a * 256 + b.toNat) 0

/-- The big-endian bytes of `x`, `n` of them. -/
def toBE (n x : Nat) : List Byte := (toLE n x).reverse

/-- `x` read as a two's complement number of `w` bits. -/
def signed (w x : Nat) : Int :=
  let y := x % 2 ^ w
  if 2 * y < 2 ^ w then (y : Int) else (y : Int) - (2 ^ w : Nat)

/-- The two's complement encoding of `i` in `w` bits. -/
def unsigned (w : Nat) (i : Int) : Nat := (i % ((2 ^ w : Nat) : Int)).toNat

/-- The little-endian field of `n` bytes at offset `o` of a byte list. -/
def leAt (bs : List Byte) (o n : Nat) : Nat := ofLE ((bs.drop o).take n)

/-- `n` bytes from offset `o`, zero beyond the end. -/
def bytesAt (bs : List Byte) (o n : Nat) : List Byte :=
  let t := (bs.drop o).take n
  t ++ List.replicate (n - t.length) 0

/-- Write `v` at index `i` of a list that is long enough; unchanged otherwise. -/
def setAt {α : Type} (l : List α) (i : Nat) (v : α) : List α := l.set i v

/-- `n` is a power of two. -/
def isPow2 (n : Nat) : Bool := n ≠ 0 && 2 ^ Nat.log2 n == n

/-- Two ranges (start, length) meet. -/
def meets (a la b lb : Nat) : Bool := a < b + lb && b < a + la

end Sys2Proof.Machine
end

