-- ==== Sys2Proof/Machine/Hash.lean ====
section
/-! DEFINITION. The check functions: CRC-32 of the links, CRC-32C of the memory blocks, SHA-384 of images and records
(R261, R269, R366, R202). -/
namespace Sys2Proof.Machine

/-- Eight steps of a reflected CRC on one byte already folded in. -/
def crcSteps (poly x : Nat) (n : Nat) : Nat :=
  match n with
  | 0 => x
  | k + 1 => crcSteps poly (if x % 2 = 1 then (x / 2) ^^^ poly else x / 2) k

/-- A reflected 32-bit CRC of bytes from the running value `x`. -/
def crcGo (poly x : Nat) (bs : List Byte) : Nat :=
  match bs with
  | [] => x
  | b :: r => crcGo poly (crcSteps poly (x ^^^ b.toNat) 8) r

/-- CRC-32 (reflected polynomial 0xEDB88320, start and final inversion). -/
def crc32 (bs : List Byte) : Nat := crcGo 0xEDB88320 0xFFFFFFFF bs ^^^ 0xFFFFFFFF

/-- CRC-32C (reflected polynomial 0x82F63B78, start and final inversion). -/
def crc32c (bs : List Byte) : Nat := crcGo 0x82F63B78 0xFFFFFFFF bs ^^^ 0xFFFFFFFF

/-! ## SHA-384 (FIPS 180-4; PRESUMED constants: the spec names the function only) -/

/-- The modulus of the 64-bit words. -/
def w64 : Nat := 0x10000000000000000

/-- Rotation of a 64-bit word to the right. -/
def rotr64 (x n : Nat) : Nat := ((x >>> n) ||| (x <<< (64 - n))) % w64

/-- The round constants. -/
def sha384K : List Nat :=
  [0x428A2F98D728AE22, 0x7137449123EF65CD, 0xB5C0FBCFEC4D3B2F,
   0xE9B5DBA58189DBBC, 0x3956C25BF348B538, 0x59F111F1B605D019,
   0x923F82A4AF194F9B, 0xAB1C5ED5DA6D8118, 0xD807AA98A3030242,
   0x12835B0145706FBE, 0x243185BE4EE4B28C, 0x550C7DC3D5FFB4E2,
   0x72BE5D74F27B896F, 0x80DEB1FE3B1696B1, 0x9BDC06A725C71235,
   0xC19BF174CF692694, 0xE49B69C19EF14AD2, 0xEFBE4786384F25E3,
   0x0FC19DC68B8CD5B5, 0x240CA1CC77AC9C65, 0x2DE92C6F592B0275,
   0x4A7484AA6EA6E483, 0x5CB0A9DCBD41FBD4, 0x76F988DA831153B5,
   0x983E5152EE66DFAB, 0xA831C66D2DB43210, 0xB00327C898FB213F] ++
  [0xBF597FC7BEEF0EE4, 0xC6E00BF33DA88FC2, 0xD5A79147930AA725,
   0x06CA6351E003826F, 0x142929670A0E6E70, 0x27B70A8546D22FFC,
   0x2E1B21385C26C926, 0x4D2C6DFC5AC42AED, 0x53380D139D95B3DF,
   0x650A73548BAF63DE, 0x766A0ABB3C77B2A8, 0x81C2C92E47EDAEE6,
   0x92722C851482353B, 0xA2BFE8A14CF10364, 0xA81A664BBC423001,
   0xC24B8B70D0F89791, 0xC76C51A30654BE30, 0xD192E819D6EF5218,
   0xD69906245565A910, 0xF40E35855771202A, 0x106AA07032BBD1B8,
   0x19A4C116B8D2D0C8, 0x1E376C085141AB53, 0x2748774CDF8EEB99,
   0x34B0BCB5E19B48A8, 0x391C0CB3C5C95A63, 0x4ED8AA4AE3418ACB] ++
  [0x5B9CCA4F7763E373, 0x682E6FF3D6B2B8A3, 0x748F82EE5DEFB2FC,
   0x78A5636F43172F60, 0x84C87814A1F0AB72, 0x8CC702081A6439EC,
   0x90BEFFFA23631E28, 0xA4506CEBDE82BDE9, 0xBEF9A3F7B2C67915,
   0xC67178F2E372532B, 0xCA273ECEEA26619C, 0xD186B8C721C0C207,
   0xEADA7DD6CDE0EB1E, 0xF57D4F7FEE6ED178, 0x06F067AA72176FBA,
   0x0A637DC5A2C898A6, 0x113F9804BEF90DAE, 0x1B710B35131C471B,
   0x28DB77F523047D84, 0x32CAAB7B40C72493, 0x3C9EBE0A15C9BEBC,
   0x431D67C49C100D4C, 0x4CC5D4BECB3E42B6, 0x597F299CFC657E2A,
   0x5FCB6FAB3AD6FAEC, 0x6C44198C4A475817]

/-- The initial hash value. -/
def sha384H : List Nat :=
  [0xCBBB9D5DC1059ED8, 0x629A292A367CD507, 0x9159015A3070DD17,
   0x152FECD8F70E5939, 0x67332667FFC00B31, 0x8EB44A8768581511,
   0xDB0C2E0D64F98FA7, 0x47B5481DBEFA4FA4]

/-- The eight working words. -/
structure Sha where
  a : Nat
  b : Nat
  c : Nat
  d : Nat
  e : Nat
  f : Nat
  g : Nat
  h : Nat
  deriving DecidableEq, Repr

/-- One round. -/
def shaRound (s : Sha) (kw : Nat) : Sha :=
  let s1 := rotr64 s.e 14 ^^^ rotr64 s.e 18 ^^^ rotr64 s.e 41
  let ch := (s.e &&& s.f) ^^^ ((w64 - 1 - s.e) &&& s.g)
  let t1 := s.h + s1 + ch + kw
  let s0 := rotr64 s.a 28 ^^^ rotr64 s.a 34 ^^^ rotr64 s.a 39
  let mj := (s.a &&& s.b) ^^^ (s.a &&& s.c) ^^^ (s.b &&& s.c)
  ⟨(t1 + s0 + mj) % w64, s.a, s.b, s.c, (s.d + t1) % w64, s.e, s.f, s.g⟩

/-- The message schedule as a sliding window of 16 words, run together with the rounds. -/
def shaBlockGo (ks : List Nat) (win : List Nat) (s : Sha) : Sha :=
  match ks with
  | [] => s
  | k :: r =>
    let w0 := win.headD 0
    let w1 := win.getD 1 0
    let w14 := win.getD 14 0
    let s0 := rotr64 w1 1 ^^^ rotr64 w1 8 ^^^ (w1 >>> 7)
    let s1 := rotr64 w14 19 ^^^ rotr64 w14 61 ^^^ (w14 >>> 6)
    let nw := (w0 + s0 + win.getD 9 0 + s1) % w64
    shaBlockGo r (win.drop 1 ++ [nw]) (shaRound s (k + w0))

/-- The big-endian 64-bit words of a byte list, `n` of them. -/
def beWords (n : Nat) (bs : List Byte) : List Nat :=
  match n with
  | 0 => []
  | k + 1 => ofBE (bs.take 8) :: beWords k (bs.drop 8)

/-- Absorb `n` blocks of 128 bytes. -/
def shaBlocks (n : Nat) (bs : List Byte) (s : Sha) : Sha :=
  match n with
  | 0 => s
  | k + 1 =>
    let t := shaBlockGo sha384K (beWords 16 (bs.take 128)) s
    shaBlocks k (bs.drop 128)
      ⟨(s.a + t.a) % w64, (s.b + t.b) % w64, (s.c + t.c) % w64, (s.d + t.d) % w64,
       (s.e + t.e) % w64, (s.f + t.f) % w64, (s.g + t.g) % w64, (s.h + t.h) % w64⟩

/-- The SHA-384 digest, 48 bytes. -/
def sha384 (m : List Byte) : List Byte :=
  let l := m.length
  let padded := m ++ [0x80#8] ++ List.replicate ((128 - (l + 17) % 128) % 128) 0#8 ++ toBE 16 (8 * l)
  let i (k : Nat) := sha384H.getD k 0
  let s := shaBlocks (padded.length / 128) padded ⟨i 0, i 1, i 2, i 3, i 4, i 5, i 6, i 7⟩
  [s.a, s.b, s.c, s.d, s.e, s.f].flatMap (toBE 8)

end Sys2Proof.Machine
end

