-- ==== Sys2Proof/Machine/Ecdsa.lean ====
section
/-! DEFINITION. ECDSA over P-384 with SHA-384, verification only (R366). PRESUMED: the curve's constants are those of
FIPS 186, which the spec names and does not print. -/
namespace Sys2Proof.Machine

/-- The field prime of P-384. -/
def p384P : Nat := 2 ^ 384 - 2 ^ 128 - 2 ^ 96 + 2 ^ 32 - 1
/-- The curve constant b of P-384. -/
def p384B : Nat :=
  0xb3312fa7e23ee7e4988e056be3f82d19181d9c6efe8141120314088f5013875ac656398d8a2ed19d2a85c8edd3ec2aef
/-- The base point's x. -/
def p384Gx : Nat :=
  0xaa87ca22be8b05378eb1c71ef320ad746e1d3b628ba79b9859f741e082542a385502f25dbf55296c3a545e3872760ab7
/-- The base point's y. -/
def p384Gy : Nat :=
  0x3617de4a96262c6f5d9e98bf9292dc29f8f41dbd289a147ce9da3113b5f0b8c00a60b1ce1d7e819d7a431d7c90ea0e5f
/-- The order of the base point. -/
def p384N : Nat :=
  0xffffffffffffffffffffffffffffffffffffffffffffffffc7634d81f4372ddf581a0db248b0a77aecec196accc52973

/-- `b ^ e mod m` with the bits of `e` from the lowest. -/
def powModGo (m : Nat) (fuel : Nat) (b e acc : Nat) : Nat :=
  match fuel with
  | 0 => acc
  | k + 1 => powModGo m k (b * b % m) (e / 2) (if e % 2 = 1 then acc * b % m else acc)

/-- The inverse modulo a prime of 384 bits. -/
def invMod (m a : Nat) : Nat := powModGo m 384 (a % m) (m - 2) 1

/-- A point in Jacobian coordinates; `z = 0` is the point at infinity. -/
structure JPoint where
  x : Nat
  y : Nat
  z : Nat
  deriving DecidableEq, Repr

/-- `a - b` in the field. -/
def fsub (a b : Nat) : Nat := (a + p384P - b % p384P) % p384P

/-- Twice a point. -/
def jdbl (p : JPoint) : JPoint :=
  if p.z = 0 then p
  else
    let zz := p.z * p.z % p384P
    let m := 3 * (fsub p.x zz) * (p.x + zz) % p384P
    let yy := p.y * p.y % p384P
    let s := 4 * p.x * yy % p384P
    let x := fsub (m * m) (2 * s)
    ⟨x, fsub (m * fsub s x) (8 * yy * yy), 2 * p.y * p.z % p384P⟩

/-- The sum of two points. -/
def jadd (p q : JPoint) : JPoint :=
  if p.z = 0 then q
  else if q.z = 0 then p
  else
    let z1 := p.z * p.z % p384P
    let z2 := q.z * q.z % p384P
    let u1 := p.x * z2 % p384P
    let u2 := q.x * z1 % p384P
    let s1 := p.y * q.z * z2 % p384P
    let s2 := q.y * p.z * z1 % p384P
    if u1 = u2 then (if s1 = s2 then jdbl p else ⟨1, 1, 0⟩)
    else
      let h := fsub u2 u1
      let r := fsub s2 s1
      let hh := h * h % p384P
      let hhh := hh * h % p384P
      let v := u1 * hh % p384P
      let x := fsub (fsub (r * r) hhh) (2 * v)
      ⟨x, fsub (r * fsub v x) (s1 * hhh), p.z * q.z * h % p384P⟩

/-- `k` times a point, the bits of `k` from the lowest. -/
def jmulGo (fuel : Nat) (k : Nat) (p acc : JPoint) : JPoint :=
  match fuel with
  | 0 => acc
  | i + 1 => jmulGo i (k / 2) (jdbl p) (if k % 2 = 1 then jadd acc p else acc)

/-- The public key is a point of the curve. -/
def p384OnCurve (x y : Nat) : Bool :=
  decide (x < p384P) && decide (y < p384P)
    && decide (y * y % p384P = (x * x * x + (p384P - 3) * x + p384B) % p384P)

/-- Does the signature (r, s) of the message bytes verify under the public key (x, y)? -/
def ecdsaVerify (x y r s : Nat) (msg : List Byte) : Bool :=
  if p384OnCurve x y ∧ 1 ≤ r ∧ r < p384N ∧ 1 ≤ s ∧ s < p384N then
    let e := ofBE (sha384 msg)
    let w := invMod p384N s
    let p := jadd (jmulGo 384 (e * w % p384N) ⟨p384Gx, p384Gy, 1⟩ ⟨1, 1, 0⟩)
      (jmulGo 384 (r * w % p384N) ⟨x, y, 1⟩ ⟨1, 1, 0⟩)
    if p.z = 0 then false
    else
      let zi := invMod p384P p.z
      decide (p.x * (zi * zi % p384P) % p384P % p384N = r)
  else false

end Sys2Proof.Machine
end

