-- ==== Sys2Proof/Config.lean ====
section
/-! DEFINITION. The free values of the model: values that the spec leaves open. Each is an opaque constant without a
body, applied to what the value may depend on, so that no proof can see what it is. -/
namespace Sys2Proof.Config

/-- The UE4M4 block scale of a block whose TB4 tensor scale is negative: R28 states the conversion of a quotient to an
unsigned format and no result for a negative quotient (assumption 10). Arguments: amax as an FP32 word, the tensor
scale. The byte is its value modulo 255, never the NaN 0xFF. -/
opaque negQuotScale : W32 → W32 → Nat

/-- The contents of a scratchpad byte of a way that has just entered the scratchpad role (R189: undefined contents).
Arguments: the number of the role change, the byte's place. -/
opaque undefByte : Nat → Nat → Byte

/-- The line that a full instruction cache gives up for a fill (R134 names none). Arguments: a fresh number, the line's
address. -/
opaque icacheVictim : Nat → Nat → Nat

/-- The FP32 value that an implementation computes for a function the spec gives an error bound, and its value where the spec
states no result (the logarithm of 0, a quotient by 0). Arguments: 256 × opcode + function, the operands. -/
opaque fnValue : Nat → List W32 → W32

/-- Elements of Spindle drains that a Frame's Brush input holds (R68, R139 name a full input and no size). -/
opaque brushRoom : Nat

/-- Elements of Spindle drains that a Frame's Easel input holds (R68, R120 name a full input and no size). -/
opaque easelRoom : Nat

/-- The TB4 tensor scale of a Brush command (R28: the program supplies it; Table 6-5 names no field for it). Argument: the
scalars of the argument record. -/
opaque brushTensorScale : List W32 → W32

/-- Whether CLK_TERR rounds an error of an odd number of half ticks up (R285 states no rounding). -/
opaque halfTickUp : Int → Bool

/-- The cause number that the record of a segment error carries when a flex hop is down at a Glaze switch (R91, R389: none is
stated). -/
opaque flexDownCause : Nat

/-- The cause that a refused job reports in bits [31:16] of its DETAIL (Table 15-5, Table 17-4): the spec numbers no causes.
Arguments: the step of R259 (0 before it), the job post record. -/
opaque refuseCause : Nat → List Byte → Nat

/-- A byte of the shape record while none has been built (R260). Argument: its offset. -/
opaque unbuiltShape : Nat → Byte

/-- The bytes of a slot that READ_LOG writes without a record, SEV apart (R391). Argument: the offset in the slot. -/
opaque emptyLogByte : Nat → Byte

/-- A byte with which a snapshot section is padded to a multiple of 64 (Table 13-4 states no value). Arguments: version,
offset in the stream. -/
opaque snapPad : Nat → Nat → Byte

/-- The stream id of a snapshot's SNAP records (Table 11-4 states no value). Argument: the version. -/
opaque snapStream : Nat → Nat

/-- The error status with which a snapshot that is not delivered completes (R321 names none). Argument: the version. -/
opaque snapStatus : Nat → Nat

/-- Whether the Studio's status waits for the host (source 199 of Table 15-9, whose condition no rule states further). Arguments:
STU_BOOT_STAT, STU_FW_CTL. -/
opaque stuWaits : Nat → Nat → Bool

/-- The bytes of the shard directory that the Studio places in LPDDR (R289; no layout is stated). Argument: the Skein image. -/
opaque shardDir : List Byte → List Byte

/-- The ticks that a Function Level Reset takes; only the bound of 100 ms is stated (R342). Argument: when it began. -/
opaque flrTicks : Nat → Nat

/-- Whether a learnt power, a fraction of a watt above a whole number, is kept rounded up (R326 states no rounding). Arguments:
phase, the boundary's number. -/
opaque prefUp : Nat → Nat → Bool

/-- P_obs in watts where the activity estimate or S is 0, so that R326's quotient is 0 ÷ 0 or has no value. Arguments: phase,
the boundary's number. -/
opaque prefIdle : Nat → Nat → Nat

/-- f_cap where no frequency keeps the prediction below the cap (R329 states none): a number of steps of 25 MHz above 800 MHz.
Argument: the boundary's number. -/
opaque capStep : Nat → Nat

/-- The target frequency in MHz under the reserved MODE 3 (R335). Argument: the boundary's number. -/
opaque modeMhz : Nat → Nat

/-- The ROM's VERSION (R369). -/
opaque romVersion : BitVec 32

/-- A layout of an Underpainting part: the fields' bytes of every body, and a body for all fields' bytes. -/
structure Layout where
  fields : List Byte → List Byte
  body : List Byte → List Byte
  fields_body : ∀ d, fields (body d) = d

/-- The layout of a part's body, which is not stated (Table 16-6): any layout that has a body for every setting of the fields, where
`none` stands for the fields in the order of their numbers. Argument: the image type (6 or 7). -/
opaque partLayout : Nat → Option Layout

/-- The bytes that measurement 1 hashes (Table 16-9: no layout is stated). Arguments: ROM VERSION, KEYHASH, KEYPURP, REVOKED,
SVNCNT of types 1 to 7, DEVMODE. -/
opaque fuseItem : Nat → List (List Byte) → List Nat → Nat → List Nat → Bool → List Byte

/-- The bytes that measurement 10 hashes (Table 16-9). Arguments: STU_BOOT_STAT, OVERRIDE. -/
opaque statItem : Nat → Bool → List Byte

/-- The alias certificate (R380). Arguments: UNIQUE, measurement 2. -/
opaque aliasCert : List Byte → List Byte → List Byte

/-- A signature of the SPDM responder with the alias key. Arguments: UNIQUE, measurement 2, the nonce, what is signed, a fresh
number. -/
opaque spdmSign : List Byte → List Byte → Nat → List (List Byte) → Nat → List Byte

/-- DETAIL1 of the record of a cooling class that is invalid or disagrees (R323 reports the code and both classes; no layout is
stated). Arguments: the sampled code, the factory part's class. -/
opaque classDetail : Nat → Nat → Nat

/-- HIF_LINK.WIDTH with 16 lanes, which its 4 bits cannot hold (Table 15-11). -/
opaque width16 : Nat

end Sys2Proof.Config
end

