-- ==== Sys2Proof/Machine/Float.lean ====
section
/-! DEFINITION. Number formats and rounding (02_number_formats.md): element types, exact values, rounding to FP32,
compensated addition, conversions with their edges, block scales. -/
namespace Sys2Proof.Machine

/-- An exact value: NaN, an infinity, or `±m × 2^e` (a zero has `m = 0` and keeps its sign). -/
inductive Val where
  | nan
  | inf (neg : Bool)
  | fin (neg : Bool) (m : Nat) (e : Int)
  deriving DecidableEq, Repr

/-- Positive zero. -/
def Val.zero : Val := .fin false 0 0

/-- The value is NaN. -/
def Val.isNan : Val → Bool
  | .nan => true
  | _ => false

/-- The value is a NaN or an infinity. -/
def Val.special : Val → Bool
  | .fin _ _ _ => false
  | _ => true

/-- A float format (Table 2-1, R20): `maxc` is the code of its largest finite magnitude, `infc` and `nanc` the codes
of infinity and of the NaN written, where the format has them; `flush` where subnormals are flushed. -/
structure Fmt where
  ebits : Nat
  mbits : Nat
  bias  : Nat
  maxc  : Nat
  infc  : Option Nat
  nanc  : Option Nat
  flush : Bool
  deriving DecidableEq, Repr

def fmtFP32 : Fmt := ⟨8, 23, 127, 0x7F7FFFFF, some 0x7F800000, some 0x7FC00000, false⟩
def fmtBF16 : Fmt := ⟨8, 7, 127, 0x7F7F, some 0x7F80, some 0x7FC0, false⟩
def fmtFP16 : Fmt := ⟨5, 10, 15, 0x7BFF, some 0x7C00, some 0x7E00, false⟩
def fmtE4M3 : Fmt := ⟨4, 3, 7, 0x7E, none, some 0x7F, true⟩
def fmtE5M2 : Fmt := ⟨5, 2, 15, 0x7B, some 0x7C, some 0x7E, false⟩
def fmtE3M2 : Fmt := ⟨3, 2, 3, 0x1F, none, none, true⟩
def fmtE2M3 : Fmt := ⟨2, 3, 1, 0x1F, none, none, true⟩
def fmtE2M1 : Fmt := ⟨2, 1, 1, 0x7, none, none, true⟩
/-- UE4M4, the unsigned block scale of TB4 (R24). -/
def fmtUE4M4 : Fmt := ⟨4, 4, 7, 0xFE, none, some 0xFF, false⟩

/-- The sign bit's place in a format. -/
def Fmt.signBit (f : Fmt) : Nat := f.ebits + f.mbits

/-- The value of the magnitude code `c` with sign `neg` (R20, R24). -/
def Fmt.decodeMag (f : Fmt) (neg : Bool) (c : Nat) : Val :=
  let e := c >>> f.mbits
  let m := c % 2 ^ f.mbits
  if c ≤ f.maxc then
    if e = 0 then
      if f.flush then .fin neg 0 0 else .fin neg m (1 - (f.bias : Int) - f.mbits)
    else .fin neg (2 ^ f.mbits + m) ((e : Int) - f.bias - f.mbits)
  else if f.infc = some c then .inf neg
  else .nan

/-- The value of an encoding (R20). -/
def Fmt.decode (f : Fmt) (x : Nat) : Val :=
  f.decodeMag (bit x f.signBit) (x % 2 ^ f.signBit)

/-- `m × 2^s` rounded to an integer, nearest with ties to even (R37); `s` may be negative. -/
def rneShift (m : Nat) (s : Int) : Nat :=
  if 0 ≤ s then m * 2 ^ s.toNat
  else
    let d := 2 ^ (-s).toNat
    let q := m / d
    let r := m % d
    if 2 * r < d then q else if d < 2 * r then q + 1 else q + q % 2

/-- The exponent of the last place of `f` for a magnitude `m × 2^e`: the format's precision, on a grid that goes on
below the smallest normal as if subnormals existed (R38). -/
def Fmt.ulpExp (f : Fmt) (m : Nat) (e : Int) : Int :=
  let floor : Int := 1 - (f.bias : Int) - f.mbits
  if m = 0 then floor else max ((Nat.log2 m : Int) + e - f.mbits) floor

/-- The magnitude code of `n` units of `2^q`, `q` a last place of `f`; a carry into the next binade comes out by
itself. It may exceed `maxc`. -/
def Fmt.codeOf (f : Fmt) (n : Nat) (q : Int) : Nat :=
  ((q + f.mbits + f.bias - 1) * 2 ^ f.mbits).toNat + n

/-- Round a magnitude to nearest even: the code, beyond `maxc` on overflow (R37). -/
def Fmt.rne (f : Fmt) (m : Nat) (e : Int) : Nat :=
  let q := f.ulpExp m e
  f.codeOf (rneShift m (e - q)) q

/-- Stochastic rounding with the draw `r` (R40): the code, beyond `maxc` on overflow. -/
def Fmt.sr (f : Fmt) (m : Nat) (e : Int) (r : Nat) : Nat :=
  let q := f.ulpExp m e
  if 0 ≤ e - q then f.codeOf (m * 2 ^ (e - q).toNat) q
  else
    let d := 2 ^ (q - e).toNat
    let big := (m % d) * 65536 / d
    f.codeOf (m / d + (if big + r ≥ 65536 then 1 else 0)) q

/-- Attach a sign. -/
def Fmt.withSign (f : Fmt) (neg : Bool) (c : Nat) : Nat := if neg then 2 ^ f.signBit + c else c

/-! ## FP32 arithmetic -/

/-- The value of an FP32 word. -/
def f32val (w : W32) : Val := fmtFP32.decode w.toNat

/-- An exact value rounded to FP32, nearest even, overflow to infinity, NaN canonical (R20, R37). -/
def f32rnd (v : Val) : W32 :=
  match v with
  | .nan => 0x7FC00000#32
  | .inf neg => if neg then 0xFF800000#32 else 0x7F800000#32
  | .fin neg m e =>
    let c := min (fmtFP32.rne m e) 0x7F800000
    BitVec.ofNat 32 (fmtFP32.withSign neg c)

/-- FP64 (R297). -/
def fmtFP64 : Fmt := ⟨11, 52, 1023, 0x7FEFFFFFFFFFFFFF, some 0x7FF0000000000000, some 0x7FF8000000000000, false⟩

/-- The FP64 code of an exact value, nearest even (R297). -/
def f64code (v : Val) : Nat :=
  match v with
  | .nan => 0x7FF8000000000000
  | .inf neg => fmtFP64.withSign neg 0x7FF0000000000000
  | .fin neg m e => fmtFP64.withSign neg (min (fmtFP64.rne m e) 0x7FF0000000000000)

/-- The signed integer `±m`. -/
def sInt (neg : Bool) (m : Nat) : Int := if neg then -(m : Int) else (m : Int)

/-- Exact negation. -/
def vneg : Val → Val
  | .nan => .nan
  | .inf n => .inf (!n)
  | .fin n m e => .fin (!n) m e

/-- Exact magnitude. -/
def vabs : Val → Val
  | .nan => .nan
  | .inf _ => .inf false
  | .fin _ m e => .fin false m e

/-- Exact sum (IEEE 754: infinities of opposite sign give NaN; an exact zero of unlike signs is +0). -/
def vadd (a b : Val) : Val :=
  match a, b with
  | .nan, _ => .nan
  | _, .nan => .nan
  | .inf x, .inf y => if x = y then .inf x else .nan
  | .inf x, .fin _ _ _ => .inf x
  | .fin _ _ _, .inf y => .inf y
  | .fin n1 m1 e1, .fin n2 m2 e2 =>
    if m1 = 0 ∧ m2 = 0 then .fin (n1 && n2) 0 0
    else
      let e := min e1 e2
      let s := sInt n1 (m1 * 2 ^ (e1 - e).toNat) + sInt n2 (m2 * 2 ^ (e2 - e).toNat)
      .fin (decide (s < 0)) s.natAbs e

/-- Exact difference. -/
def vsub (a b : Val) : Val := vadd a (vneg b)

/-- Exact product (zero times infinity is NaN). -/
def vmul (a b : Val) : Val :=
  match a, b with
  | .nan, _ => .nan
  | _, .nan => .nan
  | .inf x, .inf y => .inf (x != y)
  | .inf x, .fin n m _ => if m = 0 then .nan else .inf (x != n)
  | .fin n m _, .inf y => if m = 0 then .nan else .inf (n != y)
  | .fin n1 m1 e1, .fin n2 m2 e2 => .fin (n1 != n2) (m1 * m2) (e1 + e2)

/-- A quotient kept with 64 bits beyond every format's precision and a sticky last bit, so that one rounding to nearest
even gives the rounded exact quotient. -/
def vdiv (a b : Val) : Val :=
  match a, b with
  | .nan, _ => .nan
  | _, .nan => .nan
  | .inf _, .inf _ => .nan
  | .inf x, .fin n _ _ => .inf (x != n)
  | .fin n _ _, .inf y => .fin (n != y) 0 0
  | .fin n1 m1 e1, .fin n2 m2 e2 =>
    if m2 = 0 then (if m1 = 0 then .nan else .inf (n1 != n2))
    else
      let k := 64 + Nat.log2 m2 + 1
      let num := m1 * 2 ^ k
      let q := num / m2
      let st := if num % m2 = 0 then 0 else 1
      .fin (n1 != n2) (2 * q + st) (e1 - e2 - k - 1)

/-- The integer square root, by bits from the top: the largest `r` with `r² ≤ n`. -/
def isqrtGo (n : Nat) (fuel : Nat) (r : Nat) : Nat :=
  match fuel with
  | 0 => r
  | i + 1 =>
    let t := r + 2 ^ i
    isqrtGo n i (if t * t ≤ n then t else r)

/-- The integer square root. -/
def isqrt (n : Nat) : Nat := isqrtGo n (Nat.log2 n / 2 + 1) 0

/-- A square root kept with more than 64 significant bits and a sticky last bit. -/
def vsqrt (a : Val) : Val :=
  match a with
  | .nan => .nan
  | .inf n => if n then .nan else .inf false
  | .fin n m e =>
    if m = 0 then .fin n 0 0
    else if n then .nan
    else
      let e2 : Int := if e % 2 = 0 then e else e - 1
      let m2 := if e % 2 = 0 then m else 2 * m
      let x := m2 * 2 ^ 136
      let r := isqrt x
      let st := if r * r = x then 0 else 1
      .fin false (2 * r + st) (e2 / 2 - 68 - 1)

/-- A reciprocal square root kept with more than 64 significant bits and a sticky last bit. -/
def vrsqrt (a : Val) : Val :=
  match a with
  | .nan => .nan
  | .inf n => if n then .nan else .zero
  | .fin n m e =>
    if m = 0 ∨ n then .nan
    else
      let m2 := if e % 2 = 0 then m else 2 * m
      let e2 : Int := if e % 2 = 0 then e else e - 1
      let k := Nat.log2 m2 + 140
      let k := k + k % 2
      let r := isqrt (2 ^ k / m2)
      .fin false (2 * r + (if r * r * m2 = 2 ^ k then 0 else 1)) (-(e2 / 2) - (k / 2 : Nat) - 1)

/-- An exact value rounded to FP32 precision without an upper bound (R39: the range of FP32 is left to the conversion). -/
def wideRnd (v : Val) : Val :=
  match v with
  | .fin neg m e =>
    let q := fmtFP32.ulpExp m e
    .fin neg (rneShift m (e - q)) q
  | v => v

/-- Compare two exact finite or infinite values: the sign of `a - b` (a NaN compares as 0). -/
def vcmp (a b : Val) : Int :=
  match a, b with
  | .nan, _ => 0
  | _, .nan => 0
  | .inf x, .inf y => if x = y then 0 else if x then -1 else 1
  | .inf x, .fin _ _ _ => if x then -1 else 1
  | .fin _ _ _, .inf y => if y then 1 else -1
  | .fin n1 m1 e1, .fin n2 m2 e2 =>
    let e := min e1 e2
    let s := sInt n1 (m1 * 2 ^ (e1 - e).toNat) - sInt n2 (m2 * 2 ^ (e2 - e).toNat)
    if s < 0 then -1 else if s = 0 then 0 else 1

def f32add (a b : W32) : W32 := f32rnd (vadd (f32val a) (f32val b))
def f32sub (a b : W32) : W32 := f32rnd (vsub (f32val a) (f32val b))
def f32mul (a b : W32) : W32 := f32rnd (vmul (f32val a) (f32val b))
def f32div (a b : W32) : W32 := f32rnd (vdiv (f32val a) (f32val b))
def f32sqrt (a : W32) : W32 := f32rnd (vsqrt (f32val a))
/-- IEEE 754 fusedMultiplyAdd: one rounding (R42). -/
def f32fma (a b c : W32) : W32 := f32rnd (vadd (vmul (f32val a) (f32val b)) (f32val c))

/-- The word is a NaN. -/
def f32isNan (w : W32) : Bool := (f32val w).isNan

/-- The word is a NaN or an infinity. -/
def f32special (w : W32) : Bool := (f32val w).special

/-- A compensated total (R35): sum and compensation. -/
structure Pair where
  s : W32
  c : W32
  deriving DecidableEq, Repr

/-- The initial pair (0, 0). -/
def Pair.init : Pair := ⟨0#32, 0#32⟩

/-- Add a value to a compensated total (R35). -/
def Pair.add (p : Pair) (v : W32) : Pair :=
  let t := f32add p.s v
  if f32special t then ⟨t, 0#32⟩
  else
    let z := f32sub t p.s
    let e := f32add (f32sub p.s (f32sub t z)) (f32sub v z)
    ⟨t, f32add p.c e⟩

/-- The value of a compensated total (R35): RNE(s + c), or `t` where `t` is infinite or NaN. -/
def Pair.val (p : Pair) : W32 := if f32special p.s then p.s else f32add p.s p.c

/-! ## Element types (R19) -/

/-- The element type codes that Table 2-1 defines. -/
def etyDefined (t : Nat) : Bool := 1 ≤ t && t ≤ 0x0E

/-- An index type, valid only as the type of an index stream (R22). -/
def etyIndex (t : Nat) : Bool := t = 0x0D || t = 0x0E

/-- A data type: defined and no index type. -/
def etyData (t : Nat) : Bool := etyDefined t && !etyIndex t

/-- Width in bits (Table 2-1). -/
def etyWidth (t : Nat) : Nat :=
  match t with
  | 0x01 => 32 | 0x02 => 16 | 0x03 => 16 | 0x04 => 8 | 0x05 => 8 | 0x06 => 6 | 0x07 => 6 | 0x08 => 4
  | 0x09 => 8 | 0x0A => 4 | 0x0B => 32 | 0x0C => 8 | 0x0D => 16 | 0x0E => 32 | _ => 8

/-- The float format of a type code, where it is a float type. -/
def etyFmt (t : Nat) : Option Fmt :=
  match t with
  | 0x01 => some fmtFP32 | 0x02 => some fmtBF16 | 0x03 => some fmtFP16 | 0x04 => some fmtE4M3
  | 0x05 => some fmtE5M2 | 0x06 => some fmtE3M2 | 0x07 => some fmtE2M3 | 0x08 => some fmtE2M1
  | _ => none

/-- The type is a float type. -/
def etyFloat (t : Nat) : Bool := (etyFmt t).isSome

/-- The bounds of an integer type: two's complement, or unsigned for UINT8 (Table 2-1).
DEDUCED: a lower bound of a two's complement type is -2^(w-1). -/
def etyIntRange (t : Nat) : Int × Int :=
  match t with
  | 0x09 => (-128, 127) | 0x0A => (-8, 7) | 0x0B => (-2147483648, 2147483647) | 0x0C => (0, 255)
  | 0x0D => (-32768, 32767) | _ => (-2147483648, 2147483647)

/-- The integer an encoding of an integer type holds. -/
def etyInt (t c : Nat) : Int := if t = 0x0C then ((c % 256 : Nat) : Int) else signed (etyWidth t) c

/-- The exact value of an encoding, scale left out (R20). -/
def etyVal (t c : Nat) : Val :=
  match etyFmt t with
  | some f => f.decode (c % 2 ^ etyWidth t)
  | none => let i := etyInt t c; .fin (decide (i < 0)) i.natAbs 0

/-- The NaN that is written in a type that has one (Table 2-1). -/
def etyNan (t : Nat) : Option Nat := (etyFmt t).bind (·.nanc)

/-- What a conversion reports: an element clamped (CVT_SAT, FRM_CVTSATCNT) and a NaN mapped to a number (CVT_NAN). -/
structure CvtFlags where
  sat : Bool
  nan : Bool
  deriving DecidableEq, Repr

def CvtFlags.none : CvtFlags := ⟨false, false⟩

/-- Round an exact value to an integer, nearest even. -/
def vround (neg : Bool) (m : Nat) (e : Int) : Int := sInt neg (rneShift m e)

/-- Conversion of an exact value into element type `t` (R37, R38, R40, Table 2-5). `satcvt` is the SATCVT flag; `draw`
is the random draw where stochastic rounding is selected. -/
def convert (t : Nat) (satcvt : Bool) (draw : Option Nat) (v : Val) : Nat × CvtFlags :=
  match etyFmt t with
  | some f =>
    match v with
    | .nan =>
      match f.nanc with
      | some c => (c, .none)
      | none => (f.maxc, ⟨false, true⟩)
    | .inf neg =>
      match f.infc with
      | some c => (f.withSign neg c, .none)
      | none =>
        match f.nanc with
        | some c => (c, .none)
        | none => (f.withSign neg f.maxc, ⟨true, false⟩)
    | .fin neg m e =>
      let c := match draw with
        | some r => f.sr m e r
        | none => f.rne m e
      if c ≤ f.maxc then
        (if f.flush ∧ c < 2 ^ f.mbits then f.withSign neg 0 else f.withSign neg c, .none)
      else
        match f.infc with
        | some i => if satcvt then (f.withSign neg f.maxc, ⟨true, false⟩) else (f.withSign neg i, .none)
        | none => (f.withSign neg f.maxc, ⟨true, false⟩)
  | none =>
    let r := etyIntRange t
    match v with
    | .nan => (0, ⟨false, true⟩)
    | .inf neg => (unsigned (etyWidth t) (if neg then r.1 else r.2), ⟨true, false⟩)
    | .fin neg m e =>
      let i := vround neg m e
      if i < r.1 then (unsigned (etyWidth t) r.1, ⟨true, false⟩)
      else if r.2 < i then (unsigned (etyWidth t) r.2, ⟨true, false⟩)
      else (unsigned (etyWidth t) i, .none)

/-- The stochastic rounding register advanced once (R40). -/
def lfsrNext (st : Nat) : Nat :=
  let x := st / 2
  if st % 2 = 1 then x ^^^ 0xB400 else x

/-- The seed of a lane at the start of a step (R41). -/
def lfsrSeed (seed step f lane : Nat) : Nat :=
  let x := seed ^^^ ((step * 0x9E3779B9) % 2 ^ 32)
  let x := x ^^^ (((f * 2048 + lane) * 0x85EBCA6B) % 2 ^ 32)
  let x := x ^^^ (x >>> 16)
  if x % 65536 = 0 then 0xACE1 else x % 65536

/-! ## Block scales (R23, R24, R28) -/

/-- Elements to a block of a scale type (Table 2-2). -/
def styBlock (st : Nat) : Nat := if st = 1 then 32 else if st = 2 then 16 else 1

/-- The scale type goes with the element type (Table 2-2). -/
def styValid (st t : Nat) : Bool :=
  match st with
  | 0 => true
  | 1 => 4 ≤ t && t ≤ 9
  | 2 => t = 8
  | _ => false

/-- The scale byte of a padded element: 0x7F for E8M0, 0x38 for TB4 (R166). -/
def styUnit (st : Nat) : Nat := if st = 2 then 0x38 else if st = 1 then 0x7F else 0

/-- The value of a block scale byte for element type `t` (R24, Table 2-2: MXINT8 carries a further 2^-6). -/
def styVal (st t sc : Nat) : Val :=
  match st with
  | 1 => if sc = 0xFF then .nan else .fin false 1 ((sc : Int) - 127 - (if t = 9 then 6 else 0))
  | 2 => fmtUE4M4.decodeMag false (sc % 256)
  | _ => .fin false 1 0

/-- An element with its block scale, exact (Table 2-2; the TB4 tensor scale comes at the drain, R30). -/
def scaledVal (st t sc c : Nat) : Val := vmul (styVal st t sc) (etyVal t c)

/-- emax of an MX element type (R28). -/
def mxEmax (t : Nat) : Int :=
  match t with
  | 4 => 8 | 5 => 15 | 6 => 4 | 7 => 2 | 8 => 2 | _ => 0

/-- The largest magnitude of a block: NaN if any is NaN (R28 treats a NaN amax and an infinite one alike). -/
def amaxOf (vs : List Val) : Val :=
  vs.foldl (fun a v => if a.isNan || v.isNan then .nan else if vcmp (vabs v) a > 0 then vabs v else a) .zero

/-- The block scale byte that quantising chooses (R28); `ts` is the TB4 tensor scale T. The TB4 quotient
amax ÷ (6 × T) is computed in FP32, each of its two operations rounded (DESIGN CHOICE, assumption 10: whether 6 × T is rounded by
itself is not stated); a tensor scale that is zero, infinite or NaN gives 0xFE, a negative one a free byte other than NaN. -/
def quantScale (st t : Nat) (ts : W32) (amax : Val) : Nat :=
  match st with
  | 1 =>
    match amax with
    | .fin _ m e =>
      if m = 0 then 0
      else
        let x := (Nat.log2 m : Int) + e - mxEmax t
        ((max (-127) (min 127 x)) + 127).toNat
    | _ => 0xFF
  | 2 =>
    match amax, f32val ts with
    | .fin _ 0 _, _ => 0
    | _, .fin tn tm _ =>
      if tm = 0 then 0xFE
      else
        match f32val (f32rnd (vdiv amax (f32val (f32mul 0x40C00000#32 ts)))) with
        | .fin _ m e =>
          if tn then Config.negQuotScale (f32rnd amax) ts % 255 else min (fmtUE4M4.rne m e) 0xFE
        | _ => 0xFE
    | _, _ => 0xFE
  | _ => 0

/-- An element quantised with block scale byte `sc` (R28): divided by its combined scale and converted, always
saturating. A TB4 block scale of zero makes the whole block zero. -/
def quantElem (st t sc : Nat) (ts : W32) (draw : Option Nat) (v : Val) : Nat × CvtFlags :=
  match st with
  | 0 => convert t true draw v
  | _ =>
    let comb := if st = 2 then vmul (f32val ts) (styVal st t sc) else styVal st t sc
    if st = 2 ∧ sc = 0 then convert t true draw (match v with | .fin neg _ _ => .fin neg 0 0 | _ => .zero)
    else convert t true draw (vdiv v comb)

end Sys2Proof.Machine
end

