-- ==== Sys2Proof/Machine/Regs.lean ====
section
/-! DEFINITION. The register map of BAR0: every register table of the spec (R49, R75, R91, R125, R154, R186, R212, R235,
R236, R263, R288, R309, R319, R335, R361, R362, R385, R401, R419), each field with its place, access code and reset
value. One `Ref` for each field, by the names of the tables with the index letters as arguments. -/
namespace Sys2Proof.Machine

/-- The access codes of Table 0-3 (R7). -/
inductive Acc where
  | rw | ro | w1c | w1s | wo | rws | rwl
  deriving DecidableEq, Repr

/-- One field of one register: its key in the field map (64 × byte offset in BAR0 + low bit), its width in bits and
its reset value. -/
structure Ref where
  key   : Nat
  width : Nat
  reset : Nat
  deriving DecidableEq, Repr

/-- A field of a register table. -/
structure Field where
  lo    : Nat
  width : Nat
  acc   : Acc
  reset : Nat
  deriving DecidableEq, Repr

/-- A register table: name, BAR0 offset of its first instance, width in bits, index ranges as (count, stride) with the
largest stride first, fields. Bits in no field are reserved (R6). -/
structure RegDesc where
  name   : String
  base   : Nat
  width  : Nat
  dims   : List (Nat × Nat)
  fields : List Field
  deriving DecidableEq, Repr

/-- The reference to a field of the register at byte offset `off`. -/
def Field.ref (fl : Field) (off : Nat) : Ref := ⟨64 * off + fl.lo, fl.width, fl.reset⟩

namespace Reg

def FRM_NUMMODE_OVF_MODE (f : Nat) : Ref := ⟨64 * (0x100F000 + 0x10000 * f) + 0, 1, 0⟩
def FRM_NUMSTAT_CVT_NAN (f : Nat) : Ref := ⟨64 * (0x100F004 + 0x10000 * f) + 5, 1, 0⟩
def FRM_NUMSTAT_CVT_SAT (f : Nat) : Ref := ⟨64 * (0x100F004 + 0x10000 * f) + 4, 1, 0⟩
def FRM_NUMSTAT_RETRY_EXH (f : Nat) : Ref := ⟨64 * (0x100F004 + 0x10000 * f) + 3, 1, 0⟩
def FRM_NUMSTAT_OVF_INF (f : Nat) : Ref := ⟨64 * (0x100F004 + 0x10000 * f) + 2, 1, 0⟩
def FRM_NUMSTAT_SAT (f : Nat) : Ref := ⟨64 * (0x100F004 + 0x10000 * f) + 1, 1, 0⟩
def FRM_NUMSTAT_NAN_IN (f : Nat) : Ref := ⟨64 * (0x100F004 + 0x10000 * f) + 0, 1, 0⟩
def FRM_SATCNT_COUNT (f : Nat) : Ref := ⟨64 * (0x100F008 + 0x10000 * f) + 0, 32, 0⟩
def FRM_RETRYCNT_COUNT (f : Nat) : Ref := ⟨64 * (0x100F00C + 0x10000 * f) + 0, 32, 0⟩
def FRM_INFCNT_COUNT (f : Nat) : Ref := ⟨64 * (0x100F010 + 0x10000 * f) + 0, 32, 0⟩
def FRM_CVTSATCNT_COUNT (f : Nat) : Ref := ⟨64 * (0x100F014 + 0x10000 * f) + 0, 32, 0⟩
def FRM_SPDn_SHAPE_GANG_LEADER (f n : Nat) : Ref := ⟨64 * (0x100E000 + 0x10000 * f + 0x40 * n) + 19, 1, 0⟩
def FRM_SPDn_SHAPE_GANG_DEEP (f n : Nat) : Ref := ⟨64 * (0x100E000 + 0x10000 * f + 0x40 * n) + 18, 1, 0⟩
def FRM_SPDn_SHAPE_GANG_SIZE (f n : Nat) : Ref := ⟨64 * (0x100E000 + 0x10000 * f + 0x40 * n) + 16, 2, 0⟩
def FRM_SPDn_SHAPE_SPARE (f n : Nat) : Ref := ⟨64 * (0x100E000 + 0x10000 * f + 0x40 * n) + 13, 1, 0⟩
def FRM_SPDn_SHAPE_RETIRED (f n : Nat) : Ref := ⟨64 * (0x100E000 + 0x10000 * f + 0x40 * n) + 12, 1, 0⟩
def FRM_SPDn_SHAPE_SLOT (f n : Nat) : Ref := ⟨64 * (0x100E000 + 0x10000 * f + 0x40 * n) + 8, 4, 15⟩
def FRM_SPDn_SHAPE_WIDTH (f n : Nat) : Ref := ⟨64 * (0x100E000 + 0x10000 * f + 0x40 * n) + 0, 8, 0⟩
def FRM_SPDn_BADCOLm_BAD (f n m : Nat) : Ref := ⟨64 * (0x100E004 + 0x10000 * f + 0x40 * n + 0x4 * m) + 0, 32, 0⟩
def FRM_SPDn_ECCCNT_UNCORR (f n : Nat) : Ref := ⟨64 * (0x100E018 + 0x10000 * f + 0x40 * n) + 16, 16, 0⟩
def FRM_SPDn_ECCCNT_CORR (f n : Nat) : Ref := ⟨64 * (0x100E018 + 0x10000 * f + 0x40 * n) + 0, 16, 0⟩
def FRM_SPDn_STATE_QDEPTH (f n : Nat) : Ref := ⟨64 * (0x100E01C + 0x10000 * f + 0x40 * n) + 8, 8, 0⟩
def FRM_SPDn_STATE_FROZEN_RES (f n : Nat) : Ref := ⟨64 * (0x100E01C + 0x10000 * f + 0x40 * n) + 4, 1, 0⟩
def FRM_SPDn_STATE_HANDLES (f n : Nat) : Ref := ⟨64 * (0x100E01C + 0x10000 * f + 0x40 * n) + 0, 4, 0⟩
def FRM_SPDn_FROZENSKIP_COUNT (f n : Nat) : Ref := ⟨64 * (0x100E020 + 0x10000 * f + 0x40 * n) + 0, 32, 0⟩
def FRM_RCUT_Z_CUT (f : Nat) : Ref := ⟨64 * (0x100D000 + 0x10000 * f) + 8, 8, 255⟩
def FRM_RCUT_S_CUT (f : Nat) : Ref := ⟨64 * (0x100D000 + 0x10000 * f) + 0, 8, 255⟩
def FRM_RMODE_Z_RED (f : Nat) : Ref := ⟨64 * (0x100D004 + 0x10000 * f) + 8, 8, 0⟩
def FRM_RMODE_S_RED (f : Nat) : Ref := ⟨64 * (0x100D004 + 0x10000 * f) + 0, 8, 0⟩
def FRM_RINJ_Z_SLOT (f : Nat) : Ref := ⟨64 * (0x100D008 + 0x10000 * f) + 12, 3, 0⟩
def FRM_RINJ_Z_EN (f : Nat) : Ref := ⟨64 * (0x100D008 + 0x10000 * f) + 11, 1, 0⟩
def FRM_RINJ_Z_Q (f : Nat) : Ref := ⟨64 * (0x100D008 + 0x10000 * f) + 7, 4, 0⟩
def FRM_RINJ_S_SLOT (f : Nat) : Ref := ⟨64 * (0x100D008 + 0x10000 * f) + 4, 3, 0⟩
def FRM_RINJ_S_EN (f : Nat) : Ref := ⟨64 * (0x100D008 + 0x10000 * f) + 3, 1, 0⟩
def FRM_RINJQ_S_Q (f : Nat) : Ref := ⟨64 * (0x100D00C + 0x10000 * f) + 0, 4, 0⟩
def FRM_RFLEX_Z_IN_EN (f : Nat) : Ref := ⟨64 * (0x100D010 + 0x10000 * f) + 13, 1, 0⟩
def FRM_RFLEX_Z_OUT_EN (f : Nat) : Ref := ⟨64 * (0x100D010 + 0x10000 * f) + 12, 1, 0⟩
def FRM_RFLEX_Z_PORT (f : Nat) : Ref := ⟨64 * (0x100D010 + 0x10000 * f) + 8, 4, 0⟩
def FRM_RFLEX_S_IN_EN (f : Nat) : Ref := ⟨64 * (0x100D010 + 0x10000 * f) + 5, 1, 0⟩
def FRM_RFLEX_S_OUT_EN (f : Nat) : Ref := ⟨64 * (0x100D010 + 0x10000 * f) + 4, 1, 0⟩
def FRM_RFLEX_S_PORT (f : Nat) : Ref := ⟨64 * (0x100D010 + 0x10000 * f) + 0, 4, 0⟩
def FRM_RERR_SLOT (f : Nat) : Ref := ⟨64 * (0x100D014 + 0x10000 * f) + 8, 4, 0⟩
def FRM_RERR_Z_ECC (f : Nat) : Ref := ⟨64 * (0x100D014 + 0x10000 * f) + 5, 1, 0⟩
def FRM_RERR_S_ECC (f : Nat) : Ref := ⟨64 * (0x100D014 + 0x10000 * f) + 4, 1, 0⟩
def FRM_RERR_Z_PROTO (f : Nat) : Ref := ⟨64 * (0x100D014 + 0x10000 * f) + 3, 1, 0⟩
def FRM_RERR_S_PROTO (f : Nat) : Ref := ⟨64 * (0x100D014 + 0x10000 * f) + 2, 1, 0⟩
def FRM_RERR_Z_WDOG (f : Nat) : Ref := ⟨64 * (0x100D014 + 0x10000 * f) + 1, 1, 0⟩
def FRM_RERR_S_WDOG (f : Nat) : Ref := ⟨64 * (0x100D014 + 0x10000 * f) + 0, 1, 0⟩
def FRM_RPn_SEL_SKEW (f n : Nat) : Ref := ⟨64 * (0x100D100 + 0x10000 * f + 0x8 * n) + 32, 16, 0⟩
def FRM_RPn_SEL_Z_PART (f n : Nat) : Ref := ⟨64 * (0x100D100 + 0x10000 * f + 0x8 * n) + 24, 8, 0⟩
def FRM_RPn_SEL_Z_SID (f n : Nat) : Ref := ⟨64 * (0x100D100 + 0x10000 * f + 0x8 * n) + 16, 8, 0⟩
def FRM_RPn_SEL_S_PART (f n : Nat) : Ref := ⟨64 * (0x100D100 + 0x10000 * f + 0x8 * n) + 8, 8, 0⟩
def FRM_RPn_SEL_S_SID (f n : Nat) : Ref := ⟨64 * (0x100D100 + 0x10000 * f + 0x8 * n) + 0, 8, 0⟩
def FRM_EASEL_STATE_QDEPTH (f : Nat) : Ref := ⟨64 * (0x100E400 + 0x10000 * f) + 8, 8, 0⟩
def FRM_EASEL_STATE_FROZEN (f : Nat) : Ref := ⟨64 * (0x100E400 + 0x10000 * f) + 1, 1, 0⟩
def FRM_EASEL_STATE_BUSY (f : Nat) : Ref := ⟨64 * (0x100E400 + 0x10000 * f) + 0, 1, 0⟩
def FRM_EASEL_ROWCNT_COUNT (f : Nat) : Ref := ⟨64 * (0x100E404 + 0x10000 * f) + 0, 32, 0⟩
def FRM_KNOTk_VALUE (f k : Nat) : Ref := ⟨64 * (0x1008000 + 0x10000 * f + 0x4 * k) + 0, 32, 0⟩
def FRM_KCFGk_TASK (f k : Nat) : Ref := ⟨64 * (0x1008400 + 0x10000 * f + 0x4 * k) + 8, 4, 0⟩
def FRM_KCFGk_CLASS (f k : Nat) : Ref := ⟨64 * (0x1008400 + 0x10000 * f + 0x4 * k) + 0, 2, 0⟩
def FRM_KSTAT_OVF (f : Nat) : Ref := ⟨64 * (0x1008800 + 0x10000 * f) + 31, 1, 0⟩
def FRM_KSTAT_UNF (f : Nat) : Ref := ⟨64 * (0x1008800 + 0x10000 * f) + 30, 1, 0⟩
def FRM_KSTAT_TMO (f : Nat) : Ref := ⟨64 * (0x1008800 + 0x10000 * f) + 29, 1, 0⟩
def FRM_KSTAT_CORE (f : Nat) : Ref := ⟨64 * (0x1008800 + 0x10000 * f) + 8, 2, 0⟩
def FRM_KSTAT_KNOT (f : Nat) : Ref := ⟨64 * (0x1008800 + 0x10000 * f) + 0, 8, 0⟩
def FRM_KWAIT_TO_TIMEOUT (f : Nat) : Ref := ⟨64 * (0x1008804 + 0x10000 * f) + 0, 26, 1000000⟩
def FRM_FMEM_ECCCNT_UNCORR (f : Nat) : Ref := ⟨64 * (0x100C000 + 0x10000 * f) + 16, 16, 0⟩
def FRM_FMEM_ECCCNT_CORR (f : Nat) : Ref := ⟨64 * (0x100C000 + 0x10000 * f) + 0, 16, 0⟩
def FRM_COREc_STATE_TASK (f c : Nat) : Ref := ⟨64 * (0x100C100 + 0x10000 * f + 0x10 * c) + 4, 4, 0⟩
def FRM_COREc_STATE_STATE (f c : Nat) : Ref := ⟨64 * (0x100C100 + 0x10000 * f + 0x10 * c) + 0, 3, 0⟩
def FRM_COREc_PC_PC (f c : Nat) : Ref := ⟨64 * (0x100C108 + 0x10000 * f + 0x10 * c) + 0, 64, 0⟩
def FRM_Qq_ISSUED_COUNT (f q : Nat) : Ref := ⟨64 * (0x100C400 + 0x10000 * f + 0x10 * q) + 0, 64, 0⟩
def FRM_Qq_DONE_COUNT (f q : Nat) : Ref := ⟨64 * (0x100C408 + 0x10000 * f + 0x10 * q) + 0, 64, 0⟩
def FRM_BRUSH_STATE_QDEPTH (f : Nat) : Ref := ⟨64 * (0x100C600 + 0x10000 * f) + 8, 8, 0⟩
def FRM_BRUSH_STATE_LANES16 (f : Nat) : Ref := ⟨64 * (0x100C600 + 0x10000 * f) + 1, 1, 0⟩
def FRM_BRUSH_STATE_BUSY (f : Nat) : Ref := ⟨64 * (0x100C600 + 0x10000 * f) + 0, 1, 0⟩
def FRM_PWRCTL_GATED (f : Nat) : Ref := ⟨64 * (0x100C700 + 0x10000 * f) + 2, 1, 0⟩
def FRM_PWRCTL_WAKE (f : Nat) : Ref := ⟨64 * (0x100C700 + 0x10000 * f) + 1, 1, 0⟩
def FRM_PWRCTL_GATE_EN (f : Nat) : Ref := ⟨64 * (0x100C700 + 0x10000 * f) + 0, 1, 1⟩
def FRM_SEGs_BASE_BASE (f s : Nat) : Ref := ⟨64 * (0x100A000 + 0x10000 * f + 0x10 * s) + 0, 64, 0⟩
def FRM_SEGs_LIM_MGRP (f s : Nat) : Ref := ⟨64 * (0x100A008 + 0x10000 * f + 0x10 * s) + 52, 8, 0⟩
def FRM_SEGs_LIM_KIND (f s : Nat) : Ref := ⟨64 * (0x100A008 + 0x10000 * f + 0x10 * s) + 48, 3, 0⟩
def FRM_SEGs_LIM_LIMIT (f s : Nat) : Ref := ⟨64 * (0x100A008 + 0x10000 * f + 0x10 * s) + 0, 48, 0⟩
def FRM_SQj_CFG_PRIO (f j : Nat) : Ref := ⟨64 * (0x100A100 + 0x10000 * f + 0x10 * j) + 0, 1, 0⟩
def FRM_SQj_CTL_CANCEL (f j : Nat) : Ref := ⟨64 * (0x100A104 + 0x10000 * f + 0x10 * j) + 0, 1, 0⟩
def FRM_SQj_STATE_ITEM (f j : Nat) : Ref := ⟨64 * (0x100A108 + 0x10000 * f + 0x10 * j) + 16, 16, 0⟩
def FRM_SQj_STATE_QDEPTH (f j : Nat) : Ref := ⟨64 * (0x100A108 + 0x10000 * f + 0x10 * j) + 8, 8, 0⟩
def FRM_SQj_STATE_CANCELLED (f j : Nat) : Ref := ⟨64 * (0x100A108 + 0x10000 * f + 0x10 * j) + 2, 1, 0⟩
def FRM_SQj_STATE_CANCEL_BUSY (f j : Nat) : Ref := ⟨64 * (0x100A108 + 0x10000 * f + 0x10 * j) + 1, 1, 0⟩
def FRM_SQj_STATE_BUSY (f j : Nat) : Ref := ⟨64 * (0x100A108 + 0x10000 * f + 0x10 * j) + 0, 1, 0⟩
def FRM_SQ_FAULT_VALID (f : Nat) : Ref := ⟨64 * (0x100A200 + 0x10000 * f) + 31, 1, 0⟩
def FRM_SQ_FAULT_QUEUE (f : Nat) : Ref := ⟨64 * (0x100A200 + 0x10000 * f) + 24, 4, 0⟩
def FRM_SQ_FAULT_CAUSE (f : Nat) : Ref := ⟨64 * (0x100A200 + 0x10000 * f) + 16, 8, 0⟩
def FRM_SQ_FAULT_ITEM (f : Nat) : Ref := ⟨64 * (0x100A200 + 0x10000 * f) + 0, 16, 0⟩
def FRM_SQ_FAULTADDR_ADDR (f : Nat) : Ref := ⟨64 * (0x100A208 + 0x10000 * f) + 0, 64, 0⟩
def FRM_SQ_MERGECNT_COUNT (f : Nat) : Ref := ⟨64 * (0x100A210 + 0x10000 * f) + 0, 32, 0⟩
def FRM_SQ_OOBCNT_COUNT (f : Nat) : Ref := ⟨64 * (0x100A214 + 0x10000 * f) + 0, 32, 0⟩
def MEM_CFG_RATE : Ref := ⟨64 * (0x500000) + 8, 4, 0⟩
def MEM_CFG_CAP : Ref := ⟨64 * (0x500000) + 0, 1, 0⟩
def MEM_RETRAIN_CFG_INTERVAL : Ref := ⟨64 * (0x500004) + 0, 16, 256⟩
def MEM_PALFL_CTL_DONE : Ref := ⟨64 * (0x500100) + 5, 1, 0⟩
def MEM_PALFL_CTL_BUSY : Ref := ⟨64 * (0x500100) + 4, 1, 0⟩
def MEM_PALFL_CTL_START : Ref := ⟨64 * (0x500100) + 3, 1, 0⟩
def MEM_PALFL_CTL_RANGE : Ref := ⟨64 * (0x500100) + 2, 1, 0⟩
def MEM_PALFL_CTL_OP : Ref := ⟨64 * (0x500100) + 0, 2, 0⟩
def MEM_PALFL_BASE_ADDR : Ref := ⟨64 * (0x500108) + 0, 48, 0⟩
def MEM_PALFL_LEN_LEN : Ref := ⟨64 * (0x500110) + 0, 42, 0⟩
def MEM_PALf_WAYS_RS (f : Nat) : Ref := ⟨64 * (0x501000 + 0x10 * f) + 16, 16, 32768⟩
def MEM_PALf_WAYS_SP (f : Nat) : Ref := ⟨64 * (0x501000 + 0x10 * f) + 0, 16, 0⟩
def MEM_PALf_HITCNT_COUNT (f : Nat) : Ref := ⟨64 * (0x501004 + 0x10 * f) + 0, 32, 0⟩
def MEM_PALf_MISSCNT_COUNT (f : Nat) : Ref := ⟨64 * (0x501008 + 0x10 * f) + 0, 32, 0⟩
def MEM_PALf_ECCCNT_UNCORR (f : Nat) : Ref := ⟨64 * (0x50100C + 0x10 * f) + 16, 16, 0⟩
def MEM_PALf_ECCCNT_CORR (f : Nat) : Ref := ⟨64 * (0x50100C + 0x10 * f) + 0, 16, 0⟩
def MEM_CHc_MAP_STATE (c : Nat) : Ref := ⟨64 * (0x502000 + 0x10 * c) + 8, 3, 0⟩
def MEM_CHc_MAP_PHYS (c : Nat) : Ref := ⟨64 * (0x502000 + 0x10 * c) + 0, 8, 0⟩
def MEM_CHc_CRCCNT_UNCORR (c : Nat) : Ref := ⟨64 * (0x502004 + 0x10 * c) + 16, 16, 0⟩
def MEM_CHc_CRCCNT_CORR (c : Nat) : Ref := ⟨64 * (0x502004 + 0x10 * c) + 0, 16, 0⟩
def MEM_GRPm_SPARE_AVAIL (m : Nat) : Ref := ⟨64 * (0x503000 + 0x10 * m) + 8, 1, 0⟩
def MEM_GRPm_SPARE_PHYS (m : Nat) : Ref := ⟨64 * (0x503000 + 0x10 * m) + 0, 8, 0⟩
def MEM_REPAIR_POL_AUTO : Ref := ⟨64 * (0x503100) + 31, 1, 1⟩
def MEM_REPAIR_POL_WINDOW : Ref := ⟨64 * (0x503100) + 16, 8, 60⟩
def MEM_REPAIR_POL_THRESH : Ref := ⟨64 * (0x503100) + 0, 16, 1024⟩
def MEM_REPAIR_CTL_START : Ref := ⟨64 * (0x503104) + 31, 1, 0⟩
def MEM_REPAIR_CTL_LCH : Ref := ⟨64 * (0x503104) + 0, 7, 0⟩
def MEM_REPAIR_STAT_BUSY : Ref := ⟨64 * (0x503108) + 31, 1, 0⟩
def MEM_REPAIR_STAT_DONE : Ref := ⟨64 * (0x503108) + 30, 1, 0⟩
def MEM_REPAIR_STAT_FAIL : Ref := ⟨64 * (0x503108) + 29, 1, 0⟩
def MEM_REPAIR_STAT_NOSPARE : Ref := ⟨64 * (0x503108) + 28, 1, 0⟩
def MEM_REPAIR_STAT_GRPBUSY : Ref := ⟨64 * (0x503108) + 27, 1, 0⟩
def MEM_REPAIR_STAT_PROGRESS : Ref := ⟨64 * (0x503108) + 16, 8, 0⟩
def MEM_REPAIR_STAT_LCH : Ref := ⟨64 * (0x503108) + 0, 7, 0⟩
def MEM_ERRADDR_VALID : Ref := ⟨64 * (0x503200) + 63, 1, 0⟩
def MEM_ERRADDR_LCH : Ref := ⟨64 * (0x503200) + 56, 7, 0⟩
def MEM_ERRADDR_ADDR : Ref := ⟨64 * (0x503200) + 0, 48, 0⟩
def CLK_FREQ_CUR_MHZ : Ref := ⟨64 * (0x300000) + 0, 12, 800⟩
def CLK_FREQ_CTL_GO : Ref := ⟨64 * (0x300004) + 31, 1, 0⟩
def CLK_FREQ_CTL_PENDING : Ref := ⟨64 * (0x300004) + 30, 1, 0⟩
def CLK_FREQ_CTL_TGT_MHZ : Ref := ⟨64 * (0x300004) + 0, 12, 800⟩
def CLK_STAT_LOCKFAIL : Ref := ⟨64 * (0x300008) + 4, 1, 0⟩
def CLK_STAT_PHASEERR : Ref := ⟨64 * (0x300008) + 3, 1, 0⟩
def CLK_STAT_SAFE : Ref := ⟨64 * (0x300008) + 2, 1, 0⟩
def CLK_STAT_BACKUP : Ref := ⟨64 * (0x300008) + 1, 1, 0⟩
def CLK_STAT_HOLDOVER : Ref := ⟨64 * (0x300008) + 0, 1, 0⟩
def CLK_REF_CTL_RESTORE : Ref := ⟨64 * (0x30000C) + 0, 1, 0⟩
def CLK_TIME_TICKS : Ref := ⟨64 * (0x300010) + 0, 64, 0⟩
def CLK_TSYNC_SRC : Ref := ⟨64 * (0x300018) + 0, 2, 0⟩
def CLK_TERR_ERR : Ref := ⟨64 * (0x30001C) + 0, 32, 0⟩
def CLK_TSTEPCNT_COUNT : Ref := ⟨64 * (0x300020) + 0, 32, 0⟩
def CLK_FCHGCNT_COUNT : Ref := ⟨64 * (0x300024) + 0, 32, 0⟩
def CLK_GENg_STAT_LOSSCNT (g : Nat) : Ref := ⟨64 * (0x300100 + 0x4 * g) + 8, 8, 0⟩
def CLK_GENg_STAT_HOLD (g : Nat) : Ref := ⟨64 * (0x300100 + 0x4 * g) + 2, 1, 0⟩
def CLK_GENg_STAT_REFLOSS (g : Nat) : Ref := ⟨64 * (0x300100 + 0x4 * g) + 1, 1, 0⟩
def CLK_GENg_STAT_LOCKED (g : Nat) : Ref := ⟨64 * (0x300100 + 0x4 * g) + 0, 1, 0⟩
def FRM_CYCLES_COUNT (f : Nat) : Ref := ⟨64 * (0x100B000 + 0x10000 * f) + 0, 64, 0⟩
def FRM_STRETCHCNT_COUNT (f : Nat) : Ref := ⟨64 * (0x100B008 + 0x10000 * f) + 0, 32, 0⟩
def FRM_TIME_TICKS (f : Nat) : Ref := ⟨64 * (0x100B010 + 0x10000 * f) + 0, 64, 0⟩
def FRM_MESH_ECCCNT_UNCORR (f : Nat) : Ref := ⟨64 * (0x100B018 + 0x10000 * f) + 16, 16, 0⟩
def FRM_MESH_ECCCNT_CORR (f : Nat) : Ref := ⟨64 * (0x100B018 + 0x10000 * f) + 0, 16, 0⟩
def FRM_MESH_ERR_PORT (f : Nat) : Ref := ⟨64 * (0x100B01C + 0x10000 * f) + 5, 3, 0⟩
def FRM_MESH_ERR_HDR (f : Nat) : Ref := ⟨64 * (0x100B01C + 0x10000 * f) + 1, 1, 0⟩
def FRM_MESH_ERR_WDOG (f : Nat) : Ref := ⟨64 * (0x100B01C + 0x10000 * f) + 0, 1, 0⟩
def FRM_Qq_TASK_TASK (f q : Nat) : Ref := ⟨64 * (0x100C800 + 0x10000 * f + 0x4 * q) + 0, 4, 0⟩
def FRM_TOKp_BR (f p : Nat) : Ref := ⟨64 * (0x100C900 + 0x10000 * f + 0x4 * p) + 4, 1, 0⟩
def FRM_TOKp_SPD (f p : Nat) : Ref := ⟨64 * (0x100C900 + 0x10000 * f + 0x4 * p) + 0, 4, 0⟩
def FRM_PHASE_CORE (f : Nat) : Ref := ⟨64 * (0x100CD00 + 0x10000 * f) + 9, 2, 0⟩
def FRM_PHASE_HINT (f : Nat) : Ref := ⟨64 * (0x100CD00 + 0x10000 * f) + 8, 1, 0⟩
def FRM_PHASE_ID (f : Nat) : Ref := ⟨64 * (0x100CD00 + 0x10000 * f) + 0, 8, 0⟩
def FRM_TOKEXCESS_COUNT (f : Nat) : Ref := ⟨64 * (0x100CD04 + 0x10000 * f) + 0, 32, 0⟩
def LNK_MODID_HPOS : Ref := ⟨64 * (0x600000) + 16, 3, 0⟩
def LNK_MODID_ID : Ref := ⟨64 * (0x600000) + 0, 16, 0⟩
def LNK_FABRIC_DZ_M1 : Ref := ⟨64 * (0x600004) + 8, 5, 0⟩
def LNK_FABRIC_DY_M1 : Ref := ⟨64 * (0x600004) + 4, 4, 0⟩
def LNK_FABRIC_DX_M1 : Ref := ⟨64 * (0x600004) + 0, 4, 0⟩
def LNK_KADD_DELTA : Ref := ⟨64 * (0x600008) + 32, 32, 0⟩
def LNK_KADD_KNOT : Ref := ⟨64 * (0x600008) + 16, 14, 0⟩
def LNK_KADD_MOD : Ref := ⟨64 * (0x600008) + 0, 16, 0⟩
def LNK_ERRLOG_VALID : Ref := ⟨64 * (0x600010) + 63, 1, 0⟩
def LNK_ERRLOG_CAUSE : Ref := ⟨64 * (0x600010) + 48, 8, 0⟩
def LNK_ERRLOG_TYPE : Ref := ⟨64 * (0x600010) + 44, 4, 0⟩
def LNK_ERRLOG_PORT : Ref := ⟨64 * (0x600010) + 40, 4, 0⟩
def LNK_ERRLOG_MOD : Ref := ⟨64 * (0x600010) + 0, 16, 0⟩
def LNK_PORTp_CFG_PEER_MOD (p : Nat) : Ref := ⟨64 * (0x601000 + 0x40 * p) + 16, 16, 0⟩
def LNK_PORTp_CFG_PEER_PORT (p : Nat) : Ref := ⟨64 * (0x601000 + 0x40 * p) + 4, 4, 0⟩
def LNK_PORTp_CFG_ROLE (p : Nat) : Ref := ⟨64 * (0x601000 + 0x40 * p) + 0, 4, 0⟩
def LNK_PORTp_STAT_RETRY (p : Nat) : Ref := ⟨64 * (0x601004 + 0x40 * p) + 19, 1, 0⟩
def LNK_PORTp_STAT_DEGRADE (p : Nat) : Ref := ⟨64 * (0x601004 + 0x40 * p) + 18, 1, 0⟩
def LNK_PORTp_STAT_DOWN_EVT (p : Nat) : Ref := ⟨64 * (0x601004 + 0x40 * p) + 17, 1, 0⟩
def LNK_PORTp_STAT_CABLE_ERR (p : Nat) : Ref := ⟨64 * (0x601004 + 0x40 * p) + 16, 1, 0⟩
def LNK_PORTp_STAT_LANE_BAD (p : Nat) : Ref := ⟨64 * (0x601004 + 0x40 * p) + 8, 5, 0⟩
def LNK_PORTp_STAT_STATE (p : Nat) : Ref := ⟨64 * (0x601004 + 0x40 * p) + 0, 3, 0⟩
def LNK_PORTp_CTL_DISABLE (p : Nat) : Ref := ⟨64 * (0x601008 + 0x40 * p) + 1, 1, 0⟩
def LNK_PORTp_CTL_RETRAIN (p : Nat) : Ref := ⟨64 * (0x601008 + 0x40 * p) + 0, 1, 0⟩
def LNK_PORTp_PEER_PORT (p : Nat) : Ref := ⟨64 * (0x60100C + 0x40 * p) + 16, 4, 0⟩
def LNK_PORTp_PEER_MOD (p : Nat) : Ref := ⟨64 * (0x60100C + 0x40 * p) + 0, 16, 0⟩
def LNK_PORTp_FECCNT_COUNT (p : Nat) : Ref := ⟨64 * (0x601010 + 0x40 * p) + 0, 32, 0⟩
def LNK_PORTp_CRCCNT_PROTO (p : Nat) : Ref := ⟨64 * (0x601014 + 0x40 * p) + 24, 8, 0⟩
def LNK_PORTp_CRCCNT_UNCORR (p : Nat) : Ref := ⟨64 * (0x601014 + 0x40 * p) + 12, 12, 0⟩
def LNK_PORTp_CRCCNT_FAIL (p : Nat) : Ref := ⟨64 * (0x601014 + 0x40 * p) + 0, 12, 0⟩
def LNK_PORTp_REPLAYCNT_COUNT (p : Nat) : Ref := ⟨64 * (0x601018 + 0x40 * p) + 0, 32, 0⟩
def LNK_MGRPg_NMEM (g : Nat) : Ref := ⟨64 * (0x602000 + 0x8 * g) + 32, 16, 0⟩
def LNK_MGRPg_ROOT (g : Nat) : Ref := ⟨64 * (0x602000 + 0x8 * g) + 17, 1, 0⟩
def LNK_MGRPg_LOCAL (g : Nat) : Ref := ⟨64 * (0x602000 + 0x8 * g) + 16, 1, 0⟩
def LNK_MGRPg_PORTS (g : Nat) : Ref := ⟨64 * (0x602000 + 0x8 * g) + 0, 16, 0⟩
def PLY_STEP_STATE : Ref := ⟨64 * (0x700000) + 36, 3, 0⟩
def PLY_STEP_ATTEMPT : Ref := ⟨64 * (0x700000) + 32, 4, 0⟩
def PLY_STEP_STEP : Ref := ⟨64 * (0x700000) + 0, 32, 0⟩
def PLY_STEPCFG_ROOT : Ref := ⟨64 * (0x700008) + 48, 16, 0⟩
def PLY_STEPCFG_MAXREPLAY : Ref := ⟨64 * (0x700008) + 32, 4, 3⟩
def PLY_STEPCFG_DEADLINE : Ref := ⟨64 * (0x700008) + 0, 30, 10000000⟩
def PLY_KBASE_BASE : Ref := ⟨64 * (0x700010) + 0, 14, 0⟩
def PLY_ATHR_COUNT : Ref := ⟨64 * (0x700014) + 0, 32, 0⟩
def PLY_STAT_SHARD : Ref := ⟨64 * (0x700018) + 16, 12, 0⟩
def PLY_STAT_LINEERR : Ref := ⟨64 * (0x700018) + 7, 1, 0⟩
def PLY_STAT_ROOTLOST : Ref := ⟨64 * (0x700018) + 6, 1, 0⟩
def PLY_STAT_JOBFAIL : Ref := ⟨64 * (0x700018) + 5, 1, 0⟩
def PLY_STAT_RSECC : Ref := ⟨64 * (0x700018) + 4, 1, 0⟩
def PLY_STAT_RSFULL : Ref := ⟨64 * (0x700018) + 3, 1, 0⟩
def PLY_STAT_DUP : Ref := ⟨64 * (0x700018) + 2, 1, 0⟩
def PLY_STAT_VERMM : Ref := ⟨64 * (0x700018) + 1, 1, 0⟩
def PLY_STAT_LATE : Ref := ⟨64 * (0x700018) + 0, 1, 0⟩
def PLY_STALECNT_COUNT : Ref := ⟨64 * (0x70001C) + 0, 32, 0⟩
def PLY_REPLAYCNT_COUNT : Ref := ⟨64 * (0x700020) + 0, 32, 0⟩
def PLY_UNITm_STAT_WITHHOLD (m : Nat) : Ref := ⟨64 * (0x700100 + 0x20 * m) + 31, 1, 0⟩
def PLY_UNITm_STAT_HELD (m : Nat) : Ref := ⟨64 * (0x700100 + 0x20 * m) + 0, 22, 0⟩
def PLY_UNITm_WHCNT_COUNT (m : Nat) : Ref := ⟨64 * (0x700104 + 0x20 * m) + 0, 32, 0⟩
def PLY_UNITm_PIECECNT_COUNT (m : Nat) : Ref := ⟨64 * (0x700108 + 0x20 * m) + 0, 64, 0⟩
def PLY_STk_S1_VALUE (k : Nat) : Ref := ⟨64 * (0x700200 + 0x20 * k) + 0, 64, 0⟩
def PLY_STk_S2_VALUE (k : Nat) : Ref := ⟨64 * (0x700208 + 0x20 * k) + 0, 64, 0⟩
def PLY_STk_PN_COUNT (k : Nat) : Ref := ⟨64 * (0x700210 + 0x20 * k) + 0, 64, 0⟩
def PLY_STk_LN_COUNT (k : Nat) : Ref := ⟨64 * (0x700218 + 0x20 * k) + 0, 64, 0⟩
def FRM_IDLEu_Cc_COUNT (f u c : Nat) : Ref := ⟨64 * (0x1009000 + 0x10000 * f + 0x80 * u + 0x8 * c) + 0, 64, 0⟩
def PWR_CLASS_CAP_W : Ref := ⟨64 * (0x400000) + 16, 16, 0⟩
def PWR_CLASS_CLASS : Ref := ⟨64 * (0x400000) + 4, 2, 3⟩
def PWR_CLASS_COOL_ID : Ref := ⟨64 * (0x400000) + 0, 3, 0⟩
def PWR_CAP_USER_CAP_W : Ref := ⟨64 * (0x400004) + 0, 16, 0⟩
def PWR_CTL_FIXED_MHZ : Ref := ⟨64 * (0x400008) + 16, 12, 800⟩
def PWR_CTL_MODE : Ref := ⟨64 * (0x400008) + 0, 2, 0⟩
def PWR_STAT_COOLCHG : Ref := ⟨64 * (0x40000C) + 10, 1, 0⟩
def PWR_STAT_THERM_WARN : Ref := ⟨64 * (0x40000C) + 9, 1, 0⟩
def PWR_STAT_MODEL_MISMATCH : Ref := ⟨64 * (0x40000C) + 8, 1, 0⟩
def PWR_STAT_REASON : Ref := ⟨64 * (0x40000C) + 1, 7, 0⟩
def PWR_STAT_THROTTLE : Ref := ⟨64 * (0x40000C) + 0, 1, 0⟩
def PWR_IN_DIE_W : Ref := ⟨64 * (0x400010) + 16, 16, 0⟩
def PWR_IN_IN_W : Ref := ⟨64 * (0x400010) + 0, 16, 0⟩
def PWR_EST_EST_W : Ref := ⟨64 * (0x400014) + 0, 16, 0⟩
def PWR_HOLD_HOLD : Ref := ⟨64 * (0x400018) + 0, 4, 0⟩
def PWR_TJ_FRAME : Ref := ⟨64 * (0x40001C) + 8, 6, 0⟩
def PWR_TJ_TJ_C : Ref := ⟨64 * (0x40001C) + 0, 8, 0⟩
def PWR_DROOP_CFG_MAXSTRETCH : Ref := ⟨64 * (0x400020) + 8, 3, 4⟩
def PWR_DROOP_CFG_THRESH : Ref := ⟨64 * (0x400020) + 0, 8, 34⟩
def PWR_STATREC_ADDR : Ref := ⟨64 * (0x400028) + 0, 48, 0⟩
def PWR_THROTCNT_COUNT : Ref := ⟨64 * (0x400030) + 0, 32, 0⟩
def PWR_PHASEp_TABLE_MHZ (p : Nat) : Ref := ⟨64 * (0x401000 + 0x8 * p) + 32, 16, 0⟩
def PWR_PHASEp_UPDATES (p : Nat) : Ref := ⟨64 * (0x401000 + 0x8 * p) + 24, 8, 0⟩
def PWR_PHASEp_PREF_W (p : Nat) : Ref := ⟨64 * (0x401000 + 0x8 * p) + 0, 16, 0⟩
def PWR_OPPi_S (i : Nat) : Ref := ⟨64 * (0x402000 + 0x8 * i) + 32, 12, 0⟩
def PWR_OPPi_MV (i : Nat) : Ref := ⟨64 * (0x402000 + 0x8 * i) + 16, 12, 0⟩
def PWR_OPPi_MHZ (i : Nat) : Ref := ⟨64 * (0x402000 + 0x8 * i) + 0, 12, 0⟩
def HIF_LINK_WIDTH : Ref := ⟨64 * (0x0) + 4, 4, 0⟩
def HIF_LINK_GEN : Ref := ⟨64 * (0x0) + 0, 4, 0⟩
def HIF_CTL_READY_ACK : Ref := ⟨64 * (0x4) + 0, 1, 0⟩
def HIF_BAR2_BASE_BASE : Ref := ⟨64 * (0x8) + 0, 41, 0⟩
def HIF_RINGn_BASE_ADDR (n : Nat) : Ref := ⟨64 * (0x1000 + 0x40 * n) + 6, 58, 0⟩
def HIF_RINGn_CBASE_ADDR (n : Nat) : Ref := ⟨64 * (0x1008 + 0x40 * n) + 6, 58, 0⟩
def HIF_RINGn_CFG_PRIO (n : Nat) : Ref := ⟨64 * (0x1010 + 0x40 * n) + 5, 1, 0⟩
def HIF_RINGn_CFG_EN (n : Nat) : Ref := ⟨64 * (0x1010 + 0x40 * n) + 4, 1, 0⟩
def HIF_RINGn_CFG_LOG2SIZE (n : Nat) : Ref := ⟨64 * (0x1010 + 0x40 * n) + 0, 4, 4⟩
def HIF_RINGn_IRQ_TIME (n : Nat) : Ref := ⟨64 * (0x1014 + 0x40 * n) + 16, 16, 0⟩
def HIF_RINGn_IRQ_COUNT (n : Nat) : Ref := ⟨64 * (0x1014 + 0x40 * n) + 0, 13, 0⟩
def HIF_RINGn_STAT_JOBHELD (n : Nat) : Ref := ⟨64 * (0x1018 + 0x40 * n) + 3, 1, 0⟩
def HIF_RINGn_STAT_FULL (n : Nat) : Ref := ⟨64 * (0x1018 + 0x40 * n) + 2, 1, 0⟩
def HIF_RINGn_STAT_ERR (n : Nat) : Ref := ⟨64 * (0x1018 + 0x40 * n) + 1, 1, 0⟩
def HIF_RINGn_STAT_BUSY (n : Nat) : Ref := ⟨64 * (0x1018 + 0x40 * n) + 0, 1, 0⟩
def HIF_RINGn_SQHEAD_COUNT (n : Nat) : Ref := ⟨64 * (0x101C + 0x40 * n) + 0, 32, 0⟩
def INT_SRCs_CFG_LEVEL (s : Nat) : Ref := ⟨64 * (0x200000 + 0x8 * s) + 34, 1, 0⟩
def INT_SRCs_CFG_STATE (s : Nat) : Ref := ⟨64 * (0x200000 + 0x8 * s) + 32, 2, 0⟩
def INT_SRCs_CFG_VEC (s : Nat) : Ref := ⟨64 * (0x200000 + 0x8 * s) + 16, 6, 0⟩
def INT_SRCs_CFG_TARGET (s : Nat) : Ref := ⟨64 * (0x200000 + 0x8 * s) + 4, 9, 258⟩
def INT_SRCs_CFG_PRIO (s : Nat) : Ref := ⟨64 * (0x200000 + 0x8 * s) + 0, 4, 0⟩
def INT_TGTt_THR_RUNPRIO (t : Nat) : Ref := ⟨64 * (0x202000 + 0x4 * t) + 8, 4, 0⟩
def INT_TGTt_THR_THR (t : Nat) : Ref := ⟨64 * (0x202000 + 0x4 * t) + 0, 4, 0⟩
def INT_HOST_CLAIM_SRC : Ref := ⟨64 * (0x203000) + 0, 32, 4294967295⟩
def INT_HOST_DONE_SRC : Ref := ⟨64 * (0x203004) + 0, 10, 0⟩
def INT_SPURIOUS_DONE_COUNT : Ref := ⟨64 * (0x203008) + 0, 32, 0⟩
def INT_HOSTCFG_MSIX_EN : Ref := ⟨64 * (0x20300C) + 0, 1, 0⟩
def INT_ACK_THROTTLE : Ref := ⟨64 * (0x203010) + 1, 1, 0⟩
def INT_ACK_FCHG : Ref := ⟨64 * (0x203010) + 0, 1, 0⟩
def INT_KWATCHw_THRESH (w : Nat) : Ref := ⟨64 * (0x204000 + 0x8 * w) + 32, 32, 4294967295⟩
def INT_KWATCHw_KNOT (w : Nat) : Ref := ⟨64 * (0x204000 + 0x8 * w) + 0, 14, 0⟩
def INT_SWSETr_BITS (r : Nat) : Ref := ⟨64 * (0x205000 + 0x8 * r) + 0, 32, 0⟩
def INT_SWCLRr_BITS (r : Nat) : Ref := ⟨64 * (0x205004 + 0x8 * r) + 0, 32, 0⟩
def STU_BOOT_STAT_CAUSE : Ref := ⟨64 * (0x100000) + 24, 8, 0⟩
def STU_BOOT_STAT_PHASE : Ref := ⟨64 * (0x100000) + 16, 3, 1⟩
def STU_BOOT_STAT_MODE : Ref := ⟨64 * (0x100000) + 8, 2, 0⟩
def STU_BOOT_STAT_PENDFAIL : Ref := ⟨64 * (0x100000) + 4, 1, 0⟩
def STU_BOOT_STAT_DEV : Ref := ⟨64 * (0x100000) + 3, 1, 0⟩
def STU_BOOT_STAT_SEAL : Ref := ⟨64 * (0x100000) + 2, 1, 0⟩
def STU_BOOT_STAT_SLOT : Ref := ⟨64 * (0x100000) + 0, 1, 0⟩
def STU_BOOT_PAIR_TYPE_J : Ref := ⟨64 * (0x100004) + 4, 3, 0⟩
def STU_BOOT_PAIR_TYPE_I : Ref := ⟨64 * (0x100004) + 0, 3, 0⟩
def STU_FUSE_KEYS_REVOKED : Ref := ⟨64 * (0x100008) + 4, 4, 0⟩
def STU_FUSE_KEYS_PROGRAMMED : Ref := ⟨64 * (0x100008) + 0, 4, 0⟩
def STU_FW_CTL_STAGED : Ref := ⟨64 * (0x10000C) + 4, 2, 0⟩
def STU_FW_CTL_OVERRIDE : Ref := ⟨64 * (0x10000C) + 2, 1, 0⟩
def STU_FW_CTL_PENDING : Ref := ⟨64 * (0x10000C) + 1, 1, 0⟩
def STU_FW_CTL_ACTIVATE : Ref := ⟨64 * (0x10000C) + 0, 1, 0⟩
def STU_GLAZE_COUNT : Ref := ⟨64 * (0x100010) + 16, 16, 0⟩
def STU_GLAZE_BUSY : Ref := ⟨64 * (0x100010) + 8, 1, 0⟩
def STU_GLAZE_CURRENT : Ref := ⟨64 * (0x100010) + 0, 5, 0⟩
def STU_BOOT_MS_MS : Ref := ⟨64 * (0x100014) + 0, 32, 0⟩
def STU_IMGt_PRESENT (t : Nat) : Ref := ⟨64 * (0x100100 + 0x8 * t) + 56, 1, 0⟩
def STU_IMGt_FLOOR (t : Nat) : Ref := ⟨64 * (0x100100 + 0x8 * t) + 48, 8, 0⟩
def STU_IMGt_SVN (t : Nat) : Ref := ⟨64 * (0x100100 + 0x8 * t) + 32, 8, 0⟩
def STU_IMGt_VERSION (t : Nat) : Ref := ⟨64 * (0x100100 + 0x8 * t) + 0, 32, 0⟩
def STU_LOG_STAT_UNREAD : Ref := ⟨64 * (0x100200) + 0, 13, 0⟩
def STU_LOG_NEXTSEQ_SEQ : Ref := ⟨64 * (0x100208) + 0, 64, 0⟩
def STU_LOG_LOST_COUNT : Ref := ⟨64 * (0x100210) + 0, 32, 0⟩
def STU_ERR_STAT_MSTOP : Ref := ⟨64 * (0x100214) + 31, 1, 0⟩
def STU_ERR_STAT_CAUSE : Ref := ⟨64 * (0x100214) + 8, 16, 0⟩
def STU_ERR_STAT_UNIT : Ref := ⟨64 * (0x100214) + 0, 4, 0⟩
def STU_ERRCNT_SEVv_COUNT (v : Nat) : Ref := ⟨64 * (0x100220 + 0x4 * v) + 0, 32, 0⟩
def STU_TELEM_STAT_RUN : Ref := ⟨64 * (0x100230) + 63, 1, 0⟩
def STU_TELEM_STAT_WINDOW : Ref := ⟨64 * (0x100230) + 0, 32, 0⟩
def STU_PINS_TRIPPED : Ref := ⟨64 * (0x100300) + 18, 1, 0⟩
def STU_PINS_INFAULT : Ref := ⟨64 * (0x100300) + 17, 1, 0⟩
def STU_PINS_RAILFAIL : Ref := ⟨64 * (0x100300) + 16, 1, 0⟩
def STU_PINS_PERST : Ref := ⟨64 * (0x100300) + 10, 1, 1⟩
def STU_PINS_PGOOD : Ref := ⟨64 * (0x100300) + 9, 1, 0⟩
def STU_PINS_PWREN : Ref := ⟨64 * (0x100300) + 8, 1, 0⟩
def STU_PINS_SLOT_ID : Ref := ⟨64 * (0x100300) + 0, 6, 0⟩

end Reg

/-- Registers of the Frames. -/
def regsFrm0 : List RegDesc := [
  ⟨"FRM_NUMMODE", 0x100F000, 32, [(64, 0x10000)],
    [⟨0, 1, .ro, 0⟩]⟩,
  ⟨"FRM_NUMSTAT", 0x100F004, 32, [(64, 0x10000)],
    [⟨5, 1, .w1c, 0⟩, ⟨4, 1, .w1c, 0⟩, ⟨3, 1, .w1c, 0⟩, ⟨2, 1, .w1c, 0⟩, ⟨1, 1, .w1c, 0⟩, ⟨0, 1, .w1c, 0⟩]⟩,
  ⟨"FRM_SATCNT", 0x100F008, 32, [(64, 0x10000)],
    [⟨0, 32, .rw, 0⟩]⟩,
  ⟨"FRM_RETRYCNT", 0x100F00C, 32, [(64, 0x10000)],
    [⟨0, 32, .rw, 0⟩]⟩,
  ⟨"FRM_INFCNT", 0x100F010, 32, [(64, 0x10000)],
    [⟨0, 32, .rw, 0⟩]⟩,
  ⟨"FRM_CVTSATCNT", 0x100F014, 32, [(64, 0x10000)],
    [⟨0, 32, .rw, 0⟩]⟩,
  ⟨"FRM_SPDn_SHAPE", 0x100E000, 32, [(64, 0x10000), (9, 0x40)],
    [⟨19, 1, .ro, 0⟩, ⟨18, 1, .ro, 0⟩, ⟨16, 2, .ro, 0⟩, ⟨13, 1, .ro, 0⟩, ⟨12, 1, .ro, 0⟩, ⟨8, 4, .ro, 15⟩, ⟨0, 8, .ro, 0⟩]⟩,
  ⟨"FRM_SPDn_BADCOLm", 0x100E004, 32, [(64, 0x10000), (9, 0x40), (5, 0x4)],
    [⟨0, 32, .ro, 0⟩]⟩,
  ⟨"FRM_SPDn_ECCCNT", 0x100E018, 32, [(64, 0x10000), (9, 0x40)],
    [⟨16, 16, .rw, 0⟩, ⟨0, 16, .rw, 0⟩]⟩,
  ⟨"FRM_SPDn_STATE", 0x100E01C, 32, [(64, 0x10000), (9, 0x40)],
    [⟨8, 8, .ro, 0⟩, ⟨4, 1, .ro, 0⟩, ⟨0, 4, .ro, 0⟩]⟩,
  ⟨"FRM_SPDn_FROZENSKIP", 0x100E020, 32, [(64, 0x10000), (9, 0x40)],
    [⟨0, 32, .rw, 0⟩]⟩,
  ⟨"FRM_RCUT", 0x100D000, 32, [(64, 0x10000)],
    [⟨8, 8, .rw, 255⟩, ⟨0, 8, .rw, 255⟩]⟩]

/-- Registers of the Frames. -/
def regsFrm1 : List RegDesc := [
  ⟨"FRM_RMODE", 0x100D004, 32, [(64, 0x10000)],
    [⟨8, 8, .rw, 0⟩, ⟨0, 8, .rw, 0⟩]⟩,
  ⟨"FRM_RINJ", 0x100D008, 32, [(64, 0x10000)],
    [⟨12, 3, .rw, 0⟩, ⟨11, 1, .rw, 0⟩, ⟨7, 4, .rw, 0⟩, ⟨4, 3, .rw, 0⟩, ⟨3, 1, .rw, 0⟩]⟩,
  ⟨"FRM_RINJQ", 0x100D00C, 32, [(64, 0x10000)],
    [⟨0, 4, .rw, 0⟩]⟩,
  ⟨"FRM_RFLEX", 0x100D010, 32, [(64, 0x10000)],
    [⟨13, 1, .rw, 0⟩, ⟨12, 1, .rw, 0⟩, ⟨8, 4, .rw, 0⟩, ⟨5, 1, .rw, 0⟩, ⟨4, 1, .rw, 0⟩, ⟨0, 4, .rw, 0⟩]⟩,
  ⟨"FRM_RERR", 0x100D014, 32, [(64, 0x10000)],
    [⟨8, 4, .ro, 0⟩, ⟨5, 1, .w1c, 0⟩, ⟨4, 1, .w1c, 0⟩, ⟨3, 1, .w1c, 0⟩, ⟨2, 1, .w1c, 0⟩, ⟨1, 1, .w1c, 0⟩, ⟨0, 1, .w1c, 0⟩]⟩,
  ⟨"FRM_RPn_SEL", 0x100D100, 64, [(64, 0x10000), (9, 0x8)],
    [⟨32, 16, .rw, 0⟩, ⟨24, 8, .rw, 0⟩, ⟨16, 8, .rw, 0⟩, ⟨8, 8, .rw, 0⟩, ⟨0, 8, .rw, 0⟩]⟩,
  ⟨"FRM_EASEL_STATE", 0x100E400, 32, [(64, 0x10000)],
    [⟨8, 8, .ro, 0⟩, ⟨1, 1, .ro, 0⟩, ⟨0, 1, .ro, 0⟩]⟩,
  ⟨"FRM_EASEL_ROWCNT", 0x100E404, 32, [(64, 0x10000)],
    [⟨0, 32, .rw, 0⟩]⟩,
  ⟨"FRM_KNOTk", 0x1008000, 32, [(64, 0x10000), (256, 0x4)],
    [⟨0, 32, .rw, 0⟩]⟩,
  ⟨"FRM_KCFGk", 0x1008400, 32, [(64, 0x10000), (256, 0x4)],
    [⟨8, 4, .rw, 0⟩, ⟨0, 2, .rw, 0⟩]⟩,
  ⟨"FRM_KSTAT", 0x1008800, 32, [(64, 0x10000)],
    [⟨31, 1, .w1c, 0⟩, ⟨30, 1, .w1c, 0⟩, ⟨29, 1, .w1c, 0⟩, ⟨8, 2, .ro, 0⟩, ⟨0, 8, .ro, 0⟩]⟩,
  ⟨"FRM_KWAIT_TO", 0x1008804, 32, [(64, 0x10000)],
    [⟨0, 26, .rw, 1000000⟩]⟩]

/-- Registers of the Frames. -/
def regsFrm2 : List RegDesc := [
  ⟨"FRM_FMEM_ECCCNT", 0x100C000, 32, [(64, 0x10000)],
    [⟨16, 16, .rw, 0⟩, ⟨0, 16, .rw, 0⟩]⟩,
  ⟨"FRM_COREc_STATE", 0x100C100, 32, [(64, 0x10000), (4, 0x10)],
    [⟨4, 4, .ro, 0⟩, ⟨0, 3, .ro, 0⟩]⟩,
  ⟨"FRM_COREc_PC", 0x100C108, 64, [(64, 0x10000), (4, 0x10)],
    [⟨0, 64, .ro, 0⟩]⟩,
  ⟨"FRM_Qq_ISSUED", 0x100C400, 64, [(64, 0x10000), (27, 0x10)],
    [⟨0, 64, .ro, 0⟩]⟩,
  ⟨"FRM_Qq_DONE", 0x100C408, 64, [(64, 0x10000), (27, 0x10)],
    [⟨0, 64, .ro, 0⟩]⟩,
  ⟨"FRM_BRUSH_STATE", 0x100C600, 32, [(64, 0x10000)],
    [⟨8, 8, .ro, 0⟩, ⟨1, 1, .ro, 0⟩, ⟨0, 1, .ro, 0⟩]⟩,
  ⟨"FRM_PWRCTL", 0x100C700, 32, [(64, 0x10000)],
    [⟨2, 1, .ro, 0⟩, ⟨1, 1, .wo, 0⟩, ⟨0, 1, .rw, 1⟩]⟩,
  ⟨"FRM_SEGs_BASE", 0x100A000, 64, [(64, 0x10000), (16, 0x10)],
    [⟨0, 64, .rw, 0⟩]⟩,
  ⟨"FRM_SEGs_LIM", 0x100A008, 64, [(64, 0x10000), (16, 0x10)],
    [⟨52, 8, .rw, 0⟩, ⟨48, 3, .rw, 0⟩, ⟨0, 48, .rw, 0⟩]⟩,
  ⟨"FRM_SQj_CFG", 0x100A100, 32, [(64, 0x10000), (16, 0x10)],
    [⟨0, 1, .rw, 0⟩]⟩,
  ⟨"FRM_SQj_CTL", 0x100A104, 32, [(64, 0x10000), (16, 0x10)],
    [⟨0, 1, .wo, 0⟩]⟩,
  ⟨"FRM_SQj_STATE", 0x100A108, 32, [(64, 0x10000), (16, 0x10)],
    [⟨16, 16, .ro, 0⟩, ⟨8, 8, .ro, 0⟩, ⟨2, 1, .w1c, 0⟩, ⟨1, 1, .ro, 0⟩, ⟨0, 1, .ro, 0⟩]⟩]

/-- Registers of the Frames. -/
def regsFrm3 : List RegDesc := [
  ⟨"FRM_SQ_FAULT", 0x100A200, 32, [(64, 0x10000)],
    [⟨31, 1, .w1c, 0⟩, ⟨24, 4, .ro, 0⟩, ⟨16, 8, .ro, 0⟩, ⟨0, 16, .ro, 0⟩]⟩,
  ⟨"FRM_SQ_FAULTADDR", 0x100A208, 64, [(64, 0x10000)],
    [⟨0, 64, .ro, 0⟩]⟩,
  ⟨"FRM_SQ_MERGECNT", 0x100A210, 32, [(64, 0x10000)],
    [⟨0, 32, .rw, 0⟩]⟩,
  ⟨"FRM_SQ_OOBCNT", 0x100A214, 32, [(64, 0x10000)],
    [⟨0, 32, .rw, 0⟩]⟩,
  ⟨"FRM_CYCLES", 0x100B000, 64, [(64, 0x10000)],
    [⟨0, 64, .ro, 0⟩]⟩,
  ⟨"FRM_STRETCHCNT", 0x100B008, 32, [(64, 0x10000)],
    [⟨0, 32, .rw, 0⟩]⟩,
  ⟨"FRM_TIME", 0x100B010, 64, [(64, 0x10000)],
    [⟨0, 64, .ro, 0⟩]⟩,
  ⟨"FRM_MESH_ECCCNT", 0x100B018, 32, [(64, 0x10000)],
    [⟨16, 16, .rw, 0⟩, ⟨0, 16, .rw, 0⟩]⟩,
  ⟨"FRM_MESH_ERR", 0x100B01C, 32, [(64, 0x10000)],
    [⟨5, 3, .ro, 0⟩, ⟨1, 1, .w1c, 0⟩, ⟨0, 1, .w1c, 0⟩]⟩,
  ⟨"FRM_Qq_TASK", 0x100C800, 32, [(64, 0x10000), (27, 0x4)],
    [⟨0, 4, .ro, 0⟩]⟩,
  ⟨"FRM_TOKp", 0x100C900, 32, [(64, 0x10000), (256, 0x4)],
    [⟨4, 1, .ro, 0⟩, ⟨0, 4, .ro, 0⟩]⟩,
  ⟨"FRM_PHASE", 0x100CD00, 32, [(64, 0x10000)],
    [⟨9, 2, .ro, 0⟩, ⟨8, 1, .ro, 0⟩, ⟨0, 8, .ro, 0⟩]⟩]

/-- Registers of the Frames. -/
def regsFrm4 : List RegDesc := [
  ⟨"FRM_TOKEXCESS", 0x100CD04, 32, [(64, 0x10000)],
    [⟨0, 32, .rw, 0⟩]⟩,
  ⟨"FRM_IDLEu_Cc", 0x1009000, 64, [(64, 0x10000), (15, 0x80), (16, 0x8)],
    [⟨0, 64, .rw, 0⟩]⟩]

/-- Registers of the Studio. -/
def regsStu0 : List RegDesc := [
  ⟨"STU_BOOT_STAT", 0x100000, 32, [],
    [⟨24, 8, .ro, 0⟩, ⟨16, 3, .ro, 1⟩, ⟨8, 2, .ro, 0⟩, ⟨4, 1, .w1c, 0⟩, ⟨3, 1, .ro, 0⟩, ⟨2, 1, .ro, 0⟩, ⟨0, 1, .ro, 0⟩]⟩,
  ⟨"STU_BOOT_PAIR", 0x100004, 32, [],
    [⟨4, 3, .ro, 0⟩, ⟨0, 3, .ro, 0⟩]⟩,
  ⟨"STU_FUSE_KEYS", 0x100008, 32, [],
    [⟨4, 4, .ro, 0⟩, ⟨0, 4, .ro, 0⟩]⟩,
  ⟨"STU_FW_CTL", 0x10000C, 32, [],
    [⟨4, 2, .ro, 0⟩, ⟨2, 1, .rws, 0⟩, ⟨1, 1, .ro, 0⟩, ⟨0, 1, .wo, 0⟩]⟩,
  ⟨"STU_GLAZE", 0x100010, 32, [],
    [⟨16, 16, .ro, 0⟩, ⟨8, 1, .ro, 0⟩, ⟨0, 5, .ro, 0⟩]⟩,
  ⟨"STU_BOOT_MS", 0x100014, 32, [],
    [⟨0, 32, .ro, 0⟩]⟩,
  ⟨"STU_IMGt", 0x100100, 64, [(8, 0x8)],
    [⟨56, 1, .ro, 0⟩, ⟨48, 8, .ro, 0⟩, ⟨32, 8, .ro, 0⟩, ⟨0, 32, .ro, 0⟩]⟩,
  ⟨"STU_LOG_STAT", 0x100200, 32, [],
    [⟨0, 13, .ro, 0⟩]⟩,
  ⟨"STU_LOG_NEXTSEQ", 0x100208, 64, [],
    [⟨0, 64, .ro, 0⟩]⟩,
  ⟨"STU_LOG_LOST", 0x100210, 32, [],
    [⟨0, 32, .rw, 0⟩]⟩,
  ⟨"STU_ERR_STAT", 0x100214, 32, [],
    [⟨31, 1, .ro, 0⟩, ⟨8, 16, .ro, 0⟩, ⟨0, 4, .ro, 0⟩]⟩,
  ⟨"STU_ERRCNT_SEVv", 0x100220, 32, [(4, 0x4)],
    [⟨0, 32, .rw, 0⟩]⟩]

/-- Registers of the Studio. -/
def regsStu1 : List RegDesc := [
  ⟨"STU_TELEM_STAT", 0x100230, 64, [],
    [⟨63, 1, .ro, 0⟩, ⟨0, 32, .ro, 0⟩]⟩,
  ⟨"STU_PINS", 0x100300, 32, [],
    [⟨18, 1, .ro, 0⟩, ⟨17, 1, .w1c, 0⟩, ⟨16, 1, .w1c, 0⟩, ⟨10, 1, .ro, 1⟩, ⟨9, 1, .ro, 0⟩, ⟨8, 1, .ro, 0⟩, ⟨0, 6, .ro, 0⟩]⟩]

/-- Registers of the event controller. -/
def regsInt : List RegDesc := [
  ⟨"INT_SRCs_CFG", 0x200000, 64, [(1024, 0x8)],
    [⟨34, 1, .ro, 0⟩, ⟨32, 2, .ro, 0⟩, ⟨16, 6, .rw, 0⟩, ⟨4, 9, .rw, 258⟩, ⟨0, 4, .rw, 0⟩]⟩,
  ⟨"INT_TGTt_THR", 0x202000, 32, [(259, 0x4)],
    [⟨8, 4, .ro, 0⟩, ⟨0, 4, .rw, 0⟩]⟩,
  ⟨"INT_HOST_CLAIM", 0x203000, 32, [],
    [⟨0, 32, .ro, 4294967295⟩]⟩,
  ⟨"INT_HOST_DONE", 0x203004, 32, [],
    [⟨0, 10, .wo, 0⟩]⟩,
  ⟨"INT_SPURIOUS_DONE", 0x203008, 32, [],
    [⟨0, 32, .rw, 0⟩]⟩,
  ⟨"INT_HOSTCFG", 0x20300C, 32, [],
    [⟨0, 1, .rw, 0⟩]⟩,
  ⟨"INT_ACK", 0x203010, 32, [],
    [⟨1, 1, .w1c, 0⟩, ⟨0, 1, .w1c, 0⟩]⟩,
  ⟨"INT_KWATCHw", 0x204000, 64, [(256, 0x8)],
    [⟨32, 32, .rw, 4294967295⟩, ⟨0, 14, .rw, 0⟩]⟩,
  ⟨"INT_SWSETr", 0x205000, 32, [(8, 0x8)],
    [⟨0, 32, .w1s, 0⟩]⟩,
  ⟨"INT_SWCLRr", 0x205004, 32, [(8, 0x8)],
    [⟨0, 32, .w1c, 0⟩]⟩]

/-- Registers of the clocks. -/
def regsClk : List RegDesc := [
  ⟨"CLK_FREQ_CUR", 0x300000, 32, [],
    [⟨0, 12, .ro, 800⟩]⟩,
  ⟨"CLK_FREQ_CTL", 0x300004, 32, [],
    [⟨31, 1, .wo, 0⟩, ⟨30, 1, .ro, 0⟩, ⟨0, 12, .rw, 800⟩]⟩,
  ⟨"CLK_STAT", 0x300008, 32, [],
    [⟨4, 1, .w1c, 0⟩, ⟨3, 1, .w1c, 0⟩, ⟨2, 1, .ro, 0⟩, ⟨1, 1, .ro, 0⟩, ⟨0, 1, .ro, 0⟩]⟩,
  ⟨"CLK_REF_CTL", 0x30000C, 32, [],
    [⟨0, 1, .wo, 0⟩]⟩,
  ⟨"CLK_TIME", 0x300010, 64, [],
    [⟨0, 64, .ro, 0⟩]⟩,
  ⟨"CLK_TSYNC", 0x300018, 32, [],
    [⟨0, 2, .rwl, 0⟩]⟩,
  ⟨"CLK_TERR", 0x30001C, 32, [],
    [⟨0, 32, .ro, 0⟩]⟩,
  ⟨"CLK_TSTEPCNT", 0x300020, 32, [],
    [⟨0, 32, .rw, 0⟩]⟩,
  ⟨"CLK_FCHGCNT", 0x300024, 32, [],
    [⟨0, 32, .rw, 0⟩]⟩,
  ⟨"CLK_GENg_STAT", 0x300100, 32, [(72, 0x4)],
    [⟨8, 8, .rw, 0⟩, ⟨2, 1, .ro, 0⟩, ⟨1, 1, .w1c, 0⟩, ⟨0, 1, .ro, 0⟩]⟩]

/-- Registers of power. -/
def regsPwr0 : List RegDesc := [
  ⟨"PWR_CLASS", 0x400000, 32, [],
    [⟨16, 16, .ro, 0⟩, ⟨4, 2, .ro, 3⟩, ⟨0, 3, .ro, 0⟩]⟩,
  ⟨"PWR_CAP_USER", 0x400004, 32, [],
    [⟨0, 16, .rw, 0⟩]⟩,
  ⟨"PWR_CTL", 0x400008, 32, [],
    [⟨16, 12, .rw, 800⟩, ⟨0, 2, .rw, 0⟩]⟩,
  ⟨"PWR_STAT", 0x40000C, 32, [],
    [⟨10, 1, .w1c, 0⟩, ⟨9, 1, .w1c, 0⟩, ⟨8, 1, .w1c, 0⟩, ⟨1, 7, .ro, 0⟩, ⟨0, 1, .ro, 0⟩]⟩,
  ⟨"PWR_IN", 0x400010, 32, [],
    [⟨16, 16, .ro, 0⟩, ⟨0, 16, .ro, 0⟩]⟩,
  ⟨"PWR_EST", 0x400014, 32, [],
    [⟨0, 16, .ro, 0⟩]⟩,
  ⟨"PWR_HOLD", 0x400018, 32, [],
    [⟨0, 4, .ro, 0⟩]⟩,
  ⟨"PWR_TJ", 0x40001C, 32, [],
    [⟨8, 6, .ro, 0⟩, ⟨0, 8, .ro, 0⟩]⟩,
  ⟨"PWR_DROOP_CFG", 0x400020, 32, [],
    [⟨8, 3, .rwl, 4⟩, ⟨0, 8, .rwl, 34⟩]⟩,
  ⟨"PWR_STATREC", 0x400028, 64, [],
    [⟨0, 48, .rw, 0⟩]⟩,
  ⟨"PWR_THROTCNT", 0x400030, 32, [],
    [⟨0, 32, .rw, 0⟩]⟩,
  ⟨"PWR_PHASEp", 0x401000, 64, [(256, 0x8)],
    [⟨32, 16, .ro, 0⟩, ⟨24, 8, .ro, 0⟩, ⟨0, 16, .ro, 0⟩]⟩]

/-- Registers of power. -/
def regsPwr1 : List RegDesc := [
  ⟨"PWR_OPPi", 0x402000, 64, [(4, 0x8)],
    [⟨32, 12, .ro, 0⟩, ⟨16, 12, .ro, 0⟩, ⟨0, 12, .ro, 0⟩]⟩]

/-- Registers of module memory and Palette. -/
def regsMem0 : List RegDesc := [
  ⟨"MEM_CFG", 0x500000, 32, [],
    [⟨8, 4, .ro, 0⟩, ⟨0, 1, .ro, 0⟩]⟩,
  ⟨"MEM_RETRAIN_CFG", 0x500004, 32, [],
    [⟨0, 16, .rwl, 256⟩]⟩,
  ⟨"MEM_PALFL_CTL", 0x500100, 32, [],
    [⟨5, 1, .w1c, 0⟩, ⟨4, 1, .ro, 0⟩, ⟨3, 1, .wo, 0⟩, ⟨2, 1, .rw, 0⟩, ⟨0, 2, .rw, 0⟩]⟩,
  ⟨"MEM_PALFL_BASE", 0x500108, 64, [],
    [⟨0, 48, .rw, 0⟩]⟩,
  ⟨"MEM_PALFL_LEN", 0x500110, 64, [],
    [⟨0, 42, .rw, 0⟩]⟩,
  ⟨"MEM_PALf_WAYS", 0x501000, 32, [(64, 0x10)],
    [⟨16, 16, .rw, 32768⟩, ⟨0, 16, .rw, 0⟩]⟩,
  ⟨"MEM_PALf_HITCNT", 0x501004, 32, [(64, 0x10)],
    [⟨0, 32, .rw, 0⟩]⟩,
  ⟨"MEM_PALf_MISSCNT", 0x501008, 32, [(64, 0x10)],
    [⟨0, 32, .rw, 0⟩]⟩,
  ⟨"MEM_PALf_ECCCNT", 0x50100C, 32, [(64, 0x10)],
    [⟨16, 16, .rw, 0⟩, ⟨0, 16, .rw, 0⟩]⟩,
  ⟨"MEM_CHc_MAP", 0x502000, 32, [(128, 0x10)],
    [⟨8, 3, .ro, 0⟩, ⟨0, 8, .ro, 0⟩]⟩,
  ⟨"MEM_CHc_CRCCNT", 0x502004, 32, [(128, 0x10)],
    [⟨16, 16, .rw, 0⟩, ⟨0, 16, .rw, 0⟩]⟩,
  ⟨"MEM_GRPm_SPARE", 0x503000, 32, [(8, 0x10)],
    [⟨8, 1, .ro, 0⟩, ⟨0, 8, .ro, 0⟩]⟩]

/-- Registers of module memory and Palette. -/
def regsMem1 : List RegDesc := [
  ⟨"MEM_REPAIR_POL", 0x503100, 32, [],
    [⟨31, 1, .rw, 1⟩, ⟨16, 8, .rw, 60⟩, ⟨0, 16, .rw, 1024⟩]⟩,
  ⟨"MEM_REPAIR_CTL", 0x503104, 32, [],
    [⟨31, 1, .wo, 0⟩, ⟨0, 7, .rw, 0⟩]⟩,
  ⟨"MEM_REPAIR_STAT", 0x503108, 32, [],
    [⟨31, 1, .ro, 0⟩, ⟨30, 1, .w1c, 0⟩, ⟨29, 1, .w1c, 0⟩, ⟨28, 1, .w1c, 0⟩, ⟨27, 1, .w1c, 0⟩, ⟨16, 8, .ro, 0⟩, ⟨0, 7, .ro, 0⟩]⟩,
  ⟨"MEM_ERRADDR", 0x503200, 64, [],
    [⟨63, 1, .w1c, 0⟩, ⟨56, 7, .ro, 0⟩, ⟨0, 48, .ro, 0⟩]⟩]

/-- Registers of the Weft links. -/
def regsLnk : List RegDesc := [
  ⟨"LNK_MODID", 0x600000, 32, [],
    [⟨16, 3, .ro, 0⟩, ⟨0, 16, .rwl, 0⟩]⟩,
  ⟨"LNK_FABRIC", 0x600004, 32, [],
    [⟨8, 5, .rwl, 0⟩, ⟨4, 4, .rwl, 0⟩, ⟨0, 4, .rwl, 0⟩]⟩,
  ⟨"LNK_KADD", 0x600008, 64, [],
    [⟨32, 32, .wo, 0⟩, ⟨16, 14, .wo, 0⟩, ⟨0, 16, .wo, 0⟩]⟩,
  ⟨"LNK_ERRLOG", 0x600010, 64, [],
    [⟨63, 1, .w1c, 0⟩, ⟨48, 8, .ro, 0⟩, ⟨44, 4, .ro, 0⟩, ⟨40, 4, .ro, 0⟩, ⟨0, 16, .ro, 0⟩]⟩,
  ⟨"LNK_PORTp_CFG", 0x601000, 32, [(16, 0x40)],
    [⟨16, 16, .rwl, 0⟩, ⟨4, 4, .rwl, 0⟩, ⟨0, 4, .rwl, 0⟩]⟩,
  ⟨"LNK_PORTp_STAT", 0x601004, 32, [(16, 0x40)],
    [⟨19, 1, .ro, 0⟩, ⟨18, 1, .w1c, 0⟩, ⟨17, 1, .w1c, 0⟩, ⟨16, 1, .w1c, 0⟩, ⟨8, 5, .ro, 0⟩, ⟨0, 3, .ro, 0⟩]⟩,
  ⟨"LNK_PORTp_CTL", 0x601008, 32, [(16, 0x40)],
    [⟨1, 1, .rw, 0⟩, ⟨0, 1, .wo, 0⟩]⟩,
  ⟨"LNK_PORTp_PEER", 0x60100C, 32, [(16, 0x40)],
    [⟨16, 4, .ro, 0⟩, ⟨0, 16, .ro, 0⟩]⟩,
  ⟨"LNK_PORTp_FECCNT", 0x601010, 32, [(16, 0x40)],
    [⟨0, 32, .rw, 0⟩]⟩,
  ⟨"LNK_PORTp_CRCCNT", 0x601014, 32, [(16, 0x40)],
    [⟨24, 8, .rw, 0⟩, ⟨12, 12, .rw, 0⟩, ⟨0, 12, .rw, 0⟩]⟩,
  ⟨"LNK_PORTp_REPLAYCNT", 0x601018, 32, [(16, 0x40)],
    [⟨0, 32, .rw, 0⟩]⟩,
  ⟨"LNK_MGRPg", 0x602000, 64, [(256, 0x8)],
    [⟨32, 16, .rw, 0⟩, ⟨17, 1, .rw, 0⟩, ⟨16, 1, .rw, 0⟩, ⟨0, 16, .rw, 0⟩]⟩]

/-- Registers of the Ply units and the step. -/
def regsPly0 : List RegDesc := [
  ⟨"PLY_STEP", 0x700000, 64, [],
    [⟨36, 3, .ro, 0⟩, ⟨32, 4, .ro, 0⟩, ⟨0, 32, .ro, 0⟩]⟩,
  ⟨"PLY_STEPCFG", 0x700008, 64, [],
    [⟨48, 16, .rw, 0⟩, ⟨32, 4, .rw, 3⟩, ⟨0, 30, .rw, 10000000⟩]⟩,
  ⟨"PLY_KBASE", 0x700010, 32, [],
    [⟨0, 14, .rw, 0⟩]⟩,
  ⟨"PLY_ATHR", 0x700014, 32, [],
    [⟨0, 32, .rw, 0⟩]⟩,
  ⟨"PLY_STAT", 0x700018, 32, [],
    [⟨16, 12, .ro, 0⟩, ⟨7, 1, .w1c, 0⟩, ⟨6, 1, .w1c, 0⟩, ⟨5, 1, .w1c, 0⟩, ⟨4, 1, .w1c, 0⟩, ⟨3, 1, .w1c, 0⟩, ⟨2, 1, .w1c, 0⟩, ⟨1, 1, .w1c, 0⟩, ⟨0, 1, .w1c, 0⟩]⟩,
  ⟨"PLY_STALECNT", 0x70001C, 32, [],
    [⟨0, 32, .rw, 0⟩]⟩,
  ⟨"PLY_REPLAYCNT", 0x700020, 32, [],
    [⟨0, 32, .rw, 0⟩]⟩,
  ⟨"PLY_UNITm_STAT", 0x700100, 32, [(8, 0x20)],
    [⟨31, 1, .ro, 0⟩, ⟨0, 22, .ro, 0⟩]⟩,
  ⟨"PLY_UNITm_WHCNT", 0x700104, 32, [(8, 0x20)],
    [⟨0, 32, .rw, 0⟩]⟩,
  ⟨"PLY_UNITm_PIECECNT", 0x700108, 64, [(8, 0x20)],
    [⟨0, 64, .rw, 0⟩]⟩,
  ⟨"PLY_STk_S1", 0x700200, 64, [(16, 0x20)],
    [⟨0, 64, .ro, 0⟩]⟩,
  ⟨"PLY_STk_S2", 0x700208, 64, [(16, 0x20)],
    [⟨0, 64, .ro, 0⟩]⟩]

/-- Registers of the Ply units and the step. -/
def regsPly1 : List RegDesc := [
  ⟨"PLY_STk_PN", 0x700210, 64, [(16, 0x20)],
    [⟨0, 64, .ro, 0⟩]⟩,
  ⟨"PLY_STk_LN", 0x700218, 64, [(16, 0x20)],
    [⟨0, 64, .ro, 0⟩]⟩]

/-- Registers of the host port. -/
def regsHif : List RegDesc := [
  ⟨"HIF_LINK", 0x0, 32, [],
    [⟨4, 4, .ro, 0⟩, ⟨0, 4, .ro, 0⟩]⟩,
  ⟨"HIF_CTL", 0x4, 32, [],
    [⟨0, 1, .rw, 0⟩]⟩,
  ⟨"HIF_BAR2_BASE", 0x8, 64, [],
    [⟨0, 41, .rw, 0⟩]⟩,
  ⟨"HIF_RINGn_BASE", 0x1000, 64, [(64, 0x40)],
    [⟨6, 58, .rw, 0⟩]⟩,
  ⟨"HIF_RINGn_CBASE", 0x1008, 64, [(64, 0x40)],
    [⟨6, 58, .rw, 0⟩]⟩,
  ⟨"HIF_RINGn_CFG", 0x1010, 32, [(64, 0x40)],
    [⟨5, 1, .rw, 0⟩, ⟨4, 1, .rw, 0⟩, ⟨0, 4, .rw, 4⟩]⟩,
  ⟨"HIF_RINGn_IRQ", 0x1014, 32, [(64, 0x40)],
    [⟨16, 16, .rw, 0⟩, ⟨0, 13, .rw, 0⟩]⟩,
  ⟨"HIF_RINGn_STAT", 0x1018, 32, [(64, 0x40)],
    [⟨3, 1, .ro, 0⟩, ⟨2, 1, .ro, 0⟩, ⟨1, 1, .w1c, 0⟩, ⟨0, 1, .ro, 0⟩]⟩,
  ⟨"HIF_RINGn_SQHEAD", 0x101C, 32, [(64, 0x40)],
    [⟨0, 32, .ro, 0⟩]⟩]

/-- Every register of BAR0. -/
def allRegs : List RegDesc :=
  regsFrm0 ++ regsFrm1 ++ regsFrm2 ++ regsFrm3 ++ regsFrm4 ++ regsStu0 ++
  regsStu1 ++ regsInt ++ regsClk ++ regsPwr0 ++ regsPwr1 ++ regsMem0 ++
  regsMem1 ++ regsLnk ++ regsPly0 ++ regsPly1 ++ regsHif

/-- The indices of an offset beyond a register's base, one for each range; none where it is no instance. -/
def dimIndices (o : Nat) (dims : List (Nat × Nat)) : Option (List Nat) :=
  match dims with
  | [] => if o = 0 then some [] else none
  | (n, s) :: r =>
    if o / s < n then (dimIndices (o % s) r).map (fun l => (o / s) :: l) else none

/-- The indices of byte offset `off` in a register table; none where the offset is not one of its instances. -/
def RegDesc.indices (d : RegDesc) (off : Nat) : Option (List Nat) :=
  if d.base ≤ off then dimIndices (off - d.base) d.dims else none

/-- The register of a list at byte offset `off`, with its indices. -/
def findRegIn (l : List RegDesc) (off : Nat) : Option (RegDesc × List Nat) :=
  match l with
  | [] => none
  | d :: r =>
    match d.indices off with
    | some ix => some (d, ix)
    | none => findRegIn r off

/-- The register at byte offset `off` of BAR0. -/
def findReg (off : Nat) : Option (RegDesc × List Nat) := findRegIn allRegs off

end Sys2Proof.Machine
end

