-- ==== Sys2Proof/Machine/Sparse.lean ====
section
/-! DEFINITION. Reading and writing sparse data (`Sparse`) in its one canonical form: keys strictly rising, and no
entry equal to the default `d` that an unlisted key reads as. -/
namespace Sys2Proof.Machine

/-- The value at key `k`; the default `d` where nothing is listed. -/
def sget {α : Type} (d : α) (m : Sparse α) (k : Nat) : α :=
  match m with
  | [] => d
  | (k', v) :: r => if k' = k then v else sget d r k

/-- Take out every entry at key `k`. -/
def sdel {α : Type} (k : Nat) (m : Sparse α) : Sparse α :=
  match m with
  | [] => []
  | (k', v) :: r => if k' = k then sdel k r else (k', v) :: sdel k r

/-- Insert an entry at its place among rising keys. -/
def sins {α : Type} (k : Nat) (v : α) (m : Sparse α) : Sparse α :=
  match m with
  | [] => [(k, v)]
  | (k', v') :: r => if k < k' then (k, v) :: (k', v') :: r else (k', v') :: sins k v r

/-- Write `v` at key `k`: an entry equal to the default is not listed. -/
def sput {α : Type} [DecidableEq α] (d : α) (m : Sparse α) (k : Nat) (v : α) : Sparse α :=
  if v = d then sdel k m else sins k v (sdel k m)

/-- Write the values `vs` at `k`, `k + 1`, … in order. -/
def sputList {α : Type} [DecidableEq α] (d : α) (m : Sparse α) (k : Nat) (vs : List α) : Sparse α :=
  match vs with
  | [] => m
  | v :: r => sputList d (sput d m k v) (k + 1) r

/-- The values at `k`, …, `k + n - 1`. -/
def sgetList {α : Type} (d : α) (m : Sparse α) (k n : Nat) : List α :=
  match n with
  | 0 => []
  | n' + 1 => sget d m k :: sgetList d m (k + 1) n'

/-- Return every key from `lo` on, `len` of them, to the default. -/
def sclear {α : Type} (m : Sparse α) (lo len : Nat) : Sparse α :=
  match m with
  | [] => []
  | (k, v) :: r => if lo ≤ k ∧ k < lo + len then sclear r lo len else (k, v) :: sclear r lo len

/-- Change every listed value: what becomes the default is no longer listed. -/
def smap {α : Type} [DecidableEq α] (d : α) (g : α → α) (m : Sparse α) : Sparse α :=
  match m with
  | [] => []
  | (k, v) :: r => if g v = d then smap d g r else (k, g v) :: smap d g r

/-- Every key of the sparse data exceeds `b`. -/
def sabove {α : Type} (b : Nat) (m : Sparse α) : Bool :=
  match m with
  | [] => true
  | (k, _) :: r => decide (b < k) && sabove b r

/-- The canonical form: keys strictly rising and no entry equal to the default. -/
def scanon {α : Type} [DecidableEq α] (d : α) (m : Sparse α) : Bool :=
  match m with
  | [] => true
  | (k, v) :: r => sabove k r && decide (v ≠ d) && scanon d r

end Sys2Proof.Machine
end

