-- ==== Sys2Proof/Machine/State.lean ====
section
/-! DEFINITION. The state of the block: every register, memory, buffer, queue, counter, mode and pin the spec gives the
module, and the queue of commands that wait. Plain data throughout; `Sparse` data lists only what differs from its
default. -/
namespace Sys2Proof.Machine

/-- Why the model stops with a fault. -/
inductive Fault where
  /-- A command whose operands are not of the shape its row has (`Instr.wf`): a flit that is not 512 bytes long, a
  block write that is not 64 bytes long. Raised by the meanings of those rows; safe: no hardware step has such
  operands. -/
  | illFormed
  deriving DecidableEq, Repr

/-- Why the model refuses a command. -/
inductive Refusal where
  /-- The command of this mnemonic has no meaning yet. Raised by the dispatch; safe. -/
  | notModelled (mnemonic : String)
  deriving DecidableEq, Repr

/-! ## Frame cores and queues (06, 10) -/

/-- What a Frame core holds beside its registers FRM_COREc_STATE and FRM_COREc_PC (R134, R237): g1 to g31, sb0 to sb15,
its CORE_ENTRY, what it waits for and since when (R138, R149), its wake latch (R152), its local data SRAM and the
lines of its instruction cache (line address, 256 bytes), newest first, and the register that a KREAD of another Frame's Knot will
write when its answer has come back (R247). -/
structure CoreSt where
  g      : Sparse W64
  sb     : Sparse W64
  entry  : Nat
  waitOn : Nat
  thresh : Nat
  since  : Nat
  wake   : Bool
  ram    : Sparse Byte
  icache : List (Nat × List Byte)
  kread  : Option Nat
  deriving DecidableEq, Repr

def CoreSt.empty : CoreSt := ⟨[], [], 0, 0, 0, 0, false, [], [], none⟩

/-- An engine queue (R135): the words waiting, oldest first, and the words executed whose completion is outstanding. -/
structure QueueSt where
  words : List Nat
  ran   : List Nat
  deriving DecidableEq, Repr

def QueueSt.empty : QueueSt := ⟨[], []⟩

/-! ## Palette and LPDDR (08) -/

/-- A line of a cache way (R195): its granule number, dirty mark and 256 bytes; invalid lines are not listed. -/
structure Line where
  valid : Bool
  gran  : Nat
  dirty : Bool
  data  : List Byte
  deriving DecidableEq, Repr

def Line.invalid : Line := ⟨false, 0, false, []⟩

/-- An outstanding miss of a slice (R195): the granule being fetched and the requests that wait on it, oldest first. -/
structure Miss where
  gran : Nat
  wait : List Access
  deriving DecidableEq, Repr

/-- The reply a slice gave last: address, bytes, and whether it was an error. -/
structure SliceReply where
  addr : Nat
  data : List Byte
  err  : Bool
  deriving DecidableEq, Repr

/-- A cache maintenance operation that runs (R199): its OP, its range where it has one, and the host command (ring,
count) that started it, if a FLUSH did. -/
structure FlushSt where
  op    : Nat
  range : Option (Nat × Nat)
  host  : Option (Nat × Nat)
  deriving DecidableEq, Repr

/-- A repair that runs in a group (R209): the logical channel and the next granule of it to copy. -/
structure Repair where
  lch  : Nat
  next : Nat
  deriving DecidableEq, Repr

/-! ## Errors (17) -/

/-- An error record (Table 17-2), with the mark whether the host has read it (R391). -/
structure ErrRec where
  seq     : Nat
  stamp   : Nat
  sev     : Nat
  unit    : Nat
  cause   : Nat
  job     : Nat
  step    : Nat
  attempt : Nat
  task    : Nat
  index   : Nat
  addr    : Nat
  d0      : Nat
  d1      : Nat
  count   : Nat
  prior   : Bool
  read    : Bool
  deriving DecidableEq, Repr

/-- A task abort under way (R393, R394): the task, the SEQ of the causing record, when it began, and the further errors
counted. -/
structure AbortSt where
  task  : Nat
  seq   : Nat
  since : Nat
  more  : Nat
  deriving DecidableEq, Repr

/-! ## Events (15) -/

/-- A claimed source (R355): its number, the target that claimed it, and whether its level has dropped since. -/
structure ActiveSrc where
  src     : Nat
  target  : Nat
  dropped : Bool
  deriving DecidableEq, Repr

/-- An MSI-X message that has been sent (R359): its vector, and the address and data that BAR4 gave the vector. -/
structure Msix where
  vec  : Nat
  addr : Nat
  data : Nat
  deriving DecidableEq, Repr

/-! ## Clocks (09) -/

/-- A clock region (R231, R232): its counter in units of 2^-32 tick, the correction still to be spread (in the same
units, added over the ticks `spread` that remain), whether it holds until the master reaches it, the periods that a stretch still
governs (its edges, and the full period after them, R224), and the part of a generator period carried between ticks (in
1/1,024,000,000). -/
structure RegionSt where
  cnt    : Nat
  corr   : Int
  spread : Nat
  hold   : Bool
  skip   : Nat
  frac   : Nat
  deriving DecidableEq, Repr

def RegionSt.empty : RegionSt := ⟨0, 0, 0, false, 0, 0⟩

/-- A frequency change accepted and not yet restarted (R226): target in MHz, apply time in ticks, whether the Frames are
stopped, whether it moves to the backup tree (R229) or back to the primary (R230). -/
structure FreqChange where
  mhz     : Nat
  at_     : Nat
  stopped : Bool
  backup  : Bool
  restore : Bool
  deriving DecidableEq, Repr

/-- A generator's reference (R228, R230): since when its primary reference has been absent, since when present, and since
when it is in holdover. -/
structure GenSt where
  lost     : Bool
  presentT : Nat
  holdT    : Nat
  deriving DecidableEq, Repr

def GenSt.empty : GenSt := ⟨false, 0, 0⟩

/-! ## The host port (15) -/

/-- A host command that is fetched (R345): its count k on the ring, its 64 bytes, whether it has started, the progress of
a COPY in bytes, its result once it has one (status, detail), and since when a COPY's read of host memory waits for its completion (R341). -/
structure HostCmd where
  k      : Nat
  bytes  : List Byte
  start  : Bool
  moved  : Nat
  result : Option (Nat × Nat)
  readT  : Option Nat
  deriving DecidableEq, Repr

/-- A host ring (R343, R344): the last accepted SQ_TAIL and CQ_HEAD, the completion entries written, the commands fetched
and not completed, commands fetched whose completion slot is not freed, when the fetch under way was issued, whether the
ring is stopped by an error, the write times of the unconsumed completions (oldest first), and a disable that waits. -/
structure HostRing where
  tail    : Nat
  head    : Nat
  cqHead  : Nat
  written : Nat
  cmds    : List HostCmd
  used    : Nat
  fetchT  : Option Nat
  stopped : Bool
  times   : List Nat
  closing : Bool
  deriving DecidableEq, Repr

def HostRing.empty : HostRing := ⟨0, 0, 0, 0, [], 0, none, false, [], false⟩

/-! ## Weft ports (11) -/

/-- Who waits for the answer of a request that left through a port (R278, R287). -/
inductive Origin where
  | shuttle (f j : Nat)
  | knot
  | snap
  deriving DecidableEq, Repr

/-- A request sent and not answered (R278): type, destination, address, who asked. -/
structure PendReq where
  typ  : Nat
  dest : Nat
  addr : Nat
  who  : Origin
  deriving DecidableEq, Repr

/-- A request that has come in by a port and is delivered on this module, with its answer once it has one: answers go back in the order
of a source's requests (R276). Beside it the parts of it that are still to be answered (R279), the bytes they have brought, the REJECT
cause of one that failed, and when it came (R341). -/
structure InReq where
  req : Record
  ans : Option Record
  due : Nat
  got : Sparse Byte
  bad : Option Nat
  t   : Nat
  deriving DecidableEq, Repr

/-- A Weft port (R267 to R271, R287): next sequence number to send, flits kept for replay (sequence number, bytes), the
streams that wait to become flits by virtual channel, credits held, next expected sequence number, streams received by
virtual channel, credits owed, whether it discards until the expected flit comes and since when the last NAK was sent,
when a flit was last newly acknowledged, requests unanswered in the order sent, flits sent in the port's latest step,
whether a failed peer check has been reported since the last time up or clearing, since when it is down, onto how many lanes its
lanes retrain, since when STAT.RETRY is set, the requests taken in and not answered, oldest first, the lanes that carry traffic, the
idle flits whose credits may still be lost (the sequence number folded into each, and its CRED), and when the latest body was accepted,
in the corrected time of the port's region. -/
structure PortSt where
  txSeq   : Nat
  replay  : List (Nat × List Byte)
  out     : Sparse (List Byte)
  credit  : Sparse Nat
  rxSeq   : Nat
  rx      : Sparse (List Byte)
  owe     : Sparse Nat
  discard : Bool
  nakT    : Nat
  ackT    : Nat
  reqs    : List PendReq
  sent    : List (List Byte)
  toldErr : Bool
  downT   : Nat
  retrain : Option Nat
  retryT  : Nat
  inb     : List InReq
  lanes   : List Nat
  idle    : List (Nat × Nat)
  rxT     : Nat
  deriving DecidableEq, Repr

/-- A port with its sequence numbers at 0 and every credit held (R275, R287); `credit` lists credits used. -/
def PortSt.empty : PortSt := ⟨0, [], [], [], 0, [], [], false, 0, 0, [], [], false, 0, none, 0, [], [], [], 0⟩

/-- A multicast write whose members have not all acknowledged (R283): group, queue that wrote it, answers still due, the modules that
have answered, its address. -/
structure McastSt where
  group : Nat
  who   : Origin
  due   : Nat
  acked : List Nat
  addr  : Nat
  deriving DecidableEq, Repr

/-! ## The Ply units and the step (12) -/

/-- A shard of the directory (Table 12-1): the modules and extents in rank order among its fields. -/
structure Shard where
  id     : Nat
  sclass : Nat
  gtype  : Nat
  nelem  : Nat
  ranks  : List (Nat × Nat)
  vbase0 : Nat
  vbase1 : Nat
  gofs   : Nat
  abase  : Nat
  lbase  : Nat
  grad   : Nat
  donek  : Nat
  deriving DecidableEq, Repr

/-- A piece (R292): shard, line, rank, step modulo 4,096, attempt, values. -/
structure Piece where
  shard : Nat
  line  : Nat
  rank  : Nat
  step  : Nat
  att   : Nat
  vals  : List W32
  deriving DecidableEq, Repr

/-- An ACC record held back for want of a reorder slot (R295): the port it came by (none: the loopback buffer, with the
Shuttle queue that sent it), what of the record is still to be handled, and its bytes, which stay in the receive buffer until it is. -/
structure Withheld where
  port : Option Nat
  who  : Origin
  record : Record
  rx   : List Byte
  deriving DecidableEq, Repr

/-- The statistics of a class (R297): S1 and S2 exact, PN, LN. -/
structure StatSt where
  s1 : Val
  s2 : Val
  pn : Nat
  ln : Nat
  deriving DecidableEq, Repr

def StatSt.empty : StatSt := ⟨.zero, .zero, 0, 0⟩

/-- The step protocol's own memory (R302 to R305): when RUN, QUIESCE or HELD was entered, the root's decision for the
attempt, when CREP was sent, the counts of CCOM, CREP and CRES already acted on, a GO held back by a snapshot
(R321), and a failure found after arrival that the next step is charged with (R302). -/
structure StepSt where
  runT    : Nat
  heldT   : Nat
  decided : Bool
  crepT   : Option Nat
  ccom    : Nat
  crep    : Nat
  cres    : Nat
  goHeld  : Bool
  owed    : Bool
  deriving DecidableEq, Repr

def StepSt.empty : StepSt := ⟨0, 0, false, none, 0, 0, 0, false, false⟩

/-- A snapshot that is being delivered (R321): the host command that asked for it, the version it shows, and whether a
record of it has been rejected. -/
structure SnapSt where
  ring    : Nat
  k       : Nat
  version : Nat
  failed  : Bool
  deriving DecidableEq, Repr

/-- Registers as the regions have latched them at a boundary (R399): those of each region that has, and those of the others. -/
structure Latch where
  regions : List (Nat × Sparse Nat)
  rest    : Sparse Nat
  deriving DecidableEq, Repr

/-- Telemetry that runs (R399, R400): the address of the window ring, the window length in ticks, the number of the next
boundary, what the regions have latched at it, what was latched at the last one (none before the first), records written, windows skipped, the
lowest and highest frequency since the last boundary, the governor's measurements since then (sums of IN_W and DIE_W, their
number, the highest TJ), whether a counter was written since then, and the commits and Glaze switches up to it. -/
structure TelemSt where
  addr     : Nat
  period   : Nat
  next     : Nat
  latch    : List (Nat × Sparse Nat)
  base     : Option Latch
  seq      : Nat
  lost     : Nat
  mhzMin   : Nat
  mhzMax   : Nat
  inSum    : Nat
  dieSum   : Nat
  samples  : Nat
  tjMax    : Nat
  written  : Bool
  commits  : Nat
  switches : Nat
  deriving DecidableEq, Repr

/-- The power governor and the fast limiter (14): the numbers of the last 10 µs sample, 100 µs interval, 1 ms window and COOL_ID
sample; the user cap in force (R324) and whether a change of COOL_ID has fixed the cap (R323); bad windows in a row (R334);
f_therm and f_droop, and when the last interval with too much stretching ended (R332, R333); over the current interval: edges
suppressed by each Frame, clock of the generators, clock less held cycles (times 16), ticks, whether a frequency stop or a
held cycle fell in it; what limited the target in force (as REASON); phases whose tokens have proved too small (R327). -/
structure GovSt where
  fastK   : Nat
  govK    : Nat
  winK    : Nat
  coolK   : Nat
  userCap : Nat
  forced  : Bool
  badWin  : Nat
  fTherm  : Nat
  fDroop  : Nat
  droopK  : Nat
  edges   : Sparse Nat
  clkSum  : Nat
  effSum  : Nat
  ticks   : Nat
  stop    : Bool
  held    : Bool
  limits  : Nat
  small   : Sparse Bool
  deriving DecidableEq, Repr

def GovSt.empty : GovSt := ⟨0, 0, 0, 0, 0, false, 0, 2250, 2250, 0, [], 0, 0, 0, false, false, 0, []⟩

/-! ## Boot and trust (16) -/

/-- An image (R366): its header of 352 bytes and its body. -/
structure Image where
  hdr  : List Byte
  body : List Byte
  deriving DecidableEq, Repr

def Image.none : Image := ⟨[], []⟩

/-- A flash slot (R369): whether its directory is intact, and its images of types 1 to 7 by type. -/
structure Slot where
  dir  : Bool
  imgs : Sparse Image
  deriving DecidableEq, Repr

def Slot.empty : Slot := ⟨false, []⟩

/-- The flash (R369): slots A and B, the preferred slot (0 A, 1 B), the pending slot, the identity certificates. -/
structure Flash where
  a     : Slot
  b     : Slot
  pref  : Nat
  pend  : Option Nat
  certs : List Byte
  deriving DecidableEq, Repr

/-- The security fuses (Table 16-2): KEYHASH and KEYPURP of slots 0 to 3, REVOKED as a mask, SVNCNT by type, DEVMODE,
UNIQUE. -/
structure Fuses where
  hash    : List (List Byte)
  purp    : List Nat
  revoked : Nat
  svn     : Sparse Nat
  dev     : Bool
  unique  : List Byte
  deriving DecidableEq, Repr

/-- The fuses as the model's module has them (DESIGN CHOICE, assumption 5): slots 0 to 2 hold a hash of 48 bytes 0xFF for the
firmware, factory and deployment purposes, slot 3 is blank, nothing is revoked or counted. -/
def Fuses.fitted : Fuses :=
  ⟨[List.replicate 48 0xFF, List.replicate 48 0xFF, List.replicate 48 0xFF, List.replicate 48 0], [1, 2, 4, 4], 0, [], false,
    List.replicate 48 0⟩

/-- The flash as the model's module has it (DESIGN CHOICE, assumption 5): no directory in either slot, slot A preferred. -/
def Flash.fitted : Flash := ⟨Slot.empty, Slot.empty, 0, none, []⟩

/-- What a boot keeps until the next (R363): whether phase 1 has ended, when the running phase began, the slot that was booted,
whether it is the pending one (R384), measurements 1 to 9 (R381), what phase 3 found bad, and the physical channels that
passed at no rate in phase 4 (R200). -/
structure BootSt where
  done1  : Bool
  phaseT : Nat
  slot   : Option Nat
  staged : Bool
  meas   : List (List Byte)
  cols   : List (Nat × Nat × Nat)
  stores : List (Nat × Nat)
  chans  : List Nat
  deriving DecidableEq, Repr

def BootSt.empty : BootSt := ⟨false, 0, none, false, [], [], [], []⟩

/-- The responder's answers (R379): ERROR with its reason; versions; capabilities; the chosen algorithms; the digests by
slot; bytes of a certificate chain and how many remain; a signature over a challenge with the slot's chain digest; and
measurements by index, signed or not. -/
inductive SpdmReply where
  | busy
  | unsupported (code : Nat)
  | unexpected
  | invalid
  | version (major minor : Nat)
  | capabilities (cert chal meas sessions : Bool)
  | algorithms (sign hash : String)
  | digests (l : List (Nat × List Byte))
  | certificate (d : List Byte) (rest : Nat)
  | challengeAuth (slot : Nat) (digest sig : List Byte)
  | measurements (l : List (Nat × List Byte)) (sig : Option (List Byte))
  deriving DecidableEq, Repr

/-- A transport's connection (R379): how far it has been negotiated (0 not, 1 version, 2 capabilities, 3 algorithms) and its last
answer. -/
structure SpdmSt where
  stage : Nat
  reply : Option SpdmReply
  deriving DecidableEq, Repr

def SpdmSt.empty : SpdmSt := ⟨0, none⟩

/-- An endpoint of the mesh (R213, Table 9-1): the local port of a Frame, which serves its Shuttle, its memory, its Palette slice and its
Knots, or the edge port of a Weft port. -/
inductive MeshEnd where
  | frame (f : Nat)
  | weft (p : Nat)
  deriving DecidableEq, Repr

/-- Who gets the answer to a packet: a Shuttle queue, a core, the sender of a record that came in by a Weft port, or nobody. -/
inductive MeshWho where
  | shuttle (f j : Nat)
  | core (f c : Nat)
  | weft (p : Nat) (rec : Record)
  | none
  deriving DecidableEq, Repr

/-- What a packet carries (R214). Requests: bytes to write at a device-local address; a read; a scatter-add of a value of an element type,
saturating or not (R171), charged to Frame `f`'s counters; a Knot add; a read of a Knot; a record that leaves by a Weft port. Responses:
the bytes of a read, or why it failed (a cause of Table 7-7 and a REJECT cause of Table 11-5); an acknowledgement likewise; the value of
a Knot. -/
inductive MeshOp where
  | write (addr : Nat) (data : List Byte)
  | read (addr len : Nat)
  | add (addr ety : Nat) (sat : Bool) (f : Nat) (v : Val)
  | kadd (knot delta : Nat)
  | kread (knot : Nat)
  | send (rec : Record)
  | data (addr : Nat) (data : List Byte) (err : Option (Nat × Nat))
  | ack (addr : Nat) (err : Option (Nat × Nat))
  | knot (value : Nat)
  deriving DecidableEq, Repr

/-- A packet (R213 to R218): the endpoints it is still to reach, what it carries, who gets the answer, the task it is charged to (0
none), whether its payload is marked uncorrectable (R218), and when it reached the buffer that holds it. -/
structure MeshPkt where
  dsts : List MeshEnd
  op   : MeshOp
  who  : MeshWho
  task : Nat
  bad  : Bool
  t    : Nat
  deriving DecidableEq, Repr

/-- The grants of a Frame's Shuttle (R158): the queue granted last at each priority. -/
structure GrantSt where
  last0 : Nat
  last1 : Nat
  deriving DecidableEq, Repr

def GrantSt.empty : GrantSt := ⟨15, 15⟩

/-- The job that is loaded (R349, R255): host identifier, modules, first step, steps to run, replicas, own rank, ring and
count of its JOB_POST, module ids in rank order, tasks, seed, the last committed step, job values, the range granted, its
Glazes by their entries, REQ_KNOT, ACK_KNOT and REQ_ADDR (Table 16-7), the step's starting Glaze (R378) and the number k of
the next switch (R377; 0 after a refusal, until a commit or replay starts k afresh), and the way assignment of every slice that its
header replaced (R189; none where it kept it). -/
structure JobSt where
  loaded : Bool
  id     : Nat
  nmod   : Nat
  first  : Nat
  nstep  : Nat
  nrep   : Nat
  rank   : Nat
  ring   : Nat
  k      : Nat
  ranks  : List Nat
  ntask  : Nat
  seed   : Nat
  last   : Nat
  vals   : List Nat
  grant  : Nat × Nat
  glazes : List (List Nat)
  reqK   : Nat
  ackK   : Nat
  reqA   : Nat
  startG : Nat
  nextG  : Nat
  ways   : List Nat
  deriving DecidableEq, Repr

def JobSt.none : JobSt := ⟨false, 0, 0, 0, 0, 0, 0, 0, 0, [], 0, 0, 0, [], (0, 0), [], 0, 0, 0, 0, 1, []⟩

/-! ## The Shuttle (07) -/

/-- An element on its way to an engine: its code, block scale byte and tensor scale, the element and scale types, the cut
CHUNK64, and whether it ends a row (R177, R178). -/
structure SElem where
  code : Nat
  sc   : Nat
  ts   : W32
  ety  : Nat
  sty  : Nat
  c64  : Bool
  row  : Bool
  deriving DecidableEq, Repr

/-- An element an engine puts out: an FP32 word, or an INT32 one, with its block's retry count, SAT flag and, where a drained
block's sums are still to be multiplied by their tensor scales, that factor (R30, R33, R39, R47, R172). -/
structure EElem where
  v     : W32
  isInt : Bool := false
  n     : Nat := 0
  sat   : Bool := false
  fac   : Option W32 := none
  deriving DecidableEq, Repr

/-- An FP32 word that an engine puts out. -/
def EElem.word (v : W32) : EElem := { v := v }

/-- An item of an SXFER (R156): the word, the item's number in it, its read and write descriptors. -/
structure ItemSt where
  word : Nat
  num  : Nat
  rd   : List Byte
  wr   : List Byte
  deriving DecidableEq, Repr

/-- A request of a Shuttle queue to another unit or module that is not answered: its place (module and address), its length (0 a write),
when it was issued, and whether the limit of R185 covers it. -/
structure ShReq where
  key   : Nat
  len   : Nat
  t     : Nat
  timed : Bool
  deriving DecidableEq, Repr

/-- A Shuttle queue (R155 to R185): the word executing, its next item, descriptors fetched of its list, fetched ones not
started, the active item and its next element, the streams to and from an engine, the items kept for a re-run (R180),
when the oldest unanswered request to a memory that answers it directly was issued, when the descriptor fetch that waits was, the
writes not acknowledged, whether a request issued before a cancel is outstanding, bytes that reads over the mesh have brought (by
place), those reads outstanding, the elements of the first kept item that earlier commands have taken, and the words whose reads are
done and whose elements no engine has wholly accepted (R182), oldest first, each with where its elements end in the stream. -/
structure ShutSt where
  word    : Option Nat
  item    : Nat
  fetched : Nat
  descs   : List (List Byte)
  act     : Option ItemSt
  pos     : Nat
  toEng   : List SElem
  fromEng : List EElem
  kept    : List ItemSt
  reqT    : Option Nat
  batT    : Option Nat
  unacked : List ShReq
  late    : Bool
  rbuf    : Sparse (Option Byte)
  asked   : List ShReq
  skip    : Nat
  behind  : List (Nat × Nat)
  deriving DecidableEq, Repr

def ShutSt.empty : ShutSt := ⟨none, 0, 0, [], none, 0, [], [], [], none, none, [], false, [], [], 0, []⟩

/-! ## The Twist rings (04) -/

/-- A beat (Table 4-2): KIND (0 operand, 1 partial, 2 mark), SID, PART, SEQ, REDO, N, OVF, its 256 bytes, and when it
reached the stage that holds it. -/
structure Beat where
  kind : Nat
  sid  : Nat
  part : Nat
  seq  : Nat
  redo : Bool
  n    : Nat
  ovf  : Bool
  data : List Byte
  t    : Nat
  deriving DecidableEq, Repr

/-- The notices of Table 4-4. -/
inductive NoticeKind where
  | redoReq | retry | confirm
  deriving DecidableEq, Repr

/-- A notice on the return channel (R85), and when it reached the stage that holds it. -/
structure Notice where
  kind : NoticeKind
  sid  : Nat
  part : Nat
  seq  : Nat
  n    : Nat
  t    : Nat
  deriving DecidableEq, Repr

/-- A run the injector keeps (R180): its SID, PART and SEQ, the queue and the item that formed it. -/
structure RunRec where
  sid  : Nat
  part : Nat
  seq  : Nat
  j    : Nat
  item : ItemSt
  deriving DecidableEq, Repr

/-- A request for a re-send (R102). -/
structure RedoRec where
  sid  : Nat
  part : Nat
  seq  : Nat
  n    : Nat
  deriving DecidableEq, Repr

/-- The injector of a Frame on a ring (R88, R179, R180): beats of the run it is sending, the last 64 runs (newest first),
run counts by 256 SID + PART, re-sends due. -/
structure InjSt where
  run  : List Beat
  kept : List RunRec
  seqs : Sparse Nat
  redo : List RedoRec
  deriving DecidableEq, Repr

def InjSt.empty : InjSt := ⟨[], [], [], []⟩

/-- A slot's port on a ring (R83, R92, R95, R97, R103): its buffer of 4 beats, the mark and beats of the run that the current pass
has taken out of it, the INIT = RING blocks that have landed whole (their OVF marks, oldest first), entries of the block landing
and its OVF mark, runs of INIT = RING counted and OUT = RING passes sent since the Glaze switch, the partial beats that wait to
leave, the re-run block in the fourth region with its OVF mark, and of the block that landed last ACC_BASE, M and the entries its
beats brought. -/
structure RingPort where
  buf    : List Beat
  run    : List Beat
  full   : List Bool
  got    : Nat
  ovf    : Bool
  inSeq  : Nat
  outSeq : Nat
  out    : List Beat
  reland : List W32
  reovf  : Bool
  past   : Option (Nat × Nat × Nat)
  deriving DecidableEq, Repr

def RingPort.empty : RingPort := ⟨[], [], [], 0, false, 0, 0, [], [], false, none⟩

/-! ## The Spindles (03) -/

/-- A chunk of a streamed operand (R50, R178): its element codes, block scale bytes and tensor scale. -/
structure Chunk where
  codes : List Nat
  scs   : List Nat
  ts    : W32
  deriving DecidableEq, Repr

/-- A tile handle's record (R67). -/
structure TileRec where
  k      : Nat
  n      : Nat
  ety    : Nat
  sty    : Nat
  sdim   : Nat
  frozen : Bool
  bofs   : Nat
  sofs   : Nat
  ts     : W32
  deriving DecidableEq, Repr

/-- An output block begun at a region (R55, R67): tokens, width, two-level, integer, the tensor scales' product (R30), its
retry count (R47) and its SAT flag (R33). -/
structure BlockRec where
  t     : Nat
  m     : Nat
  two   : Bool
  isInt : Bool
  fac   : Option W32
  n     : Nat
  sat   : Bool
  deriving DecidableEq, Repr

/-- A pass that overflowed in RETRY mode and re-runs (R45, R46): the number of the re-run, the sub-tile of a weight pass,
the original delivery, the run's U0 and SEQ, and whether an earlier sub-tile kept an overflow, ran out of retries, or
clamped. -/
structure RetrySt where
  n    : Nat
  sub  : Nat
  orig : List Chunk
  u0   : Nat
  seq  : Nat
  inf  : Bool
  exh  : Bool
  sat  : Bool
  deriving DecidableEq, Repr

/-- A pass of a reduce segment in RETRY mode that no CONFIRM has made final (R103): its word, block SEQ, latest retry
number, the re-run that is due, the starting values of the head's checkpoint, the items (with the elements of the first to
pass over) or the run its operand came from, the selector it sampled, and the tile of each member as it was. -/
structure OpenPass where
  word  : Nat
  seq   : Nat
  n     : Nat
  due   : Option Nat
  ckpt  : List W32
  items : List ItemSt
  skip  : Nat
  run   : Nat
  sel   : Nat
  tile  : List TileRec
  deriving DecidableEq, Repr

/-- A physical Spindle (Table 3-2, R67): stationary buffer, scale store, accumulator file, wide buffer of (sum,
compensation), tile handles, output blocks by region, the selector its current pass sampled (R90), the pass that re-runs,
and passes not yet final. -/
structure SpinSt where
  buf    : Sparse Byte
  scl    : Sparse Byte
  acc    : Sparse W32
  wb     : Sparse Pair
  tiles  : Sparse (Option TileRec)
  blocks : Sparse (Option BlockRec)
  sel    : Option Nat
  retry  : Option RetrySt
  open_  : List OpenPass
  deriving DecidableEq, Repr

def SpinSt.empty : SpinSt := ⟨[], [], [], [], [], [], none, none, []⟩

/-- The register fields that the fuses fix (R325, R385), as `State.regs` lists them: STU_FUSE_KEYS.PROGRAMMED of the fitted
fuses, and the operating points of PWR_OPPi, taken as those of Table 14-2 (PRESUMED, assumption 5; S to the 4,096th
below). -/
def fusedRegs : Sparse Nat :=
  [(64 * 0x100008, 7), (64 * 0x402000, 800), (64 * 0x402000 + 16, 550), (64 * 0x402000 + 32, 609), (64 * 0x402008, 1350),
    (64 * 0x402008 + 16, 600), (64 * 0x402008 + 32, 1170), (64 * 0x402010, 2000), (64 * 0x402010 + 16, 800),
    (64 * 0x402010 + 32, 3120), (64 * 0x402018, 2250), (64 * 0x402018 + 16, 850), (64 * 0x402018 + 32, 4095)]

/-! ## The state -/

/-- The state of the block. -/
structure State where
  /-- Every register of BAR0 by field (`Ref.key`), each value exclusive-or its reset value, so that a field at its reset value is not listed. -/
  regs : Sparse Nat
  /-- The bytes behind device-local addresses: LPDDR, scratchpad (by slice, way and offset), Frame memory, host memory. -/
  mem : Sparse Byte
  /-- The Frame cores, core c of Frame f at 4f + c. -/
  cores : Sparse CoreSt
  /-- The engine queues, queue q of Frame f at 27f + q. -/
  queues : Sparse QueueSt
  /-- LPDDR blocks whose check fails (R204), by address ÷ 64. -/
  bad : Sparse Bool
  /-- Scratchpad words with a double-bit error (R205), by key ÷ 8. -/
  spBad : Sparse Bool
  /-- Scratchpad ways whose contents are undefined (R189): 16 × slice + way, with a fresh number each. -/
  spEpoch : Sparse Nat
  /-- The cache lines: way w of set i of slice f at 2^18 f + 16 i + w. -/
  lines : Sparse Line
  /-- The tree states (R420): set i of slice f at 2^14 f + i. -/
  plru : Sparse Nat
  /-- Outstanding misses of each slice, oldest first (R195). -/
  misses : Sparse (List Miss)
  /-- The reply each slice gave last. -/
  reply : Sparse SliceReply
  /-- Ways of each slice that are leaving the cache role (R189), as a mask. -/
  leaving : Sparse Nat
  /-- The cache maintenance operation that runs (R199). -/
  flush : Option FlushSt
  /-- When each logical channel last began retraining (R207), in ticks. -/
  chT : Sparse Nat
  /-- Times of the corrected re-reads of each logical channel, newest first (R208). -/
  reread : Sparse (List Nat)
  /-- Logical channels whose automatic repair start was refused (R208). -/
  autoTry : Sparse Bool
  /-- Writes that wait in the queue of a logical channel that takes no commands (R207). -/
  chanQ : Sparse Nat
  /-- What the copy and the mirrored writes of the repairs that run have put into the spares, by LPDDR address (R209). -/
  spare : Sparse Byte
  /-- The repairs that run, by group (R209); the default is none. -/
  repairs : Sparse Repair
  /-- Per-bank refreshes issued to each logical channel (R206). -/
  refreshes : Sparse Nat
  /-- The error log, oldest first (R391). -/
  log : List ErrRec
  /-- SEQ of the next record (R388). -/
  nextSeq : Nat
  /-- Task aborts under way (R393). -/
  aborts : List AbortSt
  /-- Claimed event sources (R355). -/
  active : List ActiveSrc
  /-- INT_SRCs_CFG writes that wait for a completion (Table 15-10): the written TARGET and PRIO bits plus one. -/
  defer : Sparse Nat
  /-- The latch that holds an event for a sleeping core, by core (R152, R153, R358). -/
  wakes : Sparse Bool
  /-- Host sources deliverable at the last change (R359), ascending. -/
  ready : List Nat
  /-- MSI-X messages sent, newest first. -/
  msix : List Msix
  /-- BAR4: the message address of each vector. -/
  msixAddr : Sparse Nat
  /-- BAR4: the message data of each vector. -/
  msixData : Sparse Nat
  /-- BAR4: the mask bit of each vector (true where none is listed). -/
  msixMask : Sparse Bool
  /-- BAR4: the pending bit of each vector. -/
  msixPend : Sparse Bool
  /-- What the host's latest read through BAR2 or INT_HOST_CLAIM returned. -/
  hostRead : List Byte
  /-- The host's latest BAR2 read completed with Completer Abort. -/
  hostAbort : Bool
  /-- The time master's count in units of 2^-32 tick (R231). -/
  master : Nat
  /-- How long the master still holds its count (R232, R233), in units of 2^-32 tick. -/
  masterHold : Nat
  /-- Correction of the master still to be spread, in units of 2^-32 tick, over the ticks of `masterSpread`. -/
  masterCorr : Int
  /-- Ticks over which the master's correction is still spread. -/
  masterSpread : Nat
  /-- Ticks of the die reference since PERST_N was released, unaffected by corrections. -/
  source : Nat
  /-- The 72 clock regions. -/
  regions : Sparse RegionSt
  /-- The frequency change under way (R226). -/
  freq : Option FreqChange
  /-- The GO held until it can be accepted (R227). -/
  heldGo : Option Nat
  /-- When the last frequency change restarted, in ticks (R227). -/
  restartT : Option Nat
  /-- The generators' references. -/
  gens : Sparse GenSt
  /-- Router buffers: packets at input port i, virtual channel v of Frame f at 18f + 3i + v, oldest first. -/
  mesh : Sparse (List MeshPkt)
  /-- Packets that a Frame's units have sent and its router has not taken yet, oldest first. -/
  meshOut : Sparse (List MeshPkt)
  /-- The asynchronous FIFO from Weft port p to its edge Frame (R223). -/
  edgeIn : Sparse (List MeshPkt)
  /-- The asynchronous FIFO from an edge Frame to Weft port p (R223). -/
  edgeOut : Sparse (List MeshPkt)
  /-- The asynchronous FIFO from the host port and the Studio to the Frames: register writes by whom, offset and value, oldest first (R223). -/
  ctlIn : List (Agent × Nat × Nat)
  /-- The grants of the Frames' Shuttles (R158). -/
  grants : Sparse GrantSt
  /-- When the last TIME_PPS_IN edge was accepted, in ticks (R412). -/
  ppsT : Option Nat
  /-- Multiples of 1,024,000,000 ticks at which TIME_PPS_OUT has risen. -/
  ppsOut : Nat
  /-- When TIME_PPS_OUT rose last, in ticks: the pin is high for 1 µs from then on. -/
  ppsRise : Option Nat
  /-- The Weft ports. -/
  ports : Sparse PortSt
  /-- Multicast writes not yet acknowledged by all (R283). -/
  mcasts : List McastSt
  /-- The time exchange under way (R285): port and stamp t1. -/
  timeReq : Option (Nat × Nat)
  /-- When the last time exchange was begun, in ticks. -/
  timeT : Nat
  /-- The module runs free: the port to its time parent was down at the last exchange (R285). -/
  freeRun : Bool
  /-- The shard directory (R289). -/
  shards : List Shard
  /-- Pieces held in the reorder stores (R293). -/
  held : List Piece
  /-- Records whose credits are withheld (R295), oldest first. -/
  withheld : List Withheld
  /-- The statistics accumulators of class k (R297): of the current attempt at 2 k, of the step after it at 2 k + 1. -/
  stats : Sparse StatSt
  /-- Completed lines of shard i: of the current attempt at 2 i, of the step after it at 2 i + 1. -/
  lineDone : Sparse Nat
  /-- The version record (R300): the step that a forward gather wrote. -/
  verRec : Sparse (Option Nat)
  /-- The step protocol's own memory. -/
  stepSt : StepSt
  /-- The host command rings (R343). -/
  rings : Sparse HostRing
  /-- The rings of HIF_RINGn_CFG.PRIO 0 and 1 that the host-port engine served last (R347). -/
  engTurn : Nat × Nat
  /-- The size of BAR2 in bytes (Table 15-1). -/
  bar2Size : Nat
  /-- A Function Level Reset in progress: since when (R342). -/
  flr : Option Nat
  /-- The function is in D3hot (R342). -/
  d3 : Bool
  /-- The configuration seal (R9). -/
  sealed : Bool
  /-- THE MODEL'S OWN: a counter that each use of a fresh free value advances. -/
  fresh : Nat
  /-- The loaded job. -/
  job : JobSt
  /-- The fitted module's memory (R1): true for 2 TiB, false for 1 TiB. -/
  fit2T : Bool
  /-- The fitted module's lid (R1): 0 cold plate, 1 immersion, 2 air. -/
  fitLid : Nat
  /-- The Shuttle queues, queue j of Frame f at 16f + j. -/
  shut : Sparse ShutSt
  /-- The ring stages: index i of the S-ring at i, of the Z-ring at 512 + i; oldest beat first. -/
  stages : Sparse (List Beat)
  /-- The return channels, by the stage that holds a notice, numbered as the stages. -/
  notices : Sparse (List Notice)
  /-- The ring ports of the slots, numbered as the stages. -/
  rports : Sparse RingPort
  /-- The injectors: Frame f on the S-ring at f, on the Z-ring at 64 + f. -/
  injs : Sparse InjSt
  /-- The shadowed ring registers (R90) as they are in force, by field, each value exclusive-or its reset value; the registers themselves hold what was written last. -/
  force : Sparse Nat
  /-- The Spindles: physical Spindle n of Frame f at 9f + n. -/
  spins : Sparse SpinSt
  /-- Entries drained from Spindles that a Frame's Brush has not consumed (R139). -/
  brushIn : Sparse (List EElem)
  /-- Rows drained from Spindles that a Frame's Easel has not consumed (R120). -/
  easelIn : Sparse (List (List EElem))
  /-- The Easel statistics stores (R121): word w of handle h of Frame f at 65536 f + 2 h + w. -/
  easelStat : Sparse W32
  /-- The stochastic rounding registers (R40): lane l of Frame f at 2048 f + l; 0 stands for the value of the latest seeding. -/
  lfsr : Sparse Nat
  /-- The seed and step of the latest seeding (R41). -/
  lfsrKey : Nat × Nat
  /-- The error area of the flash (R392): the 16 most recent sets, newest first, with the mark whether a boot has entered them. -/
  errArea : List (List ErrRec × Bool)
  /-- When each Frame posted its current phase tag, in ticks plus one (R326). -/
  phaseT : Sparse Nat
  /-- Since when a Glaze switch waits for the rings to run empty (R90, R104), in ticks. -/
  glazeT : Option Nat
  /-- Ring credits in use on a flex port (R281): ring z of port p at 2 p + z. -/
  flexUsed : Sparse Nat
  /-- The repair log in the flash (R210, R374): logical channel, the physical channel that serves it since, and whether the entry passes its check. -/
  repairLog : List (Nat × Nat × Bool)
  /-- The last multiple of 1,024 ticks, as a number of multiples, at which the master sent a beacon (R232). -/
  beaconK : Nat
  /-- The Glaze switch under way (R377): the Glaze's index and the request word. -/
  glazeReq : Option (Nat × Nat)
  /-- Steps committed since PERST_N was released (R399 reports them by window). -/
  commits : Nat
  /-- Glaze switches made since PERST_N was released (R399 reports them by window). -/
  switches : Nat
  /-- The shape record (R260), 0x440 bytes with OVF_DEFAULT as the last job post wrote it; empty until it is built. -/
  shape : List Byte
  /-- The snapshot being delivered (R321). -/
  snap : Option SnapSt
  /-- Telemetry, while it runs (R399). -/
  telem : Option TelemSt
  /-- The power governor and the fast limiter (R323 to R334). -/
  gov : GovSt
  /-- The security fuses (R365). -/
  fuses : Fuses
  /-- The flash (R369). -/
  flash : Flash
  /-- What the boot keeps (R363). -/
  boot : BootSt
  /-- The SPDM connection over PCIe (R379). -/
  spdmVdm : SpdmSt
  /-- The SPDM connection over SMBus (R379). -/
  spdmBus : SpdmSt
  /-- The 12 V standby input is in range (R414). -/
  standby : Bool
  /-- The power stage (R414, R415): 0 off, 1 starting, 2 up, 3 off until PWR_EN falls and rises again, 4 the same after an input fault
  found while PERST_N was asserted (R405). -/
  pwrStage : Nat
  /-- The module stopped because PWR_EN fell (R416), and PERST_N has not been released with PWR_GOOD high since. -/
  stopHeld : Bool
  /-- The commands that wait, first in, first out. -/
  pending : List Instr
  deriving DecidableEq, Repr

/-- The block right after reset: no supply has risen yet (R418), every register at its reset value, every memory at its
reset contents, no command waiting. -/
def State.reset : State where
  regs := fusedRegs
  mem := []
  cores := []
  queues := []
  bad := []
  spBad := []
  spEpoch := []
  lines := []
  plru := []
  misses := []
  reply := []
  leaving := []
  flush := none
  chT := []
  reread := []
  autoTry := []
  chanQ := []
  spare := []
  repairs := []
  refreshes := []
  log := []
  nextSeq := 0
  aborts := []
  active := []
  defer := []
  wakes := []
  ready := []
  msix := []
  msixAddr := []
  msixData := []
  msixMask := []
  msixPend := []
  hostRead := []
  hostAbort := false
  master := 0
  masterHold := 0
  masterCorr := 0
  masterSpread := 0
  source := 0
  regions := []
  freq := none
  heldGo := none
  restartT := none
  gens := []
  mesh := []
  meshOut := []
  edgeIn := []
  edgeOut := []
  ctlIn := []
  grants := []
  ppsT := none
  ppsOut := 0
  ppsRise := none
  ports := []
  mcasts := []
  timeReq := none
  timeT := 0
  freeRun := false
  shards := []
  held := []
  withheld := []
  stats := []
  lineDone := []
  verRec := []
  stepSt := StepSt.empty
  rings := []
  engTurn := (63, 63)
  bar2Size := 68719476736
  flr := none
  d3 := false
  sealed := false
  fresh := 0
  job := JobSt.none
  fit2T := true
  fitLid := 0
  shut := []
  stages := []
  notices := []
  rports := []
  injs := []
  force := []
  spins := []
  brushIn := []
  easelIn := []
  easelStat := []
  lfsr := []
  lfsrKey := (0, 0)
  errArea := []
  phaseT := []
  glazeT := none
  flexUsed := []
  repairLog := []
  beaconK := 0
  glazeReq := none
  commits := 0
  switches := 0
  shape := []
  snap := none
  telem := none
  gov := GovSt.empty
  fuses := Fuses.fitted
  flash := Flash.fitted
  boot := BootSt.empty
  spdmVdm := SpdmSt.empty
  spdmBus := SpdmSt.empty
  standby := false
  pwrStage := 0
  stopHeld := false
  pending := []

end Sys2Proof.Machine
end

