-- ==== Sys2Proof/Machine/Ops.lean ====
section
/-! DEFINITION. The named operations on registers, counters, time, cores, queues and the error log. -/
namespace Sys2Proof.Machine

/-! ## Registers -/

/-- The value of a register field. -/
def State.get (s : State) (r : Ref) : Nat := sget 0 s.regs r.key ^^^ r.reset

/-- Write a register field; the value is cut to the field's width. -/
def State.put (s : State) (r : Ref) (v : Nat) : State :=
  { s with regs := sput 0 s.regs r.key ((v % 2 ^ r.width) ^^^ r.reset) }

/-- A one-bit field is 1. -/
def State.on (s : State) (r : Ref) : Bool := s.get r = 1

/-- Count `n` events: a counter stops at its maximum (R49, R75). -/
def State.bump (s : State) (r : Ref) (n : Nat) : State := s.put r (min (s.get r + n) (2 ^ r.width - 1))

/-- Telemetry notes the frequency in force (R400). -/
def noteMhz (s : State) : State :=
  let m := s.get Reg.CLK_FREQ_CUR_MHZ
  { s with telem := s.telem.map (fun t => { t with mhzMin := min t.mhzMin m, mhzMax := max t.mhzMax m }) }

/-! ## Time (R231, R234) -/

/-- Ticks to one microsecond. -/
def tickUs : Nat := 1024

/-- Ticks to one millisecond. -/
def tickMs : Nat := 1024000

/-- Ticks to one second. -/
def tickS : Nat := 1024000000

/-- The master's global time in ticks. -/
def State.now (s : State) : Nat := s.master / 4294967296

/-- A clock region. -/
def State.region (s : State) (g : Nat) : RegionSt := sget RegionSt.empty s.regions g

/-- The corrected time of region `g` in ticks: its counter's integer part. -/
def State.timeOf (s : State) (g : Nat) : Nat := (s.region g).cnt / 4294967296

/-- A frequency stop is under way. -/
def freqStopped (s : State) : Bool :=
  match s.freq with
  | some x => x.stopped
  | none => false

/-- Frame `f` has no clock edge now: the module's frequency changes (R226), or a stretch suppresses its edges (R224). -/
def frameStill (s : State) (f : Nat) : Bool := freqStopped s || 1 < (s.region f).skip

/-- What a unit of Frame `f` does, where the Frame has a clock edge: no unit of it advances without (R224, R226). -/
def onClock (s : State) (f : Nat) (op : Host.Outcome State Fault Refusal) : Host.Outcome State Fault Refusal :=
  if frameStill s f then .next s else op

/-! ## Cores and queues -/

/-- The index of core `c` of Frame `f`. -/
def coreKey (f c : Nat) : Nat := 4 * f + c

def State.core (s : State) (f c : Nat) : CoreSt := sget CoreSt.empty s.cores (coreKey f c)

def State.setCore (s : State) (f c : Nat) (x : CoreSt) : State :=
  { s with cores := sput CoreSt.empty s.cores (coreKey f c) x }

/-- A general register; g0 reads 0 (R237). -/
def State.greg (s : State) (f c r : Nat) : W64 := if r = 0 then 0 else sget 0 (s.core f c).g r

/-- Write a general register; a write to g0 is discarded (R237). -/
def State.setGreg (s : State) (f c r : Nat) (v : W64) : State :=
  if r = 0 then s else s.setCore f c { s.core f c with g := sput 0 (s.core f c).g r v }

def State.queue (s : State) (f q : Nat) : QueueSt := sget QueueSt.empty s.queues (27 * f + q)

def State.setQueue (s : State) (f q : Nat) (x : QueueSt) : State :=
  { s with queues := sput QueueSt.empty s.queues (27 * f + q) x }

/-- The task that owns a queue (R246). -/
def State.qTask (s : State) (f q : Nat) : Nat := s.get (Reg.FRM_Qq_TASK_TASK f q)

/-- The task a core runs. -/
def State.cTask (s : State) (f c : Nat) : Nat := s.get (Reg.FRM_COREc_STATE_TASK f c)

/-- The state of a core: 0 halted, 1 running, 2 QWAIT, 3 KWAIT, 4 SLEEP, 5 faulted. -/
def State.cState (s : State) (f c : Nat) : Nat := s.get (Reg.FRM_COREc_STATE_STATE f c)

/-- A fresh number for a free value. -/
def State.tickFresh (s : State) : State := { s with fresh := s.fresh + 1 }

/-! ## The error log (R386 to R391) -/

/-- Slots of the log ring (R391). -/
def logSlots : Nat := 4096

/-- Merge a corrected error into the newest unread one of its kind, in a list with the newest first (R391). -/
def mergeC (r : ErrRec) (l : List ErrRec) : Option (List ErrRec) :=
  match l with
  | [] => none
  | x :: rest =>
    if x.sev = 0 ∧ x.read = false ∧ x.unit = r.unit ∧ x.cause = r.cause ∧ x.index = r.index then
      (if x.stamp < r.stamp + 1024000 ∧ r.stamp < x.stamp + 1024000 then
        some ({ x with count := x.count + 1 } :: rest) else none)
    else (mergeC r rest).map (fun t => x :: t)

/-- Take out the first record that satisfies `p`; none where there is none. -/
def dropFirst (p : ErrRec → Bool) (l : List ErrRec) : Option (List ErrRec) :=
  match l with
  | [] => none
  | x :: r => if p x then some r else (dropFirst p r).map (fun t => x :: t)

/-- Make room in a full ring (R391): a read record's slot is reused; else the oldest unread record of severity C is
replaced, else the oldest. The Bool says that an unread record was lost. -/
def logRoom (l : List ErrRec) : List ErrRec × Bool :=
  if l.length < logSlots then (l, false)
  else
    match dropFirst (fun x => x.read) l with
    | some t => (t, false)
    | none =>
      match dropFirst (fun x => x.sev = 0) l with
      | some t => (t, true)
      | none => (l.drop 1, true)

/-- Accept a record into the log: merged, or written with the next SEQ (R391, R398). -/
def State.accept (s : State) (r : ErrRec) : State :=
  let s := s.bump (Reg.STU_ERRCNT_SEVv_COUNT r.sev) 1
  match (if r.sev = 0 then mergeC r s.log.reverse else none) with
  | some l => { s with log := l.reverse }
  | none =>
    let (l, lost) := logRoom s.log
    let s := if lost then s.bump Reg.STU_LOG_LOST_COUNT 1 else s
    { s with log := l ++ [{ r with seq := s.nextSeq }], nextSeq := s.nextSeq + 1 }

/-- What an error is: severity, unit, cause, index, task charged, address and details (Table 17-2). -/
structure ErrInfo where
  sev   : Nat
  unit  : Nat
  cause : Nat
  index : Nat := 0
  task  : Nat := 0
  addr  : Nat := 0
  d0    : Nat := 0
  d1    : Nat := 0
  stamp : Nat := 0
  deriving DecidableEq, Repr

/-- Record an error (R388, R394): an error of a unit of a task whose abort is under way is counted in the abort's record
and not written, but for module-fatal errors and the Studio's own. -/
def State.logErr (s : State) (e : ErrInfo) : State :=
  if e.unit ≠ 0 ∧ e.sev ≠ 3 ∧ e.task ≠ 0 ∧ (s.aborts.any (fun a => a.task = e.task)) then
    { s with aborts := s.aborts.map (fun a => if a.task = e.task then { a with more := a.more + 1 } else a) }
  else
    s.accept { seq := 0, stamp := e.stamp, sev := e.sev, unit := e.unit, cause := e.cause,
               job := if s.job.loaded || !s.aborts.isEmpty then s.job.id else 0,
               step := s.get Reg.PLY_STEP_STEP, attempt := s.get Reg.PLY_STEP_ATTEMPT, task := e.task,
               index := e.index, addr := e.addr, d0 := e.d0, d1 := e.d1, count := 1, prior := false,
               read := false }

/-- A corrected error of the Studio about a register access (Table 17-4): DETAIL0 holds the BAR0 offset. -/
def State.logReg (s : State) (cause off : Nat) : State :=
  s.logErr { sev := 0, unit := 0, cause := cause, d0 := off, stamp := s.timeOf 71 }

end Sys2Proof.Machine
end

