-- ==== Sys2Proof/Machine/Operands.lean ====
section
/-! DEFINITION. The operand forms: the fields of every 128-bit command word (Tables 3-3, 3-4, 5-5, 5-6, 6-3, 7-1), of the
argument records (Tables 5-7, 6-5) and of the tensor descriptor (Table 7-4), and the Shuttle queues that a word names. -/
namespace Sys2Proof.Machine

/-- Every bit outside the listed fields (hi, lo) is 0: no reserved bit is set. -/
def onlyFields (w : Nat) (fs : List (Nat × Nat)) : Bool :=
  w = fs.foldl (fun a f => a + bits w f.1 f.2 * 2 ^ f.2) 0

/-! ## Common fields -/

def wOp (w : Nat) : Nat := bits w 7 0
def wKnotEn (w : Nat) : Bool := bit w 12
def wKnot (w : Nat) : Nat := bits w 20 13
/-- The fields common to every Brush, Easel and Shuttle word (Table 5-5). -/
def comFields : List (Nat × Nat) := [(7, 0), (12, 12), (20, 13)]

/-! ## Spindle words (Tables 3-3, 3-4) -/

def wSlot (w : Nat) : Nat := bits w 10 8
def wGang (w : Nat) : Bool := bit w 11
/-- The fields common to every Spindle word (Table 3-3). -/
def spdFields : List (Nat × Nat) := [(7, 0), (10, 8), (11, 11), (12, 12), (20, 13)]
def wHandle (w : Nat) : Nat := bits w 33 32
def slEty (w : Nat) : Nat := bits w 41 34
def slSty (w : Nat) : Nat := bits w 45 42
def slFrozen (w : Nat) : Bool := bit w 46
def slSdim (w : Nat) : Nat := bits w 47 47
def slLayout (w : Nat) : Nat := bits w 48 48
def slK (w : Nat) : Nat := bits w 79 64 + 1
def slN (w : Nat) : Nat := bits w 95 80 + 1
def slBofs (w : Nat) : Nat := bits w 104 96
def slSrcQ (w : Nat) : Nat := bits w 108 105
def slScaleQ (w : Nat) : Nat := bits w 112 109
def slSofs (w : Nat) : Nat := bits w 122 113
def spTrans (w : Nat) : Bool := bit w 34
def spInit (w : Nat) : Nat := bits w 36 35
def spOut (w : Nat) : Nat := bits w 38 37
def spTwo (w : Nat) : Bool := bit w 39
def spSrc (w : Nat) : Nat := bits w 41 40
def spSrcQ (w : Nat) : Nat := bits w 45 42
def spEty (w : Nat) : Nat := bits w 53 46
def spSty (w : Nat) : Nat := bits w 57 54
def spAcc (w : Nat) : Nat := bits w 63 58
def spT (w : Nat) : Nat := bits w 70 64 + 1
def spPeer (w : Nat) : Nat := bits w 73 71
def swWbInit (w : Nat) : Bool := bit w 34
def swWbOfs (w : Nat) : Nat := bits w 62 58
def swKd (w : Nat) : Nat := bits w 79 64 + 1
def sdDest (w : Nat) : Nat := bits w 35 34
def sdDestQ (w : Nat) : Nat := bits w 39 36
def sdClear (w : Nat) : Bool := bit w 40
def swEnt (w : Nat) : Nat := bits w 81 64 + 1
def sgSize (w : Nat) : Nat := bits w 33 32
def sgDeep (w : Nat) : Nat := bits w 34 34

/-- The fields of a Spindle word by opcode (Table 3-4); none for a reserved opcode. -/
def spindleFields (w : Nat) : Option (List (Nat × Nat)) :=
  match wOp w with
  | 0x10 => some [(33, 32), (41, 34), (45, 42), (46, 46), (47, 47), (48, 48), (79, 64), (95, 80), (104, 96), (108, 105),
      (112, 109), (122, 113)]
  | 0x11 => some [(33, 32), (34, 34), (36, 35), (38, 37), (39, 39), (41, 40), (45, 42), (53, 46), (57, 54), (63, 58),
      (70, 64), (73, 71)]
  | 0x12 => some [(33, 32), (34, 34), (41, 40), (45, 42), (53, 46), (57, 54), (62, 58), (79, 64)]
  | 0x13 => some [(35, 34), (39, 36), (40, 40), (63, 58)]
  | 0x14 => some [(35, 34), (39, 36), (40, 40), (62, 58), (81, 64)]
  | 0x15 => some [(62, 58), (81, 64)]
  | 0x16 => some [(33, 32), (34, 34)]
  | _ => none

/-- No reserved opcode and no reserved bit (R66). -/
def spindleWordOk (w : Nat) : Bool :=
  match spindleFields w with
  | some fs => onlyFields w (spdFields ++ fs)
  | none => false

/-! ## Brush words (Table 6-3) and their argument record (Table 6-5) -/

def brFn (w : Nat) : Nat := bits w 39 32
def brIty (w : Nat) : Nat := bits w 47 40
def brOty (w : Nat) : Nat := bits w 55 48
def brOsty (w : Nat) : Nat := bits w 59 56
def brSr (w : Nat) : Bool := bit w 60
def brSat (w : Nat) : Bool := bit w 61
def brSrcA (w : Nat) : Nat := bits w 63 62
def brSrcQ (w : Nat) : Nat := bits w 67 64
def brDst (w : Nat) : Nat := bits w 68 68
def brDstQ (w : Nat) : Nat := bits w 72 69
def brCnt (w : Nat) : Nat := bits w 95 73 + 1
def brAcc (w : Nat) : Bool := bit w 96
def brArg (w : Nat) : Nat := 256 * bits w 127 112

/-- The fields of a Brush word. -/
def brushFields : List (Nat × Nat) :=
  comFields ++ [(39, 32), (47, 40), (55, 48), (59, 56), (60, 60), (61, 61), (63, 62), (67, 64), (68, 68), (72, 69), (95, 73),
    (96, 96), (127, 112)]

/-- A Brush argument record (Table 6-5): input and output offsets, scale offset, row length, scalars. -/
structure BrushArg where
  ins   : List Nat
  outs  : List Nat
  scale : Nat
  rowl  : Nat
  sc    : List W32
  deriving DecidableEq, Repr

/-- Four-byte words of a byte list from offset `o`. -/
def wordsAt (bs : List Byte) (o n : Nat) : List Nat := (List.range n).map (fun i => leAt bs (o + 4 * i) 4)

def brushArg (bs : List Byte) : BrushArg :=
  ⟨wordsAt bs 0 4, wordsAt bs 0x10 4, leAt bs 0x20 4, leAt bs 0x24 4, (wordsAt bs 0x28 10).map (BitVec.ofNat 32)⟩

/-- The offset field that makes an input the scalar S1 and suppresses an output (R142). -/
def noAddr : Nat := 0xFFFFFFFF

/-! ## Easel words (Table 5-6) and their argument record (Table 5-7) -/

def eaFn (w : Nat) : Nat := bits w 35 32
def eaSrc (w : Nat) : Nat := bits w 37 36
def eaDst (w : Nat) : Nat := bits w 38 38
def eaDstQ (w : Nat) : Nat := bits w 42 39
def eaIty (w : Nat) : Nat := bits w 50 43
def eaOty (w : Nat) : Nat := bits w 58 51
def eaMask (w : Nat) : Bool := bit w 59
def eaDparam (w : Nat) : Bool := bit w 60
def eaYmode (w : Nat) : Nat := bits w 61 61
def eaLen (w : Nat) : Nat := bits w 79 64 + 1
def eaHandle (w : Nat) : Nat := bits w 94 80
def eaRows (w : Nat) : Nat := bits w 110 96 + 1
def eaArg (w : Nat) : Nat := 256 * bits w 127 112
def esDir (w : Nat) : Nat := bits w 32 32
def esQ (w : Nat) : Nat := bits w 36 33
def epClear (w : Nat) : Bool := bit w 32
def epCnt (w : Nat) : Nat := bits w 80 64 + 1

/-- The fields of an Easel word by opcode; none for a reserved opcode. -/
def easelFields (w : Nat) : Option (List (Nat × Nat)) :=
  match wOp w with
  | 0x30 => some [(35, 32), (37, 36), (38, 38), (42, 39), (50, 43), (58, 51), (59, 59), (79, 64), (94, 80), (110, 96),
      (127, 112)]
  | 0x31 => some [(35, 32), (37, 36), (38, 38), (42, 39), (50, 43), (58, 51), (59, 59), (60, 60), (61, 61), (79, 64),
      (94, 80), (110, 96), (127, 112)]
  | 0x32 => some [(32, 32), (36, 33), (94, 80), (110, 96)]
  | 0x33 => some [(32, 32), (36, 33), (80, 64), (127, 112)]
  | _ => none

/-- No reserved opcode and no reserved bit (R123). -/
def easelWordOk (w : Nat) : Bool :=
  match easelFields w with
  | some fs => onlyFields w (comFields ++ fs)
  | none => false

/-- An Easel argument record (Table 5-7). -/
structure EaselArg where
  inA   : Nat
  in2   : Nat
  outA  : Nat
  gamma : Nat
  beta  : Nat
  pacc  : Nat
  inS   : Nat
  outS  : Nat
  eps   : W32
  alpha : W32
  mofs  : Int
  deriving DecidableEq, Repr

def easelArg (bs : List Byte) : EaselArg :=
  ⟨leAt bs 0 4, leAt bs 4 4, leAt bs 8 4, leAt bs 0xC 4, leAt bs 0x10 4, leAt bs 0x14 4, leAt bs 0x18 4, leAt bs 0x1C 4,
   BitVec.ofNat 32 (leAt bs 0x20 4), BitVec.ofNat 32 (leAt bs 0x24 4), signed 32 (leAt bs 0x28 4)⟩

/-! ## SXFER words (Table 7-1) -/

def sxSrc (w : Nat) : Nat := bits w 33 32
def sxDst (w : Nat) : Nat := bits w 35 34
def sxSr (w : Nat) : Bool := bit w 36
def sxSat (w : Nat) : Bool := bit w 37
def sxXpose (w : Nat) : Bool := bit w 38
def sxC64 (w : Nat) : Bool := bit w 39
def sxSid (w : Nat) : Nat := bits w 47 40
def sxPart (w : Nat) : Nat := bits w 55 48
def sxItems (w : Nat) : Nat := bits w 71 56 + 1
def sxDlist (w : Nat) : Nat := bits w 119 72
def sxDseg (w : Nat) : Nat := bits w 123 120
/-- The fields of an SXFER word. -/
def sxFields : List (Nat × Nat) :=
  comFields ++ [(33, 32), (35, 34), (36, 36), (37, 37), (38, 38), (39, 39), (47, 40), (55, 48), (71, 56), (119, 72),
    (123, 120)]
/-- Descriptors to an item (Table 7-2). -/
def sxPer (w : Nat) : Nat := if sxSrc w = 0 ∧ sxDst w = 0 then 2 else 1

/-! ## Tensor descriptors (Table 7-4) -/

def dBase (d : List Byte) : Nat := leAt d 0 6
def dW0 (d : List Byte) : Nat := leAt d 0 8
def dSeg (d : List Byte) : Nat := bits (dW0 d) 51 48
def dSty (d : List Byte) : Nat := bits (dW0 d) 55 52
def dRank (d : List Byte) : Nat := bits (dW0 d) 58 56
def dDir (d : List Byte) : Nat := bits (dW0 d) 59 59
def dW1 (d : List Byte) : Nat := leAt d 8 8
def dEty (d : List Byte) : Nat := bits (dW1 d) 7 0
def dIdxEn (d : List Byte) : Bool := bit (dW1 d) 8
def dOob (d : List Byte) : Bool := bit (dW1 d) 9
def dIdxDim (d : List Byte) : Nat := bits (dW1 d) 12 10
def dAdd (d : List Byte) : Bool := bit (dW1 d) 13
def dPadMode (d : List Byte) : Nat := bits (dW1 d) 15 14
def dWinN (d : List Byte) : Nat := bits (dW1 d) 17 16
def dWinD (d : List Byte) : Nat := bits (dW1 d) 20 18
def dBlk (d : List Byte) : Bool := bit (dW1 d) 21
def dScDim (d : List Byte) : Nat := bits (dW1 d) 24 22
def dPadVal (d : List Byte) : W32 := BitVec.ofNat 32 (bits (dW1 d) 63 32)
def dSize (d : List Byte) (i : Nat) : Nat := leAt d (0x10 + 4 * i) 4
def dStride (d : List Byte) (i : Nat) : Int := signed 48 (leAt d (0x28 + 6 * i) 6)
def dPad (d : List Byte) (i : Nat) : Nat := leAt d (0x4C + 3 * i) 3
def dPadLo (d : List Byte) (i : Nat) : Nat := bits (dPad d i) 11 0
def dPadHi (d : List Byte) (i : Nat) : Nat := bits (dPad d i) 23 12
def dKern (d : List Byte) (i : Nat) : Nat := leAt d (0x5E + 3 * i) 1
def dWstr (d : List Byte) (i : Nat) : Nat := leAt d (0x5F + 3 * i) 1
def dWdil (d : List Byte) (i : Nat) : Nat := leAt d (0x60 + 3 * i) 1
def dTag (d : List Byte) : Nat := leAt d 0x68 4
def dBound (d : List Byte) : Nat := leAt d 0x6C 4
def dScBase (d : List Byte) : Nat := leAt d 0x70 6
def dScSeg (d : List Byte) : Nat := bits (leAt d 0x70 8) 51 48
def dIdxPtr (d : List Byte) : Nat := leAt d 0x78 6
def dIdxSeg (d : List Byte) : Nat := bits (leAt d 0x78 8) 51 48
def dIdxW (d : List Byte) : Nat := bits (leAt d 0x78 8) 52 52

/-! ## The Shuttle queues that an engine word names (R177, R183) -/

/-- The queues a word takes data from, for engine queue `q` of Table 6-2. -/
def takesFrom (q w : Nat) : List Nat :=
  if q < 9 then
    match wOp w with
    | 0x10 => if slSty w = 0 then [slSrcQ w] else [slSrcQ w, slScaleQ w]
    | 0x11 => if spSrc w = 2 then [spSrcQ w] else []
    | 0x12 => if spSrc w = 2 then [spSrcQ w] else []
    | _ => []
  else if q = 25 then (if brSrcA w = 2 then [brSrcQ w] else [])
  else if q = 26 then (if wOp w = 0x32 ∧ esDir w = 1 then [esQ w] else [])
  else []

/-- The queues a word gives its output to. -/
def givesTo (q w : Nat) : List Nat :=
  if q < 9 then (if (wOp w = 0x13 ∨ wOp w = 0x14) ∧ sdDest w = 2 then [sdDestQ w] else [])
  else if q = 25 then (if brDst w = 1 then [brDstQ w] else [])
  else if q = 26 then
    match wOp w with
    | 0x30 => if eaDst w = 1 then [eaDstQ w] else []
    | 0x31 => if eaDst w = 1 then [eaDstQ w] else []
    | 0x32 => if esDir w = 0 then [esQ w] else []
    | 0x33 => [esQ w]
    | _ => []
  else []

end Sys2Proof.Machine
end

