-- ==== Sys2Proof/Machine/RingSeg.lean ====
section
/-! DEFINITION. The geometry of the Twist rings (R78 to R80), segments (R86, R87), the registers in force (R90), and which
command words use a stage. Ring 0 is the S-ring, ring 1 the Z-ring. -/
namespace Sys2Proof.Machine

def ringNo (z : Ring) : Nat := match z with | .S => 0 | .Z => 1

/-- The ring position of Frame `f` (R78). -/
def ringPos (f : Nat) : Nat :=
  let x := f % 8
  let y := f / 8
  if y = 0 then x else if x = 0 then 64 - y else if y % 2 = 1 then 7 * y + 8 - x else 7 * y + x

/-- The Frame at ring position `p`. -/
def frameAt (p : Nat) : Nat := ((List.range 64).find? (fun f => ringPos f = p)).getD 0

/-- The ring index of slot `sl` of Frame `f` (R79). -/
def ringIdx (f sl : Nat) : Nat := 8 * ringPos f + sl

def idxFrame (i : Nat) : Nat := frameAt (i / 8)
def idxSlot (i : Nat) : Nat := i % 8

/-- The index downstream of `i` (R80). -/
def ringNext (z i : Nat) : Nat := if z = 0 then (i + 1) % 512 else (i + 511) % 512

/-- The index upstream of `i`. -/
def ringPrev (z i : Nat) : Nat := ringNext (1 - z) i

/-- The number of a stage, a notice place or a port. -/
def stageKey (z i : Nat) : Nat := 512 * z + i

def State.stage (s : State) (z i : Nat) : List Beat := sget [] s.stages (stageKey z i)
def State.setStage (s : State) (z i : Nat) (l : List Beat) : State :=
  { s with stages := sput [] s.stages (stageKey z i) l }
def State.notice (s : State) (z i : Nat) : List Notice := sget [] s.notices (stageKey z i)
def State.setNotice (s : State) (z i : Nat) (l : List Notice) : State :=
  { s with notices := sput [] s.notices (stageKey z i) l }
def State.rport (s : State) (z i : Nat) : RingPort := sget RingPort.empty s.rports (stageKey z i)
def State.setRport (s : State) (z i : Nat) (p : RingPort) : State :=
  { s with rports := sput RingPort.empty s.rports (stageKey z i) p }
def State.inj (s : State) (z f : Nat) : InjSt := sget InjSt.empty s.injs (64 * z + f)
def State.setInj (s : State) (z f : Nat) (x : InjSt) : State :=
  { s with injs := sput InjSt.empty s.injs (64 * z + f) x }

/-- A shadowed register field as it is in force (R90). -/
def inForce (s : State) (r : Ref) : Nat := sget 0 s.force r.key ^^^ r.reset

/-- No beat passes from index `i` to the next (R86). -/
def cutAfter (s : State) (z i : Nat) : Bool :=
  bit (inForce s (if z = 0 then Reg.FRM_RCUT_S_CUT (idxFrame i) else Reg.FRM_RCUT_Z_CUT (idxFrame i))) (idxSlot i)

/-- The segment of index `i` on ring `z` is in reduce mode (R87). -/
def isReduce (s : State) (z i : Nat) : Bool :=
  bit (inForce s (if z = 0 then Reg.FRM_RMODE_S_RED (idxFrame i) else Reg.FRM_RMODE_Z_RED (idxFrame i))) (idxSlot i)

/-- The head of the segment of `i`: upstream until a cut. -/
def segHeadGo (s : State) (z i fuel : Nat) : Nat :=
  match fuel with
  | 0 => i
  | k + 1 => if cutAfter s z (ringPrev z i) then i else segHeadGo s z (ringPrev z i) k

def segHead (s : State) (z i : Nat) : Nat := segHeadGo s z i 511

/-- The members of a segment from `i` down to the tail. -/
def segFrom (s : State) (z i fuel : Nat) : List Nat :=
  match fuel with
  | 0 => [i]
  | k + 1 => if cutAfter s z i then [i] else i :: segFrom s z (ringNext z i) k

/-- The members of the segment of `i`, head first. -/
def segment (s : State) (z i : Nat) : List Nat := segFrom s z (segHead s z i) 511

/-- The tail of the segment of `i`. -/
def isTail (s : State) (z i : Nat) : Bool := cutAfter s z i

/-- `i` heads its segment. -/
def isHead (s : State) (z i : Nat) : Bool := cutAfter s z (ringPrev z i)

/-! ## Flex hops (R91) -/

/-- The flex port from which Frame `f` takes beats of ring `z`, where IN_EN is in force. -/
def flexIn (s : State) (z f : Nat) : Option Nat :=
  if inForce s (if z = 0 then Reg.FRM_RFLEX_S_IN_EN f else Reg.FRM_RFLEX_Z_IN_EN f) = 1 then
    some (inForce s (if z = 0 then Reg.FRM_RFLEX_S_PORT f else Reg.FRM_RFLEX_Z_PORT f))
  else none

/-- The flex port by which beats leave at index `i`: the tail is slot 7 (S-ring) or slot 0 (Z-ring) of a Frame at x = 7. -/
def flexOut (s : State) (z i : Nat) : Option Nat :=
  let f := idxFrame i
  if f % 8 = 7 ∧ idxSlot i = (if z = 0 then 7 else 0) ∧
      inForce s (if z = 0 then Reg.FRM_RFLEX_S_OUT_EN f else Reg.FRM_RFLEX_Z_OUT_EN f) = 1 then
    some (inForce s (if z = 0 then Reg.FRM_RFLEX_S_PORT f else Reg.FRM_RFLEX_Z_PORT f))
  else none

/-- The head at which beats of ring `z` enter Frame `f` from its flex port. Where the Frame has several heads on the ring, the first in
the ring's direction (DESIGN CHOICE, assumption 40: the spec names none). -/
def flexHead (s : State) (z f : Nat) : Option Nat :=
  (List.range 8).findSome? (fun k =>
    let i := ringIdx f (if z = 0 then k else 7 - k)
    if isHead s z i then some i else none)

/-- Beats enter the segment at head `i` from a flex port: the port. -/
def flexFed (s : State) (z i : Nat) : Option Nat :=
  match flexIn s z (idxFrame i) with
  | some p => if flexHead s z (idxFrame i) = some i then some p else none
  | none => none

/-- The flex ports by which the segment of `i` goes on in other modules. -/
def segPorts (s : State) (z i : Nat) : List Nat :=
  (flexFed s z (segHead s z i)).toList ++ ((segment s z i).getLast?.bind (flexOut s z)).toList

/-- `i` heads a segment that no other module feeds: no partial reaches it (R91, R94). -/
def firstMember (s : State) (z i : Nat) : Bool := isHead s z i && (flexFed s z i).isNone

/-- `i` ends a segment that goes on in no other module (R91, R94). -/
def lastMember (s : State) (z i : Nat) : Bool := isTail s z i && (flexOut s z i).isNone

/-- The ring whose segment is in reduce mode at index `i`, where exactly one is (R93). -/
def reduceRing (s : State) (i : Nat) : Option Nat :=
  match isReduce s 0 i, isReduce s 1 i with
  | true, false => some 0
  | false, true => some 1
  | _, _ => none

/-- The rings that a Spindle word at index `i` uses. -/
def wordRings (s : State) (i w : Nat) : List Nat :=
  match wOp w with
  | 0x11 =>
    (if spSrc w < 2 then [spSrc w] else []) ++
      (if spInit w = 2 ∨ spOut w = 1 then (reduceRing s i).toList else [])
  | 0x12 => if spSrc w < 2 then [spSrc w] else []
  | _ => []

/-- The head slot a Frame's injector feeds, and the queue that feeds it, where it is enabled (R88, Table 4-5). -/
def injector (s : State) (z f : Nat) : Option (Nat × Nat) :=
  if z = 0 then
    (if inForce s (Reg.FRM_RINJ_S_EN f) = 1 then
      some (inForce s (Reg.FRM_RINJ_S_SLOT f), inForce s (Reg.FRM_RINJQ_S_Q f)) else none)
  else
    (if inForce s (Reg.FRM_RINJ_Z_EN f) = 1 then
      some (inForce s (Reg.FRM_RINJ_Z_SLOT f), inForce s (Reg.FRM_RINJ_Z_Q f)) else none)

/-- The stages (ring, index) at which the words of engine queue `key` = 27 f + q use a ring. -/
def queueStages (s : State) (key : Nat) (x : QueueSt) : List (Nat × Nat) :=
  let f := key / 27
  let q := key % 27
  if q < 8 then (x.ran ++ x.words).flatMap (fun w => (wordRings s (ringIdx f q) w).map (fun z => (z, ringIdx f q)))
  else []

/-- The stages at which Shuttle queue `key` = 16 f + j feeds an injector with the word it executes or with a word that
waits. -/
def shutStages (s : State) (f j : Nat) (words : List Nat) : List (Nat × Nat) :=
  words.flatMap (fun w =>
    if 2 ≤ sxDst w then
      match injector s (sxDst w - 2) f with
      | some (sl, qq) => if qq = j then [(sxDst w - 2, ringIdx f sl)] else []
      | none => []
    else [])

/-- Every (task, ring, segment head) in use by a command of a task. -/
def ringUses (s : State) : List (Nat × Nat × Nat) :=
  (s.queues.flatMap (fun (key, x) =>
    let f := key / 27
    let q := key % 27
    let t := s.qTask f q
    let st := if 9 ≤ q ∧ q ≤ 24 then
        shutStages s f (q - 9) ((sget ShutSt.empty s.shut (16 * f + (q - 9))).word.toList ++ x.words)
      else queueStages s key x
    st.map (fun (z, i) => (t, z, segHead s z i)))) ++
  (s.shut.flatMap (fun (key, x) =>
    let f := key / 16
    let j := key % 16
    (shutStages s f j x.word.toList).map (fun (z, i) => (s.qTask f (9 + j), z, segHead s z i)))) ++
  (s.spins.flatMap (fun (key, x) =>
    let f := key / 9
    let q := s.get (Reg.FRM_SPDn_SHAPE_SLOT f (key % 9))
    let i := ringIdx f q
    x.open_.flatMap (fun o => (wordRings s i o.word).map (fun z => (s.qTask f q, z, segHead s z i)))))

/-- Close a set of tasks under sharing a segment (R393): segments they use, tasks that use those. -/
def closeTasks (uses : List (Nat × Nat × Nat)) (ts : List Nat) (fuel : Nat) : List Nat :=
  match fuel with
  | 0 => ts
  | k + 1 =>
    let segs := (uses.filter (fun u => ts.contains u.1)).map (fun u => u.2)
    let more := (uses.filter (fun u => segs.contains u.2 && u.1 ≠ 0 && !ts.contains u.1)).map (fun u => u.1)
    if more.isEmpty then ts else closeTasks uses (ts ++ more.eraseDups) k

end Sys2Proof.Machine
end

