-- ==== Sys2Proof/Machine/MemPath.lean ====
section
/-! DEFINITION. The memory path: the device-local address map (R187), homing (R193), cache lines with tree pseudo-LRU
(R195, R420), the block check's consequences (R203, R204), and reads and writes of any range of addresses. -/
namespace Sys2Proof.Machine

/-- The regions of Table 8-1. -/
inductive Region where
  | lpddr | spad | frame | host | none
  deriving DecidableEq, Repr

def lpddrSize (s : State) : Nat := if s.fit2T then 0x20000000000 else 0x10000000000
def spadBase : Nat := 0x080000000000
def frameBase : Nat := 0x0A0000000000
def hostBase : Nat := 0x800000000000
def wayBytes : Nat := 0x400000

/-- The region of a device-local address (Table 8-1). -/
def regionOf (s : State) (a : Nat) : Region :=
  if a < lpddrSize s then .lpddr
  else if spadBase ≤ a ∧ a < spadBase + 0x100000000 then .spad
  else if frameBase ≤ a ∧ a < frameBase + 0x40000000 then .frame
  else if hostBase ≤ a ∧ a < 0x1000000000000 then .host
  else .none

/-- Exclusive-or of `n` pieces of `w` bits of `g`. -/
def foldXor (g w n : Nat) : Nat :=
  match n with
  | 0 => 0
  | k + 1 => (g % 2 ^ w) ^^^ foldXor (g / 2 ^ w) w k

/-- The logical channel of a granule (R193). -/
def chanOf (g : Nat) : Nat := foldXor g 7 5

/-- The home slice of a granule (R193). -/
def sliceOf (g : Nat) : Nat := foldXor g 6 6

/-- The cache set of a granule in its home slice (R193). -/
def setOf (g : Nat) : Nat := ((g >>> 6) ^^^ (g >>> 20)) % 16384

/-! ## Way roles and the scratchpad window (R189, R190) -/

/-- The roles of a way. -/
inductive WayRole where
  | cache | spad | reorder
  deriving DecidableEq, Repr

/-- The role of way `w` of slice `sl`; both bits set is scratchpad; a way that is leaving the cache role has it until it
is clean (R189). -/
def wayRole (s : State) (sl w : Nat) : WayRole :=
  if bit (sget 0 s.leaving sl) w then .cache
  else if bit (s.get (Reg.MEM_PALf_WAYS_SP sl)) w then .spad
  else if bit (s.get (Reg.MEM_PALf_WAYS_RS sl)) w then .reorder
  else .cache

/-- The ways of a slice with a role, ascending. -/
def waysOf (s : State) (sl : Nat) (r : WayRole) : List Nat :=
  (List.range 16).filter (fun w => wayRole s sl w = r)

/-- Where a byte of way `w` of slice `sl` is kept. -/
def spadKey (sl w o : Nat) : Nat := spadBase + sl * 0x4000000 + w * wayBytes + o

/-- The place of a scratchpad window address; none where no scratchpad way backs it (R190). -/
def spadPlace (s : State) (a : Nat) : Option Nat :=
  let o := a - spadBase
  let sl := o / 0x4000000
  let b := o % 0x4000000
  match (waysOf s sl .spad)[b / wayBytes]? with
  | some w => some (spadKey sl w (b % wayBytes))
  | none => none

/-- The bytes a scratchpad place adds while its way's contents are undefined (R189). -/
def spadUndef (s : State) (key : Nat) : Byte :=
  let e := sget 0 s.spEpoch ((key - spadBase) / wayBytes)
  if e = 0 then 0 else Config.undefByte e key

/-- Is every byte of the range mapped and backed (R188)? Ranges are checked at each 4 MiB boundary inside them. -/
def backedGo (s : State) (a n fuel : Nat) : Bool :=
  match fuel with
  | 0 => n = 0
  | k + 1 =>
    if n = 0 then true
    else
      let step := min n (wayBytes - a % wayBytes)
      (match regionOf s a with
        | .none => false
        | .spad => (spadPlace s a).isSome
        | _ => true) && backedGo s (a + step) (n - step) k

/-- Is every byte of the range mapped and backed (R188)? A region is checked once at either end where it needs no
backing by ways. -/
def backed (s : State) (a n : Nat) : Bool :=
  if n = 0 then regionOf s a ≠ .none
  else
    match regionOf s a, regionOf s (a + n - 1) with
    | .lpddr, .lpddr => true
    | .frame, .frame => true
    | .host, .host => true
    | .spad, .spad => backedGo s a n (n / wayBytes + 2)
    | _, _ => false

/-! ## Bytes in their place -/

/-- A byte as its memory holds it, beneath the cache. -/
def rawByte (s : State) (a : Nat) : Byte :=
  match regionOf s a with
  | .spad =>
    match spadPlace s a with
    | some k => sget 0 s.mem k ^^^ spadUndef s k
    | none => 0
  | _ => sget 0 s.mem a

/-- `n` bytes as their memory holds them, beneath the cache. -/
def rawBytes (s : State) (a n : Nat) : List Byte :=
  match n with
  | 0 => []
  | k + 1 => rawByte s a :: rawBytes s (a + 1) k

/-- Write bytes into LPDDR, Frame or host memory, beneath the cache. -/
def State.setBytes (s : State) (a : Nat) (d : List Byte) : State := { s with mem := sputList 0 s.mem a d }

/-- Write bytes of the scratchpad window in their places. -/
def setSpad (s : State) (a : Nat) (d : List Byte) : State :=
  match d with
  | [] => s
  | b :: r =>
    match spadPlace s a with
    | some k => setSpad { s with mem := sput 0 s.mem k (b ^^^ spadUndef s k) } (a + 1) r
    | none => setSpad s (a + 1) r

/-! ## LPDDR blocks (R202 to R204) -/

/-- The block that holds an address fails its check. -/
def isBad (s : State) (a : Nat) : Bool := sget false s.bad (a / 64)

/-- The block addresses a range touches, ascending. -/
def blocksOf (a n : Nat) : List Nat :=
  if n = 0 then [] else (List.range ((a + n - 1) / 64 + 1 - a / 64)).map (fun i => 64 * (a / 64 + i))

/-- The controller finds a block uncorrectable (R203): the channel counts it and MEM_ERRADDR records the first. -/
def State.uncorrBlock (s : State) (a : Nat) : State :=
  let c := chanOf (a / 256)
  let s := s.bump (Reg.MEM_CHc_CRCCNT_UNCORR c) 1
  if s.on Reg.MEM_ERRADDR_VALID then s
  else ((s.put Reg.MEM_ERRADDR_VALID 1).put Reg.MEM_ERRADDR_LCH c).put Reg.MEM_ERRADDR_ADDR (64 * (a / 64))

/-- The first bad block of a list. -/
def firstBad (s : State) (bl : List Nat) : Option Nat := bl.find? (fun a => isBad s a)

/-- Count every bad block of a list. -/
def countBad (s : State) (bl : List Nat) : State :=
  bl.foldl (fun s a => if isBad s a then s.uncorrBlock a else s) s

/-- The result of an access: the state, the bytes read, and the faulting address of an uncorrectable block. -/
structure MemRes where
  st   : State
  data : List Byte
  err  : Option Nat

/-- A read at the controller, within one granule. -/
def chanRead (s : State) (a n : Nat) : MemRes :=
  let bl := blocksOf a n
  ⟨countBad s bl, rawBytes s a n, firstBad s bl⟩

/-- A group's repair under way. -/
def repairOf (s : State) (m : Nat) : Option Repair :=
  let r := sget ⟨128, 0⟩ s.repairs m
  if r.lch < 128 then some r else none

/-- A write of a channel that is being moved into its spare enters the spare too (R209). -/
def mirror (s : State) (a : Nat) (d : List Byte) : State :=
  match repairOf s (chanOf (a / 256) / 16) with
  | some r => if r.lch = chanOf (a / 256) then { s with spare := sputList 0 s.spare a d } else s
  | none => s

/-- One block of a write at the controller (R203): a whole block is written with its check; a part is a
read-modify-write, which fails when the block is uncorrectable. -/
def chanWriteBlock (s : State) (a : Nat) (d : List Byte) : MemRes :=
  if a % 64 = 0 ∧ d.length = 64 then ⟨{ (mirror s a d).setBytes a d with bad := sput false s.bad (a / 64) false }, [], none⟩
  else if isBad s a then ⟨s.uncorrBlock a, [], some (64 * (a / 64))⟩
  else ⟨(mirror s a d).setBytes a d, [], none⟩

/-- A write at the controller, block by block; the address of the first block that failed is kept. -/
def chanWriteGo (s : State) (a : Nat) (d : List Byte) (err : Option Nat) (fuel : Nat) : MemRes :=
  match fuel with
  | 0 => ⟨s, [], err⟩
  | k + 1 =>
    if d.isEmpty then ⟨s, [], err⟩
    else
      let n := min d.length (64 - a % 64)
      let r := chanWriteBlock s a (d.take n)
      chanWriteGo r.st (a + n) (d.drop n) (err.or r.err) k

/-- The channel of a granule takes no commands: it retrains (R207), or its map is being switched (R210). -/
def chanPaused (s : State) (g : Nat) : Bool :=
  let st := s.get (Reg.MEM_CHc_MAP_STATE (chanOf g))
  st = 1 || st = 3

/-- Requests that a channel's queue holds (R207). -/
def chanDepth : Nat := 512

/-- The queue of a channel that takes no commands is full (R207). -/
def chanFull (s : State) (g : Nat) : Bool := chanPaused s g && chanDepth ≤ sget 0 s.chanQ (chanOf g)

/-- A write enters the queue of its channel, where it waits while the channel takes no commands. Its bytes stand from then on: no read of
the channel passes it (R207, Table 7-3). -/
def queueWrite (s : State) (g : Nat) : State :=
  if chanPaused s g then { s with chanQ := sput 0 s.chanQ (chanOf g) (sget 0 s.chanQ (chanOf g) + 1) } else s

/-- A write at the controller, within one granule. -/
def chanWrite (s : State) (a : Nat) (d : List Byte) : MemRes := chanWriteGo (queueWrite s (a / 256)) a d none (d.length / 64 + 2)

/-! ## Cache lines (R195, R420) -/

def lineKey (sl i w : Nat) : Nat := 262144 * sl + 16 * i + w

def State.lineAt (s : State) (sl i w : Nat) : Line := sget Line.invalid s.lines (lineKey sl i w)

def State.setLine (s : State) (sl i w : Nat) (l : Line) : State :=
  { s with lines := sput Line.invalid s.lines (lineKey sl i w) l }

/-- The way that holds a granule's line. -/
def lookup (s : State) (g : Nat) : Option Nat :=
  (waysOf s (sliceOf g) .cache).find? (fun w =>
    let l := s.lineAt (sliceOf g) (setOf g) w
    l.valid ∧ l.gran = g)

/-- The tree node above leaf `w` at level `lv` (0 the root). -/
def plruNode (w lv : Nat) : Nat := 2 ^ lv - 1 + w / 2 ^ (4 - lv)

/-- The half of the node at level `lv` that holds way `w`. -/
def plruHalf (w lv : Nat) : Nat := (w / 2 ^ (3 - lv)) % 2

/-- Set or clear bit `i` of `x`. -/
def setBitTo (x i v : Nat) : Nat := if bit x i then (if v = 0 then x - 2 ^ i else x) else (if v = 0 then x else x + 2 ^ i)

/-- The tree state after way `w` is used: each node on its path names the other half. -/
def plruUse (t w : Nat) : Nat :=
  (List.range 4).foldl (fun t lv => setBitTo t (plruNode w lv) (1 - plruHalf w lv)) t

/-- Descend the tree from the node of `2^rem` ways that begin at way `base`: the half the bit names, unless it holds no
way of `ok`. -/
def plruDescend (t : Nat) (ok : Nat → Bool) (base rem : Nat) : Nat :=
  match rem with
  | 0 => base
  | k + 1 =>
    let node := plruNode base (4 - rem)
    let h := if bit t node then 1 else 0
    let has (x : Nat) : Bool := (List.range (2 ^ k)).any (fun i => ok (base + x * 2 ^ k + i))
    let h := if has h then h else 1 - h
    plruDescend t ok (base + h * 2 ^ k) k

/-- Mark a way used. -/
def State.touch (s : State) (g w : Nat) : State :=
  let k := 16384 * sliceOf g + setOf g
  { s with plru := sput 0 s.plru k (plruUse (sget 0 s.plru k) w) }

/-- The way a fill takes (R420): the lowest invalid cache way, else the tree's choice; none with no cache way. -/
def victim (s : State) (g : Nat) : Option Nat :=
  let ws := waysOf s (sliceOf g) .cache
  if ws.isEmpty then none
  else
    match ws.find? (fun w => (s.lineAt (sliceOf g) (setOf g) w).valid = false) with
    | some w => some w
    | none =>
      some (plruDescend (sget 0 s.plru (16384 * sliceOf g + setOf g)) (fun w => ws.contains w) 0 4)

/-- Write a dirty line back to its channel, as one whole line (R195). -/
def writeBack (s : State) (l : Line) : State :=
  if l.valid ∧ l.dirty then (chanWrite s (256 * l.gran) l.data).st else s

/-- The line of a granule would be allocated over a dirty victim: that line. -/
def dirtyVictim (s : State) (g : Nat) : Option Line :=
  match victim s g with
  | some w =>
    let l := s.lineAt (sliceOf g) (setOf g) w
    if l.valid && l.dirty then some l else none
  | none => none

/-- The slice has no miss entry for granule `g` (R195). -/
def missFull (s : State) (g : Nat) : Bool :=
  let ms := sget [] s.misses (sliceOf g)
  64 ≤ ms.length && !ms.any (fun m => m.gran = g)

/-- An access to granule `g` must wait: for its channel, which takes no commands; for room in a queue that the write-back of a victim, or
the write itself, enters (R207, R210); or for a free miss entry (R195). `whole`: it writes the whole line. -/
def granHeld (s : State) (g : Nat) (write whole : Bool) : Bool :=
  match lookup s g with
  | some _ => false
  | none =>
    if (waysOf s (sliceOf g) .cache).isEmpty then (if write then chanFull s g else chanPaused s g)
    else
      let back : Bool := match dirtyVictim s g with
        | some l => chanFull s l.gran
        | none => false
      if write && whole then back else back || chanPaused s g || missFull s g

/-- The granules that a range touches. -/
def gransOf (a n : Nat) : List Nat := if n = 0 then [] else (List.range ((a + n - 1) / 256 + 1 - a / 256)).map (fun i => a / 256 + i)

/-- An access to a range of addresses must wait for LPDDR. -/
def memHeld (s : State) (a n : Nat) (write : Bool) : Bool :=
  regionOf s a = .lpddr && (gransOf a n).any (fun g => granHeld s g write (decide (a ≤ 256 * g) && decide (256 * g + 256 ≤ a + n)))

/-- Put a line into the set: the victim is written back first, and the way counts as used. -/
def allocLine (s : State) (g : Nat) (dirty : Bool) (d : List Byte) : State :=
  match victim s g with
  | none => s
  | some w =>
    let s := writeBack s (s.lineAt (sliceOf g) (setOf g) w)
    (s.setLine (sliceOf g) (setOf g) w ⟨true, g, dirty, d⟩).touch g w

/-- Replace bytes of a line from offset `o`. -/
def patch (l : List Byte) (o : Nat) (d : List Byte) : List Byte := l.take o ++ d ++ l.drop (o + d.length)

/-- A read of part of a line that is served at once: from the line, or by a fill, or without allocation where a block
of the line is uncorrectable or the slice has no cache ways. No counting. -/
def lineRead (s : State) (a n : Nat) : MemRes :=
  let g := a / 256
  match lookup s g with
  | some w => ⟨s.touch g w, bytesAt (s.lineAt (sliceOf g) (setOf g) w).data (a % 256) n, none⟩
  | none =>
    if (waysOf s (sliceOf g) .cache).isEmpty then chanRead s a n
    else
      let bl := blocksOf (256 * g) 256
      match firstBad s bl with
      | none =>
        let d := rawBytes s (256 * g) 256
        ⟨allocLine s g false d, bytesAt d (a % 256) n, none⟩
      | some _ => ⟨countBad s bl, rawBytes s a n, firstBad s (blocksOf a n)⟩

/-- A write of part or all of a line that is performed at once (R195, R203). No counting. -/
def lineWrite (s : State) (a : Nat) (d : List Byte) : MemRes :=
  let g := a / 256
  match lookup s g with
  | some w =>
    let l := s.lineAt (sliceOf g) (setOf g) w
    ⟨(s.setLine (sliceOf g) (setOf g) w { l with dirty := true, data := patch l.data (a % 256) d }).touch g w, [], none⟩
  | none =>
    if (waysOf s (sliceOf g) .cache).isEmpty then chanWrite s a d
    else if d.length = 256 then ⟨allocLine s g true d, [], none⟩
    else
      let bl := blocksOf (256 * g) 256
      match firstBad s bl with
      | none => ⟨allocLine s g true (patch (rawBytes s (256 * g) 256) (a % 256) d), [], none⟩
      | some _ => chanWrite (countBad s bl) a d

/-- Count a hit or a miss of an access to a granule in its home slice. -/
def countAccess (s : State) (g : Nat) : State :=
  match lookup s g with
  | some _ => s.bump (Reg.MEM_PALf_HITCNT_COUNT (sliceOf g)) 1
  | none => s.bump (Reg.MEM_PALf_MISSCNT_COUNT (sliceOf g)) 1

/-- Serve the requests that wait on a miss, in order (R195); the slice keeps its last reply. -/
def serveWaiting (s : State) (sl : Nat) (ws : List Access) : State :=
  match ws with
  | [] => s
  | x :: r =>
    let m := if x.write then lineWrite s x.addr x.data else lineRead s x.addr x.len
    serveWaiting { m.st with reply := sput ⟨0, [], false⟩ m.st.reply sl ⟨x.addr, m.data, m.err.isSome⟩ } sl r

/-- Serve the requests that wait on a fill that found an uncorrectable block, in order and without allocation (R203). -/
def serveBad (s : State) (sl : Nat) (ws : List Access) : State :=
  match ws with
  | [] => s
  | x :: r =>
    let m : MemRes := if x.write then chanWrite s x.addr x.data
      else ⟨s, rawBytes s x.addr x.len, firstBad s (blocksOf x.addr x.len)⟩
    serveBad { m.st with reply := sput ⟨0, [], false⟩ m.st.reply sl ⟨x.addr, m.data, m.err.isSome⟩ } sl r

/-- The fill of the outstanding miss on granule `g` ends: every waiting request is served (R195, R203). -/
def endMiss (s : State) (g : Nat) : State :=
  let sl := sliceOf g
  let ms := sget [] s.misses sl
  match ms.find? (fun m => m.gran = g) with
  | none => s
  | some m =>
    let s := { s with misses := sput [] s.misses sl (ms.filter (fun x => x.gran ≠ g)) }
    let bl := blocksOf (256 * g) 256
    if (firstBad s bl).isSome && !(waysOf s sl .cache).isEmpty then serveBad (countBad s bl) sl m.wait
    else serveWaiting s sl m.wait

/-- A counted read within one granule at the home slice, after the fill under way on its line. -/
def homeRead (s : State) (a n : Nat) : MemRes := lineRead (countAccess (endMiss s (a / 256)) (a / 256)) a n

/-- A counted write within one granule at the home slice. -/
def homeWrite (s : State) (a : Nat) (d : List Byte) : MemRes :=
  lineWrite (countAccess (endMiss s (a / 256)) (a / 256)) a d

/-! ## Scratchpad words (R205) -/

/-- The first bad scratchpad word of a range. -/
def spadBadIn (s : State) (a n : Nat) : Option Nat :=
  (List.range n).findSome? (fun i =>
    match spadPlace s (a + i) with
    | some k => if sget false s.spBad (k / 8) then some (a + i) else none
    | none => none)

/-- A write of whole 64-bit words makes bad words good again (R205). -/
def healSpad (s : State) (a n : Nat) : State :=
  (List.range n).foldl (fun s i =>
    if (a + i) % 8 = 0 ∧ i + 8 ≤ n then
      match spadPlace s (a + i) with
      | some k => { s with spBad := sput false s.spBad (k / 8) false }
      | none => s
    else s) s

/-! ## Any range -/

/-- A read within one granule of any region (R187, R194). An unmapped or unbacked address faults at itself; R188 keeps
every access of a task from one. -/
def readPiece (s : State) (a n : Nat) : MemRes :=
  match regionOf s a with
  | .lpddr => homeRead s a n
  | .spad =>
    if (spadPlace s a).isSome then ⟨s, rawBytes s a n, spadBadIn s a n⟩ else ⟨s, List.replicate n 0, some a⟩
  | .none => ⟨s, List.replicate n 0, some a⟩
  | _ => ⟨s, rawBytes s a n, none⟩

/-- A write within one granule of any region. -/
def writePiece (s : State) (a : Nat) (d : List Byte) : MemRes :=
  match regionOf s a with
  | .lpddr => homeWrite s a d
  | .spad => if (spadPlace s a).isSome then ⟨healSpad (setSpad s a d) a d.length, [], none⟩ else ⟨s, [], some a⟩
  | .none => ⟨s, [], some a⟩
  | _ => ⟨s.setBytes a d, [], none⟩

/-- Read granule by granule; the first fault stops the read. -/
def devReadGo (s : State) (a n : Nat) (acc : List Byte) (fuel : Nat) : MemRes :=
  match fuel with
  | 0 => ⟨s, acc, none⟩
  | k + 1 =>
    if n = 0 then ⟨s, acc, none⟩
    else
      let m := min n (256 - a % 256)
      let r := readPiece s a m
      match r.err with
      | some e => ⟨r.st, acc, some e⟩
      | none => devReadGo r.st (a + m) (n - m) (acc ++ r.data) k

/-- Read `n` bytes at a device-local address. -/
def devRead (s : State) (a n : Nat) : MemRes := devReadGo s a n [] (n / 256 + 2)

/-- Write granule by granule; the first fault stops the write, and bytes already written stay. -/
def devWriteGo (s : State) (a : Nat) (d : List Byte) (fuel : Nat) : MemRes :=
  match fuel with
  | 0 => ⟨s, [], none⟩
  | k + 1 =>
    if d.isEmpty then ⟨s, [], none⟩
    else
      let m := min d.length (256 - a % 256)
      let r := writePiece s a (d.take m)
      match r.err with
      | some e => ⟨r.st, [], some e⟩
      | none => devWriteGo r.st (a + m) (d.drop m) k

/-- Write bytes at a device-local address. -/
def devWrite (s : State) (a : Nat) (d : List Byte) : MemRes := devWriteGo s a d (d.length / 256 + 2)

/-- The device-local address of an offset in a Frame's memory (R129). -/
def fmAddr (f o : Nat) : Nat := frameBase + f * 0x1000000 + o

/-- Bytes of a Frame's memory. -/
def fmBytes (s : State) (f o n : Nat) : List Byte := sgetList 0 s.mem (fmAddr f o) n

/-- Write bytes into a Frame's memory. -/
def State.setFm (s : State) (f o : Nat) (d : List Byte) : State := s.setBytes (fmAddr f o) d

end Sys2Proof.Machine
end

