-- ==== Sys2Proof/Machine/WeftTx.lean ====
section
/-! DEFINITION. Sending on the Weft: identities and routes (R272, R274), virtual channels (R275), records as bytes
(Tables 11-3, 11-4), flits (R268, R269), and handing a request to a port (R277, R281, R287). -/
namespace Sys2Proof.Machine

def State.myId (s : State) : Nat := s.get Reg.LNK_MODID_ID
def State.dx (s : State) : Nat := s.get Reg.LNK_FABRIC_DX_M1 + 1
def State.dy (s : State) : Nat := s.get Reg.LNK_FABRIC_DY_M1 + 1
def State.dz (s : State) : Nat := s.get Reg.LNK_FABRIC_DZ_M1 + 1

/-- The module id names a module of the fabric (R281). -/
def inFabric (s : State) (id : Nat) : Bool := id < 8 * (s.dx * s.dy * s.dz)

/-- Hank coordinates (x, y, z) and position of a module id (R272). -/
def coords (s : State) (id : Nat) : Nat × Nat × Nat × Nat :=
  let n := id / 8
  (n % s.dx, (n / s.dx) % s.dy, n / (s.dx * s.dy), id % 8)

/-- The direction of a hop in one dimension of extent `d` (R274): true for +, the shorter way, a tie going +. -/
def hopPlus (cur dst d : Nat) : Bool :=
  let f := (dst + d - cur) % d
  f ≤ d - f

/-- Is the hop on the upper channel of its class (R275)? It is once the dateline of the dimension is crossed. -/
def upperVc (plus : Bool) (src cur d : Nat) : Bool :=
  if plus then cur = d - 1 || cur < src else cur = 0 || src < cur

/-- The flex port that doubles direction `dir` (0 +X, 1 −X, … 5 −Z), where one does (Table 11-2). -/
def flexFor (s : State) (dir : Nat) : Option Nat :=
  [13, 14, 15].find? (fun p => s.get (Reg.LNK_PORTp_CFG_ROLE p) = 9 + dir)

/-- The port of a torus hop: the flex link takes the odd sums of SRC and DEST (R274). -/
def torusPort (s : State) (dir src dst : Nat) : Nat :=
  match flexFor s dir with
  | some p => if (src + dst) % 2 = 1 then p else 7 + dir
  | none => 7 + dir

/-- The next hop of a transaction from SRC to DEST at this module: port, and whether on the upper channel. None where
this module is the destination. -/
def nextHop (s : State) (src dst : Nat) : Option (Nat × Bool) :=
  let (cx, cy, cz, ch) := coords s s.myId
  let (ax, ay, az, _) := coords s src
  let (tx, ty, tz, th) := coords s dst
  if cx ≠ tx then
    let p := hopPlus cx tx s.dx
    some (torusPort s (if p then 0 else 1) src dst, upperVc p ax cx s.dx)
  else if cy ≠ ty then
    let p := hopPlus cy ty s.dy
    some (torusPort s (if p then 2 else 3) src dst, upperVc p ay cy s.dy)
  else if cz ≠ tz then
    let p := hopPlus cz tz s.dz
    some (torusPort s (if p then 4 else 5) src dst, upperVc p az cz s.dz)
  else if ch ≠ th then some ((th + 16 - ch - 1) % 8, false)
  else none

/-- The module id of Hank coordinates and position (R272). -/
def idOf (s : State) (x y z h : Nat) : Nat := 8 * (x + s.dx * (y + s.dy * z)) + h

/-- The neighbour in direction `d` (0 +X … 5 −Z); none in a dimension of extent 1 (R273). -/
def neighbour (s : State) (d : Nat) : Option Nat :=
  let (x, y, z, h) := coords s s.myId
  let mv (c e : Nat) : Nat := if d % 2 = 0 then (c + 1) % e else (c + e - 1) % e
  match d / 2 with
  | 0 => if s.dx = 1 then none else some (idOf s (mv x s.dx) y z h)
  | 1 => if s.dy = 1 then none else some (idOf s x (mv y s.dy) z h)
  | _ => if s.dz = 1 then none else some (idOf s x y (mv z s.dz) h)

/-- The module that the role of port `p` joins it to (Table 11-2); none for an unused port. -/
def rolePeer (s : State) (p : Nat) : Option Nat :=
  let r := s.get (Reg.LNK_PORTp_CFG_ROLE p)
  let (_, _, _, h) := coords s s.myId
  if r = 0 then none
  else if r = 1 then some (s.myId / 8 * 8 + (h + p + 1) % 8)
  else if r ≤ 7 then neighbour s (r - 2)
  else if 9 ≤ r ∧ r ≤ 14 then neighbour s (r - 9)
  else some (s.get (Reg.LNK_PORTp_CFG_PEER_MOD p))

/-- The type is a request (Table 11-4). -/
def isRequest (t : Nat) : Bool := t = 1 || t = 2 || (6 ≤ t && t ≤ 9)

/-- The type is a response. -/
def isResponse (t : Nat) : Bool := 3 ≤ t && t ≤ 5

/-- A record's bytes: the header of Table 11-3, then the data padded to a multiple of 8 (R278). -/
def recBytes (r : Record) : List Byte :=
  let h := r.typ % 16 + 16 * (r.len1 % 4096) + 2 ^ 16 * (r.dest % 65536) + 2 ^ 32 * (r.src % 65536)
    + 2 ^ 48 * (r.addr % 2 ^ 48) + 2 ^ 96 * (r.val % 2 ^ 32)
  toLE 16 h ++ r.data ++ List.replicate ((8 - r.data.length % 8) % 8) 0

def State.port (s : State) (p : Nat) : PortSt := sget PortSt.empty s.ports p
def State.setPort (s : State) (p : Nat) (x : PortSt) : State := { s with ports := sput PortSt.empty s.ports p x }

/-- The port is up, on 4 lanes or 2. -/
def portUp (s : State) (p : Nat) : Bool :=
  let st := s.get (Reg.LNK_PORTp_STAT_STATE p)
  st = 2 || st = 3

/-- The port is up and carries records: one in role 8 carries none (R281). -/
def carries (s : State) (p : Nat) : Bool := portUp s p && s.get (Reg.LNK_PORTp_CFG_ROLE p) ≠ 8

/-- The check of a flit (R269): over bytes 0 to 507 and the word that is never sent. -/
def flitCrc (b508 : List Byte) (seq mod port : Nat) : Nat :=
  crc32 (b508 ++ toLE 4 (seq % 4096 + 2 ^ 12 * (mod % 65536) + 2 ^ 28 * (port % 16)))

/-- The credits that a flit can return: up to 3 owed ones a channel, as CRED holds them. -/
def PortSt.cred (x : PortSt) : Nat := (List.range 4).foldl (fun a v => a + 4 ^ v * min 3 (sget 0 x.owe v)) 0

/-- A flit of port `p` to its peer: link word with acknowledgement and the credits `cred`, body, check. -/
def makeFlit (s : State) (p vc seq cred : Nat) (nak idle : Bool) (body : List Byte) : List Byte :=
  let x := s.port p
  let lw := vc % 4 + 4 + (if nak then 8 else 0) + 16 * ((x.rxSeq + 4095) % 4096) + 2 ^ 16 * cred
    + (if idle then 2 ^ 24 else 0)
  let b := toLE 4 lw ++ bytesAt body 0 504
  b ++ toLE 4 (flitCrc b seq (s.get (Reg.LNK_PORTp_PEER_MOD p)) (s.get (Reg.LNK_PORTp_PEER_PORT p)))

/-- The credits of a CRED field are no longer owed: a flit carries them. -/
def payCredits (x : PortSt) (cred : Nat) : PortSt :=
  { x with owe := (List.range 4).foldl (fun o v => sput 0 o v (sget 0 o v - (cred / 4 ^ v) % 4)) x.owe }

/-- The credits of a CRED field are owed again: the flit that carried them was discarded (R270). -/
def oweAgain (o : Sparse Nat) (cred : Nat) : Sparse Nat :=
  (List.range 4).foldl (fun o v => sput 0 o v (sget 0 o v + (cred / 4 ^ v) % 4)) o

/-- Form flits of one virtual channel while its stream holds bytes, the replay buffer room and the peer credits. -/
def pumpVc (s : State) (p vc : Nat) (fuel : Nat) : State :=
  match fuel with
  | 0 => s
  | k + 1 =>
    let x := s.port p
    let st := sget [] x.out vc
    if st.isEmpty ∨ 256 ≤ x.replay.length ∨ 256 ≤ sget 0 x.credit vc ∨ x.retrain.isSome ∨ portUp s p = false then s
    else
      let fl := makeFlit s p vc x.txSeq x.cred false false (st.take 504)
      let x := payCredits x x.cred
      pumpVc (s.setPort p { x with
        out := sput [] x.out vc (st.drop 504), replay := x.replay ++ [(x.txSeq, fl)],
        txSeq := (x.txSeq + 1) % 4096, credit := sput 0 x.credit vc (sget 0 x.credit vc + 1),
        ackT := if x.replay.isEmpty then s.now else x.ackT, sent := x.sent ++ [fl] }) p vc k

/-- Form what flits can be formed on a port, the response channels first. -/
def pump (s : State) (p : Nat) : State :=
  [2, 3, 0, 1].foldl (fun s v => pumpVc s p v ((sget [] (s.port p).out v).length / 504 + 1)) s

/-- Put a record on a virtual channel of a port; the flits go out as they can. -/
def putRecord (s : State) (p vc : Nat) (r : Record) : State :=
  let x := s.port p
  pump (s.setPort p { x with out := sput [] x.out vc (sget [] x.out vc ++ recBytes r), sent := [] }) p

/-- Forward a record one hop along its route; none where the port is down. -/
def forward (s : State) (r : Record) : Option State :=
  match nextHop s r.src r.dest with
  | none => none
  | some (p, up) =>
    if portUp s p then some (putRecord s p ((if isRequest r.typ then 0 else 2) + (if up then 1 else 0)) r)
    else none

/-- What became of a request handed to a port. -/
inductive SendRes where
  | sent (s : State)
  | refused (cause : Nat)
  deriving DecidableEq, Repr

/-- Hand a request of this module to its port (R277): the record is formed and the request noted as unanswered. A
destination outside the fabric is refused (R281), as is a route through a down port, with REJECT cause 2 (R287). The
destination is not this module. -/
def sendReq (s : State) (r : Record) (who : Origin) : SendRes :=
  if inFabric s r.dest = false then .refused 0
  else
    match nextHop s r.src r.dest with
    | none => .refused 0
    | some (p, _) =>
      match forward s r with
      | none => .refused 2
      | some s =>
        let x := s.port p
        .sent (s.setPort p { x with reqs := x.reqs ++ [⟨r.typ, r.dest, r.addr, who⟩] })

/-- Send a response towards the module that asked; dropped where the route is down (R287). -/
def sendResp (s : State) (r : Record) : State :=
  match forward s r with
  | some s => s
  | none => s

/-- A REJECT is noted (R278): LNK_ERRLOG keeps the first, and a record names its cause. -/
def noteReject (s : State) (cause typ port mod : Nat) : State :=
  let s := if s.on Reg.LNK_ERRLOG_VALID then s
    else ((((s.put Reg.LNK_ERRLOG_VALID 1).put Reg.LNK_ERRLOG_CAUSE cause).put Reg.LNK_ERRLOG_TYPE typ).put
      Reg.LNK_ERRLOG_PORT port).put Reg.LNK_ERRLOG_MOD mod
  s.logErr { sev := 0, unit := 9, cause := 5, index := port, d0 := cause, stamp := s.timeOf (64 + port / 4) }

/-- Hand a request of this module to its port; a refusal by a down port is noted as a REJECT of this module (R287). The
Bool says that the request was sent. -/
def sendNoted (s : State) (r : Record) (who : Origin) : State × Bool :=
  match sendReq s r who with
  | .sent t => (t, true)
  | .refused 0 => (s, false)
  | .refused c => (noteReject s c r.typ (((nextHop s r.src r.dest).map (fun p => p.1)).getD 0) s.myId, false)

/-! ## Multicast (R282, R283) -/

/-- The ports on which this module forwards a group's writes. -/
def mcastPorts (s : State) (g : Nat) : List Nat := (List.range 16).filter (fun p => bit (s.get (Reg.LNK_MGRPg_PORTS g)) p)

/-- The direction of a port of a torus dimension (0 +X … 5 −Z), by its number or its role. -/
def portDir (s : State) (p : Nat) : Option Nat :=
  if 7 ≤ p ∧ p ≤ 12 then some (p - 7)
  else
    let r := s.get (Reg.LNK_PORTp_CFG_ROLE p)
    if 9 ≤ r ∧ r ≤ 14 then some (r - 9) else none

/-- A multicast hop on port `p` takes the channel that unicast traffic of the root would take (R282). -/
def mcastVc (s : State) (p src : Nat) : Nat :=
  let (cx, cy, cz, _) := coords s s.myId
  let (ax, ay, az, _) := coords s src
  match portDir s p with
  | some d =>
    let plus := d % 2 = 0
    b2n (match d / 2 with
      | 0 => upperVc plus ax cx s.dx
      | 1 => upperVc plus ay cy s.dy
      | _ => upperVc plus az cz s.dz)
  | none => 0

/-- Every port of a group's mask can carry its writes. -/
def mcastUp (s : State) (g : Nat) : Bool := (mcastPorts s g).all (carries s)

/-- Put a multicast write on every port of its group's mask together (R283). -/
def mcastOut (s : State) (g : Nat) (r : Record) : State :=
  (mcastPorts s g).foldl (fun s p => putRecord s p (mcastVc s p r.src) r) s

/-! ## Answers to records that came in (R275, R276) -/

/-- The REJECT of a request. -/
def rejectRec (s : State) (r : Record) (cause : Nat) : Record :=
  { typ := 5, len1 := 0, dest := r.src, src := s.myId, addr := r.addr, val := cause, data := [] }

/-- The acknowledgement of one request. -/
def ackRec (s : State) (r : Record) : Record := { typ := 4, len1 := 0, dest := r.src, src := s.myId, addr := 0, val := 1, data := [] }

/-- The data of a READ. -/
def dataRec (s : State) (r : Record) (d : List Byte) : Record :=
  { typ := 3, len1 := r.len1, dest := r.src, src := s.myId, addr := r.addr, val := 0, data := d }

/-- The answers of a port that may leave, and the requests that stay: an answer waits for every earlier request of its source. -/
def repliesGo (l : List InReq) (early : List Nat) : List Record × List InReq :=
  match l with
  | [] => ([], [])
  | x :: r =>
    match x.ans with
    | some a =>
      if early.contains x.req.src then (let (o, k) := repliesGo r early; (o, x :: k))
      else (let (o, k) := repliesGo r early; (a :: o, k))
    | none => let (o, k) := repliesGo r (x.req.src :: early); (o, x :: k)

/-- The answers of port `p` go back in the order of each source's requests (R276). -/
def sendReplies (s : State) (p : Nat) : State :=
  let (o, k) := repliesGo (s.port p).inb []
  o.foldl sendResp (s.setPort p { s.port p with inb := k })

/-- Port `p` takes in a request that is answered in `due` parts. -/
def openReq (s : State) (p : Nat) (r : Record) (due : Nat) : State :=
  s.setPort p { s.port p with inb := (s.port p).inb ++ [⟨r, none, due, [], none, s.now⟩] }

/-- A request that port `p` has taken in is answered at once, in its place in the order of answers. -/
def answerNow (s : State) (p : Nat) (r a : Record) : State :=
  sendReplies (s.setPort p { s.port p with inb := (s.port p).inb ++ [⟨r, some a, 0, [], none, s.now⟩] }) p

/-- The oldest unanswered request that satisfies `q` is changed. -/
def changeReq (l : List InReq) (q : Record → Bool) (k : InReq → InReq) : List InReq :=
  match l with
  | [] => []
  | x :: t => if x.ans.isNone && q x.req then k x :: t else x :: changeReq t q k

/-- A request taken in gets its answer; one that the port has forgotten, since it went down, gets none. -/
def replyTo (s : State) (p : Nat) (q : Record → Bool) (a : Record) : State :=
  sendReplies (s.setPort p { s.port p with inb := changeReq (s.port p).inb q (fun x => { x with ans := some a }) }) p

/-- A part of a request has been answered, with bytes or with a REJECT cause; the last part completes its answer. -/
def InReq.part (s : State) (addr : Nat) (d : List Byte) (err : Option Nat) (x : InReq) : InReq :=
  let y := { x with due := x.due - 1, got := sputList 0 x.got addr d, bad := x.bad.or err }
  if y.due = 0 then
    { y with ans := some (match y.bad with
        | some c => rejectRec s x.req c
        | none => if x.req.typ = 2 then dataRec s x.req (sgetList 0 y.got x.req.addr (x.req.len1 + 1)) else ackRec s x.req) }
  else y

/-- A part of request `r`, which came in by port `p`, has been answered. -/
def partDone (s : State) (p : Nat) (r : Record) (addr : Nat) (d : List Byte) (err : Option Nat) : State :=
  sendReplies (s.setPort p { s.port p with inb := changeReq (s.port p).inb (fun x => x = r) (InReq.part s addr d err) }) p

/-- Bytes of the answer to a request. -/
def answerBytes (r : Record) : Nat := if r.typ = 2 then 16 + (r.len1 + 8) / 8 * 8 else 16

/-- Bytes of the response buffers of a port (R275; DESIGN CHOICE, assumption 66: the spec gives no number). -/
def responseRoom : Nat := 256 * 504

/-- Bytes on port `q` that wait as responses or are reserved for the answers to requests taken in. -/
def reserved (s : State) (q : Nat) : Nat :=
  (sget [] (s.port q).out 2).length + (sget [] (s.port q).out 3).length +
  ((List.range 16).map (fun p =>
    (((s.port p).inb.filter (fun x => (nextHop s s.myId x.req.src).map (fun h => h.1) = some q)).map (fun x => answerBytes x.req)).sum)).sum

/-- There is room to reserve for the answer to a request (R275). -/
def answerRoom (s : State) (r : Record) : Bool :=
  match nextHop s s.myId r.src with
  | some (q, _) => reserved s q + answerBytes r ≤ responseRoom
  | none => true

/-! ## Receive streams (R268, R275, R278) -/

/-- Flit bodies that a receive buffer holds for a stream of `n` bytes not yet consumed. -/
def bodies (n : Nat) : Nat := (n + 503) / 504

/-- A receive stream after bytes of it are consumed: a credit is owed for every body freed. -/
def setRx (s : State) (p vc : Nat) (old new : List Byte) : State :=
  let x := s.port p
  s.setPort p { x with
    rx := sput [] x.rx vc new, owe := sput 0 x.owe vc (sget 0 x.owe vc + (bodies old.length - bodies new.length)) }

/-- A stream without the pad units at its front: units whose first byte is 0 (R278). -/
def dropPads (st : List Byte) (fuel : Nat) : List Byte :=
  match fuel with
  | 0 => st
  | k + 1 =>
    match st with
    | b :: _ => if b = 0 ∧ 8 ≤ st.length then dropPads (st.drop 8) k else st
    | [] => []

def unpad (st : List Byte) : List Byte := dropPads st (st.length / 8 + 1)

/-- A malformed record is discarded and counted; a request is answered with REJECT cause 5 (R278). -/
def malformed (s : State) (p : Nat) (r : Record) : State :=
  let s := s.bump (Reg.LNK_PORTp_CRCCNT_PROTO p) 1
  if isRequest r.typ then answerNow s p r (rejectRec s r 5) else s

/-- The header of a record in a stream, without its data. -/
def headOf (st : List Byte) : Record :=
  let h := leAt st 0 16
  ⟨bits h 3 0, bits h 15 4, bits h 31 16, bits h 47 32, bits h 95 48, bits h 127 96, []⟩

/-- The type is defined and belongs to the class of the channel (R275, R278): TIME rides VC2. -/
def classOk (t vc : Nat) : Bool := if vc < 2 then isRequest t else isResponse t || (t = 10 && vc = 2)

/-- The records at the front of a stream that no channel of its class carries are discarded (R278). -/
def purgeGo (s : State) (p vc : Nat) (st : List Byte) (fuel : Nat) : State × List Byte :=
  match fuel with
  | 0 => (s, st)
  | k + 1 =>
    let st := unpad st
    if st.length < 16 then (s, st)
    else
      let h := headOf st
      let known : Bool := 1 ≤ h.typ && h.typ ≤ 10
      let n := 16 + (if hasData h.typ then (h.len1 + 8) / 8 * 8 else 0)
      if classOk h.typ vc ∨ (known ∧ st.length < n) then (s, st)
      else
        let s := s.bump (Reg.LNK_PORTp_CRCCNT_PROTO p) 1
        let s := if isRequest h.typ || (!known && vc < 2) then answerNow s p h (rejectRec s h 5) else s
        purgeGo s p vc (st.drop (if known then n else 16)) k

/-- The channel whose receive stream begins with these bytes. -/
def rxChannel (s : State) (p : Nat) (rb : List Byte) : Option Nat :=
  if rb.isEmpty then none else [0, 1, 2, 3].find? (fun vc => rb.isPrefixOf (unpad (sget [] (s.port p).rx vc)))

/-- Bytes at the front of a receive stream are consumed, with what follows them that its channel does not carry. -/
def rxTake (s : State) (p : Nat) (rb : List Byte) : State :=
  match rxChannel s p rb with
  | some vc =>
    let old := sget [] (s.port p).rx vc
    let (t, r) := purgeGo s p vc ((unpad old).drop rb.length) (old.length / 8 + 1)
    setRx t p vc old r
  | none => s

/-- A record comes from a port: taken from the front of a receive stream that begins with it, else as it arrives. -/
def rxConsume (s : State) (p : Nat) (r : Record) : State := rxTake s p (recBytes r)

end Sys2Proof.Machine
end

