-- ==== Sys2Proof/Machine/Errors.lean ====
section
/-! DEFINITION. What happens after an error (R386, R392 to R395): a task's abort, a Shuttle queue's cancel (R183), a
step's failure (R302), Knot additions with their range check (R148, R150), the module stop, segment errors (R104). -/
namespace Sys2Proof.Machine

/-- The stored value of the register at byte offset `off` (R389: the first-fault or status register at detection). -/
def storedWord (s : State) (off : Nat) : Nat :=
  match findReg off with
  | some (d, _) => d.fields.foldl (fun a fl => a + s.get (fl.ref off) * 2 ^ fl.lo) 0
  | none => 0

/-- The module is stopped (R395). -/
def stopped (s : State) : Bool := s.on Reg.STU_ERR_STAT_MSTOP

/-! ## Who reaches which block (R339) -/

/-- The block at a BAR0 offset answers the host: none without power, in reset, or before the host port has trained; HIF, STU
and INT from then on, the others from the first ready on (R339), but in recovery mode only those three (R372); FRM, PLY and
LNK only in service and while the module is not stopped (R371, R395). -/
def hostOpen (s : State) (off : Nat) : Bool :=
  if s.on Reg.STU_PINS_PERST || s.get Reg.STU_PINS_PGOOD = 0 || s.get Reg.HIF_LINK_GEN = 0 then false
  else if off < 0x300000 then true
  else if off < 0x600000 then s.get Reg.STU_BOOT_STAT_MODE = 1 || s.get Reg.STU_BOOT_STAT_MODE = 2
  else if 0x4000000 ≤ off then true
  else if 0x2000000 ≤ off then s.get Reg.STU_BOOT_STAT_MODE ≠ 0
  else s.get Reg.STU_BOOT_STAT_MODE = 1 && !stopped s

/-- The block at an offset answers an agent; the Studio reaches every block but one held in reset, and none while PERST_N is
asserted (R363). -/
def agentOpen (s : State) (by_ : Agent) (off : Nat) : Bool :=
  match by_ with
  | .host => hostOpen s off
  | .studio => s.standby && s.get Reg.STU_PINS_PERST = 0 && !((stopped s || 2 ≤ s.get Reg.STU_BOOT_STAT_MODE) &&
      ((0x600000 ≤ off && off < 0x800000) || (0x1000000 ≤ off && off < 0x1400000)))

/-! ## The asynchronous crossing to the Frames (R223) -/

/-- Entries of an asynchronous FIFO (R223). -/
def fifoDepth : Nat := 16

/-- A register write to Frame `f` has effect at once, or stands in the FIFO of the host port and the Studio while the Frame has no clock
edge or earlier ones wait (R223, R226); with the FIFO full it waits outside the module. -/
def viaCtl (s : State) (by_ : Agent) (f off v : Nat) (op : Host.Outcome State Fault Refusal) : Host.Outcome State Fault Refusal :=
  if frameStill s f || !s.ctlIn.isEmpty then
    (if s.ctlIn.length < fifoDepth then .next { s with ctlIn := s.ctlIn ++ [(by_, off, v)] } else .next s)
  else op

/-! ## The end of a job -/

/-- The loaded job ends: its JOB_POST gets its result (R349), which HOST_COMMAND_COMPLETE writes out. -/
def completeJob (s : State) (status detail : Nat) : State :=
  if s.job.loaded then
    let r := sget HostRing.empty s.rings s.job.ring
    let r := { r with cmds := r.cmds.map (fun c =>
      if c.k = s.job.k then { c with result := some (status, detail) } else c) }
    { s with rings := sput HostRing.empty s.rings s.job.ring r, job := { s.job with loaded := false } }
  else s

/-! ## Shuttle queues -/

def State.sh (s : State) (f j : Nat) : ShutSt := sget ShutSt.empty s.shut (16 * f + j)
def State.setSh (s : State) (f j : Nat) (x : ShutSt) : State :=
  { s with shut := sput ShutSt.empty s.shut (16 * f + j) x }

/-- Requests issued before a cancel that are outstanding. -/
def ShutSt.waits (x : ShutSt) : Bool := x.late || !x.asked.isEmpty || !x.unacked.isEmpty

/-- CANCEL_BUSY reads 1 until every request issued before the cancel has completed (R183). -/
def syncBusy (s : State) (f j : Nat) : State :=
  s.put (Reg.FRM_SQj_STATE_CANCEL_BUSY f j)
    (b2n (s.on (Reg.FRM_SQj_STATE_CANCEL_BUSY f j) && (s.sh f j).waits))

/-- Set DONE equal to ISSUED (R183, R393). -/
def doneAll (s : State) (f q : Nat) : State := s.put (Reg.FRM_Qq_DONE_COUNT f q) (s.get (Reg.FRM_Qq_ISSUED_COUNT f q))

/-- Cancel a Shuttle queue (R183): its words and the word executing are discarded, no request is issued any more, data
not delivered is discarded; requests already issued stay outstanding. -/
def cancelQueue (s : State) (f j : Nat) : State :=
  let x := s.sh f j
  let y := { ShutSt.empty with
    late := x.late || x.reqT.isSome || x.batT.isSome, unacked := x.unacked, asked := x.asked, reqT := x.reqT.or x.batT }
  let s := (s.setSh f j y).setQueue f (9 + j) QueueSt.empty
  let s := doneAll s f (9 + j)
  let s := (s.put (Reg.FRM_SQj_STATE_CANCELLED f j) 1).put (Reg.FRM_SQj_STATE_CANCEL_BUSY f j) (b2n y.waits)
  let drop (z : Nat) (s : State) : State :=
    match injector s z f with
    | some (_, qq) => if qq = j then s.setInj z f { s.inj z f with run := [] } else s
    | none => s
  drop 1 (drop 0 s)

/-- The first Shuttle fault of a Frame is kept in FRM_SQ_FAULT and FRM_SQ_FAULTADDR (R184). -/
def keepShFault (s : State) (f j cause addr item : Nat) : State :=
  if s.on (Reg.FRM_SQ_FAULT_VALID f) then s
  else ((((s.put (Reg.FRM_SQ_FAULT_VALID f) 1).put (Reg.FRM_SQ_FAULT_QUEUE f) j).put (Reg.FRM_SQ_FAULT_CAUSE f) cause).put
    (Reg.FRM_SQ_FAULT_ITEM f) item).put (Reg.FRM_SQ_FAULTADDR_ADDR f) addr

/-- The engine queues of a Frame whose command waits for data of Shuttle queue `j`, or still has output for it, when a
cancel takes effect (R183): a started command that names the queue, or one whose output exceeds the stream buffer. -/
def starvedBy (s : State) (f j : Nat) : List Nat :=
  ((List.range 9) ++ [25, 26]).filter (fun q =>
    let x := s.queue f q
    (match x.words with
      | w :: _ => (takesFrom q w).contains j || (givesTo q w).contains j
      | [] => false) ||
    (x.ran.any (fun w => (givesTo q w).contains j) && 16384 < (s.sh f j).fromEng.length))

/-! ## Segments (R104) -/

/-- Put bytes on a virtual channel of a port. -/
def putStream (s : State) (p vc : Nat) (bs : List Byte) : State :=
  let x := s.port p
  pump (s.setPort p { x with out := sput [] x.out vc (sget [] x.out vc ++ bs), sent := [] }) p

/-- The 8-byte unit that returns one ring credit (assumption 40). -/
def creditUnit (z : Nat) : Nat := 3 + 2 ^ 40 * (z % 2) + 2 ^ 41 * 3

/-- Discard what a member of a segment holds: the beats and notices of its stage, and what its port has taken. -/
def emptyMember (s : State) (z m : Nat) : State :=
  let p := s.rport z m
  ((s.setStage z m []).setNotice z m []).setRport z m
    { p with buf := [], run := [], full := [], got := 0, ovf := false, out := [], reland := [], reovf := false, past := none }

/-- Discard every beat and notice of a segment and reset its credits (R104): those of its flex ports, and the runs of the injector that
feeds it. -/
def resetSegment (s : State) (z i : Nat) : State :=
  let ms := segment s z i
  let hd := segHead s z i
  let back := (s.stage z hd).length
  let s := ms.foldl (fun s m => emptyMember s z m) s
  let s := match ms.getLast?.bind (flexOut s z) with
    | some p => { s with flexUsed := sput 0 s.flexUsed (2 * p + z) 0 }
    | none => s
  let s := match flexFed s z hd with
    | some p => if back = 0 then s else putStream s p 2 ((List.replicate back (toLE 8 (creditUnit z))).flatten)
    | none => s
  ms.foldl (fun s m =>
    match injector s z (idxFrame m) with
    | some (sl, _) => if ringIdx (idxFrame m) sl = m then s.setInj z (idxFrame m) { s.inj z (idxFrame m) with run := [], redo := [] } else s
    | none => s) s

/-! ## Task aborts (R393) -/

/-- The abort of a task is under way. -/
def aborting (s : State) (t : Nat) : Bool := s.aborts.any (fun a => a.task = t)

/-- The (Frame, queue) pairs that a task owns, ascending. -/
def taskQueues (s : State) (t : Nat) : List (Nat × Nat) :=
  ((List.range 1728).map (fun k => (k / 27, k % 27))).filter (fun p => s.qTask p.1 p.2 = t)

/-- Halt every core of a task; a faulted one keeps STATE 5 (R393). -/
def haltCores (s : State) (t : Nat) : State :=
  (List.range 256).foldl (fun s k =>
    if s.cTask (k / 4) (k % 4) = t then
      let s := s.setCore (k / 4) (k % 4) { s.core (k / 4) (k % 4) with kread := none }
      if s.cState (k / 4) (k % 4) ≠ 5 then (s.put (Reg.FRM_COREc_STATE_STATE (k / 4) (k % 4)) 0) else s
    else s) s

/-- The physical Spindle that queue `q` feeds (R66): slot q itself or the spare that stands in for it. -/
def physOf (s : State) (f q : Nat) : Option Nat :=
  if 8 ≤ q then none
  else if s.get (Reg.FRM_SPDn_SHAPE_SLOT f q) = q ∧ s.get (Reg.FRM_SPDn_SHAPE_RETIRED f q) = 0 then some q
  else if s.get (Reg.FRM_SPDn_SHAPE_SLOT f 8) = q ∧ s.get (Reg.FRM_SPDn_SHAPE_RETIRED f 8) = 0 then some 8
  else none

def State.spin (s : State) (f n : Nat) : SpinSt := sget SpinSt.empty s.spins (9 * f + n)
def State.setSpin (s : State) (f n : Nat) (x : SpinSt) : State :=
  { s with spins := sput SpinSt.empty s.spins (9 * f + n) x }

/-- Discard an engine queue's commands; writes already done stay done (R393). -/
def flushEngine (s : State) (f q : Nat) : State :=
  let s := doneAll (s.setQueue f q QueueSt.empty) f q
  let s :=
    match physOf s f q with
    | some n => s.setSpin f n { s.spin f n with sel := none, retry := none, open_ := [] }
    | none => s
  if q = 25 then { s with brushIn := sput [] s.brushIn f [] }
  else if q = 26 then { s with easelIn := sput [] s.easelIn f [] }
  else s

/-- The part of an abort that happens at once (R393): cores halt, Shuttle queues are cancelled, engine queues discard.
Returns the number of engine commands that the cancels starve (R394). -/
def abortTask (s : State) (t : Nat) : State × Nat :=
  let s := haltCores s t
  let qs := taskQueues s t
  let (s, n) := qs.foldl (fun (s, n) (f, q) =>
    if 9 ≤ q ∧ q ≤ 24 then
      let k := (starvedBy s f (q - 9)).length
      let s := cancelQueue s f (q - 9)
      (if k = 0 then s else keepShFault s f (q - 9) 9 0 0, n + k)
    else (s, n)) (s, 0)
  (qs.foldl (fun s (f, q) => if 9 ≤ q ∧ q ≤ 24 then s else flushEngine s f q) s, n)

/-- Begin the aborts of the tasks of a list that are not under way, caused by the record `seq`; the ring segments that
carried them are reset, and tasks that share one are ended with them (R393). -/
def startAborts (s : State) (ts : List Nat) (seq : Nat) : State :=
  let uses := ringUses s
  let all := closeTasks uses ts 16
  let new := all.filter (fun t => !aborting s t)
  let segs := ((uses.filter (fun u => all.contains u.1)).map (fun u => u.2)).eraseDups
  let s := new.foldl (fun s t =>
    let (s, n) := abortTask s t
    { s with aborts := s.aborts ++ [⟨t, seq, s.timeOf 71, n⟩] }) s
  segs.foldl (fun s u => resetSegment s u.1 u.2) s

/-- A task-fatal error of a unit (R386, R393). A unit of no task, or of one whose job has ended, records it with
severity C. -/
def State.taskErr (s : State) (e : ErrInfo) : State :=
  if e.task = 0 ∨ s.job.loaded = false then s.logErr { e with sev := 0 }
  else
    let seq := s.nextSeq
    let was := aborting s e.task
    let s := s.logErr { e with sev := 1 }
    if was then s else startAborts s [e.task] seq

/-- The tasks of the loaded job. -/
def jobTasks (s : State) : List Nat := if s.job.loaded then (List.range s.job.ntask).map (· + 1) else []

/-- Every task of the job is aborted, caused by the record accepted last (R306, R350). -/
def abortJob (s : State) : State := startAborts s (jobTasks s) (s.nextSeq - 1)

/-- A Glaze switch is refused (R377): no Frame takes its shadow, ACK_KNOT receives nothing, and every task of the job
ends. -/
def refuseGlaze (s : State) (word : Nat) : State :=
  let s := { s.put Reg.STU_GLAZE_BUSY 0 with glazeReq := none, glazeT := none, job := { s.job with nextG := 0 } }
  abortJob (s.logErr { sev := 1, unit := 0, cause := 4, d0 := word, stamp := s.timeOf 71 })

/-! ## Knots (R146 to R151) -/

def State.knot (s : State) (f k : Nat) : Nat := s.get (Reg.FRM_KNOTk_VALUE f k)

/-- FRM_KSTAT.KNOT names the Knot of the first overflow or underflow recorded (R150, Table 6-9, R387). -/
def kstatKnot (s : State) (f k : Nat) : State :=
  if s.on (Reg.FRM_KSTAT_UNF f) || s.on (Reg.FRM_KSTAT_OVF f) then s else s.put (Reg.FRM_KSTAT_KNOT f) k

/-- An addition whose exact result is in range; otherwise the Knot is unchanged, and KSTAT says so (R150). The Bool says
that it was out of range. -/
def knotRaw (s : State) (f k : Nat) (d : Int) : State × Bool :=
  let v : Int := (s.knot f k : Int) + d
  if v < 0 then ((kstatKnot s f k).put (Reg.FRM_KSTAT_UNF f) 1, true)
  else if 4294967295 < v then ((kstatKnot s f k).put (Reg.FRM_KSTAT_OVF f) 1, true)
  else (s.put (Reg.FRM_KNOTk_VALUE f k) v.toNat, false)

/-- The Knots of a task are set to 0 (R151). -/
def resetKnots (s : State) (t : Nat) : State :=
  (List.range 16384).foldl (fun s k =>
    if s.get (Reg.FRM_KCFGk_TASK (k / 256) (k % 256)) = t then s.put (Reg.FRM_KNOTk_VALUE (k / 256) (k % 256)) 0 else s) s

/-! ## The step (R301, R302) -/

def stepState (s : State) : Nat := s.get Reg.PLY_STEP_STATE
def rootId (s : State) : Nat := s.get Reg.PLY_STEPCFG_ROOT
/-- The module-wide number of step Knot `i` (R301). -/
def stepKnot (s : State) (i : Nat) : Nat := s.get Reg.PLY_KBASE_BASE + i

/-- Add 1 to step Knot `i` of module `m`, by a record or at once on this module; the Bool says that it was out of range here. -/
def signalRaw (s : State) (m i : Nat) : State × Bool :=
  let k := stepKnot s i
  if m = s.myId then knotRaw s (k / 256) (k % 256) 1
  else
    match sendReq s { typ := 7, len1 := 0, dest := m, src := s.myId, addr := k, val := 1, data := [] } .knot with
    | .sent s => (s, false)
    | .refused _ => (s, false)

/-- The record of an addition out of range to Knot `k` of Frame `f`, which belongs to no task (R150). -/
def knotStepRec (s : State) (f core : Nat) : ErrInfo :=
  { sev := 2, unit := 4, cause := 8, index := 4 * f + core, d0 := storedWord s (0x1008800 + 0x10000 * f), stamp := s.timeOf f }

/-- An error that fails the step at once (R302): RUN becomes FAILED and the root is told; after arrival the next step is
charged with it. -/
def stepFail (s : State) : State :=
  match stepState s with
  | 1 =>
    let (t, bad) := signalRaw (s.put Reg.PLY_STEP_STATE 3) (rootId s) 3
    if bad then t.logErr (knotStepRec t (stepKnot s 3 / 256) 0) else t
  | 2 => { s with stepSt := { s.stepSt with owed := true } }
  | _ => s

/-- Add 1 to step Knot `i` of module `m`; an addition out of range on this module fails the step (R150). -/
def signal (s : State) (m i : Nat) : State :=
  let (t, bad) := signalRaw s m i
  if bad then stepFail (t.logErr (knotStepRec t (stepKnot s i / 256) 0)) else t

/-- Record a step-fatal error and fail the step. -/
def State.stepErr (s : State) (e : ErrInfo) : State := stepFail (s.logErr { e with sev := 2 })

/-- Add to a Knot (R147, R148): an addition out of range ends the Knot's task, or fails the step where the Knot has none
(R150). `core` is the instance the error record names. -/
def knotAdd (s : State) (f k : Nat) (d : Int) (core : Nat) : State :=
  let (s1, bad) := knotRaw s f k d
  if bad then
    let t := s.get (Reg.FRM_KCFGk_TASK f k)
    let st := storedWord s1 (0x1008800 + 0x10000 * f)
    if t = 0 then s1.stepErr (knotStepRec s1 f core)
    else
      s1.taskErr { sev := 1, unit := 4, cause := if d < 0 then 5 else 4, index := 4 * f + core, task := t, d0 := st,
                   stamp := s.timeOf f }
  else s1

/-- An addition to a Knot by its module-wide number. -/
def knotAddG (s : State) (k : Nat) (d : Int) : State := knotAdd s (k / 256) (k % 256) d 0

/-- A command word completes (R66, R138): its queue's DONE increments, and its Knot gets 1 where KNOT_EN is 1. -/
def completeWord (s : State) (f q w : Nat) : State :=
  let s := s.put (Reg.FRM_Qq_DONE_COUNT f q) (s.get (Reg.FRM_Qq_DONE_COUNT f q) + 1)
  if wKnotEn w then knotAdd s f (wKnot w) 1 0 else s

/-! ## The module stop (R392, R395) -/

/-- Every register of the blocks FRM, PLY and LNK at its reset value. -/
def resetBlocks (r : Sparse Nat) : Sparse Nat :=
  sclear (sclear r (64 * 0x600000) (64 * 0x200000)) (64 * 0x1000000) (64 * 0x400000)

/-- Hold the Frames, the Ply units and the Weft ports in reset: their registers and everything they hold but the Frame
memories. -/
def resetUnits (s : State) : State :=
  { s with regs := resetBlocks s.regs, cores := [], wakes := [], queues := [], shut := [], spins := [], stages := [], notices := [],
           rports := [], injs := [], force := [], brushIn := [], easelIn := [], easelStat := [], mesh := [], meshOut := [], edgeIn := [],
           edgeOut := [], grants := [], ports := [],
           mcasts := [], timeReq := none, freeRun := false, ctlIn := [], shards := [], held := [], withheld := [], stats := [], lineDone := [],
           verRec := [], stepSt := StepSt.empty }

/-- Save the newest record and the 63 before it in the flash's error area (R392). -/
def saveErrors (s : State) : State :=
  { s with errArea := ((s.log.drop (s.log.length - 64), false) :: s.errArea).take 16 }

/-- The module stop (R395), `seq` in its record's DETAIL0. -/
def moduleStop (s : State) (seq : Nat) : State :=
  let s := completeJob (resetUnits { s with aborts := [] }) 6 s.job.last
  (s.put Reg.STU_ERR_STAT_MSTOP 1).logErr { sev := 3, unit := 0, cause := 9, d0 := seq, stamp := s.timeOf 71 }

/-- A module-fatal error (R386): recorded, and the module stops, once. -/
def State.modErr (s : State) (e : ErrInfo) : State :=
  let seq := s.nextSeq
  let first := s.get (Reg.STU_ERRCNT_SEVv_COUNT 3) = 0 ∧ stopped s = false
  let s := s.logErr { e with sev := 3 }
  let s := if first then (s.put Reg.STU_ERR_STAT_UNIT e.unit).put Reg.STU_ERR_STAT_CAUSE e.cause else s
  if stopped s then s else moduleStop (saveErrors s) seq

/-! ## Segment errors (R104) -/

/-- The FRM_RERR bit of a segment error by its cause: 2 uncorrectable beat, 3 protocol violation, 4 watchdog. The error of a flex hop
that is down at a Glaze switch (R91), for which no bit is named, sets that of the watchdog (DESIGN CHOICE, assumption 47). -/
def rerrBit (z f cause : Nat) : Ref :=
  match z, cause with
  | 0, 2 => Reg.FRM_RERR_S_ECC f
  | 0, 3 => Reg.FRM_RERR_S_PROTO f
  | 0, _ => Reg.FRM_RERR_S_WDOG f
  | _, 2 => Reg.FRM_RERR_Z_ECC f
  | _, 3 => Reg.FRM_RERR_Z_PROTO f
  | _, _ => Reg.FRM_RERR_Z_WDOG f

/-- No error bit of FRM_RERR is set. -/
def rerrClear (s : State) (f : Nat) : Bool := (storedWord s (0x100D014 + 0x10000 * f)) % 64 = 0

/-- The stage that FRM_RERR.SLOT names (Table 4-5): 8 where a beat is found unreadable, or is held, at the crossing into a Frame. -/
def rerrSlot (s : State) (z i cause : Nat) : Nat :=
  if cause ≠ 3 ∧ idxSlot i = (if z = 0 then 0 else 7) ∧ (isHead s z i = false ∨ (flexFed s z i).isSome) then 8
  else idxSlot i

/-- A segment error of kind `kind` (2 uncorrectable beat, 3 protocol violation, 4 watchdog) at index `i` of ring `z` (R104), `cause` in
its record: FRM_RERR, the record, every task with a command on the segment ends, the segment is emptied. -/
def segErrorAs (s : State) (z i kind cause : Nat) : State :=
  let f := idxFrame i
  let sl := rerrSlot s z i kind
  let s := if rerrClear s f then s.put (Reg.FRM_RERR_SLOT f) sl else s
  let s := s.put (rerrBit z f kind) 1
  let hd := segHead s z i
  let ts := (((ringUses s).filter (fun u => u.2 = (z, hd) && u.1 ≠ 0)).map (fun u => u.1)).eraseDups
  let e : ErrInfo := { sev := 1, unit := 2, cause := cause, index := 16 * f + sl,
                       d0 := storedWord s (0x100D014 + 0x10000 * f), stamp := s.timeOf f }
  let seq := s.nextSeq
  match ts with
  | [] => resetSegment (s.logErr { e with sev := 0 }) z i
  | t :: _ =>
    let new := ts.filter (fun t => !aborting s t)
    resetSegment (startAborts (s.logErr { e with task := t }) new seq) z i

/-- A segment error whose record's cause is its kind. -/
def segError (s : State) (z i kind : Nat) : State := segErrorAs s z i kind kind

/-! ## The start of a pass -/

/-- The selector and SKEW of a physical slot (Table 4-5) as one value. -/
def selOf (s : State) (f n : Nat) : Nat :=
  s.get (Reg.FRM_RPn_SEL_S_SID f n) + 2 ^ 8 * s.get (Reg.FRM_RPn_SEL_S_PART f n) + 2 ^ 16 * s.get (Reg.FRM_RPn_SEL_Z_SID f n)
    + 2 ^ 24 * s.get (Reg.FRM_RPn_SEL_Z_PART f n) + 2 ^ 32 * s.get (Reg.FRM_RPn_SEL_SKEW f n)

/-- A pass that has reached the head of its queue starts and samples its slot's selector and SKEW (R90); one with
INIT = RING starts only when its whole block has landed (R95). -/
def startPass (s : State) (f q : Nat) : State :=
  match physOf s f q, (s.queue f q).words with
  | some n, w :: _ =>
    let i := ringIdx f q
    let landed : Bool := match reduceRing s i with
      | some z => !(s.rport z i).full.isEmpty
      | none => true
    if (s.spin f n).sel.isNone && (wOp w = 0x12 || (wOp w = 0x11 && (spInit w != 2 || landed))) then
      s.setSpin f n { s.spin f n with sel := some (selOf s f n) }
    else s
  | _, _ => s

end Sys2Proof.Machine
end

