-- ==== Sys2Proof/Machine/EventCtl.lean ====
section
/-! DEFINITION. The event controller (R353 to R360): levels of the sources, their states, what is deliverable, claims,
completions, MSI-X messages, and the HRB_N pin (R352). -/
namespace Sys2Proof.Machine

/-- Any of the listed fields is not 0. -/
def anySet (s : State) (rs : List Ref) : Bool := rs.any (fun r => s.get r ≠ 0)

def State.ring (s : State) (n : Nat) : HostRing := sget HostRing.empty s.rings n
def State.setRing (s : State) (n : Nat) (x : HostRing) : State :=
  { s with rings := sput HostRing.empty s.rings n x }

/-- Completion ring `n` meets its coalescing condition (R360). -/
def coalesced (s : State) (n : Nat) : Bool :=
  let r := s.ring n
  match r.times with
  | [] => false
  | t :: _ =>
    s.get (Reg.HIF_RINGn_IRQ_COUNT n) ≤ r.times.length ||
      (s.get (Reg.HIF_RINGn_IRQ_TIME n) ≠ 0 && t + s.get (Reg.HIF_RINGn_IRQ_TIME n) * tickUs ≤ s.now)

/-- A Frame's fault level (Table 15-9). -/
def frameFault (s : State) (f : Nat) : Bool :=
  anySet s [Reg.FRM_SQ_FAULT_VALID f, Reg.FRM_RERR_S_WDOG f, Reg.FRM_RERR_Z_WDOG f, Reg.FRM_RERR_S_PROTO f,
    Reg.FRM_RERR_Z_PROTO f, Reg.FRM_RERR_S_ECC f, Reg.FRM_RERR_Z_ECC f, Reg.FRM_KSTAT_OVF f, Reg.FRM_KSTAT_UNF f,
    Reg.FRM_KSTAT_TMO f, Reg.FRM_MESH_ERR_HDR f, Reg.FRM_MESH_ERR_WDOG f] ||
  (List.range 4).any (fun c => s.cState f c = 5)

/-- FRM_NUMSTAT is not zero. -/
def numFlag (s : State) (f : Nat) : Bool :=
  anySet s [Reg.FRM_NUMSTAT_NAN_IN f, Reg.FRM_NUMSTAT_SAT f, Reg.FRM_NUMSTAT_OVF_INF f, Reg.FRM_NUMSTAT_RETRY_EXH f,
    Reg.FRM_NUMSTAT_CVT_SAT f, Reg.FRM_NUMSTAT_CVT_NAN f]

/-- Unread records of the log (R391). -/
def unread (s : State) : Nat := (s.log.filter (fun r => !r.read)).length

/-- The level of a source (Table 15-9). -/
def srcLevel (s : State) (src : Nat) : Bool :=
  if src < 64 then frameFault s src
  else if src < 128 then numFlag s (src - 64)
  else if src < 192 then coalesced s (src - 128)
  else if src < 512 then
    match src with
    | 192 => (List.range 64).any (fun n => s.on (Reg.HIF_RINGn_STAT_ERR n))
    | 193 => anySet s [Reg.CLK_STAT_LOCKFAIL, Reg.CLK_STAT_PHASEERR, Reg.CLK_STAT_SAFE, Reg.CLK_STAT_BACKUP,
        Reg.CLK_STAT_HOLDOVER, Reg.INT_ACK_FCHG] || s.freeRun || (List.range 72).any (fun g => s.on (Reg.CLK_GENg_STAT_REFLOSS g))
    | 194 => anySet s [Reg.PWR_STAT_COOLCHG, Reg.PWR_STAT_THERM_WARN, Reg.PWR_STAT_MODEL_MISMATCH, Reg.INT_ACK_THROTTLE]
    | 195 => anySet s [Reg.MEM_ERRADDR_VALID, Reg.MEM_REPAIR_STAT_DONE, Reg.MEM_REPAIR_STAT_FAIL,
        Reg.MEM_REPAIR_STAT_NOSPARE, Reg.MEM_REPAIR_STAT_GRPBUSY]
    | 196 => s.on Reg.MEM_PALFL_CTL_DONE
    | 197 => (List.range 16).any (fun p => anySet s [Reg.LNK_PORTp_STAT_DEGRADE p, Reg.LNK_PORTp_STAT_DOWN_EVT p,
        Reg.LNK_PORTp_STAT_CABLE_ERR p])
    | 198 => anySet s [Reg.PLY_STAT_LINEERR, Reg.PLY_STAT_ROOTLOST, Reg.PLY_STAT_JOBFAIL, Reg.PLY_STAT_RSECC,
        Reg.PLY_STAT_RSFULL, Reg.PLY_STAT_DUP, Reg.PLY_STAT_VERMM, Reg.PLY_STAT_LATE]
    | 199 => Config.stuWaits (storedWord s 0x100000) (storedWord s 0x10000C)
    | 200 => s.log.any (fun r => !r.read)
    | _ => false
  else if src < 768 then
    let w := src - 512
    let k := s.get (Reg.INT_KWATCHw_KNOT w)
    s.get (Reg.INT_KWATCHw_THRESH w) ≤ s.knot (k / 256) (k % 256)
  else bit (s.get (Reg.INT_SWSETr_BITS ((src - 768) / 32))) ((src - 768) % 32)

def srcPrio (s : State) (src : Nat) : Nat := s.get (Reg.INT_SRCs_CFG_PRIO src)
def srcTarget (s : State) (src : Nat) : Nat := s.get (Reg.INT_SRCs_CFG_TARGET src)

/-- The claim record of an active source. -/
def activeOf (s : State) (src : Nat) : Option ActiveSrc := s.active.find? (fun a => a.src = src)

/-- The state of a source (Table 15-10): 0 idle, 1 pending, 2 active, 3 active and pending. -/
def srcState (s : State) (src : Nat) : Nat :=
  match activeOf s src with
  | some a => if a.dropped ∧ srcLevel s src then 3 else 2
  | none => if srcLevel s src then 1 else 0

/-- A target's running priority (R356). -/
def runPrio (s : State) (t : Nat) : Nat :=
  (s.active.filter (fun a => a.target = t)).foldl (fun m a => max m (srcPrio s a.src)) 0

/-- A source is deliverable to its target (R356). -/
def deliverable (s : State) (src : Nat) : Bool :=
  srcState s src = 1 && max (s.get (Reg.INT_TGTt_THR_THR (srcTarget s src))) (runPrio s (srcTarget s src)) < srcPrio s src

/-- The sources whose PRIO is not 0, ascending: no other is ever delivered (R353). -/
def prioSources (s : State) : List Nat :=
  s.regs.filterMap (fun (k, _) =>
    if 64 * 0x200000 ≤ k ∧ k < 64 * 0x202000 ∧ (k - 64 * 0x200000) % 512 = 0 then some ((k - 64 * 0x200000) / 512) else none)

/-- The deliverable sources of a target, ascending. -/
def deliverables (s : State) (t : Nat) : List Nat :=
  (prioSources s).filter (fun src => srcTarget s src = t && deliverable s src)

/-- The first of the sources of highest PRIO. -/
def bestSource (s : State) (l : List Nat) (best : Option Nat) : Option Nat :=
  match l with
  | [] => best
  | x :: r =>
    match best with
    | none => bestSource s r (some x)
    | some b => bestSource s r (if srcPrio s b < srcPrio s x then some x else some b)

/-- A claim by a target (R356): the source made active and its number, or all ones. -/
def claim (s : State) (t : Nat) : State × Option Nat :=
  match bestSource s (deliverables s t) none with
  | none => (s, none)
  | some x => ({ s with active := s.active ++ [⟨x, t, false⟩] }, some x)

/-- A write of TARGET and PRIO takes effect (a TARGET above 258 reads 258). -/
def setSrcCfg (s : State) (src v : Nat) : State :=
  (s.put (Reg.INT_SRCs_CFG_PRIO src) (v % 16)).put (Reg.INT_SRCs_CFG_TARGET src) (min 258 ((v / 16) % 512))

/-- A completion by a target (R357): spurious, or the source leaves the active state and a waiting write takes effect. -/
def complete (s : State) (t src : Nat) : State :=
  if s.active.any (fun a => a.src = src && a.target = t) then
    let s := { s with active := s.active.filter (fun a => a.src ≠ src) }
    match sget 0 s.defer src with
    | 0 => s
    | v + 1 => setSrcCfg { s with defer := sput 0 s.defer src 0 } src v
  else s.bump Reg.INT_SPURIOUS_DONE_COUNT 1

/-- A message for a vector: sent, or marked pending while BAR4 masks it (R359). -/
def sendMsix (s : State) (v : Nat) : State :=
  if sget true s.msixMask v then { s with msixPend := sput false s.msixPend v true }
  else { s with msix := ⟨v, sget 0 s.msixAddr v, sget 0 s.msixData v⟩ :: s.msix }

/-- A core that sleeps is to wake when a source becomes deliverable to it, even where the source drops again before it does (R152,
R358). -/
def latchWakes (s : State) : State :=
  (prioSources s).foldl (fun s x =>
    let t := srcTarget s x
    if t < 256 ∧ s.cState (t / 4) (t % 4) = 4 ∧ deliverable s x then
      { s with wakes := sput false s.wakes t true }
    else s) s

/-- Bring the event controller up to date after a change of levels, thresholds or claims: a claimed source whose level is
low is noted, a sleeping core's wake is latched, and each source that has become deliverable to the host sends its message (R355,
R358, R359). -/
def evRefresh (s : State) : State :=
  let act := s.active.map (fun a => if srcLevel s a.src then a else { a with dropped := true })
  let s := latchWakes { s with active := act }
  let now := deliverables s 258
  let s := if s.on Reg.INT_HOSTCFG_MSIX_EN then
      (now.filter (fun x => !s.ready.contains x)).foldl (fun s x => sendMsix s (s.get (Reg.INT_SRCs_CFG_VEC x))) s
    else s
  { s with ready := now }

/-- A Studio core at its own port (R356, R357): it completes a source that it has served, one whose level has dropped since its claim, and
claims the next. -/
def studioServes (s : State) (t : Nat) : State :=
  let s := (s.active.filter (fun a => a.target = t && a.dropped)).foldl (fun s a => complete s t a.src) s
  if s.active.any (fun a => a.target = t) then s else (claim s t).1

/-- The HRB_N pin (Table 15-8): true while it is released. -/
def hrbReleased (s : State) : Bool :=
  if s.on Reg.STU_PINS_PERST || s.get Reg.STU_BOOT_STAT_MODE = 0 || s.flr.isSome then false
  else if s.get Reg.HIF_CTL_READY_ACK = 0 then true
  else !(deliverables s 258).isEmpty

/-- The next state of a command that may have changed what the event controller watches. -/
def finish (s : State) : Host.Outcome State Fault Refusal := .next (evRefresh s)

end Sys2Proof.Machine
end

