-- ==== Sys2Proof/Machine/MeshNet.lean ====
section
/-! DEFINITION. The buffers and routes of the mesh (R213 to R217, R223) and how a unit hands a packet to its router. Input ports: 0
local, 1 east, 2 north, 3 west, 4 south, 5 edge. Virtual channels: 0 requests, 1 responses, 2 register traffic. -/
namespace Sys2Proof.Machine

def meshKey (f i v : Nat) : Nat := 18 * f + 3 * i + v
def State.meshQ (s : State) (f i v : Nat) : List MeshPkt := sget [] s.mesh (meshKey f i v)
def State.setMeshQ (s : State) (f i v : Nat) (l : List MeshPkt) : State := { s with mesh := sput [] s.mesh (meshKey f i v) l }

/-- Packets a buffer holds (R214). -/
def meshDepth : Nat := 8

/-- The Frame whose edge port leads to Weft port `p` (Table 9-1). -/
def weftFrame (p : Nat) : Nat := if p < 8 then 8 * p else 8 * (p - 8) + 7

/-- The router at which a packet for an endpoint leaves the mesh. -/
def MeshEnd.router (d : MeshEnd) : Nat :=
  match d with
  | .frame f => f
  | .weft p => weftFrame p

/-- The channel that carries a packet (R214). -/
def MeshOp.vc (o : MeshOp) : Nat :=
  match o with
  | .write _ _ => 0
  | .read _ _ => 0
  | .add _ _ _ _ _ => 0
  | .kadd _ _ => 0
  | .kread _ => 0
  | .send _ => 0
  | .data _ _ _ => 1
  | .ack _ _ => 1
  | .knot _ => 1

/-- The next Frame on the way from `f` to `d` and the input port it is entered by, along x first (R214). -/
def meshNext (f d : Nat) : Nat × Nat :=
  if f % 8 < d % 8 then (f + 1, 3)
  else if d % 8 < f % 8 then (f - 1, 1)
  else if f / 8 < d / 8 then (f + 8, 4)
  else (f - 8, 2)

/-- Put a packet into a buffer. -/
def meshPut (s : State) (f i v : Nat) (p : MeshPkt) : State := s.setMeshQ f i v (s.meshQ f i v ++ [{ p with t := s.now }])

/-- A buffer has room: the sender holds a credit (R217). -/
def meshRoom (s : State) (f i v : Nat) : Bool := (s.meshQ f i v).length < meshDepth

/-- The router takes what the units of its Frame have sent, in order, while its local buffer has room. -/
def meshPump (s : State) (f v : Nat) : State :=
  let q := s.meshQ f 0 v
  let o := sget [] s.meshOut (3 * f + v)
  let k := meshDepth - q.length
  { s.setMeshQ f 0 v (q ++ (o.take k).map (fun p => { p with t := s.now })) with meshOut := sput [] s.meshOut (3 * f + v) (o.drop k) }

/-- A unit of Frame `f` sends a packet (R215: in the order sent). -/
def meshSend (s : State) (f : Nat) (p : MeshPkt) : State :=
  let v := p.op.vc
  meshPump { s with meshOut := sput [] s.meshOut (3 * f + v) (sget [] s.meshOut (3 * f + v) ++ [p]) } f v

/-- The Frame that serves a device-local address: the one that holds the memory, or lies under the home slice (R187, R193). -/
def homeFrame (s : State) (a : Nat) : Option Nat :=
  match regionOf s a with
  | .frame => some ((a - frameBase) / 0x1000000)
  | .spad => some ((a - spadBase) / 0x4000000)
  | .lpddr => some (sliceOf (a / 256))
  | _ => none

/-- The Frame across the mesh that serves an address; none where Frame `f` reaches it without the mesh: its own memory and slice, and
host memory. -/
def meshHome (s : State) (f a : Nat) : Option Nat :=
  match homeFrame s a with
  | some g => if g = f then none else some g
  | none => none

end Sys2Proof.Machine
end

