-- ==== Sys2Proof/Machine/Tkx.lean ====
section
/-! DEFINITION. The TKX-2 instructions of the Frame cores (R134, R237 to R250). A core command has its effect when the core
runs (FRM_COREc_STATE.STATE = 1), its Frame is neither gated nor still, and the word that it fetches is the command's encoding (R240);
otherwise it changes nothing. -/
namespace Sys2Proof.Machine

def State.pc (s : State) (f c : Nat) : Nat := s.get (Reg.FRM_COREc_PC_PC f c)
def State.setPc (s : State) (f c : Nat) (v : Nat) : State := s.put (Reg.FRM_COREc_PC_PC f c) v

/-- The core executes instructions: it is not waiting for a Knot of another Frame either (R247). -/
def running (s : State) (f c : Nat) : Bool :=
  s.cState f c = 1 && s.get (Reg.FRM_PWRCTL_GATED f) = 0 && (s.core f c).kread.isNone && !frameStill s f

/-- The PC may be fetched from (R239). -/
def fetchOk (s : State) (f c : Nat) : Bool := s.pc f c % 4 = 0 && s.pc f c < s.get (Reg.FRM_SEGs_LIM_LIMIT f 0)

/-- An instruction of the core ends its task (R134): STATE 5, and the task's abort. `cause` is of Table 17-3, unit 4. -/
def coreFault (s : State) (f c cause addr : Nat) : State :=
  (s.put (Reg.FRM_COREc_STATE_STATE f c) 5).taskErr
    { sev := 1, unit := 4, cause := cause, index := 4 * f + c, task := s.cTask f c, addr := addr,
      d0 := storedWord s (0x1008800 + 0x10000 * f), stamp := s.timeOf f }

/-! ## Words (R240, Tables 10-2 to 10-4) -/

/-- A word of Format R. -/
def encR (maj d a b fn : Nat) : Nat := 2 ^ 26 * maj + 2 ^ 21 * d + 2 ^ 16 * a + 2 ^ 11 * b + fn

/-- A word of Format I, or of Format S with B for `d`. -/
def encI (maj d a : Nat) (imm : BitVec 16) : Nat := 2 ^ 26 * maj + 2 ^ 21 * d + 2 ^ 16 * a + imm.toNat

/-- A word of Format J. -/
def encJ (maj : Nat) (ofs : BitVec 26) : Nat := 2 ^ 26 * maj + ofs.toNat

/-- Where a core fetches: sb0 + PC (R239). -/
def fetchAddr (s : State) (f c : Nat) : Nat := (sget 0 (s.core f c).sb 0).toNat + s.pc f c

/-- The line of the core's instruction cache that holds what it fetches. -/
def fetchLine (s : State) (f c : Nat) : Option (List Byte) :=
  ((s.core f c).icache.find? (fun l => l.1 = fetchAddr s f c / 256 * 256)).map (fun l => l.2)

/-- The word that the core fetches, where its instruction cache holds it (R134, R240: little-endian). -/
def fetchWord (s : State) (f c : Nat) : Option Nat := (fetchLine s f c).map (fun d => leAt d (fetchAddr s f c % 256) 4)

/-- Where a core runs: what it does, with a fetch that is not allowed halting it (R239). -/
def coreRun (s : State) (f c : Nat) (op : Host.Outcome State Fault Refusal) : Host.Outcome State Fault Refusal :=
  if running s f c then
    (if fetchOk s f c then op else finish (coreFault s f c 1 (s.pc f c)))
  else .next s

/-- One instruction of a core: `op` where the word it fetches is `w`. A core whose instruction cache lacks the line stalls (R134). -/
def coreStep (s : State) (f c w : Nat) (op : Host.Outcome State Fault Refusal) : Host.Outcome State Fault Refusal :=
  coreRun s f c (if fetchWord s f c = some w then op else .next s)

/-- Go on to the next instruction. -/
def advance (s : State) (f c : Nat) : State := s.setPc f c (s.pc f c + 4)

/-- An instruction whose effect is to write register `d` (R243). -/
def writeOp (f c w d : Nat) (v : W64) (s : State) : Host.Outcome State Fault Refusal :=
  coreStep s f c w (.next (advance (s.setGreg f c d v) f c))

/-! ## Arithmetic (R243, R244) -/

/-- An instruction of MAJ 0x01 on two registers; FN selects it (Table 10-4). -/
def aluR (fn f c d a b : Nat) (g : W64 → W64 → W64) (s : State) : Host.Outcome State Fault Refusal :=
  writeOp f c (encR 0x01 d a b fn) d (g (s.greg f c a) (s.greg f c b)) s

/-- An instruction of Format I on a register and the immediate, extended by `ext`. -/
def aluI (maj f c d a : Nat) (imm : BitVec 16) (ext : BitVec 16 → W64) (g : W64 → W64 → W64) (s : State) :
    Host.Outcome State Fault Refusal :=
  writeOp f c (encI maj d a imm) d (g (s.greg f c a) (ext imm)) s

def oneIf (b : Bool) : W64 := if b then 1 else 0
def shAmt (b : W64) : Nat := b.toNat % 64
def sextI (imm : BitVec 16) : W64 := imm.signExtend 64
def zextI (imm : BitVec 16) : W64 := imm.zeroExtend 64
/-- Bits [127:64] of the signed product. -/
def mulhOp (a b : W64) : W64 := BitVec.ofInt 64 ((a.toInt * b.toInt) / 18446744073709551616)
/-- Bits [127:64] of the unsigned product. -/
def mulhuOp (a b : W64) : W64 := BitVec.ofNat 64 ((a.toNat * b.toNat) / 18446744073709551616)
/-- Signed division (R244): truncated; all ones for a zero divisor; -2^63 / -1 is -2^63. -/
def divOp (a b : W64) : W64 := if b = 0 then BitVec.allOnes 64 else BitVec.ofInt 64 (a.toInt.tdiv b.toInt)
def divuOp (a b : W64) : W64 := if b = 0 then BitVec.allOnes 64 else BitVec.ofNat 64 (a.toNat / b.toNat)
/-- Signed remainder (R244): the dividend's sign; the dividend for a zero divisor. -/
def remOp (a b : W64) : W64 := if b = 0 then a else BitVec.ofInt 64 (a.toInt.tmod b.toInt)
def remuOp (a b : W64) : W64 := if b = 0 then a else BitVec.ofNat 64 (a.toNat % b.toNat)

/-- ADD: D = A + B. -/
def execAdd (f : Fin 64) (c : Fin 4) (d : Fin 32) (a : Fin 32) (b : Fin 32) (s : State) : Host.Outcome State Fault Refusal :=
  aluR 0 f c d a b (fun x y => x + y) s

/-- SUB: D = A − B. -/
def execSub (f : Fin 64) (c : Fin 4) (d : Fin 32) (a : Fin 32) (b : Fin 32) (s : State) : Host.Outcome State Fault Refusal :=
  aluR 1 f c d a b (fun x y => x - y) s

/-- AND: D = A and B. -/
def execAnd (f : Fin 64) (c : Fin 4) (d : Fin 32) (a : Fin 32) (b : Fin 32) (s : State) : Host.Outcome State Fault Refusal :=
  aluR 2 f c d a b (fun x y => x &&& y) s

/-- OR: D = A or B. -/
def execOr (f : Fin 64) (c : Fin 4) (d : Fin 32) (a : Fin 32) (b : Fin 32) (s : State) : Host.Outcome State Fault Refusal :=
  aluR 3 f c d a b (fun x y => x ||| y) s

/-- XOR: D = A xor B. -/
def execXor (f : Fin 64) (c : Fin 4) (d : Fin 32) (a : Fin 32) (b : Fin 32) (s : State) : Host.Outcome State Fault Refusal :=
  aluR 4 f c d a b (fun x y => x ^^^ y) s

/-- SLL: D = A shifted left by B[5:0]. -/
def execSll (f : Fin 64) (c : Fin 4) (d : Fin 32) (a : Fin 32) (b : Fin 32) (s : State) : Host.Outcome State Fault Refusal :=
  aluR 5 f c d a b (fun x y => x <<< shAmt y) s

/-- SRL: logical right by B[5:0]. -/
def execSrl (f : Fin 64) (c : Fin 4) (d : Fin 32) (a : Fin 32) (b : Fin 32) (s : State) : Host.Outcome State Fault Refusal :=
  aluR 6 f c d a b (fun x y => x >>> shAmt y) s

/-- SRA: arithmetic right by B[5:0]. -/
def execSra (f : Fin 64) (c : Fin 4) (d : Fin 32) (a : Fin 32) (b : Fin 32) (s : State) : Host.Outcome State Fault Refusal :=
  aluR 7 f c d a b (fun x y => x.sshiftRight (shAmt y)) s

/-- SLT: 1 if A < B signed, else 0. -/
def execSlt (f : Fin 64) (c : Fin 4) (d : Fin 32) (a : Fin 32) (b : Fin 32) (s : State) : Host.Outcome State Fault Refusal :=
  aluR 8 f c d a b (fun x y => oneIf (x.slt y)) s

/-- SLTU: 1 if A < B unsigned, else 0. -/
def execSltu (f : Fin 64) (c : Fin 4) (d : Fin 32) (a : Fin 32) (b : Fin 32) (s : State) : Host.Outcome State Fault Refusal :=
  aluR 9 f c d a b (fun x y => oneIf (x.ult y)) s

/-- MIN: the signed minimum. -/
def execMin (f : Fin 64) (c : Fin 4) (d : Fin 32) (a : Fin 32) (b : Fin 32) (s : State) : Host.Outcome State Fault Refusal :=
  aluR 10 f c d a b (fun x y => if x.slt y then x else y) s

/-- MAX: the signed maximum. -/
def execMax (f : Fin 64) (c : Fin 4) (d : Fin 32) (a : Fin 32) (b : Fin 32) (s : State) : Host.Outcome State Fault Refusal :=
  aluR 11 f c d a b (fun x y => if x.slt y then y else x) s

/-- MINU: the unsigned minimum. -/
def execMinu (f : Fin 64) (c : Fin 4) (d : Fin 32) (a : Fin 32) (b : Fin 32) (s : State) : Host.Outcome State Fault Refusal :=
  aluR 12 f c d a b (fun x y => if x.ult y then x else y) s

/-- MAXU: the unsigned maximum. -/
def execMaxu (f : Fin 64) (c : Fin 4) (d : Fin 32) (a : Fin 32) (b : Fin 32) (s : State) : Host.Outcome State Fault Refusal :=
  aluR 13 f c d a b (fun x y => if x.ult y then y else x) s

/-- MUL: the low 64 bits of A × B. -/
def execMul (f : Fin 64) (c : Fin 4) (d : Fin 32) (a : Fin 32) (b : Fin 32) (s : State) : Host.Outcome State Fault Refusal :=
  aluR 16 f c d a b (fun x y => x * y) s

/-- MULH: bits [127:64] of the signed product. -/
def execMulh (f : Fin 64) (c : Fin 4) (d : Fin 32) (a : Fin 32) (b : Fin 32) (s : State) : Host.Outcome State Fault Refusal :=
  aluR 17 f c d a b (fun x y => mulhOp x y) s

/-- MULHU: bits [127:64] of the unsigned product. -/
def execMulhu (f : Fin 64) (c : Fin 4) (d : Fin 32) (a : Fin 32) (b : Fin 32) (s : State) : Host.Outcome State Fault Refusal :=
  aluR 18 f c d a b (fun x y => mulhuOp x y) s

/-- DIV: signed quotient (R244). -/
def execDiv (f : Fin 64) (c : Fin 4) (d : Fin 32) (a : Fin 32) (b : Fin 32) (s : State) : Host.Outcome State Fault Refusal :=
  aluR 19 f c d a b (fun x y => divOp x y) s

/-- DIVU: unsigned quotient (R244). -/
def execDivu (f : Fin 64) (c : Fin 4) (d : Fin 32) (a : Fin 32) (b : Fin 32) (s : State) : Host.Outcome State Fault Refusal :=
  aluR 20 f c d a b (fun x y => divuOp x y) s

/-- REM: signed remainder (R244). -/
def execRem (f : Fin 64) (c : Fin 4) (d : Fin 32) (a : Fin 32) (b : Fin 32) (s : State) : Host.Outcome State Fault Refusal :=
  aluR 21 f c d a b (fun x y => remOp x y) s

/-- REMU: unsigned remainder (R244). -/
def execRemu (f : Fin 64) (c : Fin 4) (d : Fin 32) (a : Fin 32) (b : Fin 32) (s : State) : Host.Outcome State Fault Refusal :=
  aluR 22 f c d a b (fun x y => remuOp x y) s

/-- ADDI: D = A + sext(IMM). -/
def execAddi (f : Fin 64) (c : Fin 4) (d : Fin 32) (a : Fin 32) (imm : BitVec 16) (s : State) : Host.Outcome State Fault Refusal :=
  aluI 0x02 f c d a imm sextI (fun x y => x + y) s

/-- ANDI: D = A and zext(IMM). -/
def execAndi (f : Fin 64) (c : Fin 4) (d : Fin 32) (a : Fin 32) (imm : BitVec 16) (s : State) : Host.Outcome State Fault Refusal :=
  aluI 0x03 f c d a imm zextI (fun x y => x &&& y) s

/-- ORI: D = A or zext(IMM). -/
def execOri (f : Fin 64) (c : Fin 4) (d : Fin 32) (a : Fin 32) (imm : BitVec 16) (s : State) : Host.Outcome State Fault Refusal :=
  aluI 0x04 f c d a imm zextI (fun x y => x ||| y) s

/-- XORI: D = A xor zext(IMM). -/
def execXori (f : Fin 64) (c : Fin 4) (d : Fin 32) (a : Fin 32) (imm : BitVec 16) (s : State) : Host.Outcome State Fault Refusal :=
  aluI 0x05 f c d a imm zextI (fun x y => x ^^^ y) s

/-- SLTI: 1 if A < sext(IMM) signed, else 0. -/
def execSlti (f : Fin 64) (c : Fin 4) (d : Fin 32) (a : Fin 32) (imm : BitVec 16) (s : State) : Host.Outcome State Fault Refusal :=
  aluI 0x06 f c d a imm sextI (fun x y => oneIf (x.slt y)) s

/-- SLTIU: 1 if A < sext(IMM) unsigned, else 0. -/
def execSltiu (f : Fin 64) (c : Fin 4) (d : Fin 32) (a : Fin 32) (imm : BitVec 16) (s : State) : Host.Outcome State Fault Refusal :=
  aluI 0x07 f c d a imm sextI (fun x y => oneIf (x.ult y)) s

/-- SHI: A shifted by IMM[5:0]; IMM[7:6] 0 left, 1 logical right, 2 arithmetic right. -/
def execShi (f : Fin 64) (c : Fin 4) (d : Fin 32) (a : Fin 32) (kind : Fin 3) (amt : BitVec 6) (s : State) :
    Host.Outcome State Fault Refusal :=
  let x := s.greg f c a
  writeOp f c (encI 0x08 d a (BitVec.ofNat 16 (64 * kind.val + amt.toNat))) d (if kind.val = 0 then x <<< amt.toNat else if kind.val = 1 then x >>> amt.toNat
    else x.sshiftRight amt.toNat) s

/-- `x` with bits [16h+15:16h] replaced by `imm`. -/
def insertHalf (x : W64) (h : Nat) (imm : BitVec 16) : W64 :=
  (x &&& ~~~((0xFFFF : W64) <<< (16 * h))) ||| ((imm.zeroExtend 64) <<< (16 * h))

/-- INSH: D[16h+15:16h] = IMM; the other bits of D are unchanged. -/
def execInsh (f : Fin 64) (c : Fin 4) (d : Fin 32) (h : Fin 4) (imm : BitVec 16) (s : State) :
    Host.Outcome State Fault Refusal :=
  writeOp f c (encI 0x09 d h imm) d (insertHalf (s.greg f c d) h imm) s

/-! ## Loads and stores (R238) -/

/-- Where a core address leads (Table 10-1). -/
inductive Place where
  | sram (o : Nat)
  | fmem (o : Nat)
  | bad
  deriving DecidableEq, Repr

/-- The place of an access of `n` bytes; an access that is not aligned to its width, or elsewhere, is bad (R238). -/
def placeOf (a : W64) (n : Nat) : Place :=
  let x := a.toNat
  if x % n ≠ 0 then .bad
  else if x < 0x20000 then .sram x
  else if 0x10000000 ≤ x ∧ x < 0x11000000 then .fmem (x - 0x10000000)
  else .bad

/-- The address A + sext(IMM). -/
def effAddr (s : State) (f c a : Nat) (imm : BitVec 16) : W64 := s.greg f c a + sextI imm

/-- What an ECC event of a Frame memory read does (R133): a single-bit error is corrected, counted and logged. -/
def fmemEcc (s : State) (f : Nat) (ecc : Ecc) : State :=
  match ecc with
  | .ok => s
  | .single => (s.bump (Reg.FRM_FMEM_ECCCNT_CORR f) 1).logErr
      { sev := 0, unit := 6, cause := 1, index := f, d0 := storedWord s (0x100C000 + 0x10000 * f), stamp := s.timeOf f }
  | _ => s.bump (Reg.FRM_FMEM_ECCCNT_UNCORR f) 1

/-- A load of `n` bytes into `d`, extended by `ext`. A word of Frame memory with a double-bit error ends the task (R133). -/
def loadOp (maj f c d a : Nat) (imm : BitVec 16) (n : Nat) (ext : Nat → W64) (ecc : Ecc) (s : State) :
    Host.Outcome State Fault Refusal :=
  coreStep s f c (encI maj d a imm) (
    match placeOf (effAddr s f c a imm) n with
    | .bad => finish (coreFault s f c 1 (effAddr s f c a imm).toNat)
    | .sram o => .next (advance (s.setGreg f c d (ext (ofLE (sgetList 0 (s.core f c).ram o n)))) f c)
    | .fmem o =>
      match ecc with
      | .ok => .next (advance (s.setGreg f c d (ext (ofLE (fmBytes s f o n)))) f c)
      | .single => finish (advance ((fmemEcc s f ecc).setGreg f c d (ext (ofLE (fmBytes s f o n)))) f c)
      | _ =>
        let s := fmemEcc s f ecc
        finish ((s.put (Reg.FRM_COREc_STATE_STATE f c) 5).taskErr
          { sev := 1, unit := 6, cause := 2, index := f, task := s.cTask f c, addr := fmAddr f o,
            d0 := storedWord s (0x100C000 + 0x10000 * f), stamp := s.timeOf f }))

def sextN (w x : Nat) : W64 := BitVec.ofInt 64 (signed w x)
def zextN (x : Nat) : W64 := BitVec.ofNat 64 x

/-- LB: D = one byte, sign-extended, at A + sext(IMM). -/
def execLb (f : Fin 64) (c : Fin 4) (d : Fin 32) (a : Fin 32) (imm : BitVec 16) (ecc : Ecc) (s : State) :
    Host.Outcome State Fault Refusal :=
  loadOp 0x10 f c d a imm 1 (sextN 8) ecc s

/-- LBU: D = one byte, zero-extended, at A + sext(IMM). -/
def execLbu (f : Fin 64) (c : Fin 4) (d : Fin 32) (a : Fin 32) (imm : BitVec 16) (ecc : Ecc) (s : State) :
    Host.Outcome State Fault Refusal :=
  loadOp 0x11 f c d a imm 1 zextN ecc s

/-- LH: D = 2 bytes, sign-extended, at A + sext(IMM). -/
def execLh (f : Fin 64) (c : Fin 4) (d : Fin 32) (a : Fin 32) (imm : BitVec 16) (ecc : Ecc) (s : State) :
    Host.Outcome State Fault Refusal :=
  loadOp 0x12 f c d a imm 2 (sextN 16) ecc s

/-- LHU: D = 2 bytes, zero-extended, at A + sext(IMM). -/
def execLhu (f : Fin 64) (c : Fin 4) (d : Fin 32) (a : Fin 32) (imm : BitVec 16) (ecc : Ecc) (s : State) :
    Host.Outcome State Fault Refusal :=
  loadOp 0x13 f c d a imm 2 zextN ecc s

/-- LW: D = 4 bytes, sign-extended, at A + sext(IMM). -/
def execLw (f : Fin 64) (c : Fin 4) (d : Fin 32) (a : Fin 32) (imm : BitVec 16) (ecc : Ecc) (s : State) :
    Host.Outcome State Fault Refusal :=
  loadOp 0x14 f c d a imm 4 (sextN 32) ecc s

/-- LWU: D = 4 bytes, zero-extended, at A + sext(IMM). -/
def execLwu (f : Fin 64) (c : Fin 4) (d : Fin 32) (a : Fin 32) (imm : BitVec 16) (ecc : Ecc) (s : State) :
    Host.Outcome State Fault Refusal :=
  loadOp 0x15 f c d a imm 4 zextN ecc s

/-- LD: D = 8 bytes, at A + sext(IMM). -/
def execLd (f : Fin 64) (c : Fin 4) (d : Fin 32) (a : Fin 32) (imm : BitVec 16) (ecc : Ecc) (s : State) :
    Host.Outcome State Fault Refusal :=
  loadOp 0x16 f c d a imm 8 zextN ecc s

/-- Store `n` bytes at a place. -/
def storeAt (s : State) (f c : Nat) (p : Place) (d : List Byte) : State :=
  match p with
  | .sram o => s.setCore f c { s.core f c with ram := sputList 0 (s.core f c).ram o d }
  | .fmem o => s.setFm f o d
  | .bad => s

/-- A store of the low `n` bytes of B at A + sext(IMM). -/
def storeOp (maj f c b a : Nat) (imm : BitVec 16) (n : Nat) (s : State) : Host.Outcome State Fault Refusal :=
  coreStep s f c (encI maj b a imm) (
    match placeOf (effAddr s f c a imm) n with
    | .bad => finish (coreFault s f c 1 (effAddr s f c a imm).toNat)
    | p => .next (advance (storeAt s f c p (toLE n (s.greg f c b).toNat)) f c))

/-- SB: the low 1 byte(s) of B are stored at A + sext(IMM). -/
def execSb (f : Fin 64) (c : Fin 4) (b : Fin 32) (a : Fin 32) (imm : BitVec 16) (s : State) :
    Host.Outcome State Fault Refusal :=
  storeOp 0x18 f c b a imm 1 s

/-- SH: the low 2 byte(s) of B are stored at A + sext(IMM). -/
def execSh (f : Fin 64) (c : Fin 4) (b : Fin 32) (a : Fin 32) (imm : BitVec 16) (s : State) :
    Host.Outcome State Fault Refusal :=
  storeOp 0x19 f c b a imm 2 s

/-- SW: the low 4 byte(s) of B are stored at A + sext(IMM). -/
def execSw (f : Fin 64) (c : Fin 4) (b : Fin 32) (a : Fin 32) (imm : BitVec 16) (s : State) :
    Host.Outcome State Fault Refusal :=
  storeOp 0x1A f c b a imm 4 s

/-- SD: the low 8 byte(s) of B are stored at A + sext(IMM). -/
def execSd (f : Fin 64) (c : Fin 4) (b : Fin 32) (a : Fin 32) (imm : BitVec 16) (s : State) :
    Host.Outcome State Fault Refusal :=
  storeOp 0x1B f c b a imm 8 s

/-! ## Branches and jumps (R239) -/

/-- PC + 4 × the offset, modulo 2^64. -/
def pcPlus (s : State) (f c : Nat) (ofs : W64) : Nat := (BitVec.ofNat 64 (s.pc f c) + 4 * ofs).toNat

/-- A branch: to PC + 4 × sext(IMM) where the condition holds. -/
def branchOp (maj f c b a : Nat) (imm : BitVec 16) (cond : Bool) (s : State) : Host.Outcome State Fault Refusal :=
  coreStep s f c (encI maj b a imm) (.next (if cond then s.setPc f c (pcPlus s f c (sextI imm)) else advance s f c))

/-- BEQ: branch if A = B. -/
def execBeq (f : Fin 64) (c : Fin 4) (b : Fin 32) (a : Fin 32) (imm : BitVec 16) (s : State) :
    Host.Outcome State Fault Refusal :=
  branchOp 0x20 f c b a imm (s.greg f c a = s.greg f c b) s

/-- BNE: branch if A ≠ B. -/
def execBne (f : Fin 64) (c : Fin 4) (b : Fin 32) (a : Fin 32) (imm : BitVec 16) (s : State) :
    Host.Outcome State Fault Refusal :=
  branchOp 0x21 f c b a imm (s.greg f c a ≠ s.greg f c b) s

/-- BLT: branch if A < B, signed. -/
def execBlt (f : Fin 64) (c : Fin 4) (b : Fin 32) (a : Fin 32) (imm : BitVec 16) (s : State) :
    Host.Outcome State Fault Refusal :=
  branchOp 0x22 f c b a imm ((s.greg f c a).slt (s.greg f c b)) s

/-- BGE: branch if A ≥ B, signed. -/
def execBge (f : Fin 64) (c : Fin 4) (b : Fin 32) (a : Fin 32) (imm : BitVec 16) (s : State) :
    Host.Outcome State Fault Refusal :=
  branchOp 0x23 f c b a imm (!(s.greg f c a).slt (s.greg f c b)) s

/-- BLTU: branch if A < B, unsigned. -/
def execBltu (f : Fin 64) (c : Fin 4) (b : Fin 32) (a : Fin 32) (imm : BitVec 16) (s : State) :
    Host.Outcome State Fault Refusal :=
  branchOp 0x24 f c b a imm ((s.greg f c a).ult (s.greg f c b)) s

/-- BGEU: branch if A ≥ B, unsigned. -/
def execBgeu (f : Fin 64) (c : Fin 4) (b : Fin 32) (a : Fin 32) (imm : BitVec 16) (s : State) :
    Host.Outcome State Fault Refusal :=
  branchOp 0x25 f c b a imm (!(s.greg f c a).ult (s.greg f c b)) s

/-- J: PC = PC + 4 × sext(OFS). -/
def execJ (f : Fin 64) (c : Fin 4) (ofs : BitVec 26) (s : State) : Host.Outcome State Fault Refusal :=
  coreStep s f c (encJ 0x28 ofs) (.next (s.setPc f c (pcPlus s f c (ofs.signExtend 64))))

/-- JAL: g31 = PC + 4; PC = PC + 4 × sext(OFS). -/
def execJal (f : Fin 64) (c : Fin 4) (ofs : BitVec 26) (s : State) : Host.Outcome State Fault Refusal :=
  coreStep s f c (encJ 0x29 ofs) (.next ((s.setGreg f c 31 (BitVec.ofNat 64 (s.pc f c + 4))).setPc f c (pcPlus s f c (ofs.signExtend 64))))

/-- JALR: t = A + sext(IMM); D = PC + 4; PC = t. A target that is not a multiple of 4 halts the core (R239). -/
def execJalr (f : Fin 64) (c : Fin 4) (d : Fin 32) (a : Fin 32) (imm : BitVec 16) (s : State) :
    Host.Outcome State Fault Refusal :=
  let t := effAddr s f c a imm
  coreStep s f c (encI 0x2A d a imm) (
    if t.toNat % 4 ≠ 0 then finish (coreFault s f c 1 t.toNat)
    else .next ((s.setGreg f c d (BitVec.ofNat 64 (s.pc f c + 4))).setPc f c t.toNat))

/-! ## Encodings (R240, R241) -/

/-- The word is a defined encoding (R241): its MAJ, FN, selectors and sub-fields are listed, and unused fields are 0. -/
def encodingOk (w : Nat) : Bool :=
  let maj := bits w 31 26
  let d := bits w 25 21
  let a := bits w 20 16
  let b := bits w 15 11
  let fn := bits w 10 0
  let imm := bits w 15 0
  if maj = 0x01 then fn ≤ 13 || (16 ≤ fn && fn ≤ 22)
  else if 0x02 ≤ maj ∧ maj ≤ 0x07 then true
  else if maj = 0x08 then imm / 256 = 0 && bits imm 7 6 ≠ 3
  else if maj = 0x09 then a / 4 = 0
  else if 0x10 ≤ maj ∧ maj ≤ 0x16 then true
  else if 0x18 ≤ maj ∧ maj ≤ 0x1B then true
  else if 0x20 ≤ maj ∧ maj ≤ 0x25 then true
  else if 0x28 ≤ maj ∧ maj ≤ 0x2A then true
  else if maj = 0x30 then d ≤ 26 && fn = 0
  else if maj = 0x31 then d ≤ 26 && b = 0 && fn = 0
  else if maj = 0x32 then d ≤ 15 && a = 0 && b = 0 && fn = 0
  else if maj = 0x33 ∨ maj = 0x34 ∨ maj = 0x35 then d = 0 && fn = 0
  else if maj = 0x36 then b = 0 && fn = 0
  else if maj = 0x38 ∨ maj = 0x39 then d = 0 && a = 0 && b = 0 && fn = 0
  else if maj = 0x3A then d = 0 && a = 0 && imm / 512 = 0
  else if maj = 0x3B then a = 0 && (imm ≤ 9 || (16 ≤ imm && imm ≤ 31))
  else if maj = 0x3C then d = 0 && b = 0 && fn = 0
  else false

/-- An undefined encoding halts the core with STATE 5 and ends its task (R241); a word that is a defined encoding changes
nothing here. -/
def execUndefinedEncoding (f : Fin 64) (c : Fin 4) (w : BitVec 32) (s : State) : Host.Outcome State Fault Refusal :=
  if encodingOk w.toNat then .next s else coreStep s f c w.toNat (finish (coreFault s f c 1 (s.pc f c)))

/-! ## The instruction cache (R134) -/

/-- Lines the 64 KiB instruction cache holds. -/
def icacheLines : Nat := 256

/-- Insert a line; a full cache loses a line that the spec does not name. -/
def icacheInsert (l : List (Nat × List Byte)) (a : Nat) (d : List Byte) (key : Nat) : List (Nat × List Byte) :=
  let l := if l.length < icacheLines then l else l.eraseIdx (Config.icacheVictim key a % icacheLines)
  (a, d) :: l

/-- A fill of the line that holds sb0 + PC (R134): a miss reads the 256 B line through the router. A line that cannot be
read leaves the core without its instruction: the core's task ends, as for an access that faults. The fill waits while LPDDR holds it
back (R195, R207). -/
def execIcacheFill (f : Fin 64) (c : Fin 4) (resp : Resp) (s : State) : Host.Outcome State Fault Refusal :=
  let a := fetchAddr s f c / 256 * 256
  coreRun s f c (
    if (fetchLine s f c).isSome || memHeld s a 256 false || decide (regionOf s a = .host ∧ resp = .late) then .next s
    else
      let r := devRead s a 256
      if (regionOf s a = .host → resp = .ok) ∧ r.err.isNone then
        let s := r.st.tickFresh
        finish (s.setCore f c { s.core f c with icache := icacheInsert (s.core f c).icache a r.data s.fresh })
      else finish (coreFault r.st f c 1 a))

/-! ## Queues (R135 to R138, R246) -/

/-- The queue belongs to the core's task. -/
def ownsQueue (s : State) (f c q : Nat) : Bool := s.qTask f q ≠ 0 && s.qTask f q = s.cTask f c

/-- Words a queue can hold (R137). -/
def queueDepth : Nat := 64

/-- QPUSH: write the command word (B : A) into queue D. A queue of another task, or one that already holds 64 words, ends
the task (R137, R246). -/
def execQpush (f : Fin 64) (c : Fin 4) (q : Fin 27) (a : Fin 32) (b : Fin 32) (s : State) :
    Host.Outcome State Fault Refusal :=
  coreStep s f c (encR 0x30 q a b 0) (
    if ownsQueue s f c q = false then finish (coreFault s f c 3 q)
    else if queueDepth ≤ s.get (Reg.FRM_Qq_ISSUED_COUNT f q) - s.get (Reg.FRM_Qq_DONE_COUNT f q) then
      finish (coreFault s f c 2 q)
    else
      let w := (s.greg f c a).toNat + 2 ^ 64 * (s.greg f c b).toNat
      let x := s.queue f q
      let s := s.setQueue f q { x with words := x.words ++ [w] }
      finish (advance (startPass (s.put (Reg.FRM_Qq_ISSUED_COUNT f q) (s.get (Reg.FRM_Qq_ISSUED_COUNT f q) + 1)) f q) f c))

/-- Begin a wait in core state `st` (R138, R149, R152). -/
def beginWait (s : State) (f c st on thresh : Nat) : State :=
  (s.put (Reg.FRM_COREc_STATE_STATE f c) st).setCore f c
    { s.core f c with waitOn := on, thresh := thresh, since := s.timeOf f }

/-- The DONE count of a queue is at least the threshold. -/
def qReady (s : State) (f q thresh : Nat) : Bool := thresh ≤ s.get (Reg.FRM_Qq_DONE_COUNT f q)

/-- QWAIT: wait until the DONE count of queue D is at least A, unsigned; a condition that holds retires at once. -/
def execQwait (f : Fin 64) (c : Fin 4) (q : Fin 27) (a : Fin 32) (s : State) : Host.Outcome State Fault Refusal :=
  coreStep s f c (encR 0x31 q a 0 0) (
    if ownsQueue s f c q = false then finish (coreFault s f c 3 q)
    else if qReady s f q (s.greg f c a).toNat then .next (advance s f c)
    else .next (beginWait s f c 2 q (s.greg f c a).toNat))

/-- A core's wait ends: it runs on at the next instruction, and its Frame is no longer gated. -/
def endWait (s : State) (f c : Nat) : State :=
  advance (s.put (Reg.FRM_COREc_STATE_STATE f c) 1) f c

/-- A waiting core whose QWAIT condition holds is released (R138). A gated Frame first restarts. -/
def execQwaitRelease (f : Fin 64) (c : Fin 4) (s : State) : Host.Outcome State Fault Refusal :=
  let x := s.core f c
  if s.cState f c = 2 ∧ s.get (Reg.FRM_PWRCTL_GATED f) = 0 ∧ frameStill s f = false ∧ qReady s f x.waitOn x.thresh then .next (endWait s f c)
  else .next s

/-- A cancel by an instruction or a register write (R183): engine commands it starves end their tasks with cause 0x09. -/
def cancelWithStarved (s : State) (f j : Nat) : State :=
  let qs := starvedBy s f j
  let s := cancelQueue s f j
  let s := if qs.isEmpty then s else keepShFault s f j 9 0 0
  qs.foldl (fun s q => s.taskErr { sev := 1, unit := 3, cause := 9, index := 16 * f + j, task := s.qTask f q,
                                   stamp := s.timeOf f }) s

/-- QCANCEL: cancel Shuttle queue D. -/
def execQcancel (f : Fin 64) (c : Fin 4) (j : Fin 16) (s : State) : Host.Outcome State Fault Refusal :=
  coreStep s f c (encR 0x32 j 0 0 0) (
    if ownsQueue s f c (9 + j) = false then finish (coreFault s f c 3 (9 + j))
    else finish (cancelWithStarved (advance s f c) f j))

/-! ## Knots (R147 to R150, R247) -/

/-- KADD: add B[31:0], signed, to Knot A. A number outside the module, or a negative delta for another Frame's Knot, ends
the task; an add to another Frame travels over the mesh. -/
def execKadd (f : Fin 64) (c : Fin 4) (a : Fin 32) (b : Fin 32) (s : State) : Host.Outcome State Fault Refusal :=
  coreStep s f c (encR 0x33 0 a b 0) (
    let k := (s.greg f c a).toNat
    let d := signed 32 (s.greg f c b).toNat
    if 16384 ≤ k ∨ (k / 256 ≠ f.val ∧ d < 0) then finish (coreFault s f c 7 k)
    else if k / 256 = f.val then finish (knotAdd (advance s f c) f (k % 256) d c)
    else finish (advance (meshSend s f ⟨[.frame (k / 256)], .kadd k d.toNat, .none, s.cTask f c, false, 0⟩) f c))

/-- KSET: set Knot A of the own Frame to B[31:0]. -/
def execKset (f : Fin 64) (c : Fin 4) (a : Fin 32) (b : Fin 32) (s : State) : Host.Outcome State Fault Refusal :=
  coreStep s f c (encR 0x34 0 a b 0) (
    let k := (s.greg f c a).toNat
    if 16384 ≤ k ∨ k / 256 ≠ f.val then finish (coreFault s f c 7 k)
    else finish (advance (s.put (Reg.FRM_KNOTk_VALUE f (k % 256)) (s.greg f c b).toNat) f c))

/-- Knot `k` of the module is at least the threshold. -/
def kReady (s : State) (k thresh : Nat) : Bool := thresh ≤ s.knot (k / 256) (k % 256)

/-- KWAIT: wait until Knot A ≥ B[31:0], unsigned. -/
def execKwait (f : Fin 64) (c : Fin 4) (a : Fin 32) (b : Fin 32) (s : State) : Host.Outcome State Fault Refusal :=
  coreStep s f c (encR 0x35 0 a b 0) (
    let k := (s.greg f c a).toNat
    let t := (s.greg f c b).toNat % 4294967296
    if 16384 ≤ k then finish (coreFault s f c 7 k)
    else if kReady s k t then .next (advance s f c)
    else .next (beginWait s f c 3 k t))

/-- A waiting core whose KWAIT condition holds is released (R149). -/
def execKwaitRelease (f : Fin 64) (c : Fin 4) (s : State) : Host.Outcome State Fault Refusal :=
  let x := s.core f c
  if s.cState f c = 3 ∧ s.get (Reg.FRM_PWRCTL_GATED f) = 0 ∧ frameStill s f = false ∧ kReady s x.waitOn x.thresh then .next (endWait s f c)
  else .next s

/-- The limit of a wait in ticks: FRM_KWAIT_TO held to 1 to 60,000,000 µs (R149). -/
def waitLimit (s : State) (f : Nat) : Nat := max 1 (min 60000000 (s.get (Reg.FRM_KWAIT_TO_TIMEOUT f))) * tickUs

/-- A core waits in QWAIT or KWAIT, and its condition does not hold. -/
def waitUnmet (s : State) (f c : Nat) : Bool :=
  let x := s.core f c
  match s.cState f c with
  | 2 => !qReady s f x.waitOn x.thresh
  | 3 => !kReady s x.waitOn x.thresh
  | _ => false

/-- A KWAIT or QWAIT expires (R149): the task ends, FRM_KSTAT.TMO is set; FRM_KSTAT.CORE names the core of the first expiry. -/
def execWaitTimeout (f : Fin 64) (c : Fin 4) (s : State) : Host.Outcome State Fault Refusal :=
  if waitUnmet s f c ∧ freqStopped s = false ∧ (s.core f c).since + waitLimit s f ≤ s.timeOf f then
    let s := if s.on (Reg.FRM_KSTAT_TMO f) then s else s.put (Reg.FRM_KSTAT_CORE f) c
    finish (coreFault (s.put (Reg.FRM_KSTAT_TMO f) 1) f c 6 0)
  else .next s

/-- KREAD: D = the value of Knot A. A Knot of another Frame is sampled there, when the request has crossed the mesh; the core waits for
the answer (R247). -/
def execKread (f : Fin 64) (c : Fin 4) (d : Fin 32) (a : Fin 32) (s : State) : Host.Outcome State Fault Refusal :=
  coreStep s f c (encR 0x36 d a 0 0) (
    let k := (s.greg f c a).toNat
    if 16384 ≤ k then finish (coreFault s f c 7 k)
    else if k / 256 = f.val then .next (advance (s.setGreg f c d (BitVec.ofNat 64 (s.knot (k / 256) (k % 256)))) f c)
    else
      .next (meshSend (s.setCore f c { s.core f c with kread := some d }) f
        ⟨[.frame (k / 256)], .kread k, .core f c, s.cTask f c, false, 0⟩))

/-! ## Sleep, halt, phase, system values, events -/

/-- An event at or above the core's threshold is deliverable to it (R152, R358). -/
def coreEvent (s : State) (f c : Nat) : Bool := !(deliverables s (4 * f + c)).isEmpty

/-- SLEEP: wait for a wake; a wake that is already pending retires it at once (R152). -/
def execSleep (f : Fin 64) (c : Fin 4) (s : State) : Host.Outcome State Fault Refusal :=
  coreStep s f c (encR 0x38 0 0 0 0) (
    if (s.core f c).wake ∨ coreEvent s f c then
      .next (advance (s.setCore f c { s.core f c with wake := false }) f c)
    else .next ({ s with wakes := sput false s.wakes (coreKey f c) false }.put (Reg.FRM_COREc_STATE_STATE f c) 4))

/-- A sleeping core wakes: an event is deliverable to it or has been, or WAKE was written since (R152, R358). -/
def coreWakes (s : State) (f c : Nat) : Bool := (s.core f c).wake || sget false s.wakes (coreKey f c) || coreEvent s f c

/-- SLEEP_WAKE. -/
def execSleepWake (f : Fin 64) (c : Fin 4) (s : State) : Host.Outcome State Fault Refusal :=
  if s.cState f c = 4 ∧ s.get (Reg.FRM_PWRCTL_GATED f) = 0 ∧ frameStill s f = false ∧ coreWakes s f c then
    .next (endWait ({ s with wakes := sput false s.wakes (coreKey f c) false }.setCore f c { s.core f c with wake := false }) f c)
  else .next s

/-- HALT: halt the core. -/
def execHalt (f : Fin 64) (c : Fin 4) (s : State) : Host.Outcome State Fault Refusal :=
  coreStep s f c (encR 0x39 0 0 0 0) (.next (advance (s.put (Reg.FRM_COREc_STATE_STATE f c) 0) f c))

/-- A Frame's phase tag is posted: the governor sees since when the Frame holds it (R249, R326). -/
def notePhase (s : State) (f : Nat) : State := { s with phaseT := sput 0 s.phaseT f (s.timeOf f + 1) }

/-- PHASE: post the phase tag with its hint (R249). A Frame that posts the tag it has goes on holding it. -/
def execPhase (f : Fin 64) (c : Fin 4) (tag : BitVec 8) (hint : Bool) (s : State) : Host.Outcome State Fault Refusal :=
  coreStep s f c (encI 0x3A 0 0 (BitVec.ofNat 16 (tag.toNat + 256 * b2n hint))) (
    let s := if s.get (Reg.FRM_PHASE_ID f) = tag.toNat then s else notePhase s f
    let s := s.put (Reg.FRM_PHASE_ID f) tag.toNat
    let s := s.put (Reg.FRM_PHASE_HINT f) (b2n hint)
    .next (advance (s.put (Reg.FRM_PHASE_CORE f) c) f c))

/-- The value of a SYSRD selector other than 8 (Table 10-5); none for one that is undefined. -/
def sysValue (s : State) (f c sel : Nat) : Option Nat :=
  match sel with
  | 0 => some c
  | 1 => some f
  | 2 => some s.myId
  | 3 => some s.job.rank
  | 4 => some (s.get Reg.PLY_STEP_STEP)
  | 5 => some (s.cTask f c)
  | 6 => some (s.timeOf f)
  | 7 => some (s.get (Reg.FRM_CYCLES_COUNT f))
  | 9 => some s.job.nmod
  | _ => if 16 ≤ sel then some (sget 0 (s.core f c).sb (sel - 16)).toNat else none

/-- SYSRD: D = the system value that IMM selects; an undefined selector is an undefined encoding (R241, R250). Selector 8
has its own row. -/
def execSysrd (f : Fin 64) (c : Fin 4) (d : Fin 32) (sel : Fin 32) (s : State) : Host.Outcome State Fault Refusal :=
  if sel.val = 8 then .next s
  else
    coreStep s f c (encI 0x3B d 0 (BitVec.ofNat 16 sel)) (
      match sysValue s f c sel with
      | some v => .next (advance (s.setGreg f c d (BitVec.ofNat 64 v)) f c)
      | none => finish (coreFault s f c 1 (s.pc f c)))

/-- SYSRD selector 8: claim the highest pending event source of the core, or read all ones (R250, R356). -/
def execSysrdClaim (f : Fin 64) (c : Fin 4) (d : Fin 32) (s : State) : Host.Outcome State Fault Refusal :=
  coreStep s f c (encI 0x3B d 0 8) (
    let (s, x) := claim s (4 * f + c)
    finish (advance (s.setGreg f c d (match x with
      | some n => BitVec.ofNat 64 n
      | none => BitVec.allOnes 64)) f c))

/-- EVDONE: the completion write for event source A[9:0] (R357). -/
def execEvdone (f : Fin 64) (c : Fin 4) (a : Fin 32) (s : State) : Host.Outcome State Fault Refusal :=
  coreStep s f c (encR 0x3C 0 a 0 0) (finish (complete (advance s f c) (4 * f + c) ((s.greg f c a).toNat % 1024)))

end Sys2Proof.Machine
end

