-- ==== Sys2Proof/Machine/Knot.lean ====
section
/-! DEFINITION. The commands on Knots, wakes and gating (R147,
R152, R153). -/
namespace Sys2Proof.Machine

/-- KNOT_WRITE: a host or Studio write to FRM_KNOTk acts as a KSET (R147). -/
def execKnotWrite (f : Fin 64) (k : Fin 256) (value : BitVec 32) (s : State) : Host.Outcome State Fault Refusal :=
  if agentOpen s .studio (0x1000000 + 0x10000 * f) then
    viaCtl s .studio f ((Reg.FRM_KNOTk_VALUE f k).key / 64) value.toNat (finish (s.put (Reg.FRM_KNOTk_VALUE f k) value.toNat))
  else .next s

/-- A write of 1 to FRM_PWRCTL.WAKE wakes the cores of the Frame that sleep (R152). -/
def wakeFrame (s : State) (f : Nat) : State :=
  (List.range 4).foldl (fun s c =>
    if s.cState f c = 4 then s.setCore f c { s.core f c with wake := true } else s) s

/-- WAKE. -/
def execWake (f : Fin 64) (s : State) : Host.Outcome State Fault Refusal :=
  if agentOpen s .studio (0x1000000 + 0x10000 * f) then viaCtl s .studio f (0x100C700 + 0x10000 * f) 2 (.next (wakeFrame s f)) else .next s

/-- Every queue of a Frame is empty and its engines are idle (R153). -/
def frameIdle (s : State) (f : Nat) : Bool :=
  (List.range 27).all (fun q => s.queue f q = QueueSt.empty) &&
  (List.range 16).all (fun j => (s.sh f j).word.isNone && (s.sh f j).act.isNone && (s.sh f j).behind.isEmpty && !(s.sh f j).waits) &&
  (sget [] s.brushIn f).isEmpty && (sget [] s.easelIn f).isEmpty

/-- A core that waits would be released, an event or WAKE reaches one that sleeps (R152), or one has been started (R134, R306): a
core that runs needs its clock. -/
def coreReleases (s : State) (f c : Nat) : Bool :=
  let x := s.core f c
  match s.cState f c with
  | 1 => true
  | 2 => qReady s f x.waitOn x.thresh
  | 3 => kReady s x.waitOn x.thresh
  | 4 => coreWakes s f c
  | _ => false

/-- FRAME_GATE: the clocks of an idle Frame's gated domain stop (R153); a release condition that is met cancels it. -/
def execFrameGate (f : Fin 64) (s : State) : Host.Outcome State Fault Refusal :=
  if s.on (Reg.FRM_PWRCTL_GATE_EN f) ∧ s.get (Reg.FRM_PWRCTL_GATED f) = 0 ∧
      (List.range 4).all (fun c => s.cState f c ≠ 1 && !coreReleases s f c) ∧ frameIdle s f then
    .next (s.put (Reg.FRM_PWRCTL_GATED f) 1)
  else .next s

/-- FRAME_UNGATE: a release condition restarts the gated domain (R153). -/
def execFrameUngate (f : Fin 64) (s : State) : Host.Outcome State Fault Refusal :=
  if s.on (Reg.FRM_PWRCTL_GATED f) ∧ (List.range 4).any (fun c => coreReleases s f c) then
    .next (s.put (Reg.FRM_PWRCTL_GATED f) 0)
  else .next s

end Sys2Proof.Machine
end

