-- ==== Sys2Proof/Machine/PalCheck.lean ====
section
/-! DEFINITION. The ECC of the Palette's data and tags (R205), and accesses of the module's units to any address with what the check of
their words finds. -/
namespace Sys2Proof.Machine

/-- A corrected error of a slice (Table 17-3, unit 8). -/
def palCorr (s : State) (sl cause addr : Nat) : State :=
  s.logErr { sev := 0, unit := 8, cause := cause, index := sl, addr := addr, stamp := s.timeOf sl }

/-- A single-bit error of a slice is corrected, counted and logged (R205). -/
def palSingle (s : State) (sl addr : Nat) : State := palCorr (s.bump (Reg.MEM_PALf_ECCCNT_CORR sl) 1) sl 1 addr

/-- A double-bit error in a tag or in a dirty line is module-fatal (R205). -/
def palLost (s : State) (sl addr : Nat) : State :=
  (s.bump (Reg.MEM_PALf_ECCCNT_UNCORR sl) 1).modErr
    { sev := 3, unit := 8, cause := 3, index := sl, addr := addr, stamp := s.timeOf sl }

/-- What the check of the words that a walk over lines meets finds (R205): a single-bit error is corrected; a double-bit error in a tag, or
in the dirty line `l` that is written back, is module-fatal. The Bool says that the slice stops. -/
def palWalk (s : State) (sl : Nat) (l : Option Line) (addr : Nat) (ecc : Ecc) : State × Bool :=
  let a := (l.map (fun x => 256 * x.gran)).getD addr
  match ecc with
  | .ok => (s, false)
  | .single => (palSingle s sl a, false)
  | .header => (palLost s sl a, true)
  | .double => if l.isSome then (palLost s sl a, true) else (s, false)

/-- What the check of the words of an access to granule `g` in its slice finds (R205): a double-bit error in a clean line makes the slice
drop it, to fetch it again; one in a dirty line or in a tag is module-fatal. On a miss the words are those of the tags and of a dirty
victim. The Bool says that the slice stops. -/
def palCheck (s : State) (g : Nat) (write whole : Bool) (addr : Nat) (ecc : Ecc) : State × Bool :=
  let sl := sliceOf g
  match lookup s g with
  | none => palWalk s sl (dirtyVictim s g) addr ecc
  | some w =>
    match ecc with
    | .ok => (s, false)
    | .single => (palSingle s sl addr, false)
    | .header => (palLost s sl addr, true)
    | .double =>
      if write && whole then (s, false)
      else if (s.lineAt sl (setOf g) w).dirty then (palLost s sl addr, true)
      else ((palCorr (s.bump (Reg.MEM_PALf_ECCCNT_UNCORR sl) 1) sl 2 addr).setLine sl (setOf g) w Line.invalid, false)

/-- What the check of a scratchpad word that is read finds (R205): a double-bit error leaves it bad until it is written whole. -/
def spadCheck (s : State) (a : Nat) (ecc : Ecc) : State :=
  let sl := (a - spadBase) / 0x4000000
  match ecc, spadPlace s a with
  | .single, _ => palSingle s sl a
  | .double, some k => { s with spBad := sput false s.spBad (k / 8) true }
  | _, _ => s

/-- A read of Frame memory at `a` for a unit (R133): a single-bit error is corrected, counted and logged; the Bool says that a word is
unreadable. -/
def frameCheck (s : State) (a : Nat) (ecc : Ecc) : State × Bool :=
  let f := (a - frameBase) / 0x1000000
  match ecc with
  | .ok => (s, false)
  | .single =>
    ((s.bump (Reg.FRM_FMEM_ECCCNT_CORR f) 1).logErr
      { sev := 0, unit := 6, cause := 1, index := f, addr := a, d0 := storedWord s (0x100C000 + 0x10000 * f), stamp := s.timeOf f }, false)
  | _ => (s.bump (Reg.FRM_FMEM_ECCCNT_UNCORR f) 1, true)

/-- A unit's read of a range, with what the check of the first word it meets finds (R205). -/
def unitRead (s : State) (a n : Nat) (ecc : Ecc) : MemRes :=
  match regionOf s a with
  | .lpddr =>
    let (t, lost) := palCheck s (a / 256) false false a ecc
    if lost then ⟨t, [], some a⟩ else devRead t a n
  | .spad =>
    let sl := (a - spadBase) / 0x4000000
    let m := devRead (spadCheck s a ecc) a n
    if m.err.isSome then { m with st := m.st.bump (Reg.MEM_PALf_ECCCNT_UNCORR sl) 1 } else m
  | .frame =>
    let (t, bad) := frameCheck s a ecc
    if bad then ⟨t, [], some a⟩ else devRead t a n
  | _ => devRead s a n

/-- A unit's write of a range, with what the check of the first word it meets finds (R205). -/
def unitWrite (s : State) (a : Nat) (d : List Byte) (ecc : Ecc) : MemRes :=
  match regionOf s a with
  | .lpddr =>
    let g := a / 256
    let (t, lost) := palCheck s g true (decide (a % 256 = 0) && decide (256 ≤ d.length)) a ecc
    if lost then ⟨t, [], some a⟩ else devWrite t a d
  | .spad => devWrite (if ecc = .single then palSingle s ((a - spadBase) / 0x4000000) a else s) a d
  | _ => devWrite s a d

end Sys2Proof.Machine
end

