-- ==== Sys2Proof/Machine/Palette.lean ====
section
/-! DEFINITION. The Palette's and the LPDDR controllers' commands (R189 to R211): accesses at a slice, fills, way roles, cache
maintenance, block reads and writes, refresh, retraining and repair. -/
namespace Sys2Proof.Machine

/-- The slice gives a reply. -/
def palReply (m : MemRes) (sl addr : Nat) : State :=
  { m.st with reply := sput ⟨0, [], false⟩ m.st.reply sl ⟨addr, m.data, m.err.isSome⟩ }

/-- Serve an access at once, the access having been counted. -/
def palServe (s : State) (sl : Nat) (x : Access) : State :=
  palReply (if x.write then lineWrite s x.addr x.data else lineRead s x.addr x.len) sl x.addr

/-- A miss is taken up (R195): it joins the fill under way on its line, goes to the channel where the slice has no cache
ways, allocates at once where it writes the whole line, or starts a fill. -/
def palMiss (s : State) (sl : Nat) (x : Access) : State :=
  let g := x.addr / 256
  let ms := sget [] s.misses sl
  if ms.any (fun m => m.gran = g) then
    { s with misses := sput [] s.misses sl (ms.map (fun m => if m.gran = g then { m with wait := m.wait ++ [x] } else m)) }
  else if (waysOf s sl .cache).isEmpty then palServe s sl x
  else if x.write ∧ x.data.length = 256 then palServe s sl x
  else { s with misses := sput [] s.misses sl (ms ++ [⟨g, [x]⟩]) }

/-- An access in a slice's cache (R195, R205). -/
def palCache (s : State) (sl : Nat) (x : Access) (ecc : Ecc) : State :=
  let g := x.addr / 256
  let (t, lost) := palCheck (countAccess s g) g x.write (decide (x.data.length = 256)) x.addr ecc
  if lost then t else if (lookup t g).isSome then palServe t sl x else palMiss t sl x

/-- An access in a slice's scratchpad ways (R190, R205). -/
def palSpad (s : State) (sl : Nat) (x : Access) (ecc : Ecc) : State :=
  if x.write then palReply (unitWrite s x.addr x.data ecc) sl x.addr
  else
    let m := unitRead s x.addr x.len ecc
    let t := palReply m sl x.addr
    match m.err with
    | some a => t.taskErr { sev := 1, unit := 8, cause := 4, index := sl, task := x.task, addr := a, stamp := s.timeOf sl }
    | none => t

/-- The slice can take an access now (R195, R207): it hits, or there is a miss entry for it, or it needs none and its channel, or the
channel of the victim it evicts, has room in its queue. A hit whose clean line proves unreadable (R205) needs a miss entry too. -/
def palRoom (s : State) (sl : Nat) (x : Access) (ecc : Ecc) : Bool :=
  let g := x.addr / 256
  let t := if ecc = .double then (palCheck s g x.write (decide (x.data.length = 256)) x.addr ecc).1 else s
  if (lookup t g).isSome then true
  else if (waysOf t sl .cache).isEmpty then (if x.write then !chanFull t g else !chanPaused t g)
  else if x.write && x.data.length = 256 then !granHeld t g true true
  else !missFull t g

/-- PALETTE_ACCESS: the home slice serves an access (R195). An access of another slice, or one that the slice cannot take yet, or
while its region has no clock edge (R224, R226), waits. -/
def execPaletteAccess (sl : Fin 64) (acc : Access) (ecc : Ecc) (s : State) : Host.Outcome State Fault Refusal :=
  if acc.wf = false then .fault .illFormed
  else if stopped s ∨ frameStill s sl then .next s
  else
    match regionOf s acc.addr with
    | .lpddr =>
      if sliceOf (acc.addr / 256) = sl ∧ palRoom s sl acc ecc then finish (palCache s sl acc ecc) else .next s
    | .spad =>
      if (acc.addr - spadBase) / 0x4000000 = sl ∧ (spadPlace s acc.addr).isSome then finish (palSpad s sl acc ecc)
      else .next s
    | _ => .next s

/-- The fill of granule `g` can return: its channel takes commands, and the write-back of the victim has room. -/
def fillReady (s : State) (g : Nat) : Bool :=
  !chanPaused s g && (match dirtyVictim s g with | some l => !chanFull s l.gran | none => true)

/-- LINE_FILL: the oldest missing line whose channel takes commands returns, is allocated, and serves its requests (R195,
R420); `ecc` is what the check of the tags and of a dirty victim's words finds. -/
def execLineFill (sl : Fin 64) (ecc : Ecc) (s : State) : Host.Outcome State Fault Refusal :=
  onClock s sl (
    match (sget [] s.misses sl).find? (fun m => fillReady s m.gran) with
    | some m =>
      let (t, lost) := palWalk s sl (dirtyVictim s m.gran) (256 * m.gran) ecc
      if lost then finish t else finish (endMiss t m.gran)
    | none => .next s)

/-! ## Way roles (R189) -/

/-- A way's contents become undefined. -/
def undefWay (s : State) (sl w : Nat) : State :=
  let s := s.tickFresh
  { s with spEpoch := sput 0 s.spEpoch (16 * sl + w) s.fresh }

/-- The role that the register gives a way. -/
def regRole (sp rs w : Nat) : WayRole := if bit sp w then .spad else if bit rs w then .reorder else .cache

/-- Write the roles of a slice's ways: a way that leaves the cache role keeps it until it is clean (R189). -/
def writeWays (s : State) (sl v : Nat) : State :=
  let sp := v % 65536
  let rs := v / 65536 % 65536
  let old := (List.range 16).map (fun w => wayRole s sl w)
  let s := (s.put (Reg.MEM_PALf_WAYS_SP sl) sp).put (Reg.MEM_PALf_WAYS_RS sl) rs
  let s := if sp &&& rs = 0 then s else s.logReg 2 (0x501000 + 0x10 * sl)
  (old.zip (List.range 16)).foldl (fun s (o, w) =>
    let n := regRole sp rs w
    match o with
    | .cache => { s with leaving := sput 0 s.leaving sl (setBitTo (sget 0 s.leaving sl) w (if n = .cache then 0 else 1)) }
    | _ => if n = .spad ∧ o ≠ .spad then undefWay s sl w else s) s

/-- The lines of way `w` of a slice. -/
def wayLines (s : State) (sl w : Nat) : List (Nat × Line) :=
  s.lines.filter (fun (k, _) => k / 262144 = sl && k % 16 = w)

/-- Clean and invalidate way `w` of a slice and give it its new role. -/
def endRole (s : State) (sl w : Nat) : State :=
  let s := (wayLines s sl w).foldl (fun s (k, l) =>
    let s := writeBack s l
    { s with lines := sput Line.invalid s.lines k Line.invalid }) s
  let s := { s with leaving := sput 0 s.leaving sl (setBitTo (sget 0 s.leaving sl) w 0) }
  if wayRole s sl w = .spad then undefWay s sl w else s

/-- WAYS_WRITE: a write of MEM_PALf_WAYS (R189). -/
def execWaysWrite (sl : Fin 64) (value : BitVec 32) (s : State) : Host.Outcome State Fault Refusal :=
  if hostOpen s 0x501000 = false then .next s
  else if s.job.loaded then finish (s.logReg 2 (0x501000 + 0x10 * sl))
  else finish (writeWays s sl value.toNat)

/-- The channel of every line that a walk writes back has room in its queue. -/
def backRoom (s : State) (l : List (Nat × Line)) : Bool := l.all (fun e => !(e.2.dirty && chanFull s e.2.gran))

/-- WAY_ROLE_CHANGE: the lowest way that is leaving the cache role is clean and takes its new role (R189); `ecc` is what the check of the
words it meets finds. -/
def execWayRoleChange (sl : Fin 64) (ecc : Ecc) (s : State) : Host.Outcome State Fault Refusal :=
  match (List.range 16).find? (fun w => bit (sget 0 s.leaving sl) w) with
  | none => .next s
  | some w =>
    if frameStill s sl ∨ backRoom s (wayLines s sl w) = false then .next s
    else
      let d := (wayLines s sl w).find? (fun (_, l) => l.dirty)
      let (t, lost) := palWalk s sl (d.map (fun e => e.2)) 0 ecc
      if lost then finish t else finish (endRole t sl w)

/-! ## Cache maintenance (R199) -/

/-- A maintenance operation begins. -/
def beginFlush (s : State) (x : FlushSt) : State := { s.put Reg.MEM_PALFL_CTL_BUSY 1 with flush := some x }

/-- Start a maintenance operation by register; one that runs already, or OP 3, is logged and starts nothing. -/
def startFlush (s : State) (op : Nat) (ranged : Bool) : State :=
  if s.flush.isSome ∨ op = 3 then s.logReg 8 0x500100
  else beginFlush s ⟨op, if ranged then some (s.get Reg.MEM_PALFL_BASE_ADDR, s.get Reg.MEM_PALFL_LEN_LEN) else none, none⟩

/-- A host write of MEM_PALFL_CTL with START 1. -/
def palStart (op : Nat) (ranged : Bool) (s : State) : Host.Outcome State Fault Refusal :=
  if hostOpen s 0x500100 then
    finish (startFlush ((s.put Reg.MEM_PALFL_CTL_OP op).put Reg.MEM_PALFL_CTL_RANGE (b2n ranged)) op ranged)
  else .next s

/-- PALETTE_CLEAN. -/
def execPaletteClean (ranged : Bool) (s : State) : Host.Outcome State Fault Refusal := palStart 0 ranged s

/-- PALETTE_INVALIDATE. -/
def execPaletteInvalidate (ranged : Bool) (s : State) : Host.Outcome State Fault Refusal := palStart 1 ranged s

/-- PALETTE_CLEAN_INVALIDATE. -/
def execPaletteCleanInvalidate (ranged : Bool) (s : State) : Host.Outcome State Fault Refusal := palStart 2 ranged s

/-- The operation covers a line. -/
def flushCovers (x : FlushSt) (l : Line) : Bool :=
  match x.range with
  | none => true
  | some (b, n) => 0 < n && b < 256 * l.gran + 256 && 256 * l.gran < b + n

/-- One line of the operation: cleaned, discarded, or both. -/
def flushLine (x : FlushSt) (s : State) (k : Nat) (l : Line) : State :=
  let s := if x.op = 1 then s else writeBack s l
  { s with lines := sput Line.invalid s.lines k (if x.op = 0 then { l with dirty := false } else Line.invalid) }

/-- The result of the host command with count `k` on ring `n`. -/
def setResult (s : State) (n k status detail : Nat) : State :=
  let r := s.ring n
  s.setRing n { r with cmds := r.cmds.map (fun c => if c.k = k then { c with result := some (status, detail) } else c) }

/-- Every covered line is treated, and DONE sets; a FLUSH command's operation completes the command instead (Table 15-4). -/
def endFlush (s : State) (x : FlushSt) : State :=
  let s := (s.lines.filter (fun e => flushCovers x e.2)).foldl (fun s e => flushLine x s e.1 e.2) s
  let s := { s.put Reg.MEM_PALFL_CTL_BUSY 0 with flush := none }
  match x.host with
  | some (n, k) => setResult s n k 0 0
  | none => s.put Reg.MEM_PALFL_CTL_DONE 1

/-- PALETTE_FLUSH_DONE: the operation ends; `ecc` is what the check of the words it meets finds (R199, R205). -/
def execPaletteFlushDone (ecc : Ecc) (s : State) : Host.Outcome State Fault Refusal :=
  match s.flush with
  | none => .next s
  | some x =>
    let ls := s.lines.filter (fun e => flushCovers x e.2)
    if freqStopped s ∨ (x.op ≠ 1 ∧ backRoom s ls = false) then .next s
    else
      let d := ls.find? (fun e => e.2.dirty && x.op ≠ 1)
      let k := ((d.or ls.head?).map (fun e => e.1 / 262144)).getD 0
      let (t, lost) := palWalk s k (d.map (fun e => e.2)) 0 ecc
      if lost then finish t else finish (endFlush t x)

/-! ## Blocks (R202, R203) -/

/-- A block as one read of it returns it: each listed place is disturbed by its pattern. -/
def disturb (d : List Byte) (e : List (Nat × Byte)) : List Byte :=
  e.foldl (fun d p => d.set (p.1 % 64) (d.getD (p.1 % 64) 0 ^^^ p.2)) d

/-- The block check (R202): CRC-32C over the data and the block's address. -/
def blockCheck (d : List Byte) (addr : Nat) : Nat := crc32c (d ++ toLE 8 addr)

/-- The reads of a block that is sound in memory, in order, `n` at most: the number of the first one that matches its check
and its data. -/
def readTries (d : List Byte) (addr : Nat) (errs : List Disturb) (n k : Nat) : Option (Nat × List Byte) :=
  match n with
  | 0 => none
  | n' + 1 =>
    let x := disturb d (errs.getD k [])
    if blockCheck x addr = blockCheck d addr then some (k, x) else readTries d addr errs n' (k + 1)

/-- LPDDR_READ: a channel reads the block at `addr`; `errs` are the disturbances of the read and of its re-reads (R203). -/
def execLpddrRead (addr : BitVec 41) (errs : List Disturb) (s : State) : Host.Outcome State Fault Refusal :=
  let a := 64 * (addr.toNat / 64)
  let g := a / 256
  let c := chanOf g
  if lpddrSize s ≤ a ∨ chanPaused s g then .next s
  else
    let d := rawBytes s a 64
    match (if isBad s a then none else readTries d a errs 4 0) with
    | some (0, x) => finish (palReply ⟨s, x, none⟩ (sliceOf g) a)
    | some (_, x) =>
      let s := (s.bump (Reg.MEM_CHc_CRCCNT_CORR c) 1).logErr
        { sev := 0, unit := 7, cause := 1, index := c, addr := a, stamp := s.timeOf (68 + c / 64) }
      let s := { s with reread := sput [] s.reread c ((s.now :: sget [] s.reread c).take 65536) }
      finish (palReply ⟨s, x, none⟩ (sliceOf g) a)
    | none =>
      let s := State.uncorrBlock { s with bad := sput false s.bad (a / 64) true } a
      finish (palReply ⟨s, List.replicate 64 0, some a⟩ (sliceOf g) a)

/-- LPDDR_WRITE: a channel writes a block, or a part of one by read-modify-write (R202, R203). -/
def execLpddrWrite (addr : BitVec 41) (data : List Byte) (s : State) : Host.Outcome State Fault Refusal :=
  let a := addr.toNat
  if blockWf a data = false then .fault .illFormed
  else if lpddrSize s ≤ a ∨ chanFull s (a / 256) then .next s
  else finish (palReply (chanWriteBlock (queueWrite s (a / 256)) a data) (sliceOf (a / 256)) a)

/-! ## Refresh and retraining (R206, R207) -/

/-- REFRESH: a bank of a channel is refreshed; no data changes (R206). -/
def execRefresh (ch : Fin 128) (bank : Nat) (s : State) : Host.Outcome State Fault Refusal :=
  if bank < 2 ^ 16 then .next { s with refreshes := sput 0 s.refreshes ch (sget 0 s.refreshes ch + 1) } else .next s

/-- The retraining interval in ms (Table 8-3: a value outside reads as the nearer bound). -/
def retrainMs (s : State) : Nat := min 4096 (max 16 (s.get Reg.MEM_RETRAIN_CFG_INTERVAL))

/-- CHANNEL_RETRAIN: the interval of a channel has passed and no other channel retrains; the channel pauses (R207). -/
def execChannelRetrain (ch : Fin 128) (s : State) : Host.Outcome State Fault Refusal :=
  let st := s.get (Reg.MEM_CHc_MAP_STATE ch)
  if (st = 0 ∨ st = 2) ∧ sget 0 s.chT ch + retrainMs s * tickMs ≤ s.now ∧
      (List.range 128).all (fun c => s.get (Reg.MEM_CHc_MAP_STATE c) ≠ 1) then
    .next { s.put (Reg.MEM_CHc_MAP_STATE ch) 1 with chT := sput 0 s.chT ch s.now }
  else .next s

def State.setRepair (s : State) (m : Nat) (r : Repair) : State := { s with repairs := sput ⟨128, 0⟩ s.repairs m r }

/-- RETRAINING_END: the channel resumes, as a channel whose repair runs where one does, and its queue drains (R207, R209). -/
def execRetrainingEnd (ch : Fin 128) (s : State) : Host.Outcome State Fault Refusal :=
  if s.get (Reg.MEM_CHc_MAP_STATE ch) = 1 then
    let copying := match repairOf s (ch / 16) with
      | some r => decide (r.lch = ch)
      | none => false
    .next { s.put (Reg.MEM_CHc_MAP_STATE ch) (if copying then 2 else 0) with chanQ := sput 0 s.chanQ ch 0 }
  else .next s

/-! ## Predictive repair (R208 to R211) -/

/-- A corrected or fatal record of a channel (Table 17-3, unit 7). -/
def chanLog (s : State) (c cause : Nat) : State :=
  s.logErr { sev := 0, unit := 7, cause := cause, index := c, d0 := storedWord s 0x503108, stamp := s.timeOf (68 + c / 64) }

/-- Start the repair of a logical channel, or refuse it (R208). -/
def startRepair (s : State) (c : Nat) : State :=
  let m := c / 16
  if (repairOf s m).isSome then chanLog (s.put Reg.MEM_REPAIR_STAT_GRPBUSY 1) c 7
  else if s.get (Reg.MEM_GRPm_SPARE_AVAIL m) = 0 then chanLog (s.put Reg.MEM_REPAIR_STAT_NOSPARE 1) c 6
  else
    let s := (s.put (Reg.MEM_GRPm_SPARE_AVAIL m) 0).setRepair m ⟨c, 0⟩
    let s := if s.get (Reg.MEM_CHc_MAP_STATE c) = 1 then s else s.put (Reg.MEM_CHc_MAP_STATE c) 2
    ((s.put Reg.MEM_REPAIR_STAT_BUSY 1).put Reg.MEM_REPAIR_STAT_LCH c).put Reg.MEM_REPAIR_STAT_PROGRESS 0

/-- The corrected re-reads of a channel have reached THRESH within WINDOW seconds (R208). -/
def repairDue (s : State) (c : Nat) : Bool :=
  let l := sget [] s.reread c
  let n := s.get Reg.MEM_REPAIR_POL_THRESH
  (l.zip (l.drop (n - 1))).any (fun p => p.1 ≤ p.2 + s.get Reg.MEM_REPAIR_POL_WINDOW * tickS)

/-- The group of a channel has a spare that no repair has taken. -/
def spareReady (s : State) (c : Nat) : Bool := (repairOf s (c / 16)).isNone && s.on (Reg.MEM_GRPm_SPARE_AVAIL (c / 16))

/-- REPAIR_AUTO_START: the policy starts a channel's repair (R208). The re-reads that reached THRESH are spent; a refused start is not
tried again. -/
def execRepairAutoStart (ch : Fin 128) (s : State) : Host.Outcome State Fault Refusal :=
  if s.on Reg.MEM_REPAIR_POL_AUTO ∧ repairDue s ch ∧ sget false s.autoTry ch = false then
    finish (startRepair { s with autoTry := sput false s.autoTry ch (!spareReady s ch), reread := sput [] s.reread ch [] } ch)
  else .next s

/-- REPAIR_START: a host write of LCH with START (R208). -/
def execRepairStart (ch : Fin 128) (s : State) : Host.Outcome State Fault Refusal :=
  if hostOpen s 0x503104 then finish (startRepair (s.put Reg.MEM_REPAIR_CTL_LCH ch) ch) else .next s

/-- The granule at place `i` of logical channel `c`: R193 turned about. -/
def chanGran (c i : Nat) : Nat := i * 128 + (c ^^^ foldXor i 7 4)

/-- The granules of a logical channel. -/
def chanGrans (s : State) : Nat := lpddrSize s / 32768

/-- An LPDDR address belongs to logical channel `c`. -/
def ofChan (s : State) (c a : Nat) : Bool := a < lpddrSize s && chanOf (a / 256) = c

/-- A repair ends; BUSY reads 1 while another runs. -/
def dropRepair (s : State) (m c : Nat) : State :=
  let s := { s.setRepair m ⟨128, 0⟩ with spare := s.spare.filter (fun e => !ofChan s c e.1) }
  s.put Reg.MEM_REPAIR_STAT_BUSY (b2n ((List.range 8).any (fun m => (repairOf s m).isSome)))

/-- REPAIR_COPY: the next granule of the group's repair is copied with its check; an uncorrectable block stops the repair
and the module (R209, R211). After the last granule the channel waits for the switch of its map (R210). -/
def execRepairCopy (grp : Fin 8) (s : State) : Host.Outcome State Fault Refusal :=
  match repairOf s grp with
  | none => .next s
  | some r =>
    if s.get (Reg.MEM_CHc_MAP_STATE r.lch) ≠ 2 then .next s
    else
      let a := 256 * chanGran r.lch r.next
      match firstBad s (blocksOf a 256) with
      | some b =>
        let s := ((s.uncorrBlock b).put Reg.MEM_REPAIR_STAT_FAIL 1).put (Reg.MEM_CHc_MAP_STATE r.lch) 0
        let s := dropRepair s grp r.lch
        finish (s.modErr { sev := 3, unit := 7, cause := 5, index := r.lch, addr := b, d0 := storedWord s 0x503108,
                           stamp := s.timeOf 71 })
      | none =>
        let n := r.next + 1
        let s := { s.setRepair grp ⟨r.lch, n⟩ with spare := sputList 0 s.spare a (rawBytes s a 256) }
        let s := if s.get Reg.MEM_REPAIR_STAT_LCH = r.lch then
            s.put Reg.MEM_REPAIR_STAT_PROGRESS (min 255 (n * 256 / chanGrans s)) else s
        .next (if n = chanGrans s then s.put (Reg.MEM_CHc_MAP_STATE r.lch) 3 else s)

/-- The spare serves a logical channel: what the copy and the mirrored writes put there stands, every block with a good check (R209,
R210). -/
def fromSpare (s : State) (c : Nat) : State :=
  { s with
    mem := (s.spare.filter (fun e => ofChan s c e.1)).foldl (fun m e => sput 0 m e.1 e.2) (s.mem.filter (fun e => !ofChan s c e.1)),
    bad := s.bad.filter (fun e => !ofChan s c (64 * e.1)), chanQ := sput 0 s.chanQ c 0 }

/-- MAP_SWITCH: the old channel has drained; the spare serves the logical channel (R210). -/
def execMapSwitch (grp : Fin 8) (s : State) : Host.Outcome State Fault Refusal :=
  match repairOf s grp with
  | none => .next s
  | some r =>
    if s.get (Reg.MEM_CHc_MAP_STATE r.lch) ≠ 3 then .next s
    else
      let sp := s.get (Reg.MEM_GRPm_SPARE_PHYS grp)
      let s := dropRepair ((((fromSpare s r.lch).put (Reg.MEM_CHc_MAP_PHYS r.lch) sp).put (Reg.MEM_CHc_MAP_STATE r.lch) 0).put
        Reg.MEM_REPAIR_STAT_DONE 1) grp r.lch
      finish (chanLog { s with repairLog := s.repairLog ++ [(r.lch, sp, true)] } r.lch 4)

end Sys2Proof.Machine
end

