-- ==== Sys2Proof/Machine/Flags.lean ====
section
/-! DEFINITION. The numeric status flags and counters of a Frame (R49) and the draws of its stochastic rounding registers
(R40, R41). -/
namespace Sys2Proof.Machine

/-- What one conversion reports (R39): a clamp sets CVT_SAT and counts, a NaN mapped to a number sets CVT_NAN. -/
def noteCvt (s : State) (f : Nat) (c : CvtFlags) : State :=
  let s := if c.sat then (s.put (Reg.FRM_NUMSTAT_CVT_SAT f) 1).bump (Reg.FRM_CVTSATCNT_COUNT f) 1 else s
  if c.nan then s.put (Reg.FRM_NUMSTAT_CVT_NAN f) 1 else s

/-- A pass received a NaN operand or a NaN block scale. -/
def noteNan (s : State) (f : Nat) : State := s.put (Reg.FRM_NUMSTAT_NAN_IN f) 1

/-- An integer pass clamped (R33). -/
def noteSat (s : State) (f : Nat) : State := (s.put (Reg.FRM_NUMSTAT_SAT f) 1).bump (Reg.FRM_SATCNT_COUNT f) 1

/-- An overflow left an infinity (R44). -/
def noteInf (s : State) (f : Nat) : State := (s.put (Reg.FRM_NUMSTAT_OVF_INF f) 1).bump (Reg.FRM_INFCNT_COUNT f) 1

/-- A pass overflowed on its third retry (R45). -/
def noteExh (s : State) (f : Nat) : State := s.put (Reg.FRM_NUMSTAT_RETRY_EXH f) 1

/-- A re-run of a pass (R45). -/
def noteRetry (s : State) (f : Nat) : State := s.bump (Reg.FRM_RETRYCNT_COUNT f) 1

/-- The program's overflow mode is RETRY (R43). -/
def retryMode (s : State) (f : Nat) : Bool := s.on (Reg.FRM_NUMMODE_OVF_MODE f)

/-- The state of a lane's register: as it was seeded (R41) until it first draws. -/
def laneState (s : State) (f l : Nat) : Nat :=
  match sget 0 s.lfsr (2048 * f + l) with
  | 0 => lfsrSeed s.lfsrKey.1 s.lfsrKey.2 f l
  | x => x

/-- A lane's register advances and gives a draw (R40). -/
def drawLane (s : State) (f l : Nat) : State × Nat :=
  let x := lfsrNext (laneState s f l)
  ({ s with lfsr := sput 0 s.lfsr (2048 * f + l) x }, x)

/-- Stochastic rounding is available for this destination: a float type narrower than FP32 (R37). -/
def srType (t : Nat) : Bool := etyFloat t && t ≠ 1

/-- Convert an element on lane `l` of Frame `f` with the flags counted; `sr` selects stochastic rounding. -/
def cvtLane (s : State) (f l t : Nat) (sat sr : Bool) (v : Val) : State × Nat :=
  let (s, d) := if sr && srType t then (let (s, r) := drawLane s f l; (s, some r)) else (s, none)
  let (c, fl) := convert t sat d v
  (noteCvt s f fl, c)

/-- Quantise an element on lane `l` of Frame `f` with the flags counted (R28). -/
def quantLane (s : State) (f l st t sc : Nat) (ts : W32) (sr : Bool) (v : Val) : State × Nat :=
  let (s, d) := if sr && srType t then (let (s, r) := drawLane s f l; (s, some r)) else (s, none)
  let (c, fl) := quantElem st t sc ts d v
  (noteCvt s f fl, c)

/-- An exact value multiplied by 2^(8n) (R47). -/
def vscale (v : Val) (n : Nat) : Val :=
  match v with
  | .fin neg m e => .fin neg m (e + 8 * n)
  | v => v

/-- The value of an element that an engine put out: multiplied by its tensor scales, rounded to FP32 precision (R30), and by its
retry factor, exactly (R47). The result may lie beyond FP32; the conversion that stores it decides (R39). -/
def EElem.val (x : EElem) : Val :=
  if x.isInt then (let i := signed 32 x.v.toNat; .fin (decide (i < 0)) i.natAbs 0)
  else
    vscale (match x.fac with
      | some a => wideRnd (vmul (f32val x.v) (f32val a))
      | none => f32val x.v) x.n

end Sys2Proof.Machine
end

