-- ==== Sys2Proof/Machine/PlyAdd.lean ====
section
/-! DEFINITION. The Ply units (R289 to R297): the shard directory, pieces and lines, sums in rank order, read-out,
statistics, the reorder stores, and what becomes of an ACC record. -/
namespace Sys2Proof.Machine

/-! ## The directory (R289, R291) -/

def shardOf (s : State) (id : Nat) : Option Shard := s.shards.find? (fun x => x.id = id)

/-- The owner of element `i`: rank, module, first element of its extent, extent (R291). -/
def ownerGo (l : List (Nat × Nat)) (r start i : Nat) : Option (Nat × Nat × Nat × Nat) :=
  match l with
  | [] => none
  | (m, e) :: t => if i < start + e then some (r, m, start, e) else ownerGo t (r + 1) (start + e) i

def ownerOf (sh : Shard) (i : Nat) : Option (Nat × Nat × Nat × Nat) := ownerGo sh.ranks 0 0 i

/-- The first rank entry of a module: its rank and extent. -/
def rankOf (sh : Shard) (m : Nat) : Option (Nat × Nat) :=
  (sh.ranks.zipIdx.find? (fun p => p.1.1 = m)).map (fun p => (p.2, p.1.2))

/-- The owner's extent on this module; 0 where it owns none. -/
def myExtent (s : State) (sh : Shard) : Nat := ((rankOf sh s.myId).map (fun p => p.2)).getD 0

/-- The Ply unit of line `l` (R292): the memory group of its pair granule. -/
def unitOf (sh : Shard) (l : Nat) : Nat := chanOf ((sh.abase + 256 * l) / 256) / 16

/-- Slots of a unit's reorder store (R192, R295). -/
def slotsOf (s : State) (m : Nat) : Nat :=
  (List.range 8).foldl (fun a i => a + 16384 * (waysOf s (8 * m + i) .reorder).length) 0

/-- Slots of unit `m` in use. -/
def slotsHeld (s : State) (m : Nat) : Nat :=
  (s.held.filter (fun p => match shardOf s p.shard with
    | some sh => unitOf sh p.line = m
    | none => false)).length

/-! ## Errors of the Ply units (R296, R303) -/

/-- A flag of PLY_STAT with the shard of the first one recorded. -/
def plyFlag (s : State) (r : Ref) (shard : Nat) : State :=
  let s := if s.on Reg.PLY_STAT_DUP || s.on Reg.PLY_STAT_RSECC || s.on Reg.PLY_STAT_VERMM || s.on Reg.PLY_STAT_LINEERR
    then s else s.put Reg.PLY_STAT_SHARD shard
  s.put r 1

/-- A flag that fails the step at once, with its record. -/
def plyErr (s : State) (r : Ref) (shard unit cause : Nat) : State :=
  (plyFlag s r shard).stepErr { sev := 2, unit := 10, cause := cause, index := unit, stamp := s.timeOf 71,
                                d0 := storedWord (plyFlag s r shard) 0x700018 }

/-! ## Lines (R293, R294) -/

/-- A line's header: step, attempt, next rank. -/
structure LineHdr where
  step : Nat
  att  : Nat
  next : Nat
  deriving DecidableEq, Repr

def hdrOf (v : Nat) : LineHdr := ⟨bits v 11 0, bits v 15 12, bits v 32 16⟩
def hdrBytes (h : LineHdr) : List Byte := toLE 8 (h.step % 4096 + 2 ^ 12 * (h.att % 16) + 2 ^ 16 * (h.next % 131072))

/-- The pairs of a line: (s, c) of element 0, then of element 1, … -/
def pairsOf (bs : List Byte) : List Pair :=
  (List.range 32).map (fun i => ⟨BitVec.ofNat 32 (leAt bs (8 * i) 4), BitVec.ofNat 32 (leAt bs (8 * i + 4) 4)⟩)
def pairBytes (ps : List Pair) : List Byte := ps.flatMap (fun p => toLE 4 p.s.toNat ++ toLE 4 p.c.toNat)

/-- Add a piece's values into the first pairs of its line (R35). -/
def addVals (ps : List Pair) (vs : List W32) : List Pair :=
  match ps, vs with
  | p :: pr, v :: vr => p.add v :: addVals pr vr
  | ps, _ => ps

/-- The sum of the squares of a piece's values, in FP32, element by element (R297). -/
def sumSq (vs : List W32) : W32 := vs.foldl (fun q v => f32add q (f32mul v v)) 0

/-- The current step and attempt, modulo their widths. -/
def curAtt (s : State) : Nat × Nat := (s.get Reg.PLY_STEP_STEP % 4096, s.get Reg.PLY_STEP_ATTEMPT % 16)

/-- The step after the current one, attempt 0. -/
def nextAtt (s : State) : Nat × Nat := ((s.get Reg.PLY_STEP_STEP + 1) % 4096, 0)

/-- Which set of counts a piece belongs to: 0 the current attempt's, 1 the next step's. -/
def attSet (s : State) (st at' : Nat) : Nat := if (st, at') = curAtt s then 0 else 1

def State.stat (s : State) (cl b : Nat) : StatSt := sget StatSt.empty s.stats (2 * cl + b)
def State.setStat (s : State) (cl b : Nat) (x : StatSt) : State := { s with stats := sput StatSt.empty s.stats (2 * cl + b) x }

/-- A piece has been added: statistics and the unit's count. -/
def countPiece (s : State) (sh : Shard) (p : Piece) : State :=
  let b := attSet s p.step p.att
  let x := s.stat sh.sclass b
  (s.setStat sh.sclass b { x with s1 := vadd x.s1 (f32val (sumSq p.vals)), pn := x.pn + 1 }).bump
    (Reg.PLY_UNITm_PIECECNT_COUNT (unitOf sh p.line)) 1

/-- Add the held pieces of a line that follow in rank order: state, pairs, next rank. -/
def addHeld (s : State) (sh : Shard) (p : Piece) (ps : List Pair) (next fuel : Nat) : State × List Pair × Nat :=
  match fuel with
  | 0 => (s, ps, next)
  | k + 1 =>
    match s.held.find? (fun x => x.shard = p.shard ∧ x.line = p.line ∧ x.step = p.step ∧ x.att = p.att ∧ x.rank = next) with
    | none => (s, ps, next)
    | some x =>
      let s := { s with held := s.held.erase x }
      addHeld (countPiece s sh x) sh p (addVals ps x.vals) (next + 1) k

/-- A line is complete (R294): read-out, statistics, and the add to DONEK with the owner's last line. -/
def lineDone' (s : State) (sh : Shard) (p : Piece) (ps : List Pair) : State :=
  let e := myExtent s sh
  let ys := (ps.take (min 32 (e - 32 * p.line))).map Pair.val
  let s := (devWrite s (sh.grad + 128 * p.line) (ys.flatMap (fun y => toLE 4 y.toNat))).st
  let b := attSet s p.step p.att
  let x := s.stat sh.sclass b
  let s := s.setStat sh.sclass b
    { x with s2 := ys.foldl (fun a y => vadd a (f32val (f32mul y y))) x.s2, ln := x.ln + 1 }
  let n := sget 0 s.lineDone (2 * sh.id + b) + 1
  let s := { s with lineDone := sput 0 s.lineDone (2 * sh.id + b) n }
  if n = (e + 31) / 32 then knotAddG s sh.donek 1 else s

/-- What became of a piece. -/
inductive PieceRes where
  | done (s : State)
  | noSlot
  deriving DecidableEq, Repr

/-- Hold a piece where a slot of its unit is free. -/
def holdPiece (s : State) (sh : Shard) (p : Piece) : PieceRes :=
  if slotsHeld s (unitOf sh p.line) < slotsOf s (unitOf sh p.line) then .done { s with held := s.held ++ [p] } else .noSlot

/-- The line's sum is lost (R296). -/
def lineErr (s : State) (sh : Shard) (p : Piece) : State := plyErr s Reg.PLY_STAT_LINEERR sh.id (unitOf sh p.line) 7

/-- Rows 4 to 6 of Table 12-3, for a line whose header `h` carries the piece's step and attempt. -/
def pieceByRank (s : State) (sh : Shard) (p : Piece) (h : LineHdr) : PieceRes :=
  if p.rank = h.next then
    let r := devRead s (sh.abase + 256 * p.line) 256
    match r.err with
    | some _ => .done (lineErr r.st sh p)
    | none =>
      let s := countPiece r.st sh p
      let (s, ps, next) := addHeld s sh p (addVals (pairsOf r.data) p.vals) (p.rank + 1) (sh.ranks.length + 1)
      let s := (devWrite s (sh.abase + 256 * p.line) (pairBytes ps)).st
      let s := (devWrite s (sh.lbase + 8 * p.line) (hdrBytes ⟨p.step, p.att, next⟩)).st
      .done (if next = sh.ranks.length then lineDone' s sh p ps else s)
  else
    let dup := p.rank < h.next || s.held.any (fun x =>
      x.shard = p.shard && x.line = p.line && x.step = p.step && x.att = p.att && x.rank = p.rank)
    if dup then .done (plyErr s Reg.PLY_STAT_DUP sh.id (unitOf sh p.line) 1) else holdPiece s sh p

/-- The handling of a piece by Table 12-3. -/
def handlePiece (s : State) (sh : Shard) (p : Piece) : PieceRes :=
  let cur := (p.step, p.att) = curAtt s
  if ¬ cur ∧ (p.step, p.att) ≠ nextAtt s then .done (s.bump Reg.PLY_STALECNT_COUNT 1)
  else
    let r := devRead s (sh.lbase + 8 * p.line) 8
    match r.err with
    | some _ => .done (lineErr r.st sh p)
    | none =>
      let s := r.st
      let h := hdrOf (ofLE r.data)
      let past := ((h.step, h.att) = curAtt s ∧ h.next = sh.ranks.length) ∨ (h.step, h.att) = nextAtt s
      if ¬ cur ∧ ¬ past then holdPiece s sh p
      else if (h.step, h.att) = (p.step, p.att) then pieceByRank s sh p h
      else
        let s := (devWrite s (sh.abase + 256 * p.line) (List.replicate 256 0)).st
        let s := (devWrite s (sh.lbase + 8 * p.line) (hdrBytes ⟨p.step, p.att, 0⟩)).st
        pieceByRank s sh p ⟨p.step, p.att, 0⟩

/-- The early pieces held for a line that has just completed the current attempt are handled again, by ascending rank. -/
def drainEarly (s : State) (sh : Shard) (line fuel : Nat) : State :=
  match fuel with
  | 0 => s
  | k + 1 =>
    let l := s.held.filter (fun x => x.shard = sh.id ∧ x.line = line ∧ (x.step, x.att) = nextAtt s)
    match l with
    | [] => s
    | x :: t =>
      let y := t.foldl (fun a b => if b.rank < a.rank then b else a) x
      match handlePiece { s with held := s.held.erase y } sh y with
      | .done s' => drainEarly s' sh line k
      | .noSlot => s

/-- Handle a piece, and then the early pieces of its line where it completed the line. -/
def takePiece (s : State) (sh : Shard) (p : Piece) : PieceRes :=
  match handlePiece s sh p with
  | .noSlot => .noSlot
  | .done t =>
    let n (x : State) : Nat := sget 0 x.lineDone (2 * sh.id)
    if n t = n s then .done t
    else .done (drainEarly t sh p.line (t.held.filter (fun x => x.shard = sh.id ∧ x.line = p.line)).length)

/-! ## ACC records (R291, R292, R295) -/

def accShard (r : Record) : Nat := bits r.addr 11 0
def accOfs (r : Record) : Nat := bits r.addr 47 16
def accRank (r : Record) : Nat := bits r.val 15 0

/-- The owner refuses a record (R292). -/
def accBad (s : State) (r : Record) : Bool :=
  match shardOf s (accShard r) with
  | none => true
  | some sh =>
    let e := myExtent s sh
    let n := r.data.length / 4
    let fin := accOfs r + n
    bits r.addr 15 12 ≠ 0 || (sh.ranks[accRank r]?.map (fun p => p.1)) ≠ some r.src || accOfs r % 32 ≠ 0 ||
      r.data.length % 4 ≠ 0 || n = 0 || e < fin || (fin % 32 ≠ 0 && fin ≠ e)

/-- The first piece of a record. -/
def firstPiece (r : Record) : Piece :=
  ⟨accShard r, accOfs r / 32, accRank r, bits r.val 27 16, bits r.val 31 28,
   (wordsAt (r.data.take 128) 0 ((r.data.take 128).length / 4)).map (BitVec.ofNat 32)⟩

/-- A record without its first piece. -/
def restRecord (r : Record) : Record := { r with addr := r.addr + 2 ^ 16 * 32, data := r.data.drop 128 }

/-- Handle the pieces of a record in order; what remains when a piece finds no slot is given back. -/
def accPieces (s : State) (sh : Shard) (r : Record) (fuel : Nat) : State × Option Record :=
  match fuel with
  | 0 => (s, none)
  | k + 1 =>
    if r.data.isEmpty then (s, none)
    else
      match takePiece s sh (firstPiece r) with
      | .done t => accPieces t sh (restRecord r) k
      | .noSlot => (s, some r)

/-- Drop the oldest request for a place. -/
def dropReq (key : Nat) (l : List ShReq) : List ShReq :=
  match l with
  | [] => []
  | x :: r => if x.key = key then r else x :: dropReq key r

/-- One number for a place: a module (none: this one) and an address there. -/
def placeKey (mod : Option Nat) (addr : Nat) : Nat := (match mod with | none => 0 | some m => m + 1) * 2 ^ 64 + addr

/-- A write of a Shuttle queue of this module to a place has been acknowledged. -/
def answered (s : State) (who : Origin) (key : Nat) : State :=
  match who with
  | .shuttle f j => syncBusy (s.setSh f j { s.sh f j with unacked := dropReq key (s.sh f j).unacked }) f j
  | _ => s

/-- Acknowledge an ACC record to its contributor (R292): its bytes leave the receive buffer, and their credits are owed (R295). -/
def accAck (s : State) (w : Withheld) : State :=
  match w.port with
  | none => answered s w.who (placeKey (some s.myId) (w.record.addr % 65536))
  | some p => replyTo (rxTake s p w.rx) p (fun x => x.typ = 6 && x.src = w.record.src) (ackRec s w.record)

/-- Handle a record: it is acknowledged once every piece has been added or held, and held back otherwise (R295). -/
def accTake (s : State) (w : Withheld) : State × Option Withheld :=
  match shardOf s (accShard w.record) with
  | none => (accAck s w, none)
  | some sh =>
    match accPieces s sh w.record (w.record.data.length / 128 + 1) with
    | (t, none) => (accAck t w, none)
    | (t, some r) => (t, some { w with record := r })

/-- Try the records held back once, oldest first. -/
def accRetryOnce (s : State) (l : List Withheld) : State :=
  match l with
  | [] => s
  | w :: r =>
    match accTake s w with
    | (t, none) => accRetryOnce t r
    | (t, some w') => accRetryOnce { t with withheld := t.withheld ++ [w'] } r

/-- Try the records held back as long as one of them gets through (R295). -/
def accRetry (s : State) (fuel : Nat) : State :=
  match fuel with
  | 0 => s
  | k + 1 =>
    let t := accRetryOnce { s with withheld := [] } s.withheld
    if t.withheld = s.withheld then t else accRetry t k

/-- An ACC record that is not refused reaches the Ply units. -/
def accept (s : State) (w : Withheld) : State :=
  match accTake s w with
  | (t, none) => accRetry t (t.withheld.length + 1)
  | (t, some w') => let t := accRetry t (t.withheld.length + 1); { t with withheld := t.withheld ++ [w'] }

end Sys2Proof.Machine
end

