-- ==== Sys2Proof/Machine/ShutAddr.lean ====
section
/-! DEFINITION. Address generation of the Shuttle (R160 to R174): segments, extents, stream order, element places, extreme
bytes, padding values, scale places, and the decode checks of words (R155) and items (R162, R291, R299, R300). -/
namespace Sys2Proof.Machine

/-! ## Segments (R161) -/

structure Seg where
  base : Nat
  lim  : Nat
  kind : Nat
  grp  : Nat
  deriving DecidableEq, Repr

def segOf (s : State) (f i : Nat) : Seg :=
  ⟨s.get (Reg.FRM_SEGs_BASE_BASE f i), s.get (Reg.FRM_SEGs_LIM_LIMIT f i), s.get (Reg.FRM_SEGs_LIM_KIND f i),
   s.get (Reg.FRM_SEGs_LIM_MGRP f i)⟩

/-- The address of an offset in a segment: a 64-bit sum. -/
def Seg.addr (g : Seg) (o : Int) : Nat := unsigned 64 ((g.base : Int) + o)

/-- A word is rejected when it is decoded (R155, Table 7-2). -/
def sxferBad (s : State) (f w : Nat) : Bool :=
  wOp w ≠ 0x40 || !onlyFields w sxFields || 1 < sxSrc w || (sxSrc w = 1 && sxDst w ≠ 0) ||
  (sxDst w < 2 && (sxSid w ≠ 0 || sxPart w ≠ 0)) || (2 ≤ sxDst w && sxSid w = 0) || sxDlist w % 128 ≠ 0 ||
  1 < (segOf s f (sxDseg w)).kind

/-! ## Extents and stream order (R163) -/

/-- The window that dimension `k` belongs to. -/
def dWin (d : List Byte) (k : Nat) : Option Nat :=
  if dWinD d ≤ k ∧ k < dWinD d + dWinN d then some (k - dWinD d) else none

/-- Dimension `k` is index-driven. -/
def dIdx (d : List Byte) (k : Nat) : Bool := dIdxEn d && k = dIdxDim d

/-- E of dimension `k`. -/
def dExt (d : List Byte) (k : Nat) : Int :=
  let full : Int := (dSize d k : Int) + dPadLo d k + dPadHi d k
  match dWin d k with
  | some i => (full - (dWdil d i : Int) * ((dKern d i : Int) - 1) - 1) / (dWstr d i : Int) + 1
  | none => if dIdx d k then (dSize d k : Int) else full

/-- The loops of the stream, fastest first: 0 to 5 a dimension's coordinate, 6 + i the kernel offset of window i. -/
def dLoops (d : List Byte) (xp : Bool) : List Nat :=
  let outer := ((List.range 6).drop 1).filter (fun k => k < dRank d)
  if xp then 1 :: 0 :: outer.filter (fun k => k ≠ 1)
  else 0 :: ((List.range (dWinN d)).map (fun i => 6 + i) ++ outer)

/-- How often a loop runs. -/
def dTrips (d : List Byte) (lp : Nat) : Nat := if lp < 6 then (dExt d lp).toNat else dKern d (lp - 6)

/-- Elements of the stream. -/
def dCount (d : List Byte) : Nat := (dLoops d false).foldl (fun a lp => a * dTrips d lp) 1

/-- Elements of a row (R178): the innermost loop with every kernel offset. -/
def dRow (d : List Byte) (xp : Bool) : Nat :=
  if xp then dTrips d 1 else (List.range (dWinN d)).foldl (fun a i => a * dKern d i) (dTrips d 0)

/-- The coordinate of loop `lp` in element `lam`. -/
def dDigit (d : List Byte) (loops : List Nat) (lam lp : Nat) : Nat :=
  match loops with
  | [] => 0
  | x :: r => if x = lp then lam % dTrips d x else dDigit d r (lam / dTrips d x) lp

/-! ## Places (R163, R164, R174) -/

/-- Where an element lies: padding (or not written), an index out of range with IDX_OOB = 0, or coordinates. -/
inductive Spot where
  | pad
  | bad
  | at (xs : List Nat)
  deriving DecidableEq, Repr

/-- The source coordinates of element `lam`, dimension by dimension ascending; `iv` is the value of its index. -/
def spotGo (d : List Byte) (loops : List Nat) (lam : Nat) (iv : Int) (k fuel : Nat) (xs : List Nat) : Spot :=
  match fuel with
  | 0 => .at xs.reverse
  | n + 1 =>
    let c := dDigit d loops lam k
    let x : Int := match dWin d k with
      | some i => (c : Int) * dWstr d i + (dDigit d loops lam (6 + i) : Int) * dWdil d i - dPadLo d k
      | none => if dIdx d k then iv else (c : Int) - dPadLo d k
    if dIdx d k then
      (if x < 0 ∨ (dBound d : Int) ≤ x then (if dOob d then .pad else .bad) else spotGo d loops lam iv (k + 1) n (x.toNat :: xs))
    else if x < 0 ∨ (dSize d k : Int) ≤ x then .pad
    else spotGo d loops lam iv (k + 1) n (x.toNat :: xs)

def spotOf (d : List Byte) (xp : Bool) (lam : Nat) (iv : Int) : Spot := spotGo d (dLoops d xp) lam iv 0 (dRank d) []

/-- The i-th coordinate, 0 where there is none. -/
def nthX (xs : List Nat) (i : Nat) : Nat := xs[i]?.getD 0

/-- The element offset e (R164). -/
def locOf (d : List Byte) (xs : List Nat) : Int :=
  let tail (lo : Nat) : Int := (List.range (dRank d)).foldl (fun a k => if lo ≤ k then a + (nthX xs k : Int) * dStride d k else a) 0
  if dBlk d then
    ((((nthX xs 1) / 32) * ((dSize d 0 + 31) / 32) + (nthX xs 0) / 32) * 1024 + (nthX xs 1 % 32) * 32 + nthX xs 0 % 32 : Nat)
      + tail 2
  else tail 0

/-- Bytes that hold an element: a whole byte group for the packed types (R21). -/
def grpBytes (t : Nat) : Nat := if etyWidth t = 4 then 1 else if etyWidth t = 6 then 3 else etyWidth t / 8

/-- Elements to a byte group. -/
def grpElems (t : Nat) : Nat := if etyWidth t = 4 then 2 else if etyWidth t = 6 then 4 else 1

/-- The segment offset of the byte group of element offset `e`. -/
def byteOf (d : List Byte) (e : Int) : Int := (dBase d : Int) + (grpBytes (dEty d) : Int) * (e / (grpElems (dEty d) : Int))

/-- The low bit of element offset `e` in its byte group. -/
def shiftOf (d : List Byte) (e : Int) : Nat := etyWidth (dEty d) * (e % (grpElems (dEty d) : Int)).toNat

/-- The scale block of coordinates `xs`: its place in the dense scale array (R174). An index-driven dimension has extent
IDX_BOUND; where it is also SC_DIM its blocks run along the index values. -/
def scaleIdx (d : List Byte) (xs : List Nat) : Nat :=
  ((List.range (dRank d)).foldl (fun (a : Nat × Nat) k =>
    let n := if dIdx d k then dBound d else dSize d k
    let b := styBlock (dSty d)
    let (x, n) := if k = dScDim d then (nthX xs k / b, (n + b - 1) / b) else (nthX xs k, n)
    (a.1 + x * a.2, a.2 * n)) (0, 1)).1

/-- Bytes of the scale array from SCALE_BASE. -/
def scaleLen (d : List Byte) : Nat :=
  let n := (List.range (dRank d)).foldl (fun a k =>
    let n := if dIdx d k then dBound d else dSize d k
    a * (if k = dScDim d then (n + styBlock (dSty d) - 1) / styBlock (dSty d) else n)) 1
  if dSty d = 2 then n + 64 else n

/-- The segment offset of a block scale. -/
def scaleOfs (d : List Byte) (xs : List Nat) : Nat := dScBase d + (if dSty d = 2 then 64 else 0) + scaleIdx d xs

/-- The code of a padded element (R166). -/
def padCode (d : List Byte) : Nat :=
  let t := dEty d
  match dPadMode d with
  | 1 =>
    match etyFmt t with
    | some f => f.withSign true (f.infc.getD f.maxc)
    | none => unsigned (etyWidth t) (etyIntRange t).1
  | 2 => (convert t true none (f32val (dPadVal d))).1
  | _ => 0

/-! ## Extreme bytes (R162, R165) -/

/-- The range of source coordinates that dimension `k` reaches inside the tensor. -/
def dRange (d : List Byte) (k : Nat) : Option (Nat × Nat) :=
  match dWin d k with
  | some i =>
    (List.range (dKern d i)).foldl (fun (a : Option (Nat × Nat)) (r : Nat) =>
      let o : Int := (r : Int) * dWdil d i - dPadLo d k
      let w : Int := dWstr d i
      let c0 : Int := max 0 (-(o / w))
      let c1 : Int := min (dExt d k - 1) (((dSize d k : Int) - 1 - o) / w)
      if c0 ≤ c1 then
        let x0 := (c0 * w + o).toNat
        let x1 := (c1 * w + o).toNat
        match a with
        | none => some (x0, x1)
        | some (l, h) => some (min l x0, max h x1)
      else a) none
  | none =>
    let n := if dIdx d k then dBound d else dSize d k
    if n = 0 then none else some (0, n - 1)

/-- The lowest and the highest segment offset of a byte that the descriptor reaches; none where every element is padding. -/
def extremes (d : List Byte) : Option (Int × Int) :=
  let rs := (List.range (dRank d)).map (dRange d)
  if rs.any Option.isNone then none
  else
    let rng (k : Nat) : Nat × Nat := (rs[k]?.getD none).getD (0, 0)
    let side (hi : Bool) : Int :=
      (List.range (dRank d)).foldl (fun a k =>
        let p := (rng k).1 * dStride d k
        let q := (rng k).2 * dStride d k
        if dBlk d ∧ k < 2 then a else a + (if hi then max p q else min p q)) 0
    let blk (hi : Bool) : Int :=
      if dBlk d then
        let x (k : Nat) : Nat := if dRank d ≤ k then 0 else if hi then (rng k).2 else (rng k).1
        (((x 1 / 32) * ((dSize d 0 + 31) / 32) + x 0 / 32) * 1024 + (x 1 % 32) * 32 + x 0 % 32 : Nat)
      else 0
    some (byteOf d (blk false + side false), byteOf d (blk true + side true) + (grpBytes (dEty d) : Int) - 1)

/-- The extreme offset to report where a range of offsets leaves a segment (R162). -/
def outside (lim : Nat) (lo hi : Int) : Option Int :=
  if lo < 0 then some lo else if (lim : Int) ≤ hi then some hi else none

/-! ## Item decode (R162) -/

/-- The bits of a descriptor that no field of Table 7-4 names are 0. -/
def descReserved (d : List Byte) : Bool :=
  bit (dW0 d) 63 || bits (dW0 d) 62 60 ≠ 0 || bits (dW1 d) 31 25 ≠ 0 || leAt d 0x67 1 ≠ 0 ||
  bits (leAt d 0x70 8) 63 52 ≠ 0 || bits (leAt d 0x78 8) 63 53 ≠ 0

/-- Dimension `k` is padded. -/
def dPadded (d : List Byte) (k : Nat) : Bool := dPadLo d k ≠ 0 || dPadHi d k ≠ 0

/-- Some dimension below RANK satisfies `p`. -/
def anyDim (d : List Byte) (p : Nat → Bool) : Bool := (List.range (dRank d)).any p

/-- A descriptor breaks a rule of R162 that concerns it alone. `wr`: its place is a write's; `ring`: a ring item's. -/
def descBad (d : List Byte) (wr ring xp : Bool) (g : Seg) : Bool :=
  let t := dEty d
  let w := etyWidth t
  let dims := (List.range 6)
  descReserved d || (dDir d = 1) ≠ wr || dPadMode d = 3 || dRank d = 0 || dRank d = 7 ||
  dims.any (fun k => if k < dRank d then dSize d k = 0 else dSize d k ≠ 0 || dStride d k ≠ 0 || dPad d k ≠ 0) ||
  !etyData t || 2 < dSty d || !styValid (dSty d) t ||
  (wr && anyDim d (dPadded d)) ||
  (dIdxEn d && (dRank d ≤ dIdxDim d || dPadded d (dIdxDim d))) ||
  (dSty d ≠ 0 && (dRank d ≤ dScDim d || dPadded d (dScDim d) || dPadMode d ≠ 0)) ||
  (dWinN d ≠ 0 && (dWinD d = 0 || (List.range (dWinN d)).any (fun i =>
    dRank d ≤ dWinD d + i || dIdx d (dWinD d + i) || dKern d i = 0 || dWstr d i = 0 || dWdil d i = 0))) ||
  ((List.range 3).any (fun i => dWinN d ≤ i && (dKern d i ≠ 0 || dWstr d i ≠ 0 || dWdil d i ≠ 0))) ||
  (dBlk d && (dStride d 0 ≠ 0 || dStride d 1 ≠ 0 || dPadded d 0 || dPadded d 1 || (dWin d 1).isSome || dIdx d 0 ||
    dIdx d 1 || w = 6)) ||
  (!dBlk d && (w = 4 || w = 6) && dStride d 0 ≠ 1) ||
  ((w = 4 || w = 6) && anyDim d (fun k => k ≠ 0 && dStride d k % (grpElems t : Int) ≠ 0)) ||
  (dAdd d && (!wr || !(t = 1 || t = 2 || t = 3 || t = 0x0B) || dSty d ≠ 0 || g.kind ≠ 0)) ||
  (xp && (dRank d < 2 || !(w = 8 || w = 16 || w = 32) || dWinN d ≠ 0 || dIdx d 0 || dIdx d 1)) ||
  (wr && dSty d ≠ 0 && (1 < dScDim d || (dScDim d = 1 && (if dSty d = 1 then 512 else 1024) < dExt d 0))) ||
  anyDim d (fun k => dExt d k < 1) ||
  4 < g.kind || (ring && g.kind ≠ 0) || (wr && g.kind = 4) || (!wr && (g.kind = 2 || g.kind = 3))

/-- The index stream or the scale array lies in a segment of a kind other than 0 or 1. -/
def auxKindBad (s : State) (f : Nat) (d : List Byte) : Bool :=
  (dIdxEn d && 1 < (segOf s f (dIdxSeg d)).kind) || (dSty d ≠ 0 && 1 < (segOf s f (dScSeg d)).kind)

/-- A contribution breaks a rule of R291. -/
def contribBad (s : State) (d : List Byte) : Bool :=
  match shardOf s (bits (dTag d) 11 0) with
  | none => true
  | some sh =>
    let b := dBase d / 4
    let outer (p : Nat → Bool) : Bool := anyDim d (fun k => k ≠ 0 && 1 < dSize d k && p k)
    let top : Int := (List.range (dRank d)).foldl (fun a k => a + max 0 (((dSize d k : Int) - 1) * dStride d k)) (b : Int)
    dTag d / 4096 ≠ 0 || dEty d ≠ 1 || dSty d ≠ 0 || anyDim d (dPadded d) || dWinN d ≠ 0 || dIdxEn d || dBlk d ||
    dStride d 0 ≠ 1 || b % 32 ≠ 0 || outer (fun k => dStride d k % 32 ≠ 0) ||
    (dSize d 0 % 32 ≠ 0 && (b + dSize d 0 ≠ sh.nelem || outer (fun k => dStride d k ≠ 0))) ||
    (sh.nelem : Int) ≤ top || (rankOf sh s.myId).isNone || dBase d % 4 ≠ 0

/-- A gather breaks a rule of R299 or names the reserved PASS (R300). -/
def gatherBad (s : State) (d : List Byte) : Bool :=
  match shardOf s (bits (dTag d) 11 0) with
  | none => true
  | some sh =>
    let sz := grpBytes sh.gtype
    bits (dTag d) 31 14 ≠ 0 || bits (dTag d) 13 12 = 3 || dEty d ≠ sh.gtype || dSty d ≠ 0 || dBase d % sz ≠ 0 ||
      (match extremes d with
        | some (_, hi) => ((sh.nelem * sz : Nat) : Int) ≤ hi
        | none => false)

/-- A backward gather that does not find the current step in the version record (R300). -/
def versionBad (s : State) (d : List Byte) : Bool :=
  bits (dTag d) 13 12 = 1 && sget none s.verRec (bits (dTag d) 11 0) ≠ some (s.get Reg.PLY_STEP_STEP)

/-- An ADD can address something other than Frame memory or the scratchpad window (R171). -/
def addBad (s : State) (d : List Byte) (g : Seg) : Bool :=
  match extremes d with
  | none => false
  | some (lo, hi) =>
    let a := regionOf s (g.addr lo)
    a ≠ regionOf s (g.addr hi) || !(a = .frame || a = .spad)

/-- An element, the scale array or the index stream lies outside its segment (R162, R165): the address of the extreme byte. -/
def descOut (s : State) (f : Nat) (d : List Byte) (g : Seg) : Option Nat :=
  let elems := if dIdxEn d then none else
    match extremes d with
    | some (lo, hi) => (outside g.lim lo hi).map g.addr
    | none => none
  let gs := segOf s f (dScSeg d)
  let scales := if dSty d = 0 then none else
    (outside gs.lim (dScBase d : Int) ((dScBase d + scaleLen d : Nat) - 1 : Int)).map gs.addr
  let gi := segOf s f (dIdxSeg d)
  let idx := if dIdxEn d then
      (outside gi.lim (dIdxPtr d : Int) ((dIdxPtr d + dSize d (dIdxDim d) * (if dIdxW d = 0 then 2 else 4) : Nat) - 1 : Int)).map
        gi.addr
    else none
  elems.or (scales.or idx)

/-- The descriptors of an item of word `w`: read and write, where it has them. -/
def itemRd (w : Nat) (it : ItemSt) : Option (List Byte) := if sxSrc w = 0 then some it.rd else none
def itemWr (w : Nat) (it : ItemSt) : Option (List Byte) := if sxDst w = 0 then some it.wr else none

/-- The descriptor that gives an item its element count. -/
def itemMain (w : Nat) (it : ItemSt) : List Byte := if sxSrc w = 0 then it.rd else it.wr

/-- An item is rejected with cause 0x01 (R162, R171, R176, R178, R179, R291, R299). -/
def itemBad (s : State) (f j w : Nat) (it : ItemSt) : Bool :=
  let xp := sxXpose w
  let ring := 2 ≤ sxDst w
  (match itemRd w it with
    | some d =>
      let g := segOf s f (dSeg d)
      descBad d false ring xp g || auxKindBad s f d || (g.kind = 4 && gatherBad s d)
    | none => xp) ||
  (match itemWr w it with
    | some d =>
      let g := segOf s f (dSeg d)
      descBad d true false false g || auxKindBad s f d || (g.kind = 3 && contribBad s d) || (dAdd d && addBad s d g)
    | none => false) ||
  (match itemRd w it, itemWr w it with
    | some a, some b => dCount a ≠ dCount b || (dAdd b && etyFloat (dEty a) ≠ etyFloat (dEty b))
    | _, _ => false) ||
  (sxC64 w && etyWidth (dEty (itemMain w it)) ≠ 4) ||
  (ring && (match injector s (sxDst w - 2) f with
    | some (_, qq) => qq ≠ j
    | none => true))

/-- An item is rejected with cause 0x02 at an address (R162). -/
def itemOut (s : State) (f w : Nat) (it : ItemSt) : Option Nat :=
  ((itemRd w it).bind (fun d => descOut s f d (segOf s f (dSeg d)))).or
    ((itemWr w it).bind (fun d => descOut s f d (segOf s f (dSeg d))))

end Sys2Proof.Machine
end

