-- ==== Sys2Proof/Machine/ShutData.lean ====
section
/-! DEFINITION. The data path of the Shuttle: requests and their answers (R158, R161, R181, R182), reading a stretch of an
item's stream, writing, scatter-adds (R171), conversion (R172), quantising (R175), contributions (R291), chunks (R178). -/
namespace Sys2Proof.Machine

/-- The result of a step of a queue: done, a fault of Table 7-7 with its address, or requests sent that must be answered
first. -/
inductive ShRes (α : Type) where
  | ok (s : State) (v : α)
  | bad (s : State) (cause addr : Nat)
  | wait (s : State)

/-- Go on with the result. -/
def ShRes.next {α β : Type} (r : ShRes α) (k : State → α → ShRes β) : ShRes β :=
  match r with
  | .ok s v => k s v
  | .bad s c a => .bad s c a
  | .wait s => .wait s

/-! ## Requests -/

/-- The bytes of a request: the module (none: this one), the address there, the length, and what is added to the address
when it is reported. -/
structure Span where
  mod  : Option Nat
  addr : Nat
  len  : Nat
  pre  : Nat
  deriving DecidableEq, Repr

/-- One number for a place: module and address. -/
def Span.key (x : Span) : Nat := placeKey x.mod x.addr

/-- The address reported for a span. -/
def Span.rep (x : Span) : Nat := x.pre + x.addr

/-- `n` bytes at offset `o` of a segment, for descriptor `d` (Table 7-5, R299). A kind-1 address keeps the module of BASE[63:48]: its local
part wraps at 2^48 (DESIGN CHOICE, assumption 65: R161's 64-bit sum would carry into the module id, Table 7-5 takes the module from
BASE). -/
def spanOf (s : State) (d : List Byte) (g : Seg) (o n : Nat) : Span :=
  match g.kind with
  | 1 =>
    let m := g.base / 2 ^ 48
    ⟨if m = s.myId then none else some m, (g.base + o) % 2 ^ 48, n, m * 2 ^ 48⟩
  | 4 =>
    match shardOf s (bits (dTag d) 11 0) with
    | none => ⟨none, 0, n, 0⟩
    | some sh =>
      let sz := grpBytes sh.gtype
      match ownerOf sh (o / sz) with
      | none => ⟨none, 0, n, 0⟩
      | some (_, m, start, _) =>
        let a := (if s.get Reg.PLY_STEP_STEP % 2 = 0 then sh.vbase0 else sh.vbase1) + sh.gofs + (o - start * sz)
        if m = s.myId then ⟨none, a, n, 0⟩ else ⟨some m, a, n, m * 2 ^ 48⟩
  | _ => ⟨none, (g.base + o) % 2 ^ 64, n, 0⟩

/-- Two consecutive requests join into one burst: on this module within a 256 B granule (R181), on another one up to 4 KiB
(R279). -/
def joins (a b : Span) : Bool :=
  a.mod = b.mod && a.addr ≤ b.addr && b.addr ≤ a.addr + a.len &&
    (if a.mod.isNone then a.addr / 256 = (b.addr + b.len - 1) / 256 else b.addr + b.len ≤ a.addr + 4096)

/-- Join consecutive requests; the list gives the bursts in order. -/
def burstsGo (cur : Span) (l : List Span) : List Span :=
  match l with
  | [] => [cur]
  | x :: r => if joins cur x then burstsGo { cur with len := max cur.len (x.addr + x.len - cur.addr) } r else cur :: burstsGo x r

def bursts (l : List Span) : List Span :=
  match l with
  | [] => []
  | x :: r => burstsGo x r

/-- Requests absorbed into the one before (R181): the same granule. -/
def mergedGo (a : Span) (l : List Span) : Nat :=
  match l with
  | [] => 0
  | b :: r => (if a.mod = b.mod ∧ a.addr / 256 = b.addr / 256 then 1 else 0) + mergedGo b r

def merged (l : List Span) : Nat :=
  match l with
  | [] => 0
  | x :: r => mergedGo x r

/-- What the ECC checks of a stretch find: `e` in the first word read of the part `part`. -/
structure ShEcc where
  e    : Ecc
  part : ShRead
  deriving DecidableEq, Repr

/-- What the check of the words of one part finds. -/
def ShEcc.of (x : ShEcc) (p : ShRead) : Ecc := if x.part = p then x.e else .ok

/-- No check finds anything. -/
def ShEcc.none : ShEcc := ⟨.ok, .data⟩

/-- A read of this module's memory with its fault of Table 7-7: an unmapped address (0x07, R188), a host completion error (0x05, 0x06), an
uncorrectable block or word (0x04). `resp` is the host's answer, `ecc` what the check of Frame memory or of the slice finds (R133,
R205). -/
def readHere (s : State) (a n : Nat) (resp : Resp) (ecc : Ecc) : State × List Byte × Option Nat :=
  if backed s a n = false then (s, [], some 7)
  else
    match regionOf s a with
    | .host =>
      match resp with
      | .hostUR => (s, [], some 6)
      | .hostCA => (s, [], some 5)
      | _ => (s, rawBytes s a n, none)
    | _ =>
      let r := unitRead s a n ecc
      (r.st, r.data, r.err.map (fun _ => 4))

/-- A write of this module's memory with its fault. -/
def writeHere (s : State) (a : Nat) (bs : List Byte) : State × Option Nat :=
  if backed s a bs.length = false then (s, some 7)
  else
    let r := devWrite s a bs
    (r.st, r.err.map (fun _ => 4))

/-- A read of this module's memory for a Shuttle queue. It waits while LPDDR holds it back (R195, R207), or
while the host has not answered (R341). -/
def rdLocal (s : State) (x : Span) (resp : Resp) (ecc : Ecc) : ShRes (List Byte) :=
  if memHeld s x.addr x.len false ∨ (regionOf s x.addr = .host ∧ resp = .late) then .wait s
  else
    match readHere s x.addr x.len resp ecc with
    | (t, bs, none) => .ok t bs
    | (t, _, some c) => .bad t c x.rep

/-- The access crosses the mesh: to another Frame or slice, or to a Weft port (R213). -/
def Span.far (s : State) (f : Nat) (x : Span) : Bool := x.mod.isSome || (meshHome s f x.addr).isSome

/-- All bytes of a burst over the mesh have arrived. -/
def arrived (s : State) (f j : Nat) (x : Span) : Bool :=
  (sgetList none (s.sh f j).rbuf x.key x.len).all Option.isSome

/-- The task that queue `j` serves, for the packets it sends. -/
def shTask (s : State) (f j : Nat) : Nat := s.qTask f (9 + j)

/-- A record of queue `j` can leave: its module is in the fabric and the port of its route is up. Else why not: a REJECT cause of this
module, 0 for none (R281, R287). -/
def recordWay (s : State) (dest : Nat) : Except Nat Nat :=
  if inFabric s dest = false then .error 0
  else
    match nextHop s s.myId dest with
    | none => .error 0
    | some (p, _) => if portUp s p then .ok p else .error 2

/-- Queue `j` sends a record to the Weft port of its route, or finds at once that it cannot go: that is noted as a REJECT of this module
(R287). The Bool says that it was sent. -/
def sendRecord (s : State) (f j : Nat) (r : Record) : State × Bool :=
  match recordWay s r.dest with
  | .ok p => (meshSend s f ⟨[.weft p], .send r, .shuttle f j, shTask s f j, false, 0⟩, true)
  | .error 0 => (s, false)
  | .error c => (noteReject s c r.typ (((nextHop s s.myId r.dest).map (fun p => p.1)).getD 0) s.myId, false)

/-- Send read requests for the bursts (R158, R277); a module outside the fabric, or one behind a down port, is a fault 0x07. -/
def askAll (s : State) (f j : Nat) (l : List Span) : ShRes Unit :=
  match l with
  | [] => .ok s ()
  | x :: r =>
    let (t, sent) :=
      match x.mod, meshHome s f x.addr with
      | some m, _ => sendRecord s f j { typ := 2, len1 := x.len - 1, dest := m, src := s.myId, addr := x.addr, val := 0, data := [] }
      | none, some g => (meshSend s f ⟨[.frame g], .read x.addr x.len, .shuttle f j, shTask s f j, false, 0⟩, true)
      | none, none => (s, true)
    if sent then askAll (t.setSh f j { t.sh f j with asked := (t.sh f j).asked ++ [⟨x.key, x.len, s.now, true⟩] }) f j r
    else .bad t 7 x.rep

/-- The bursts of a list that cross the mesh must have arrived: they are requested where they have not, and the queue waits. -/
def needRemote (s : State) (f j : Nat) (l : List Span) : ShRes Unit :=
  let miss := l.filter (fun x => x.far s f && !arrived s f j x)
  if miss.isEmpty then .ok s ()
  else if (s.sh f j).asked.isEmpty then
    match askAll s f j miss.eraseDups with
    | .ok t _ => .wait t
    | .bad t c a => .bad t c a
    | .wait t => .wait t
  else .wait s

/-- Bytes by place. -/
abbrev ByteMap := Sparse (Option Byte)

/-- Put bytes into a map. -/
def mapPut (m : ByteMap) (k : Nat) (bs : List Byte) : ByteMap := sputList none m k (bs.map some)

/-- Bytes from a map. -/
def mapGet (m : ByteMap) (k n : Nat) : List Byte := (sgetList none m k n).map (fun b => b.getD 0)

/-- Read bursts in order into a map; `ecc` concerns the first of them that this unit reads itself. -/
def readBursts (s : State) (f j : Nat) (l : List Span) (resp : Resp) (ecc : Ecc) (m : ByteMap) : ShRes ByteMap :=
  match l with
  | [] => .ok s m
  | x :: r =>
    if x.far s f then readBursts s f j r resp ecc (mapPut m x.key (mapGet (s.sh f j).rbuf x.key x.len))
    else
      match rdLocal s x resp ecc with
      | .ok t bs => readBursts t f j r resp .ok (mapPut m x.key bs)
      | .bad t c a => .bad t c a
      | .wait t => .wait t

/-- A burst on this module in pieces of one granule each (R181); one on another module stays whole (R279). -/
def granules (x : Span) (fuel : Nat) : List Span :=
  match fuel with
  | 0 => [x]
  | k + 1 =>
    let n := 256 - x.addr % 256
    if x.mod.isSome ∨ x.len ≤ n then [x] else { x with len := n } :: granules { x with addr := x.addr + n, len := x.len - n } k

/-- The requests that bring or take the bytes of a list, joined. -/
def requests (l : List Span) : List Span := (bursts l).flatMap (fun x => granules x (x.len / 256 + 1))

/-- Requests absorbed into another on their way to the mesh (R181). -/
def countMerged (s : State) (f : Nat) (l : List Span) : State :=
  s.bump (Reg.FRM_SQ_MERGECNT_COUNT f) (merged (l.filter (fun x => x.far s f)))

/-- Read requests: joined, those over the mesh first sent and awaited. -/
def readSpans (s : State) (f j : Nat) (l : List Span) (resp : Resp) (ecc : Ecc) : ShRes ByteMap :=
  let b := requests l
  (needRemote s f j b).next (fun s _ => readBursts (countMerged s f l) f j b resp ecc [])

/-! ## The stream of a descriptor -/

/-- The index entries that elements `lam`, … use, in order and without immediate repeats. -/
def idxUses (d : List Byte) (xp : Bool) (lam n : Nat) : List Nat :=
  if dIdxEn d then
    ((List.range n).map (fun i => dDigit d (dLoops d xp) (lam + i) (dIdxDim d))).eraseDups
  else []

/-- The request for index entry `c`. -/
def idxSpan (s : State) (f : Nat) (d : List Byte) (c : Nat) : Span :=
  let w := if dIdxW d = 0 then 2 else 4
  spanOf s d (segOf s f (dIdxSeg d)) (dIdxPtr d + c * w) w

/-- The value of index entry `c`. -/
def idxValue (s : State) (f : Nat) (d : List Byte) (m : ByteMap) (c : Nat) : Int :=
  let x := idxSpan s f d c
  signed (8 * x.len) (ofLE (mapGet m x.key x.len))

/-- An element's place: coordinates, the request for its byte group, its shift there. -/
structure EPlace where
  xs    : List Nat
  span  : Span
  shift : Nat
  deriving DecidableEq, Repr

/-- The places of elements `lam`, … (none: padding), up to the first fault: an index out of range (0x03) or an
index-driven element outside its segment (0x02, R165). -/
def placesGo (s : State) (f : Nat) (d : List Byte) (g : Seg) (xp : Bool) (m : ByteMap) (lam n : Nat)
    (acc : List (Option EPlace)) : List (Option EPlace) × Option (Nat × Nat) :=
  match n with
  | 0 => (acc.reverse, none)
  | k + 1 =>
    let c := dDigit d (dLoops d xp) lam (dIdxDim d)
    let iv := if dIdxEn d then idxValue s f d m c else 0
    match spotOf d xp lam iv with
    | .pad => placesGo s f d g xp m (lam + 1) k (none :: acc)
    | .bad => (acc.reverse, some (3, (idxSpan s f d c).rep))
    | .at xs =>
      let e := locOf d xs
      let o := byteOf d e
      if o < 0 ∨ (g.lim : Int) < o + grpBytes (dEty d) then (acc.reverse, some (2, g.addr o))
      else placesGo s f d g xp m (lam + 1) k
        (some ⟨xs, spanOf s d g o.toNat (grpBytes (dEty d)), shiftOf d e⟩ :: acc)

/-- Indices out of range that are padded or dropped among elements `lam`, …, each counted where every other loop is at 0
(R169). -/
def oobCount (s : State) (f : Nat) (d : List Byte) (xp : Bool) (m : ByteMap) (lam n : Nat) : Nat :=
  if dIdxEn d ∧ dOob d then
    ((List.range n).filter (fun i =>
      (dLoops d xp).all (fun lp => lp = dIdxDim d || dDigit d (dLoops d xp) (lam + i) lp = 0) &&
      (let v := idxValue s f d m (dDigit d (dLoops d xp) (lam + i) (dIdxDim d))
       decide (v < 0) || decide ((dBound d : Int) ≤ v)))).length
  else 0

/-- The places of a stretch of a descriptor's stream, with the fault that ends it early and the number of indices out of range among
them. -/
def places (s : State) (f j : Nat) (d : List Byte) (xp : Bool) (lam n : Nat) (resp : Resp) (ecc : ShEcc) :
    ShRes (List (Option EPlace) × Option (Nat × Nat) × Nat) :=
  (readSpans s f j ((idxUses d xp lam n).map (idxSpan s f d)) resp (ecc.of .index)).next (fun s m =>
    let r := placesGo s f d (segOf s f (dSeg d)) xp m lam n []
    .ok s (r.1, r.2, oobCount s f d xp m lam r.1.length))

/-- Indices out of range are counted once their elements are done with (R169). -/
def noteOob (s : State) (f n : Nat) : State := s.bump (Reg.FRM_SQ_OOBCNT_COUNT f) n

/-- The request for a block scale. -/
def scaleSpan (s : State) (f : Nat) (d : List Byte) (xs : List Nat) : Span :=
  spanOf s d (segOf s f (dScSeg d)) (scaleOfs d xs) 1

/-- The request for the tensor scale. -/
def tensorSpan (s : State) (f : Nat) (d : List Byte) : Span := spanOf s d (segOf s f (dScSeg d)) (dScBase d) 4

/-- Read the elements of a stretch of a read stream (R163 to R166). -/
def readElems (s : State) (f j : Nat) (d : List Byte) (xp c64 : Bool) (lam : Nat) (ps : List (Option EPlace)) (resp : Resp)
    (ecc : ShEcc) : ShRes (List SElem) :=
  let data := ps.filterMap (fun p => p.map (fun q => q.span))
  let scs := if dSty d = 0 then [] else ps.filterMap (fun p => p.map (fun q => scaleSpan s f d q.xs))
  let ten := if dSty d = 2 then [tensorSpan s f d] else []
  (needRemote s f j (requests data ++ requests scs ++ requests ten)).next (fun s _ =>
    (readSpans s f j ten resp (ecc.of .tensor)).next (fun s mt =>
      (readSpans s f j scs resp (ecc.of .scale)).next (fun s ms =>
        (readSpans s f j data resp (ecc.of .data)).next (fun s md =>
          let ts : W32 := if dSty d = 2 then BitVec.ofNat 32 (ofLE (mapGet mt (tensorSpan s f d).key 4)) else 0x3F800000#32
          .ok s (ps.zipIdx.map (fun (p, i) =>
            let row := (lam + i + 1) % dRow d xp = 0
            match p with
            | none => ⟨padCode d, styUnit (dSty d), ts, dEty d, dSty d, c64, row⟩
            | some q =>
              let grp := ofLE (mapGet md q.span.key q.span.len)
              let code := (grp >>> q.shift) % 2 ^ etyWidth (dEty d)
              let sc := if dSty d = 0 then 0 else ofLE (mapGet ms (scaleSpan s f d q.xs).key 1)
              ⟨code, sc, ts, dEty d, dSty d, c64, row⟩))))))

/-- The exact value of a stream element, its scales applied (R24, Table 2-2). -/
def SElem.val (x : SElem) : Val :=
  let v := scaledVal x.sty x.ety x.sc x.code
  if x.sty = 2 then vmul (f32val x.ts) v else v

/-! ## Writing -/

/-- A write request of a Shuttle queue over the mesh is outstanding until it is acknowledged; `timed`: the limit of R185 covers it. -/
def noteWrite (s : State) (f j key : Nat) (timed : Bool) : State :=
  s.setSh f j { s.sh f j with unacked := (s.sh f j).unacked ++ [⟨key, 0, s.now, timed⟩] }

/-- The place of a multicast write in the requests of its queue. -/
def mcastKey (grp addr : Nat) : Nat := placeKey (some (65536 + grp)) addr

/-- A multicast write leaves (R282, R283): only the group's root sends; one packet goes to every port of the mask and, where LOCAL is 1, to
the home of the address, and the routers replicate it (R217). -/
def mcastWrite (s : State) (f j grp addr : Nat) (bs : List Byte) : ShRes Unit :=
  if s.get (Reg.LNK_MGRPg_ROOT grp) = 0 then .bad (noteReject s 4 8 0 s.myId) 7 addr
  else
    let ps := mcastPorts s grp
    if mcastUp s grp = false then .bad (noteReject s 2 8 (ps.find? (fun p => !carries s p) |>.getD 0) s.myId) 7 addr
    else
      let here := s.on (Reg.LNK_MGRPg_LOCAL grp)
      if here ∧ backed s addr bs.length = false then .bad s 7 addr
      else
        let r : Record := { typ := 8, len1 := bs.length - 1, dest := grp, src := s.myId, addr := addr, val := 0, data := bs }
        let due := s.get (Reg.LNK_MGRPg_NMEM grp)
        let s := if due = 0 then s
          else noteWrite { s with mcasts := s.mcasts ++ [⟨grp, .shuttle f j, due, [], addr⟩] } f j (mcastKey grp addr) true
        let dsts := ps.map MeshEnd.weft ++ (if here then [MeshEnd.frame ((homeFrame s addr).getD f)] else [])
        .ok (if dsts.isEmpty then s else meshSend s f ⟨dsts, .send r, .shuttle f j, shTask s f j, false, 0⟩) ()

/-- Write bytes at a segment offset (Table 7-3): at once where the queue's Frame reaches the place itself, else by a packet, or by a WRITE
record to another module. -/
def writeSpan (s : State) (f j : Nat) (g : Seg) (x : Span) (bs : List Byte) : ShRes Unit :=
  if g.kind = 2 then mcastWrite s f j g.grp (x.addr % 2 ^ 48) bs
  else
    match x.mod, meshHome s f x.addr with
    | some m, _ =>
      let (t, sent) := sendRecord s f j { typ := 1, len1 := bs.length - 1, dest := m, src := s.myId, addr := x.addr, val := 0, data := bs }
      if sent then .ok (noteWrite t f j x.key true) () else .bad t 7 x.rep
    | none, some h =>
      .ok (noteWrite (meshSend s f ⟨[.frame h], .write x.addr bs, .shuttle f j, shTask s f j, false, 0⟩) f j x.key true) ()
    | none, none =>
      match writeHere s x.addr bs with
      | (t, none) => .ok t ()
      | (t, some c) => .bad t c x.rep

/-- Write the bytes of a map by bursts, ascending. -/
def writeAll (s : State) (f j : Nat) (g : Seg) (m : ByteMap) (l : List Span) : ShRes Unit :=
  match l with
  | [] => .ok s ()
  | x :: r => (writeSpan s f j g x (mapGet m x.key x.len)).next (fun s _ => writeAll s f j g m r)

/-- The requests that a map's bytes form. -/
def mapSpans (pre : Nat) (mod : Option Nat) (m : ByteMap) : List Span :=
  requests (m.map (fun (k, _) => ⟨mod, k % 2 ^ 64, 1, pre⟩))

/-- Merge an element into a map of the bytes to write. -/
def putCode (m : ByteMap) (old : ByteMap) (p : EPlace) (width code : Nat) : ByteMap :=
  let bs := (List.range p.span.len).map (fun i =>
    (sget none m (p.span.key + i)).getD ((sget none old (p.span.key + i)).getD 0))
  let v := ofLE bs
  let cur := (v >>> p.shift) % 2 ^ width
  mapPut m p.span.key (toLE p.span.len (v - cur * 2 ^ p.shift + (code % 2 ^ width) * 2 ^ p.shift))

/-- Write element codes at their places, the greatest λ remaining where several meet (R167). The bytes of a packed group
that the stretch does not cover are kept. -/
def storeCodes (s : State) (f j : Nat) (d : List Byte) (g : Seg) (l : List (EPlace × Nat)) (resp : Resp) (ecc : ShEcc) : ShRes Unit :=
  let w := etyWidth (dEty d)
  let spans := l.map (fun p => p.1.span)
  let old : ShRes ByteMap :=
    if (w = 4 ∨ w = 6) ∧ g.kind ≠ 2 then readSpans s f j spans resp (ecc.of .dest) else .ok (countMerged s f spans) []
  old.next (fun s old =>
    let m := l.foldl (fun m p => putCode m old p.1 w p.2) []
    match spans with
    | [] => .ok s ()
    | x :: _ => writeAll s f j g m (mapSpans x.pre x.mod m))

/-- The lane register of element `lam` of queue `j` (R173). -/
def shLane (j lam : Nat) : Nat := 1024 + 4 * j + lam % 4

/-- What a write takes: a code moved unchanged, or a value. -/
inductive XVal where
  | code (c : Nat)
  | val (isInt : Bool) (v : Val)
  deriving DecidableEq, Repr

/-- The codes of values converted without scales (R172). -/
def cvtAll (s : State) (f j : Nat) (t : Nat) (sat sr : Bool) (l : List (Nat × EPlace × XVal)) (acc : List (EPlace × Nat)) :
    State × List (EPlace × Nat) :=
  match l with
  | [] => (s, acc.reverse)
  | (lam, p, x) :: r =>
    match x with
    | .code c => cvtAll s f j t sat sr r ((p, c) :: acc)
    | .val _ v =>
      let (s, c) := cvtLane s f (shLane j lam) t sat sr v
      cvtAll s f j t sat sr r ((p, c) :: acc)

/-- The block that coordinates belong to (R25). -/
def blockKey (d : List Byte) (xs : List Nat) : List Nat :=
  xs.zipIdx.map (fun (x, k) => if k = dScDim d then x / styBlock (dSty d) else x)

/-- The FP32 value that the queue stages for quantising (R175). -/
def XVal.staged (x : XVal) : Val :=
  match x with
  | .code _ => .zero
  | .val _ v => f32val (f32rnd v)

/-- Quantise a stretch of whole blocks (R28, R175): codes by place, and scale bytes by scale offset. -/
def quantAll (s : State) (f j : Nat) (d : List Byte) (sr : Bool) (all l : List (Nat × EPlace × XVal)) (acc : List (EPlace × Nat))
    (scs : Sparse (Option Byte)) : State × List (EPlace × Nat) × Sparse (Option Byte) :=
  match l with
  | [] => (s, acc.reverse, scs)
  | (lam, p, x) :: r =>
    let key := blockKey d p.xs
    let sc := quantScale (dSty d) (dEty d) (BitVec.ofNat 32 (dTag d))
      (amaxOf ((all.filter (fun q => blockKey d q.2.1.xs = key)).map (fun q => q.2.2.staged)))
    let (s, c) := quantLane s f (shLane j lam) (dSty d) (dEty d) sc (BitVec.ofNat 32 (dTag d)) sr x.staged
    quantAll s f j d sr all r ((p, c) :: acc) (sput none scs (scaleOfs d p.xs) (some (BitVec.ofNat 8 sc)))

/-- Write scale bytes at their segment offsets. -/
def storeScales (s : State) (f j : Nat) (d : List Byte) (l : Sparse (Option Byte)) : ShRes Unit :=
  let g := segOf s f (dScSeg d)
  let sp := l.map (fun (o, _) => spanOf s d g o 1)
  let m : ByteMap := l.foldl (fun m (o, b) => mapPut m (spanOf s d g o 1).key [b.getD 0]) []
  writeAll (countMerged s f sp) f j g m (requests sp)

/-- The code that a scatter-add leaves in an element of type `t` that holds `old` (R171), charged to Frame `f`'s counters. -/
def addCode (s : State) (f t : Nat) (sat : Bool) (old x : Val) : State × Nat :=
  if t = 0x0B then
    match vadd old x with
    | .fin neg m e =>
      let i := vround neg m e
      if i < -2147483647 then (s.bump (Reg.FRM_CVTSATCNT_COUNT f) 1, unsigned 32 (-2147483647))
      else if 2147483647 < i then (s.bump (Reg.FRM_CVTSATCNT_COUNT f) 1, 2147483647)
      else (s, unsigned 32 i)
    | _ => (s, 0)
  else
    let (c, fl) := convert t sat none (vadd old x)
    (noteCvt s f fl, c)

/-- A scatter-add at its target (R171): the element is read, the value added, the result written, indivisibly; with its fault of
Table 7-7. -/
def addHere (s : State) (f a t : Nat) (sat : Bool) (x : Val) (ecc : Ecc) : State × Option Nat :=
  let n := grpBytes t
  match readHere s a n .ok ecc with
  | (s, _, some c) => (s, some c)
  | (s, bs, none) =>
    let (s, c) := addCode s f t sat (etyVal t (ofLE bs)) x
    writeHere s a (toLE n c)

/-- One scatter-add of queue `j` (R171): at once where the queue's Frame reaches the place itself, else by a packet that the target
performs. -/
def addOne (s : State) (f j : Nat) (d : List Byte) (p : EPlace) (sat : Bool) (x : Val) (ecc : Ecc) : ShRes Unit :=
  match meshHome s f p.span.addr with
  | some h =>
    .ok (noteWrite (meshSend s f ⟨[.frame h], .add p.span.addr (dEty d) sat f x, .shuttle f j, shTask s f j, false, 0⟩) f j
      p.span.key true) ()
  | none =>
    match addHere s f p.span.addr (dEty d) sat x ecc with
    | (t, none) => .ok t ()
    | (t, some c) => .bad t c p.span.rep

/-- Scatter-adds in ascending λ; `ecc` concerns the first. A float value for an INT32 destination, or an integer for a float one, is a
fault 0x01. -/
def addAll (s : State) (f j : Nat) (d : List Byte) (sat : Bool) (ety : Nat) (l : List (Nat × EPlace × XVal)) (ecc : Ecc) : ShRes Unit :=
  match l with
  | [] => .ok s ()
  | (_, p, x) :: r =>
    let (isInt, v) := match x with
      | .code c => (!etyFloat ety, etyVal ety c)
      | .val i v => (i, v)
    if isInt = etyFloat (dEty d) then .bad s 1 0
    else (addOne s f j d p sat v ecc).next (fun s _ => addAll s f j d sat ety r .ok)

/-! ## Contributions (R291) -/

/-- The values of a contribution by element index, joined into records of consecutive elements of one owner. -/
def contribRuns (sh : Shard) (l : List (Nat × Nat)) (cur : Option (Nat × Nat × Nat × List Byte)) : List (Nat × Nat × Nat × List Byte) :=
  match l with
  | [] => cur.toList
  | (i, c) :: r =>
    match ownerOf sh i with
    | none => contribRuns sh r cur
    | some (_, m, start, _) =>
      match cur with
      | some (m0, st0, i0, bs) =>
        if m0 = m ∧ st0 = start ∧ i = i0 + bs.length / 4 ∧ bs.length < 4096 then
          contribRuns sh r (some (m0, st0, i0, bs ++ toLE 4 c))
        else (m0, st0, i0, bs) :: contribRuns sh r (some (m, start, i, toLE 4 c))
      | none => contribRuns sh r (some (m, start, i, toLE 4 c))

/-- ACC records held back in the loopback buffer (R295). -/
def loopHeld (s : State) : Nat := (s.withheld.filter (fun w => w.port.isNone)).length

/-- Send contribution records (R291, Table 12-2); one to this module goes to its own Ply units while the loopback buffer has
room for it. -/
def sendContribs (s : State) (f j : Nat) (sh : Shard) (rank : Nat) (l : List (Nat × Nat × Nat × List Byte)) : ShRes Unit :=
  match l with
  | [] => .ok s ()
  | (m, start, i, bs) :: r =>
    let rec' : Record := { typ := 6, len1 := bs.length - 1, dest := m, src := s.myId, addr := sh.id + 2 ^ 16 * (i - start),
                           val := rank + 2 ^ 16 * (s.get Reg.PLY_STEP_STEP % 4096) + 2 ^ 28 * (s.get Reg.PLY_STEP_ATTEMPT % 16),
                           data := bs }
    if m = s.myId then
      if accBad s rec' then .bad (noteReject s 5 6 0 m) 7 (m * 2 ^ 48 + rec'.addr)
      else sendContribs (accept (noteWrite s f j (placeKey (some m) (rec'.addr % 65536)) false) ⟨none, .shuttle f j, rec', []⟩) f j sh rank r
    else
      let (t, sent) := sendRecord s f j rec'
      if sent then sendContribs (noteWrite t f j (placeKey (some m) rec'.addr) false) f j sh rank r
      else .bad t 7 (m * 2 ^ 48 + rec'.addr)

/-- The contribution of a stretch of codes. -/
def contribute (s : State) (f j : Nat) (d : List Byte) (g : Seg) (l : List (EPlace × Nat)) : ShRes Unit :=
  match shardOf s (bits (dTag d) 11 0) with
  | none => .ok s ()
  | some sh =>
    let rank := ((rankOf sh s.myId).map (fun p => p.1)).getD 0
    let els := l.map (fun p => ((p.1.span.addr + 2 ^ 64 - g.base % 2 ^ 64) % 2 ^ 64 / 4, p.2))
    sendContribs s f j sh rank (contribRuns sh els none)

/-! ## A stretch of writes -/

/-- The legal end of a stretch that should reach element `e`: whole blocks where the write quantises (R175), whole lines
where it contributes (R292), any element otherwise. -/
def stretchEnd (d : List Byte) (kind e total : Nat) : Nat :=
  let e0 := max 1 (dTrips d 0)
  if dSty d ≠ 0 then
    if dWinN d ≠ 0 ∨ dIdx d (dScDim d) then total
    else
      let grp := if dScDim d = 0 then e0 else e0 * styBlock (dSty d)
      let plane := if dScDim d = 0 then e0 else max 1 (e0 * dTrips d 1)
      let q := e / plane
      min total (q * plane + min plane ((e % plane + grp - 1) / grp * grp))
  else if kind = 3 then
    min total (e / e0 * e0 + min e0 ((e % e0 + 31) / 32 * 32))
  else min total e

/-- The scale bytes of a pair whose elements move unchanged (R172): each block's scale as it was read. -/
def movedScales (d : List Byte) (l : List (Nat × EPlace × XVal)) (scs : List Nat) : Sparse (Option Byte) :=
  (l.zip scs).foldl (fun m (q, c) => sput none m (scaleOfs d q.2.1.xs) (some (BitVec.ofNat 8 c))) []

/-- A write of the stretch must wait for LPDDR (R195, R207). -/
def writesHeld (s : State) (f : Nat) (ps : List (Option EPlace)) : Bool :=
  ps.any (fun p => match p with
    | some q => !q.span.far s f && memHeld s q.span.addr q.span.len true
    | none => false)

/-- The tensor scale's bytes, which the write's first block brings (R175). -/
def withTensor (d : List Byte) (first : Bool) (scs : Sparse (Option Byte)) : Sparse (Option Byte) :=
  if dSty d = 2 ∧ first then sputList none scs (dScBase d) ((toLE 4 (dTag d)).map some) else scs

/-- Write the values of a stretch (R171, R172, R175, R291). `ety` is the type of codes moved unchanged, `moved` their block scales where a
scaled pair converts nothing: R172 moves its elements unchanged, and their scales go with them (DEDUCED, assumption 11). -/
def writeElems (s : State) (f j w : Nat) (d : List Byte) (ety : Nat) (first : Bool) (l : List (Nat × EPlace × XVal))
    (moved : Option (List Nat)) (resp : Resp) (ecc : ShEcc) : ShRes Unit :=
  let g := segOf s f (dSeg d)
  if dAdd d then addAll s f j d (sxSat w) ety l (ecc.of .dest)
  else
    match (if dSty d = 0 then none else moved) with
    | some scs =>
      let (s, codes) := cvtAll s f j (dEty d) (sxSat w) (sxSr w) l []
      (storeCodes s f j d g codes resp ecc).next (fun s _ => storeScales s f j d (withTensor d first (movedScales d l scs)))
    | none =>
      if dSty d ≠ 0 then
        let (s, codes, scs) := quantAll s f j d (sxSr w) l l [] []
        (storeCodes s f j d g codes resp ecc).next (fun s _ => storeScales s f j d (withTensor d first scs))
      else
        let (s, codes) := cvtAll s f j (dEty d) (sxSat w) (sxSr w) l []
        if g.kind = 3 then contribute s f j d g codes else storeCodes s f j d g codes resp ecc

/-! ## Chunks (R178) -/

/-- Elements to a chunk. -/
def chunkLen (t : Nat) (c64 : Bool) : Nat := if etyWidth t = 4 && !c64 then 128 else 64

/-- A chunk of the elements `l` of one row, completed with zeros; a block of completion zeros has scale 0. -/
def mkChunk (l : List SElem) : Chunk :=
  match l with
  | [] => ⟨[], [], 0⟩
  | x :: _ =>
    let n := chunkLen x.ety x.c64
    ⟨l.map (fun y => y.code) ++ List.replicate (n - l.length) 0,
     if x.sty = 0 then [] else (List.range (n / styBlock x.sty)).map (fun b => ((l[b * styBlock x.sty]?).map (fun y => y.sc)).getD 0),
     x.ts⟩

/-- Cut a stream into chunks row by row. -/
def chunksGo (l cur : List SElem) : List Chunk :=
  match l with
  | [] => if cur.isEmpty then [] else [mkChunk cur.reverse]
  | x :: r =>
    if x.row || (cur.length + 1 = chunkLen x.ety x.c64) then mkChunk (x :: cur).reverse :: chunksGo r []
    else chunksGo r (x :: cur)

def chunksOf (l : List SElem) : List Chunk := chunksGo l []

/-! ## Faults (R184) -/

/-- A fault of queue `j` (Table 7-7): the first is kept in FRM_SQ_FAULT; the owning task ends. A queue of no task is
cancelled. -/
def shFault (s : State) (f j cause addr item : Nat) : State :=
  let a := if cause = 1 ∨ cause = 8 ∨ cause = 9 then 0 else addr
  let s := keepShFault s f j cause a item
  let t := s.qTask f (9 + j)
  let d0 := if cause = 4 ∧ regionOf s addr = .lpddr then chanOf (addr / 256) else storedWord s (0x100A200 + 0x10000 * f)
  let s := s.taskErr { sev := 1, unit := 3, cause := cause, index := 16 * f + j, task := t, addr := a, d0 := d0,
                       stamp := s.timeOf f }
  if t = 0 then cancelQueue s f j else s

end Sys2Proof.Machine
end

