-- ==== Sys2Proof/Machine/RingRun.lean ====
section
/-! DEFINITION. Ring runs as beats (R81, R178, R179): how chunks and their scales become mark, scale and value beats, how a
port reads them back, and how the injector fills its head stage (R88). -/
namespace Sys2Proof.Machine

/-- Bytes of a chunk slot (R81): 64, or 128 at 16-bit types. -/
def slotBytes (t : Nat) : Nat := if etyWidth t = 16 then 128 else if etyWidth t = 32 then 256 else 64

/-- Chunks to a value beat. -/
def chunksPerBeat (t : Nat) : Nat := 256 / slotBytes t

/-- The bytes of a chunk's codes: nibbles for 4-bit types, a whole number of bytes each otherwise (6-bit elements are
widened). -/
def codeBytes (t : Nat) (l : List Nat) : List Byte :=
  if etyWidth t = 4 then
    (List.range ((l.length + 1) / 2)).map (fun i =>
      BitVec.ofNat 8 ((l[2 * i]?.getD 0) % 16 + 16 * ((l[2 * i + 1]?.getD 0) % 16)))
  else l.flatMap (fun c => toLE ((etyWidth t + 7) / 8) c)

/-- The codes that a chunk slot holds. -/
def slotCodes (t : Nat) (n : Nat) (bs : List Byte) : List Nat :=
  (List.range n).map (fun i =>
    if etyWidth t = 4 then (leAt bs (i / 2) 1 / 16 ^ (i % 2)) % 16
    else leAt bs (i * ((etyWidth t + 7) / 8)) ((etyWidth t + 7) / 8) % 2 ^ etyWidth t)

/-- Fill bytes up to length `n` with zeros. -/
def padTo (n : Nat) (l : List Byte) : List Byte := l ++ List.replicate (n - l.length) 0

/-- Block scales to a chunk. -/
def scalesPerChunk (t st : Nat) (c64 : Bool) : Nat := if st = 0 then 0 else chunkLen t c64 / styBlock st

/-- Value beats to a scale beat (Table 7-6). -/
def scaleGroup (t st : Nat) (c64 : Bool) : Nat :=
  if st = 2 then (if c64 then 14 else 7) else if etyWidth t = 4 && !c64 then 16 else 32

/-- Pieces of length `n` of a list. -/
def piecesOf {α : Type} (n : Nat) (l : List α) (fuel : Nat) : List (List α) :=
  match fuel with
  | 0 => []
  | k + 1 => if l.isEmpty then [] else l.take n :: piecesOf n (l.drop n) k

/-- The payloads of the value beats of some chunks. -/
def valuePayloads (t : Nat) (cs : List Chunk) : List (List Byte) :=
  (piecesOf (chunksPerBeat t) cs cs.length).map (fun g =>
    padTo 256 (g.flatMap (fun c => padTo (slotBytes t) (codeBytes t c.codes))))

/-- The payload of a scale beat for the chunks of its group. -/
def scalePayload (st : Nat) (cs : List Chunk) : List Byte :=
  let b := (cs.flatMap (fun c => c.scs)).map (BitVec.ofNat 8)
  match st, cs with
  | 2, c :: _ => padTo 252 b ++ toLE 4 c.ts.toNat
  | _, _ => padTo 256 b

/-- The payloads of a run after its mark. -/
def runPayloads (t st : Nat) (c64 : Bool) (cs : List Chunk) : List (List Byte) :=
  if st = 0 then valuePayloads t cs
  else (piecesOf (scaleGroup t st c64 * chunksPerBeat t) cs cs.length).flatMap (fun g => scalePayload st g :: valuePayloads t g)

/-- The payload of a mark beat (R81). -/
def markPayload (u0 n t st : Nat) (c64 : Bool) : List Byte :=
  padTo 256 (toLE 16 (u0 % 2 ^ 32 + 2 ^ 32 * (n % 2 ^ 32) + 2 ^ 64 * (t % 256) + 2 ^ 72 * (st % 16) + 2 ^ 76 * b2n c64))

def markU0 (b : Beat) : Nat := leAt b.data 0 4
def markCount (b : Beat) : Nat := leAt b.data 4 4
def markEty (b : Beat) : Nat := leAt b.data 8 1
def markSty (b : Beat) : Nat := leAt b.data 9 1 % 16
def markC64 (b : Beat) : Bool := bit (leAt b.data 9 1) 4

/-- The beats of a run. -/
def runBeats (sid part seq : Nat) (redo : Bool) (n u0 t st : Nat) (c64 : Bool) (cs : List Chunk) : List Beat :=
  ⟨2, sid, part, seq, redo, n, false, markPayload u0 cs.length t st c64, 0⟩ ::
    (runPayloads t st c64 cs).map (fun p => ⟨0, sid, part, 0, redo, n, false, p, 0⟩)

/-- The chunks that the operand beats of a run hold. -/
def chunksIn (t st : Nat) (c64 : Bool) (bs : List (List Byte)) (fuel : Nat) : List Chunk :=
  match fuel with
  | 0 => []
  | k + 1 =>
    match bs with
    | [] => []
    | x :: r =>
      let (sc, vals, rest) := if st = 0 then ([], [x], r) else (x, r.take (scaleGroup t st c64), r.drop (scaleGroup t st c64))
      let m := scalesPerChunk t st c64
      let cs := vals.zipIdx.flatMap (fun (v, i) =>
        (List.range (chunksPerBeat t)).map (fun q =>
          let ci := i * chunksPerBeat t + q
          (⟨slotCodes t (chunkLen t c64) (bytesAt v (q * slotBytes t) (slotBytes t)),
            (List.range m).map (fun b => leAt sc (ci * m + b) 1),
            if st = 2 then BitVec.ofNat 32 (leAt sc 252 4) else 0x3F800000#32⟩ : Chunk)))
      cs ++ chunksIn t st c64 rest k

/-- The beats of a run of `n` chunks, the mark left out. -/
def runLength (t st : Nat) (c64 : Bool) (n : Nat) : Nat :=
  let v := (n + chunksPerBeat t - 1) / chunksPerBeat t
  if st = 0 then v else v + (v + scaleGroup t st c64 - 1) / scaleGroup t st c64

/-- The chunks of a whole run. -/
def runChunks (t st : Nat) (c64 : Bool) (n : Nat) (bs : List Beat) : List Chunk :=
  (chunksIn t st c64 (bs.map (fun b => b.data)) (bs.length + 1)).take n

/-- Beats that stage `i` of ring `z` buffers (Table 4-3): 8 where the beat comes in from another Frame, else 2. -/
def stageDepth (z i : Nat) : Nat := if idxSlot i = (if z = 0 then 0 else 7) then 8 else 2

/-- The active item of a queue has ended. -/
def endItem (s : State) (f j : Nat) : State :=
  let x := s.sh f j
  s.setSh f j { x with pos := 0, act := none, item := x.item + 1, rbuf := [], reqT := none }

/-- The injector of Frame `f` on ring `z` has handed out the last beat of a run: the item that formed it is complete (R159, R179). -/
def runSent (s : State) (z f : Nat) : State :=
  match injector s z f with
  | none => s
  | some (_, j) =>
    let x := s.sh f j
    match x.word, x.act with
    | some w, some it => if sxDst w = z + 2 ∧ x.pos = dCount it.rd then endItem s f j else s
    | _, _ => s

/-- The injector hands beats to the stage of its SLOT while that has room (R88); with the last beat of a run its item ends. A SLOT that is
no head of a broadcast segment takes them just so (DESIGN CHOICE, assumption 65: the spec gives no check of it and no other effect). -/
def injFill (s : State) (z f fuel : Nat) : State :=
  match fuel with
  | 0 => s
  | k + 1 =>
    match injector s z f, (s.inj z f).run with
    | some (sl, _), b :: r =>
      let i := ringIdx f sl
      if (s.stage z i).length < stageDepth z i then
        let t := (s.setInj z f { s.inj z f with run := r }).setStage z i (s.stage z i ++ [{ b with t := s.now }])
        injFill (if r.isEmpty && !b.redo then runSent t z f else t) z f k
      else s
    | _, _ => s

/-- All elements of an item's read stream; `again`: for a re-run, whose indices have been counted. -/
def wholeItem (s : State) (f j w : Nat) (d : List Byte) (again : Bool) (resp : Resp) (ecc : ShEcc) : ShRes (List SElem) :=
  (places s f j d (sxXpose w) 0 (dCount d) resp ecc).next (fun s r =>
    match r.2.1 with
    | some (c, a) => .bad s c a
    | none =>
      (readElems s f j d (sxXpose w) (sxC64 w) 0 r.1 resp ecc).next (fun s l => .ok (if again then s else noteOob s f r.2.2) l))

/-- The beats of a run that an item forms (R179), or forms again (R180). -/
def itemRun (s : State) (f j w : Nat) (d : List Byte) (seq : Nat) (redo : Bool) (n : Nat) (resp : Resp) (ecc : ShEcc) :
    ShRes (List Beat) :=
  (wholeItem s f j w d redo resp ecc).next (fun s l =>
    .ok s (runBeats (sxSid w) (sxPart w) seq redo n (dTag d) (dEty d) (dSty d) (sxC64 w) (chunksOf l)))

end Sys2Proof.Machine
end

