-- ==== Sys2Proof/Machine/SpinCore.lean ====
section
/-! DEFINITION. The Spindle's stores and arithmetic (R29 to R36, R50 to R63, R70, R71): gangs and the shares of their
members, tiles, the accumulator file, output blocks, the streamed operand, exact products and ordered sums. -/
namespace Sys2Proof.Machine

/-! ## Units: one Spindle or a gang (R70, R71) -/

/-- The Spindles that run a command in lockstep: their physical slots in member order, deep or wide, the width W that
every member presents. -/
structure SpinUnit where
  ms   : List Nat
  deep : Bool
  w    : Nat
  deriving DecidableEq, Repr

/-- The unit that presented slot `q` belongs to: itself, or its whole gang. -/
def unitAt (s : State) (f q : Nat) : SpinUnit :=
  let n := (physOf s f q).getD q
  let p := 2 ^ s.get (Reg.FRM_SPDn_SHAPE_GANG_SIZE f n)
  let ms := ((List.range p).map (fun i => q - q % p + i)).filterMap (physOf s f)
  ⟨ms, s.on (Reg.FRM_SPDn_SHAPE_GANG_DEEP f n), ms.foldl (fun a m => min a (s.get (Reg.FRM_SPDn_SHAPE_WIDTH f m))) 128⟩

def SpinUnit.size (u : SpinUnit) : Nat := u.ms.length
def SpinUnit.leader (u : SpinUnit) : Nat := u.ms.headD 0
/-- The columns of one issue. -/
def SpinUnit.cols (u : SpinUnit) : Nat := if u.deep then u.w else u.size * u.w

/-- Of `total` items dealt out in turns of `w` to `p` members, how many member `i` holds. -/
def shareOf (total p w i : Nat) : Nat := total / (p * w) * w + min w (total % (p * w) - i * w)

/-- The member that holds item `x`, and its place there. -/
def dealt (p w x : Nat) : Nat × Nat := if p ≤ 1 then (0, x) else ((x / w) % p, x / (p * w) * w + x % w)

/-- How many items member `i` of a unit holds where the unit deals them out. -/
def shared (p w total i : Nat) : Nat := if p ≤ 1 then total else shareOf total p w i

/-! ## Tiles (R53, R67) -/

/-- The rows that a deep gang deals out at a time. -/
def deepRows (t : Nat) : Nat := if etyWidth t = 4 then 128 else 64

/-- Bytes of a 32 × 32 block (R53). -/
def blockBytes (t : Nat) : Nat := if etyWidth t = 4 then 512 else if etyWidth t = 16 then 2048 else 1024

/-- Blocks of a K × N tile. -/
def tileBlocks (k n : Nat) : Nat := ((k + 31) / 32) * ((n + 31) / 32)

/-- The element slot of (k, n) in a tile of N columns (R53). -/
def slotAt (nn k n : Nat) : Nat := ((k / 32) * ((nn + 31) / 32) + n / 32) * 1024 + (k % 32) * 32 + n % 32

/-- Block scales of a K × N tile (R67). -/
def tileScales (sty sdim k n : Nat) : Nat :=
  let b := styBlock sty
  if sty = 0 then 0 else if sdim = 0 then (k + b - 1) / b * n else k * ((n + b - 1) / b)

/-- The index of the scale of (k, n) (R67). -/
def scaleAt (sty sdim nn k n : Nat) : Nat :=
  let b := styBlock sty
  if sdim = 0 then k / b * nn + n else k * ((nn + b - 1) / b) + n / b

/-- A tile of a unit: the members' records and the whole tile's rows and columns. -/
structure TileView where
  u    : SpinUnit
  recs : List TileRec
  k    : Nat
  n    : Nat
  deriving DecidableEq, Repr

def TileRec.empty : TileRec := ⟨0, 0, 0, 0, 0, false, 0, 0, 0⟩

/-- The record that gives a tile its types. -/
def TileView.head (t : TileView) : TileRec := t.recs.headD TileRec.empty

/-- The tile that the members' records describe. -/
def viewOf (u : SpinUnit) (rs : List TileRec) : TileView :=
  let sum (g : TileRec → Nat) : Nat := rs.foldl (fun a r => a + g r) 0
  let r0 := rs.headD TileRec.empty
  ⟨u, rs, if u.deep then sum (·.k) else r0.k, if u.deep then r0.n else sum (·.n)⟩

/-- The tile under handle `h`; none where a member's handle is empty. -/
def tileAt (s : State) (f : Nat) (u : SpinUnit) (h : Nat) : Option TileView :=
  let rs := u.ms.filterMap (fun m => sget none (s.spin f m).tiles h)
  if rs.length = u.size ∧ rs ≠ [] then some (viewOf u rs) else none

/-- The member that holds element (k, n) of a tile of type `t`, and the element's place in its share. -/
def elemHome (u : SpinUnit) (t k n : Nat) : Nat × Nat × Nat :=
  if u.deep then (let (i, k') := dealt u.size (deepRows t) k; (i, k', n))
  else (let (i, n') := dealt u.size u.w n; (i, k, n'))

/-- The code in a slot of the stationary buffer (R21, R53). -/
def slotGet (b : Sparse Byte) (r : TileRec) (k n : Nat) : Nat :=
  let sl := slotAt r.n k n
  match etyWidth r.ety with
  | 4 => (sget 0 b (r.bofs + sl / 2)).toNat / 16 ^ (sl % 2) % 16
  | 16 => (sget 0 b (r.bofs + 2 * sl)).toNat + 256 * (sget 0 b (r.bofs + 2 * sl + 1)).toNat
  | w => (sget 0 b (r.bofs + sl)).toNat % 2 ^ w

/-- Write a code into a slot of the stationary buffer. -/
def slotSet (b : Sparse Byte) (r : TileRec) (k n c : Nat) : Sparse Byte :=
  let sl := slotAt r.n k n
  match etyWidth r.ety with
  | 4 =>
    let o := (sget 0 b (r.bofs + sl / 2)).toNat
    let x := if sl % 2 = 0 then o / 16 * 16 + c % 16 else o % 16 + 16 * (c % 16)
    sput 0 b (r.bofs + sl / 2) (BitVec.ofNat 8 x)
  | 16 => sputList 0 b (r.bofs + 2 * sl) (toLE 2 c)
  | _ => sput 0 b (r.bofs + sl) (BitVec.ofNat 8 c)

/-- The value of stationary element (k, n), its block scale applied; the scale bytes of a gang's tile are dealt out one
by one. -/
def tileVal (s : State) (f : Nat) (t : TileView) (k n : Nat) : Val :=
  let (i, k', n') := elemHome t.u t.head.ety k n
  let r := t.recs[i]?.getD TileRec.empty
  let m := t.u.ms[i]?.getD 0
  let c := slotGet (s.spin f m).buf r k' n'
  if r.sty = 0 then etyVal r.ety c
  else
    let x := scaleAt r.sty r.sdim t.n k n
    let ms := t.u.ms[x % t.u.size]?.getD 0
    let sc := sget 0 (s.spin f ms).scl (r.sofs + x / t.u.size)
    scaledVal r.sty r.ety sc.toNat c

/-- A frozen tile is resident in a Spindle (R76). -/
def frozenAt (s : State) (f n : Nat) : Bool :=
  (s.spin f n).tiles.any (fun (_, r) => match r with | some r => r.frozen | none => false)

/-- The queue of a physical Spindle slot (R66): that of the slot it presents; queue 8 of a spare that presents none. -/
def spdQueue (s : State) (f n : Nat) : Option Nat :=
  if s.on (Reg.FRM_SPDn_SHAPE_RETIRED f n) then none
  else if s.get (Reg.FRM_SPDn_SHAPE_SLOT f n) < 8 then some (s.get (Reg.FRM_SPDn_SHAPE_SLOT f n))
  else if n = 8 then some 8
  else none

/-- The commands in an engine queue (R137): those that wait and those executing, with the passes of a reduce segment that no CONFIRM
has made final. -/
def spdDepth (s : State) (f n : Nat) : Nat :=
  match spdQueue s f n with
  | some q => min 64 ((s.queue f q).words.length + (s.queue f q).ran.length + (s.spin f n).open_.length)
  | none => 0

/-- FRM_SPDn_STATE as it reads (Table 3-6). A command that has executed and not completed is in the queue (R137), and a retired Spindle
has none (DEDUCED, assumption 62). -/
def spdState (s : State) (f n : Nat) : Nat :=
  let hs := (List.range 4).foldl (fun a h => a + (if (sget none (s.spin f n).tiles h).isSome then 2 ^ h else 0)) 0
  256 * spdDepth s f n + 16 * b2n (frozenAt s f n) + hs

/-! ## The accumulator file and output blocks (R55, R67) -/

/-- Entries of the accumulator file. -/
def accWords : Nat := 65536

/-- The members that hold output entries: a wide gang's every member, a deep gang's last (Table 3-5). -/
def holders (u : SpinUnit) : List Nat := if u.deep then u.ms.drop (u.size - 1) else u.ms

/-- The width of the output block at holder `i`, for a block of `m` columns. -/
def heldCols (u : SpinUnit) (m i : Nat) : Nat := if u.deep then m else shared u.size u.w m i

/-- The Spindle and the index of entry (t, col) in a block of `m` columns. -/
def entryAt (u : SpinUnit) (m t col : Nat) : Nat × Nat :=
  if u.deep then ((holders u).headD 0, t * m + col)
  else
    let (i, c) := dealt u.size u.w col
    (u.ms[i]?.getD 0, t * heldCols u m i + c)

/-- The words that a block of T × M takes at its largest holder. -/
def blockWords (u : SpinUnit) (t m : Nat) (two : Bool) : Nat :=
  (if two then 2 else 1) * t * ((List.range u.size).foldl (fun a i => max a (heldCols u m i)) 0)

def accGet (s : State) (f n a : Nat) : W32 := sget 0 (s.spin f n).acc a
def accSet (s : State) (f n a : Nat) (v : W32) : State :=
  s.setSpin f n { s.spin f n with acc := sput 0 (s.spin f n).acc a v }

/-- The entries (t, col) of a block in order. -/
def entries (t m : Nat) : List (Nat × Nat) := (List.range t).flatMap (fun a => (List.range m).map (fun b => (a, b)))

/-- The words of a block in entry order. -/
def blockGet (s : State) (f : Nat) (u : SpinUnit) (base t m : Nat) : List W32 :=
  (entries t m).map (fun (a, b) => let (n, i) := entryAt u m a b; accGet s f n (1024 * base + i))

/-- The pairs of a two-level block in entry order (R36). -/
def pairsGet (s : State) (f : Nat) (u : SpinUnit) (base t m : Nat) : List Pair :=
  (entries t m).map (fun (a, b) =>
    let (n, i) := entryAt u m a b
    ⟨accGet s f n (1024 * base + 2 * i), accGet s f n (1024 * base + 2 * i + 1)⟩)

/-- Write a block's words in entry order. -/
def blockSet (s : State) (f : Nat) (u : SpinUnit) (base t m : Nat) (vs : List W32) : State :=
  ((entries t m).zip vs).foldl (fun s ((a, b), v) =>
    let (n, i) := entryAt u m a b
    accSet s f n (1024 * base + i) v) s

/-- Write a two-level block's pairs in entry order. -/
def pairsSet (s : State) (f : Nat) (u : SpinUnit) (base t m : Nat) (vs : List Pair) : State :=
  ((entries t m).zip vs).foldl (fun s ((a, b), v) =>
    let (n, i) := entryAt u m a b
    accSet (accSet s f n (1024 * base + 2 * i) v.s) f n (1024 * base + 2 * i + 1) v.c) s

/-- The block begun at a region, its width that of the whole unit; none where a holder has none. -/
def blockAt (s : State) (f : Nat) (u : SpinUnit) (base : Nat) : Option BlockRec :=
  let rs := (holders u).filterMap (fun n => sget none (s.spin f n).blocks base)
  match rs with
  | [] => none
  | r :: _ => if rs.length = (holders u).length then some { r with m := rs.foldl (fun a x => a + x.m) 0 } else none

/-- Record a block begun at a region. -/
def setBlock (s : State) (f : Nat) (u : SpinUnit) (base : Nat) (r : BlockRec) : State :=
  (holders u).zipIdx.foldl (fun s (n, i) =>
    s.setSpin f n { s.spin f n with
      blocks := sput none (s.spin f n).blocks base (some { r with m := heldCols u r.m i }) }) s

/-! ## Modes (R29, Table 2-4, Table 3-1) -/

/-- A type of mode F8. -/
def isF8 (t st : Nat) : Bool := 4 ≤ t && t ≤ 7 && st ≤ 1

/-- The mode of an ordered pair: contraction elements to an issue, and whether the accumulator is INT32. -/
def modeOf (a sa b sb : Nat) : Option (Nat × Bool) :=
  if (a = 2 ∧ b = 2) ∨ (a = 3 ∧ b = 3) then (if sa = 0 ∧ sb = 0 then some (64, false) else none)
  else if isF8 a sa ∧ isF8 b sb then some (64, false)
  else if a = 8 ∧ isF8 b sb then some (64, false)
  else if a = 8 ∧ b = 8 then some (128, false)
  else if a = 9 ∧ b = 9 ∧ sa = 1 ∧ sb = 1 then some (64, false)
  else if (a = 9 ∨ a = 0x0C ∨ a = 0x0A) ∧ sa = 0 ∧ (b = 9 ∨ b = 0x0C) ∧ sb = 0 then some (64, true)
  else if a = 0x0A ∧ b = 0x0A ∧ sa = 0 ∧ sb = 0 then some (128, true)
  else none

/-- The mode of an operand pair; the operands may appear in either role. -/
def spinMode (a sa b sb : Nat) : Option (Nat × Bool) := (modeOf a sa b sb).or (modeOf b sb a sa)

/-- A type field that no operand may have: the cause of the rejection (R19, R22, R23). -/
def typeCause (t st : Nat) : Option Nat :=
  if etyIndex t then some 4 else if !etyDefined t || 2 < st || !styValid st t then some 3 else none

/-- The streamed operand must be cut into 64-element chunks (R51, R178). -/
def needC64 (t kr : Nat) : Bool := etyWidth t = 4 && kr = 64

/-! ## The streamed operand -/

/-- The first `n` whole chunks of a stream and what is left of it; none while they have not arrived. -/
def takeChunks (n : Nat) (l cur : List SElem) (acc : List Chunk) : Option (List Chunk × List SElem) :=
  match n with
  | 0 => some (acc.reverse, l)
  | k + 1 =>
    match l with
    | [] => none
    | x :: r =>
      if x.row || (cur.length + 1 = chunkLen x.ety x.c64) then takeChunks k r [] (mkChunk (x :: cur).reverse :: acc)
      else takeChunks (k + 1) r (x :: cur) acc
termination_by structural l

/-- Drop the items that `t` elements cover; the rest, and how many elements of its first are taken (R180). -/
def releaseKept (k : List ItemSt) (t : Nat) : List ItemSt × Nat :=
  match k with
  | [] => ([], 0)
  | it :: r =>
    let c := dCount (itemMain it.word it)
    if c ≤ t then releaseKept r (t - c) else (it :: r, t)

/-- An engine command has done with `n` elements of queue `j`'s stream: the items they came from are released. -/
def releaseItems (s : State) (f j n : Nat) : State :=
  let x := s.sh f j
  let (k, t) := releaseKept x.kept (x.skip + n)
  s.setSh f j { x with kept := k, skip := t }

/-- A stream buffer is asked for data. -/
inductive Feed (α : Type) where
  | wait
  | bad
  | ok (v : α) (used : Nat)

/-- An element is not of the stream's expected kind; `c64` is left unchecked where it is none. -/
def wrongElem (t st : Nat) (c64 : Option Bool) (x : SElem) : Bool :=
  x.ety ≠ t || x.sty ≠ st || (match c64 with | some c => x.c64 ≠ c | none => false)

/-- `n` chunks of queue `j`'s stream (R177, R178). -/
def feedChunks (l : List SElem) (n t st : Nat) (c64 : Bool) : Feed (List Chunk) :=
  match takeChunks n l [] [] with
  | some (cs, rest) =>
    let used := l.length - rest.length
    if (l.take used).any (wrongElem t st (some c64)) then .bad else .ok cs used
  | none => if l.any (wrongElem t st (some c64)) then .bad else .wait

/-- `n` elements of queue `j`'s stream (R177). -/
def feedElems (l : List SElem) (n t st : Nat) : Feed (List SElem) :=
  if (l.take n).any (wrongElem t st none) then .bad else if l.length < n then .wait else .ok (l.take n) n

/-- Take elements out of the stream buffer. -/
def dropStream (s : State) (f j n : Nat) : State :=
  let x := s.sh f j
  s.setSh f j { x with toEng := x.toEng.drop n, behind := x.behind.map (fun b => (b.1, b.2 - n)) }

/-! ## The place of a chunk in the stream (R57, R60, R62) -/

/-- The sub-chunks of block `b` of `n` chunks, for a gang that takes `p` of them to an issue. -/
def blockSubs (n p b : Nat) : Nat := min p (n - b * p)

/-- Chunk `c` of token `t` in a pass of R57. -/
def posNat (tt n p t c : Nat) : Nat := (c / p) * p * tt + t * blockSubs n p (c / p) + c % p

/-- Chunk `c` of token `t` for column sub-tile `nb` in a two-level pass (R60). -/
def posTwo (tt n p nb t c : Nat) : Nat :=
  let g := t / 72
  let sz := min 72 (tt - 72 * g)
  nb * tt * n + 72 * g * n + posNat sz n p (t % 72) c

/-- Chunk `c` of token `t` for column sub-tile `nb` in a weight pass (R62). -/
def posWeight (tt n p nnb nb t c : Nat) : Nat :=
  (c / p) * p * nnb * tt + nb * tt * blockSubs n p (c / p) + t * blockSubs n p (c / p) + c % p

/-- The value of element `e` of a chunk of types (t, st), its block scale applied. -/
def chunkVal (t st : Nat) (c : Chunk) (e : Nat) : Val :=
  let code := c.codes[e]?.getD 0
  if st = 0 then etyVal t code else scaledVal st t (c.scs[e / styBlock st]?.getD 0) code

/-! ## Sums (R30, R31, R33) -/

/-- A product below 2^-126 goes to the FP32 subnormal grid (R30). -/
def tinyRound (v : Val) : Val :=
  match v with
  | .fin neg m e =>
    if m ≠ 0 ∧ (Nat.log2 m : Int) + e < -126 then .fin neg (rneShift m (e + 149)) (-149) else .fin neg m e
  | v => v

/-- A scaled product of a pass with retry number `n` (R30, R45). -/
def product (n : Nat) (a b : Val) : Val :=
  tinyRound (match vmul a b with
    | .fin neg m e => .fin neg m (e - 8 * n)
    | v => v)

/-- The value is an infinity. -/
def Val.isInf (v : Val) : Bool := match v with | .inf _ => true | _ => false

/-- Add to an FP32 sum; the Bool says that finite terms gave an infinity (R34). -/
def addOvf (a : W32) (p : Val) : W32 × Bool :=
  let r := f32rnd (vadd (f32val a) p)
  (r, (f32val r).isInf && !(f32val a).special && !p.special)

/-- A chain of products added in ascending order (R31). -/
def chainF (n : Nat) (xs ys : List Val) (a : W32) (ov : Bool) : W32 × Bool :=
  match xs, ys with
  | x :: xr, y :: yr =>
    let (r, o) := addOvf a (product n x y)
    chainF n xr yr r (ov || o)
  | _, _ => (a, ov)

/-- The integer that an exact integral value holds. -/
def Val.toInt (v : Val) : Int := match v with | .fin neg m e => vround neg m e | _ => 0

/-- Clamp to the symmetric INT32 range (R33). -/
def clamp32 (i : Int) : Int × Bool :=
  if i < -2147483647 then (-2147483647, true) else if 2147483647 < i then (2147483647, true) else (i, false)

/-- A chain of integer products (R33). -/
def chainI (xs ys : List Val) (a : Int) (sat : Bool) : Int × Bool :=
  match xs, ys with
  | x :: xr, y :: yr =>
    let (r, c) := clamp32 (a + x.toInt * y.toInt)
    chainI xr yr r (sat || c)
  | _, _ => (a, sat)

/-- One output element: a chain from `a`; `pad` says that zero terms complete the last block (R53). -/
def sumChain (isInt : Bool) (n : Nat) (pad : Bool) (xs ys : List Val) (a : W32) : W32 × Bool :=
  if isInt then
    let (r, c) := chainI xs ys (signed 32 a.toNat) false
    (BitVec.ofNat 32 (unsigned 32 r), c)
  else
    let (r, o) := chainF n xs ys a false
    (if pad then f32add r 0#32 else r, o)

/-- One addition into another Spindle's entry (R59): the target's value first. -/
def addEntry (isInt : Bool) (o v : W32) : W32 × Bool :=
  if isInt then
    let (r, c) := clamp32 (signed 32 o.toNat + signed 32 v.toNat)
    (BitVec.ofNat 32 (unsigned 32 r), c)
  else addOvf o (f32val v)

/-- Add into a compensated pair; the Bool says that finite terms gave an infinity. -/
def addPair (p : Pair) (v : W32) : Pair × Bool :=
  let r := p.add v
  (r, (f32val r.s).isInf && !f32special p.s && !f32special v)

/-- An INT32 sum as FP32, rounded to nearest even (R63). -/
def intToF32 (v : W32) : W32 := let i := signed 32 v.toNat; f32rnd (.fin (decide (i < 0)) i.natAbs 0)

/-- The product of two tensor scales, where either operand is TB4 (R30). -/
def tensorFac (t : TileRec) (st : Nat) (cs : List Chunk) : Option W32 :=
  if t.sty = 2 ∨ st = 2 then
    some (f32mul (if st = 2 then ((cs.head?).map (·.ts)).getD 0x3F800000#32 else 0x3F800000#32)
      (if t.sty = 2 then t.ts else 0x3F800000#32))
  else none

end Sys2Proof.Machine
end

