-- ==== Sys2Proof/Machine/RingPort.lean ====
section
/-! DEFINITION. The ring ports of the slots: which beats a port takes into its buffer (R83, R89, R92, R102), how the run of a pass
leaves it, and how partial blocks land (R95, R97, R103). -/
namespace Sys2Proof.Machine

/-- The physical slot an error of queue `q` names. -/
def physIdx (s : State) (f q : Nat) : Nat := (physOf s f q).getD q

/-- An error of physical Spindle `n` in a command of queue `q` ends the task (Table 17-3): 2 ECC, 3 decode rejection, 4 element-type
mismatch, 5 gang command to a slot not ganged. A word of no task is dropped. -/
def spinErrAt (s : State) (f q n cause : Nat) : State :=
  let s := s.taskErr { sev := 1, unit := 1, cause := cause, index := 16 * f + n, task := s.qTask f q, d0 := spdState s f n,
                       stamp := s.timeOf f }
  let x := s.queue f q
  s.setQueue f q { x with words := x.words.drop 1 }

/-- An error of the Spindle that queue `q` feeds. -/
def spinErr (s : State) (f q cause : Nat) : State := spinErrAt s f q (physIdx s f q) cause

/-! ## Which beats a port takes -/

/-- Beats that a port buffers (R83). -/
def portDepth : Nat := 4

/-- The slot's port on ring `z` serves it itself: the slot is presented, and no gang is led by another slot (R89). -/
def portSlot (s : State) (i : Nat) : Option (Nat × Nat × Nat) :=
  let f := idxFrame i
  let q := idxSlot i
  match physOf s f q with
  | some n =>
    if s.get (Reg.FRM_SPDn_SHAPE_GANG_SIZE f n) = 0 ∨ s.on (Reg.FRM_SPDn_SHAPE_GANG_LEADER f n) then some (f, q, n) else none
  | none => none

/-- The SID and PART that a sampled selector holds for ring `z`. -/
def selSid (sel z : Nat) : Nat := if z = 0 then bits sel 7 0 else bits sel 23 16
def selPart (sel z : Nat) : Nat := if z = 0 then bits sel 15 8 else bits sel 31 24

/-- The beat is of the stream a selector names (R89). -/
def selMatches (sel z : Nat) (b : Beat) : Bool := selSid sel z ≠ 0 && selSid sel z = b.sid && selPart sel z = b.part

/-- The run that a port holds is whole. -/
def runWhole (l : List Beat) : Bool :=
  match l with
  | [] => false
  | b :: bs => runLength (markEty b) (markSty b) (markC64 b) (markCount b) ≤ bs.length

/-- A mark of a re-sent run that a re-run of this slot waits for, of the selector which that pass sampled (R102). -/
def redoWanted (s : State) (f q n z : Nat) (b : Beat) : Bool :=
  (match (s.spin f n).retry, (s.queue f q).words with
    | some r, w :: _ => spSrc w = z && selMatches (((s.spin f n).sel).getD 0) z b && r.seq = b.seq && r.n = b.n
    | _, _ => false) ||
  (s.spin f n).open_.any (fun o => spSrc o.word = z && selMatches o.sel z b && o.run = b.seq && o.due = some b.n)

/-- What a port does with a beat that reached its stage: it is no destination, it has no room or no pass for it, it finds a protocol
violation, it takes the beat which also goes on, or it takes it and nothing goes on. -/
inductive Taken where
  | pass
  | hold
  | error
  | also (p : RingPort)
  | only (p : RingPort)

/-- The port takes a beat into its buffer where that has room. -/
def RingPort.push (p : RingPort) (b : Beat) : Taken :=
  if p.buf.length < portDepth then .also { p with buf := p.buf ++ [b] } else .hold

/-- A port and an operand or mark beat (R83, R92, R102). -/
def takeOperandBeat (s : State) (z i : Nat) (b : Beat) : Taken :=
  match portSlot s i with
  | none => .pass
  | some (f, q, n) =>
    let p := s.rport z i
    let l := p.run ++ p.buf
    if b.redo then
      if b.kind = 2 then (if redoWanted s f q n z b then (if l.isEmpty then p.push b else .hold) else .pass)
      else
        match l with
        | m :: _ => if m.redo && m.sid = b.sid && m.part = b.part && !runWhole l then p.push b else .pass
        | [] => .pass
    else if selMatches (((s.spin f n).sel).getD (selOf s f n)) z b = false then .pass
    else
      let reads : Bool := match (s.queue f q).words with
        | w :: _ => (wOp w = 0x11 || wOp w = 0x12) && spSrc w = z && (s.spin f n).sel.isSome && (s.spin f n).retry.isNone
        | [] => false
      match l with
      | [] => if reads = false then .hold else if b.kind = 2 then p.push b else .also p
      | m :: _ =>
        if reads = false ∨ m.redo ∨ runWhole l then .hold
        else if b.kind = 2 then .error
        else p.push b

/-- The buffered beats of a run move on into the pass that reads it, up to the end of the run. -/
def fillRun (run buf : List Beat) : List Beat × List Beat :=
  match buf with
  | [] => (run, [])
  | b :: r => if b.kind = 1 || runWhole run then (run, b :: r) else fillRun (run ++ [b]) r

/-- A pass takes what its port buffers. -/
def drainPort (s : State) (z i : Nat) : State :=
  let p := s.rport z i
  let (a, b) := fillRun p.run p.buf
  s.setRport z i { p with run := a, buf := b }

/-- A port and a partial beat: it is a beat of the member's selector, or of a re-run block that a pass waits for (R95, R103). -/
def takePartialBeat (s : State) (z i : Nat) (b : Beat) : Taken :=
  match portSlot s i with
  | none => .pass
  | some (f, _, n) =>
    let p := s.rport z i
    let mine : Bool :=
      if b.redo then (s.spin f n).open_.any (fun o => selMatches o.sel z b) || selMatches (selOf s f n) z b
      else selMatches (selOf s f n) z b
    if mine = false then .pass
    else if p.buf.length < portDepth then .only { p with buf := p.buf ++ [b] }
    else .hold

/-! ## Landing (R95, R97, R103) -/

/-- The entries (first, how many) that a waiting word reads or writes. -/
def wordRange (s : State) (f : Nat) (u : SpinUnit) (w : Nat) : Option (Nat × Nat) :=
  match wOp w with
  | 0x11 =>
    (tileAt s f u (wHandle w)).map (fun tv => (1024 * spAcc w, blockWords u (spT w) (if spTrans w then tv.k else tv.n) (spTwo w)))
  | 0x13 => (blockAt s f u (spAcc w)).map (fun b => (1024 * spAcc w, blockWords u b.t b.m b.two))
  | _ => none

/-- The first waiting INIT = RING pass whose block has not landed, with the words before it. -/
def landWord (ws : List Nat) (skip : Nat) (before : List Nat) : Option (Nat × List Nat) :=
  match ws with
  | [] => none
  | w :: r =>
    if wOp w = 0x11 ∧ spInit w = 2 then (match skip with | 0 => some (w, before) | k + 1 => landWord r k (w :: before))
    else landWord r skip (w :: before)

/-- The entries that a partial beat holds. -/
def beatWords (b : Beat) : List W32 := (List.range 64).map (fun e => BitVec.ofNat 32 (leAt b.data (4 * e) 4))

/-- The places of `n` entries of a block of `m` columns at region `base`, from entry `e` on. -/
def landPlaces (u : SpinUnit) (base m e n : Nat) : List (Nat × Nat) :=
  (List.range n).map (fun k => let (h, i) := entryAt u m ((e + k) / m) ((e + k) % m); (h, 1024 * base + i))

/-- Entries written where they land; none where one would lie beyond the accumulator file (R55, R97). -/
def landWords (s : State) (f : Nat) (ps : List (Nat × Nat)) (vs : List W32) : Option State :=
  if ps.any (fun p => accWords ≤ p.2) then none
  else some ((ps.zip vs).foldl (fun s ((n, a), v) => accSet s f n a v) s)

/-- What the oldest partial beat of a port's buffer does: it waits, it has landed, it breaks the protocol, or its block overruns the
accumulator file. -/
inductive Landing where
  | wait
  | done (s : State)
  | proto
  | over

/-- The block that is landing at a port ends with `e` entries brought. -/
def endBlock (p : RingPort) (base m e : Nat) (ovf : Bool) : RingPort :=
  { p with full := p.full ++ [ovf], got := 0, ovf := false, inSeq := (p.inSeq + 1) % 65536, past := some (base, m, e) }

/-- A beat of the block that the waiting pass `w` starts from. -/
def landNext (s : State) (z i f q : Nat) (u : SpinUnit) (b : Beat) : Landing :=
  let p := s.rport z i
  match landWord (s.queue f q).words p.full.length [] with
  | none => .wait
  | some (w, before) =>
    match tileAt s f u (wHandle w) with
    | none => .wait
    | some tv =>
      let m := if spTrans w then tv.k else tv.n
      let t := spT w
      if before.any (fun x => match wordRange s f u x with
          | some (lo, len) => meets lo len (1024 * spAcc w) (blockWords u t m false)
          | none => false) then .wait
      else
        match landWords s f (landPlaces u (spAcc w) m p.got (min 64 (t * m - p.got))) (beatWords b) with
        | none => .over
        | some s =>
          let ovf := p.ovf || b.ovf
          if t * m ≤ p.got + 64 then .done (startPass (s.setRport z i (endBlock p (spAcc w) m (p.got + 64) ovf)) f q)
          else .done (s.setRport z i { p with got := p.got + 64, ovf := ovf })

/-- The block that is landing is shorter than its pass expects, and the next one has begun: it counts as landed whole, in silence (R97;
DEDUCED, assumption 61). -/
def cutShort (s : State) (z i f q : Nat) (u : SpinUnit) : State :=
  let p := s.rport z i
  match landWord (s.queue f q).words p.full.length [] with
  | none => s
  | some (w, _) =>
    match tileAt s f u (wHandle w) with
    | none => s
    | some tv => s.setRport z i (endBlock p (spAcc w) (if spTrans w then tv.k else tv.n) p.got p.ovf)

/-- The oldest partial beat of a port (R95): of the block that is landing; of a re-run block (R103), which lands in the fourth region;
of the block before, which was larger than its pass expected, beyond that block (R97; DEDUCED, assumption 61); or of the block after
one that was smaller. Any other SEQ breaks the protocol. -/
def landBeat (s : State) (z i f q n : Nat) (b : Beat) : Landing :=
  let p := s.rport z i
  let u := unitAt s f q
  if b.redo then
    match (s.spin f n).open_.find? (fun o => selMatches o.sel z b && o.seq = b.seq && spInit o.word = 2) with
    | none => .wait
    | some o =>
      let sz := spT o.word * (let tv := viewOf u o.tile; if spTrans o.word then tv.k else tv.n)
      if o.due ≠ some b.n ∨ sz ≤ p.reland.length then .wait
      else .done (s.setRport z i { p with reland := (p.reland ++ beatWords b).take sz, reovf := p.reovf || b.ovf })
  else if b.seq = p.inSeq then landNext s z i f q u b
  else if p.got ≠ 0 ∧ b.seq = (p.inSeq + 1) % 65536 then landNext (cutShort s z i f q u) z i f q u b
  else
    match p.past with
    | some (base, m, e) =>
      if p.got = 0 ∧ (b.seq + 1) % 65536 = p.inSeq then
        match landWords s f (landPlaces u base m e 64) (beatWords b) with
        | none => .over
        | some s => .done (s.setRport z i { p with past := some (base, m, e + 64) })
      else .proto
    | none => .proto

/-- The partial beats that a port buffers land, the oldest first, as far as they can. -/
def landPort (s : State) (z i fuel : Nat) : State :=
  match fuel with
  | 0 => s
  | k + 1 =>
    match portSlot s i, (s.rport z i).buf with
    | some (f, q, n), b :: r =>
      if b.kind ≠ 1 then s
      else
        match landBeat s z i f q n b with
        | .wait => s
        | .done t => landPort (t.setRport z i { t.rport z i with buf := r }) z i k
        | .proto => segError s z i 3
        | .over => spinErr (s.setRport z i { s.rport z i with buf := r }) f q 3
    | _, _ => s

end Sys2Proof.Machine
end

