-- ==== Sys2Proof/Machine/Feed.lean ====
section
/-! DEFINITION. What engine commands take of the streams that feed them (R57, R62, R67, R92, R177), and how much of a stream the command
that names its queue has accepted (R159). -/
namespace Sys2Proof.Machine

/-- The places (k, n) of the values of the stream in order; none for a slot of the padding (LAYOUT = 1). -/
def loadOrder (w : Nat) : List (Option (Nat × Nat)) :=
  let k := slK w
  let n := slN w
  if slLayout w = 0 then (List.range (k * n)).map (fun i => some (i / n, i % n))
  else
    let nb := (n + 31) / 32
    (List.range (1024 * tileBlocks k n)).map (fun i =>
      let b := i / 1024
      let r := b / nb * 32 + i % 1024 / 32
      let c := b % nb * 32 + i % 32
      if r < k ∧ c < n then some (r, c) else none)

/-- What a pass reads and how: the tile, rows of the contraction, output columns, tokens, mode, chunk counts. -/
structure PassShape where
  tv    : TileView
  c     : Nat
  m     : Nat
  t     : Nat
  kr    : Nat
  isInt : Bool
  sub   : Nat
  nch   : Nat
  nnb   : Nat
  deriving DecidableEq, Repr

/-- The shape of a pass over a tile (R52, R57, R92). -/
def passShape (tv : TileView) (w kr : Nat) (isInt : Bool) : PassShape :=
  let c := if spTrans w then tv.n else tv.k
  let m := if spTrans w then tv.k else tv.n
  let sub := if tv.u.deep then tv.u.size else 1
  ⟨tv, c, m, spT w, kr, isInt, sub, (c + kr - 1) / kr, (m + tv.u.cols - 1) / tv.u.cols⟩

/-- The chunks a pass reads (R92). -/
def PassShape.count (p : PassShape) (two : Bool) : Nat := p.t * p.nch * (if two then p.nnb else 1)

/-- The shape of a weight pass: c is KD, m is N, t the tokens. -/
def weightShape (tv : TileView) (w kr : Nat) (isInt : Bool) : PassShape :=
  let sub := if tv.u.deep then tv.u.size else 1
  ⟨tv, swKd w, tv.n, tv.k, kr, isInt, sub, (swKd w + kr - 1) / kr, (tv.n + tv.u.cols - 1) / tv.u.cols⟩

/-- The chunks a weight pass reads (R92). -/
def weightCount (p : PassShape) : Nat := p.t * p.nch * p.nnb

/-- Elements of a stream that its first `n` chunks hold; all of them where it holds fewer. -/
def chunkElems (n : Nat) (l : List SElem) : Nat :=
  match takeChunks n l [] [] with
  | some (_, rest) => l.length - rest.length
  | none => l.length

/-- Scale bytes that an SLOAD takes, the TB4 tensor scale's 64 among them (R67, R174). -/
def scaleBytes (w : Nat) : Nat := (if slSty w = 2 then 64 else 0) + tileScales (slSty w) (slSdim w) (slK w) (slN w)

/-- Chunks that a pass of Spindle queue `q` takes. -/
def chunksTaken (s : State) (f q w : Nat) : Nat :=
  match tileAt s f (unitAt s f q) (wHandle w) with
  | none => 0
  | some tv =>
    match spinMode tv.head.ety tv.head.sty (spEty w) (spSty w) with
    | none => 0
    | some (kr, isInt) => if wOp w = 0x11 then (passShape tv w kr isInt).count (spTwo w) else weightCount (weightShape tv w kr isInt)

/-- Elements that word `w` of engine queue `q` takes of the stream `l` of Shuttle queue `j`. -/
def wordTakes (s : State) (f q w j : Nat) (l : List SElem) : Nat :=
  if q < 9 then
    if wOp w = 0x10 then
      (if slSrcQ w = j then (loadOrder w).length else 0) + (if slSty w ≠ 0 ∧ slScaleQ w = j then scaleBytes w else 0)
    else chunkElems (chunksTaken s f q w) l
  else if q = 25 then brCnt w
  else
    match l with
    | [] => 0
    | x :: _ => 8 * eaRows w / max 1 (etyWidth x.ety / 8)

/-- The stream of queue `j` has not brought what word `w` of engine queue `q` takes of it (R68). -/
def streamShort (s : State) (f q w j : Nat) : Bool :=
  let l := (s.sh f j).toEng
  if q < 9 ∧ wOp w ≠ 0x10 then chunksTaken s f q w ≠ 0 && (takeChunks (chunksTaken s f q w) l [] []).isNone
  else l.length < max 1 (wordTakes s f q w j l)

/-- The first started command of Frame `f` that names Shuttle queue `j` as its source (R177): its engine queue and word. -/
def consumerOf (s : State) (f j : Nat) : Option (Nat × Nat) :=
  ((List.range 9) ++ [25, 26]).findSome? (fun q =>
    match (s.queue f q).words with
    | w :: _ => if (takesFrom q w).contains j then some (q, w) else none
    | [] => none)

/-- Elements at the front of queue `j`'s stream that a command has accepted (R159): those that the started one takes. -/
def accepted (s : State) (f j : Nat) : Nat :=
  match consumerOf s f j with
  | some (q, w) => min (s.sh f j).toEng.length (wordTakes s f q w j (s.sh f j).toEng)
  | none => 0

/-- The Easel waits for more elements of queue `j`'s stream than it has brought, and the queue has no word to bring them (R122). -/
def starvedEstat (s : State) (f j : Nat) : Bool :=
  match consumerOf s f j with
  | some (26, w) => (s.sh f j).word.isNone && (s.queue f (9 + j)).words.isEmpty &&
      streamShort s f 26 w j
  | _ => false

end Sys2Proof.Machine
end

