-- ==== Sys2Proof/Machine/Shuttle.lean ====
section
/-! DEFINITION. The Shuttle queue commands (R155 to R185). -/
namespace Sys2Proof.Machine

/-- A fault ends the command: the state with the fault taken. -/
def shBad (s : State) (f j cause addr : Nat) : Host.Outcome State Fault Refusal :=
  finish (shFault s f j cause addr (s.sh f j).item)

/-- Descriptors of the current word. -/
def wordTotal (w : Nat) : Nat := sxItems w * sxPer w

/-! ## Words (R155, R159, R182) -/

/-- The word at the head of a queue is decoded (R155) and begins to execute. -/
def startWord (s : State) (f j : Nat) : State :=
  let x := s.sh f j
  let q := s.queue f (9 + j)
  match q.words with
  | [] => s
  | w :: r =>
    if sxferBad s f w then shFault s f j 1 0 0
    else
      (s.setQueue f (9 + j) { q with words := r }).setSh f j
        { x with word := some w, item := 0, fetched := 0, descs := [], act := none, pos := 0, reqT := none, batT := some s.now }

/-- Every item of the word has been read. -/
def wordRead (x : ShutSt) (w : Nat) : Bool := x.act.isNone && x.item = sxItems w

/-- SXFER: the word at the head of a queue begins to execute. The queue waits while requests issued before a cancel are outstanding
(R183). A word for an engine whose elements all stand in the stream buffer gives way to a next one for an engine: the queue reads
ahead across word boundaries (R182). -/
def execSxfer (f : Fin 64) (j : Fin 16) (s : State) : Host.Outcome State Fault Refusal :=
  let x := s.sh f j
  onClock s f (
    match x.word, (s.queue f (9 + j)).words with
    | none, _ :: _ => if s.on (Reg.FRM_SQj_STATE_CANCEL_BUSY f j) then .next s else finish (startWord s f j)
    | some w, n :: _ =>
      if sxDst w = 1 ∧ sxDst n = 1 ∧ wordRead x w then
        finish (startWord (s.setSh f j { x with word := none, behind := x.behind ++ [(w, x.toEng.length)] }) f j)
      else .next s
    | _, [] => .next s)

/-- The current word's last item has been delivered (R159, Table 7-3). -/
def wordDelivered (s : State) (f j w : Nat) (x : ShutSt) : Bool :=
  wordRead x w && x.unacked.isEmpty && x.asked.isEmpty && (sxDst w ≠ 1 || x.toEng.length ≤ accepted s f j)

/-- SXFER_COMPLETE: the oldest word completes (R159): one for an engine once a command has accepted its last element. -/
def execSxferComplete (f : Fin 64) (j : Fin 16) (s : State) : Host.Outcome State Fault Refusal :=
  let x := s.sh f j
  onClock s f (
    match x.behind, x.word with
    | (w, e) :: r, _ =>
      if e ≤ accepted s f j then finish (completeWord (s.setSh f j { x with behind := r }) f (9 + j) w) else .next s
    | [], some w =>
      if wordDelivered s f j w x then
        finish (completeWord (s.setSh f j { x with word := none, item := 0, fetched := 0, descs := [], reqT := none, batT := none }) f (9 + j) w)
      else .next s
    | [], none => .next s)

/-! ## Descriptors and items (R157, R162) -/

/-- The offset of the next descriptors of word `w` in its segment and how many a batch holds (R157). -/
def batchOf (x : ShutSt) (w : Nat) : Nat × Nat := (sxDlist w + 128 * x.fetched, min 32 (wordTotal w - x.fetched))

/-- Pieces of 128 bytes. -/
def cut128 (l : List Byte) (fuel : Nat) : List (List Byte) := piecesOf 128 l fuel

/-- DESCRIPTOR_BATCH: up to 32 descriptors of the current word arrive (R157); those that reach beyond the segment are not
fetched, and a batch whose first one does is a fault. -/
def execDescriptorBatch (f : Fin 64) (j : Fin 16) (resp : Resp) (ecc : Ecc) (s : State) : Host.Outcome State Fault Refusal :=
  let x := s.sh f j
  onClock s f (
    match x.word with
    | none => .next s
    | some w =>
      let (o, n) := batchOf x w
      if n = 0 ∨ 8 < x.descs.length ∨ x.act.isSome then .next s
      else
        let g := segOf s f (sxDseg w)
        let n := min n ((g.lim - o) / 128)
        if n = 0 then shBad s f j 2 (g.addr ((o + 127 : Nat) : Int))
        else
          let x0 := spanOf s [] g o (128 * n)
          match readSpans s f j [x0] resp ecc with
          | .wait t => .next t
          | .bad t c a => shBad t f j c a
          | .ok t m =>
            let y := t.sh f j
            .next (t.setSh f j { y with
              descs := y.descs ++ cut128 (mapGet m x0.key (128 * n)) n, fetched := y.fetched + n, rbuf := [], batT := none }))

/-- The item that the next descriptors form. -/
def nextItem (w num : Nat) (ds : List (List Byte)) : ItemSt :=
  match ds with
  | a :: b :: _ => if sxPer w = 2 then ⟨w, num, a, b⟩ else if sxSrc w = 0 then ⟨w, num, a, []⟩ else ⟨w, num, [], a⟩
  | [a] => if sxSrc w = 0 then ⟨w, num, a, []⟩ else ⟨w, num, [], a⟩
  | [] => ⟨w, num, [], []⟩

/-- The version record after a forward gather (R300). -/
def noteGather (s : State) (f w : Nat) (it : ItemSt) : State :=
  match itemRd w it with
  | some d =>
    if (segOf s f (dSeg d)).kind = 4 ∧ bits (dTag d) 13 12 = 0 then
      { s with verRec := sput none s.verRec (bits (dTag d) 11 0) (some (s.get Reg.PLY_STEP_STEP)) }
    else s
  | none => s

/-- A backward gather of another version (R300). -/
def itemVersionBad (s : State) (f w : Nat) (it : ItemSt) : Bool :=
  match itemRd w it with
  | some d => (segOf s f (dSeg d)).kind = 4 && versionBad s d
  | none => false

/-- The queue fetches its next batch, where it has one left (R157). -/
def batchStamp (s : State) (x : ShutSt) (w left : Nat) : Option Nat :=
  if x.batT.isNone ∧ left ≤ 8 ∧ x.fetched < wordTotal w then some s.now else x.batT

/-- ITEM_DECODE: the next item is checked against every rule and becomes active, or is rejected (R162, R300). -/
def execItemDecode (f : Fin 64) (j : Fin 16) (s : State) : Host.Outcome State Fault Refusal :=
  let x := s.sh f j
  onClock s f (
    match x.word, x.act with
    | some w, none =>
      if x.item < sxItems w ∧ sxPer w ≤ x.descs.length then
        let it := nextItem w x.item x.descs
        if itemBad s f j w it then shBad s f j 1 0
        else if itemVersionBad s f w it then
          shBad (plyFlag s Reg.PLY_STAT_VERMM (bits (dTag it.rd) 11 0)) f j 1 0
        else
          match itemOut s f w it with
          | some a => shBad s f j 2 a
          | none =>
            let t := noteGather s f w it
            .next (t.setSh f j { x with
              descs := x.descs.drop (sxPer w), act := some it, pos := 0, rbuf := [], reqT := if sxSrc w = 0 then some s.now else none,
              batT := batchStamp s x w (x.descs.length - sxPer w) })
      else .next s
    | _, _ => .next s)

/-! ## What the next stretch may take (R158, R176, R182, R295) -/

/-- Bytes of a queue's stream buffer (R182). -/
def streamBuffer : Nat := 65536

/-- Bytes that an element takes there. -/
def SElem.bytes (x : SElem) : Nat := (etyWidth x.ety + 7) / 8

/-- Elements of descriptor `d` that the stream buffer has room for: those that a command has accepted have left it. -/
def feedRoom (s : State) (f j : Nat) (d : List Byte) : Nat :=
  let held := ((s.sh f j).toEng.drop (accepted s f j)).foldl (fun a x => a + x.bytes) 0
  (streamBuffer - held) / max 1 ((etyWidth (dEty d) + 7) / 8)

/-- The elements that the next stretch of up to `n` takes; 0 where it has to wait for room or for elements of an engine. -/
def stretchLen (s : State) (f j w : Nat) (it : ItemSt) (n : Nat) : Nat :=
  let x := s.sh f j
  let total := dCount (itemMain w it)
  match itemWr w it with
  | some d =>
    let kind := (segOf s f (dSeg d)).kind
    let n := if kind = 3 then min n (32 * (64 - loopHeld s)) else n
    if n = 0 then 0
    else if sxSrc w = 1 then
      let e := stretchEnd d kind (min total (x.pos + min n x.fromEng.length)) total
      if x.pos + x.fromEng.length < e then 0 else e - x.pos
    else stretchEnd d kind (min total (x.pos + n)) total - x.pos
  | none =>
    if sxDst w = 1 then min (min n (feedRoom s f j it.rd)) (total - x.pos)
    else if (s.inj (sxDst w - 2) f).run.isEmpty && (s.inj (sxDst w - 2) f).redo.isEmpty then min n (total - x.pos)
    else 0

/-- Queue `j` has a request ready (R158): its active item can go on, and nothing of it is asked for over the mesh. -/
def hasRequest (s : State) (f j : Nat) : Bool :=
  let x := s.sh f j
  match x.word, x.act with
  | some w, some it => x.asked.isEmpty && stretchLen s f j w it 1 ≠ 0
  | _, _ => false

/-- A descriptor of the active item lies in the queue's own Frame memory. -/
def ownFrame (s : State) (f : Nat) (d : List Byte) : Bool :=
  let g := segOf s f (dSeg d)
  g.kind = 0 && homeFrame s (g.base + dBase d) = some f && regionOf s (g.base + dBase d) = .frame

/-- Two queues contend: both use ports S0 to S3 of their Frame memory (R158), or both the transposer (R176). -/
def contend (s : State) (f j k : Nat) : Bool :=
  let x := s.sh f j
  let y := s.sh f k
  match x.word, x.act, y.word, y.act with
  | some v, some a, some w, some b =>
    let own (w : Nat) (it : ItemSt) : Bool := ((itemRd w it).toList ++ (itemWr w it).toList).any (ownFrame s f)
    (sxXpose v && sxXpose w) || (own v a && own w b)
  | _, _, _, _ => false

def State.grant (s : State) (f : Nat) : GrantSt := sget GrantSt.empty s.grants f

/-- The priority of a queue. -/
def sqPrio (s : State) (f j : Nat) : Nat := s.get (Reg.FRM_SQj_CFG_PRIO f j)

/-- How many queues the round robin passes over before it comes to queue `j` (R158). -/
def turnsTo (s : State) (f j : Nat) : Nat :=
  let last := if sqPrio s f j = 1 then (s.grant f).last1 else (s.grant f).last0
  (j + 31 - last) % 16

/-- Queue `j` is granted: no queue that contends with it and has a request ready comes first, by priority and then in turn (R158). -/
def granted (s : State) (f j : Nat) : Bool :=
  (List.range 16).all (fun k => k = j || !hasRequest s f k || !contend s f j k ||
    (sqPrio s f k < sqPrio s f j || (sqPrio s f k = sqPrio s f j && turnsTo s f j < turnsTo s f k)))

/-- Note the grant. -/
def noteGrant (s : State) (f j : Nat) : State :=
  let g := s.grant f
  { s with grants := sput GrantSt.empty s.grants f (if sqPrio s f j = 1 then { g with last1 := j } else { g with last0 := j }) }

/-! ## A stretch (R163 to R182) -/

/-- `n` elements of the active item are done; an item that is done gives way to the next. The run of a ring item has yet to enter its
head stage. -/
def advanceItem (s : State) (f j w n total : Nat) : State :=
  let x := s.sh f j
  if x.pos + n < total then s.setSh f j { x with pos := x.pos + n, rbuf := [], reqT := if sxSrc w = 0 then some s.now else none }
  else if 2 ≤ sxDst w ∧ x.act.isSome ∧ !(s.inj (sxDst w - 2) f).run.isEmpty then
    s.setSh f j { x with pos := total, rbuf := [], reqT := none }
  else if x.act.isSome then endItem s f j
  else s

/-- The places that a stretch writes, with the values that go there. -/
def pairUp (l : List (Option EPlace)) (vs : List XVal) (lam : Nat) : List (Nat × EPlace × XVal) :=
  (l.zip vs).zipIdx.filterMap (fun ((p, v), i) => p.map (fun q => (lam + i, q, v)))

/-- The scales that go with those places. -/
def pairScales (l : List (Option EPlace)) (vs : List SElem) : List Nat :=
  (l.zip vs).filterMap (fun (p, v) => p.map (fun _ => v.sc))

/-- The end of a stretch: the fault that ended it, or its length. -/
def stretchEnds (s : State) (n : Nat) (flt : Option (Nat × Nat)) : ShRes Nat :=
  match flt with
  | some (c, a) => .bad s c a
  | none => .ok s n

/-- A stretch of `n` elements from memory to memory (R156, R172): read, convert, write, up to the first fault of either
stream. A pair that neither differs in types nor rounds stochastically moves its elements unchanged (R172). -/
def moveStretch (s : State) (f j w : Nat) (it : ItemSt) (lam n : Nat) (resp : Resp) (ecc : ShEcc) : ShRes Nat :=
  let rd := it.rd
  let wr := it.wr
  (places s f j rd (sxXpose w) lam n resp ecc).next (fun s a =>
    (places s f j wr false lam n resp (if dIdxEn rd then ShEcc.none else ecc)).next (fun s b =>
      let m := min a.1.length b.1.length
      let flt := if a.1.length ≤ b.1.length then a.2.1.or b.2.1 else b.2.1
      if writesHeld s f (b.1.take m) then .wait s
      else
        (readElems s f j rd (sxXpose w) false lam (a.1.take m) resp ecc).next (fun s els =>
          let conv := dEty rd ≠ dEty wr || dSty rd ≠ dSty wr || sxSr w
          let vs := els.map (fun e => if conv then XVal.val (!etyFloat e.ety) e.val else XVal.code e.code)
          (writeElems s f j w wr (dEty rd) (lam = 0) (pairUp (b.1.take m) vs lam)
            (if conv then none else some (pairScales (b.1.take m) els)) resp (if ecc.part = .dest then ecc else ShEcc.none)).next
            (fun s _ => stretchEnds (noteOob (noteOob s f a.2.2) f b.2.2) m (if m = n then none else flt)))))

/-- A stretch of `n` elements of an engine's output to memory (R172). -/
def takeStretch (s : State) (f j w : Nat) (it : ItemSt) (lam n : Nat) (resp : Resp) (ecc : ShEcc) : ShRes Nat :=
  (places s f j it.wr false lam n resp ecc).next (fun s b =>
    if writesHeld s f b.1 then .wait s
    else
      let x := s.sh f j
      let m := b.1.length
      let vs := (x.fromEng.take m).map (fun e => XVal.val e.isInt e.val)
      (writeElems (s.setSh f j { x with fromEng := x.fromEng.drop m }) f j w it.wr 1 (lam = 0) (pairUp b.1 vs lam) none resp ecc).next
        (fun s _ => stretchEnds (noteOob s f b.2.2) m b.2.1))

/-- A stretch of `n` elements into the stream buffer for an engine (R177, R182). -/
def feedStretch (s : State) (f j w : Nat) (it : ItemSt) (lam n : Nat) (resp : Resp) (ecc : ShEcc) : ShRes Nat :=
  (places s f j it.rd (sxXpose w) lam n resp ecc).next (fun s a =>
    (readElems s f j it.rd (sxXpose w) (sxC64 w) lam a.1 resp ecc).next (fun s els =>
      let x := s.sh f j
      let s := s.setSh f j { x with toEng := x.toEng ++ els, kept := if lam = 0 then x.kept ++ [it] else x.kept }
      stretchEnds (noteOob s f a.2.2) a.1.length a.2.1))

/-- A ring item forms its run (R179): the injector keeps its descriptors, and the run begins to enter the head stage. -/
def injectItem (s : State) (f j w : Nat) (it : ItemSt) (resp : Resp) (ecc : ShEcc) : ShRes Nat :=
  let z := sxDst w - 2
  let k := 256 * sxSid w + sxPart w
  let seq := sget 0 (s.inj z f).seqs k
  (itemRun s f j w it.rd seq false 0 resp ecc).next (fun s bs =>
    let x := s.inj z f
    let s := s.setInj z f { x with
      run := bs, kept := (⟨sxSid w, sxPart w, seq, j, it⟩ :: x.kept).take 64, seqs := sput 0 x.seqs k ((seq + 1) % 65536) }
    .ok (injFill s z f bs.length) (dCount it.rd))

/-- The record of a read that failed after a cancel (R183). -/
def lateRecord (s : State) (f j : Nat) : State :=
  s.logErr { sev := 0, unit := 3, cause := 0x10, index := 16 * f + j, stamp := s.timeOf f, d0 := storedWord s (0x100A200 + 0x10000 * f) }

/-- The read of a request that was issued before a cancel ends: data is discarded, and a fault is only recorded (R183), an uncorrectable
word or block among them. -/
def lateResponse (s : State) (f j : Nat) (resp : Resp) (ecc : Ecc) : State :=
  let s := s.setSh f j { s.sh f j with late := false, reqT := none }
  syncBusy (if resp = .ok ∧ (ecc = .ok ∨ ecc = .single) then s else lateRecord s f j) f j

/-- The next `m` elements of the active item. -/
def runStretch (s : State) (f j w : Nat) (it : ItemSt) (m : Nat) (resp : Resp) (ecc : ShEcc) : ShRes Nat :=
  let lam := (s.sh f j).pos
  if 2 ≤ sxDst w then injectItem s f j w it resp ecc
  else if sxDst w = 1 then feedStretch s f j w it lam m resp ecc
  else if sxSrc w = 1 then takeStretch s f j w it lam m resp ecc
  else moveStretch s f j w it lam m resp ecc

/-- Requests that wait to be repeated have not merged yet (R181). -/
def unmerged (s0 s : State) (f : Nat) : State := s.put (Reg.FRM_SQ_MERGECNT_COUNT f) (s0.get (Reg.FRM_SQ_MERGECNT_COUNT f))

/-- SHUTTLE_RESPONSE: the next elements of the active item are delivered in stream order (R182): `n` of them, or as many as
complete the blocks or lines that `n` reaches, where the queue is granted (R158). -/
def execShuttleResponse (f : Fin 64) (j : Fin 16) (n : Nat) (resp : Resp) (ecc : Ecc) (part : ShRead) (s : State) :
    Host.Outcome State Fault Refusal :=
  let x := s.sh f j
  onClock s f (
    match x.word, x.act with
    | some w, some it =>
      let m := stretchLen s f j w it n
      let total := dCount (itemMain w it)
      if m = 0 then
        if 2 ≤ sxDst w ∧ x.pos = total ∧ (s.inj (sxDst w - 2) f).run.isEmpty then .next (endItem s f j) else .next s
      else if x.asked.isEmpty && !granted s f j then .next s
      else
        match runStretch s f j w it m resp ⟨ecc, part⟩ with
        | .wait t => finish (unmerged s t f)
        | .bad t c a => shBad t f j c a
        | .ok t k => finish (noteGrant (advanceItem t f j w k total) f j)
    | _, _ => if x.late ∧ resp ≠ .late then finish (lateResponse s f j resp ecc) else .next s)

/-! ## Cancel and timeout (R183, R185) -/

/-- QUEUE_CANCEL: a write of 1 to FRM_SQj_CTL.CANCEL (R183). -/
def execQueueCancel (f : Fin 64) (j : Fin 16) (s : State) : Host.Outcome State Fault Refusal :=
  if agentOpen s .studio (0x1000000 + 0x10000 * f) then
    viaCtl s .studio f (0x100A104 + 0x10000 * f + 0x10 * j) 1 (finish (cancelWithStarved s f j))
  else .next s

/-- A request has had no response for 10 ms (R185). -/
def overdue (s : State) (t : Nat) : Bool := t + 10 * tickMs ≤ s.now

/-- A read of the queue has: a request of its active item or its descriptor fetch to memory that answers it directly, or one over the
mesh. -/
def readOverdue (s : State) (x : ShutSt) : Bool :=
  (x.reqT.toList ++ x.batT.toList).any (overdue s) || x.asked.any (fun r => overdue s r.t)

/-- A write has: one of segment kind 3 waits without the limit. -/
def writeOverdue (s : State) (x : ShutSt) : Bool := x.unacked.any (fun r => r.timed && overdue s r.t)

/-- REQUEST_TIMEOUT: a request of the queue has had no response for 10 ms (R185). After a cancel an overdue read is only recorded, and an
overdue write still ends the task (R183). -/
def execRequestTimeout (f : Fin 64) (j : Fin 16) (s : State) : Host.Outcome State Fault Refusal :=
  let x := s.sh f j
  if freqStopped s then .next s
  else if s.on (Reg.FRM_SQj_STATE_CANCEL_BUSY f j) then
    if writeOverdue s x then
      shBad (syncBusy (s.setSh f j { x with unacked := x.unacked.filter (fun r => !(r.timed && overdue s r.t)) }) f j) f j 8 0
    else if readOverdue s x then
      finish (syncBusy (lateRecord (s.setSh f j { x with late := false, asked := [], reqT := none, batT := none }) f j) f j)
    else .next s
  else if readOverdue s x || writeOverdue s x then
    shBad (s.setSh f j { x with asked := [], late := false, reqT := none, batT := none,
                                unacked := x.unacked.filter (fun r => !(r.timed && overdue s r.t)) }) f j 8 0
  else .next s

/-- Over a tick, the time of a request to memory that answers directly counts while the active item can go on, and while the Easel waits
for elements that nothing brings (R122); a queue that waits for room, for its injector or for an answer over the mesh has none. -/
def tickRequest (s : State) (f j : Nat) : State :=
  let x := s.sh f j
  match x.word, x.act with
  | some w, some it =>
    if sxSrc w = 0 then
      if x.asked.isEmpty ∧ stretchLen s f j w it 1 ≠ 0 then (if x.reqT.isNone then s.setSh f j { x with reqT := some s.now } else s)
      else if x.reqT.isNone then s else s.setSh f j { x with reqT := none }
    else s
  | none, _ =>
    if x.late then s
    else if starvedEstat s f j then (if x.reqT.isNone then s.setSh f j { x with reqT := some s.now } else s)
    else if x.reqT.isNone then s else s.setSh f j { x with reqT := none }
  | _, none => s

end Sys2Proof.Machine
end

