-- ==== Sys2Proof/Machine/Spindle.lean ====
section
/-! DEFINITION. The Spindle commands (R57 to R76) and the re-runs of RETRY mode (R45, R46, R102, R103). -/
namespace Sys2Proof.Machine

/-! ## Rejections and the outcome of a command -/

/-- What a Spindle command does: it waits, is rejected, breaks the ring protocol, meets a Shuttle fault, or is done. -/
inductive SpinOut where
  | wait (s : State)
  | bad (s : State) (cause : Nat)
  | seg (s : State) (z i : Nat)
  | fault (s : State) (j cause addr : Nat)
  | done (s : State)

/-- The state after a command of queue `q`. -/
def SpinOut.state (o : SpinOut) (f q : Nat) : State :=
  match o with
  | .wait s => s
  | .bad s c => spinErr s f q c
  | .seg s z i => segError s z i 3
  | .fault s j c a => shFault s f j c a (s.sh f j).item
  | .done s => s

/-- The head word of queue `q` as its decode sees it (R66, R71). -/
inductive SpinHead where
  | none
  | bad (cause : Nat)
  | go (w : Nat) (u : SpinUnit)

/-- The record that member `i` of a unit keeps of an SLOAD. -/
def loadRec (u : SpinUnit) (w i : Nat) (ts : W32) : TileRec :=
  let k := slK w
  let n := slN w
  ⟨if u.deep then shared u.size (deepRows (slEty w)) k i else k, if u.deep then n else shared u.size u.w n i, slEty w, slSty w,
   slSdim w, slFrozen w, 1024 * slBofs w, 32 * slSofs w, ts⟩

/-- Two tiles of a member meet in the stationary buffer or, where both have scales, in the scale store. -/
def tilesMeet (a b : TileRec) (sa sb : Nat) : Bool :=
  meets a.bofs (tileBlocks a.k a.n * blockBytes a.ety) b.bofs (tileBlocks b.k b.n * blockBytes b.ety) || meets a.sofs sa b.sofs sb

/-- Scale bytes of a tile at each member of its unit. -/
def memberScales (u : SpinUnit) (tv : TileView) : Nat :=
  (tileScales tv.head.sty tv.head.sdim tv.k tv.n + u.size - 1) / u.size

/-- Word `w` must wait for a pass of a reduce segment that may still re-run (R65, R103): an SLOAD over that pass's tile, or a pass or a
drain whose block meets the one that pass writes to an accumulator file at the tail. -/
def openHolds (s : State) (f : Nat) (u : SpinUnit) (w : Nat) (o : OpenPass) : Bool :=
  let tv := viewOf u o.tile
  let lo := 1024 * spAcc o.word
  let len := blockWords u (spT o.word) (if spTrans o.word then tv.k else tv.n) false
  match wOp w with
  | 0x10 =>
    let rs := (List.range u.size).map (fun i => loadRec u w i 0)
    (rs.zip o.tile).any (fun (a, b) => tilesMeet a b (memberScales u (viewOf u rs)) (memberScales u tv))
  | 0x11 =>
    match wordRange s f u w with
    | some (a, n) => spOut o.word ≠ 1 && meets a n lo len
    | none => false
  | 0x13 =>
    match wordRange s f u w with
    | some (a, n) => spOut o.word ≠ 1 && meets a n lo len
    | none => spOut o.word ≠ 1 && meets (1024 * spAcc w) 1 lo len
  | _ => false

/-- Decode the head word of queue `q` for the row of opcode `op`: a word that no row may run is rejected by any of them; one that a
re-run holds back waits. -/
def spinDecode (s : State) (f q op : Nat) : SpinHead :=
  match (s.queue f q).words with
  | [] => .none
  | w :: _ =>
    if spindleWordOk w = false then .bad 3
    else if wOp w ≠ op then .none
    else
      match physOf s f q with
      | none => .bad 3
      | some n =>
        let size := s.get (Reg.FRM_SPDn_SHAPE_GANG_SIZE f n)
        if wSlot w ≠ q then .bad 3
        else if (s.spin f n).retry.isSome then .none
        else if wGang w ∧ (size = 0 ∨ s.on (Reg.FRM_SPDn_SHAPE_GANG_LEADER f n) = false) then .bad 5
        else if wGang w = false ∧ size ≠ 0 then .bad 5
        else if (s.spin f n).open_.any (openHolds s f (unitAt s f q) w) then .none
        else .go w (unitAt s f q)

/-- Run the row of opcode `op` on queue `q`. -/
def spinRow (s : State) (f q op : Nat) (body : State → Nat → SpinUnit → SpinOut) : Host.Outcome State Fault Refusal :=
  onClock s f (
    match spinDecode s f q op with
    | .none => .next s
    | .bad c => finish (spinErr s f q c)
    | .go w u => finish ((body s w u).state f q))

/-- The Spindle whose store an ECC check names: a member of the unit, or of the target of OUT = PEER; otherwise the leader. -/
def eccAt (s : State) (f w : Nat) (u : SpinUnit) (m : Nat) : Nat :=
  if u.ms.contains m || (wOp w = 0x11 && spOut w = 2 && (unitAt s f (spPeer w)).ms.contains m) then m else u.leader

/-- What an ECC check of physical Spindle `n` finds (R56): a single-bit error is corrected, counted and logged. -/
def spinCorr (s : State) (f n : Nat) : State :=
  (s.bump (Reg.FRM_SPDn_ECCCNT_CORR f n) 1).logErr
    { sev := 0, unit := 1, cause := 1, index := 16 * f + n, d0 := spdState s f n, stamp := s.timeOf f }

/-- The outcome of a command that reads stores (R56): a single-bit error is noted; a double-bit error ends the task, and the writes done
before its word was read stay. `run` gives the command's outcome with the writes of all, or of the first `k`, of its issues, sub-tiles
or entries. -/
def spinEccOut (s : State) (f q w : Nat) (u : SpinUnit) (ecc : SpinEcc) (run : Option Nat → SpinOut) : State :=
  match ecc with
  | .ok => (run none).state f q
  | .single m =>
    match run none with
    | .done t => spinCorr t f (eccAt s f w u m)
    | o => o.state f q
  | .double m k =>
    match run (some k) with
    | .done t =>
      let n := eccAt s f w u m
      spinErrAt (t.bump (Reg.FRM_SPDn_ECCCNT_UNCORR f n) 1) f q n 2
    | o => o.state f q

/-- A row that reads a store. -/
def spinRowEcc (s : State) (f q op : Nat) (ecc : SpinEcc) (body : Option Nat → State → Nat → SpinUnit → SpinOut) :
    Host.Outcome State Fault Refusal :=
  onClock s f (
    match spinDecode s f q op with
    | .none => .next s
    | .bad c => finish (spinErr s f q c)
    | .go w u => finish (spinEccOut s f q w u ecc (fun k => body k s w u)))

/-- The head word of queue `q` has executed; the next pass starts where it can. -/
def wordRan (s : State) (f q : Nat) : State :=
  let x := s.queue f q
  let n := physIdx s f q
  let s := s.setQueue f q { words := x.words.drop 1, ran := x.ran ++ x.words.take 1 }
  startPass (s.setSpin f n { s.spin f n with sel := none, retry := none }) f q

/-! ## SLOAD (R53, R67) -/

/-- The cause that rejects an SLOAD (R27, R53, R67). -/
def loadCause (u : SpinUnit) (w : Nat) : Option Nat :=
  let t := slEty w
  let rs := (List.range u.size).map (fun i => loadRec u w i 0)
  match typeCause t (slSty w) with
  | some c => some c
  | none =>
    if etyWidth t = 32 then some 4
    else if (1024 * slBofs w) % blockBytes t ≠ 0 ∨ rs.any (fun r => 524288 < r.bofs + tileBlocks r.k r.n * blockBytes t) then some 3
    else if slSty w ≠ 0 ∧
      32768 < 32 * slSofs w + (tileScales (slSty w) (slSdim w) (slK w) (slN w) + u.size - 1) / u.size then some 4
    else none

/-- Record the tile under its handle in every member. -/
def putTile (s : State) (f : Nat) (u : SpinUnit) (w : Nat) (ts : W32) : State :=
  u.ms.zipIdx.foldl (fun s (m, i) =>
    s.setSpin f m { s.spin f m with tiles := sput none (s.spin f m).tiles (wHandle w) (some (loadRec u w i ts)) }) s

/-- Write the values of a tile: the padding is zero. -/
def putValues (s : State) (f : Nat) (u : SpinUnit) (w : Nat) (l : List SElem) : State :=
  let t := slEty w
  let s := u.ms.zipIdx.foldl (fun s (m, i) =>
    let r := loadRec u w i 0
    s.setSpin f m { s.spin f m with buf := sclear (s.spin f m).buf r.bofs (tileBlocks r.k r.n * blockBytes t) }) s
  ((loadOrder w).zip l).foldl (fun s (p, x) =>
    match p with
    | none => s
    | some (k, n) =>
      let (i, k', n') := elemHome u t k n
      let m := u.ms[i]?.getD 0
      s.setSpin f m { s.spin f m with buf := slotSet (s.spin f m).buf (loadRec u w i 0) k' n' x.code }) s

/-- Write the scale bytes of a tile: scale x of P members' tile at byte x ÷ P of member x mod P. -/
def putScales (s : State) (f : Nat) (u : SpinUnit) (w : Nat) (l : List Nat) : State :=
  l.zipIdx.foldl (fun s (c, x) =>
    let m := u.ms[x % u.size]?.getD 0
    s.setSpin f m { s.spin f m with scl := sput 0 (s.spin f m).scl (32 * slSofs w + x / u.size) (BitVec.ofNat 8 c) }) s

/-- SLOAD of word `w`: the record is made at decode; values and scales are written once both streams have brought them. -/
def sloadBody (f q : Nat) (s : State) (w : Nat) (u : SpinUnit) : SpinOut :=
  match loadCause u w with
  | some c => .bad s c
  | none =>
    let s := putTile s f u w 0x3F800000#32
    let n := (loadOrder w).length
    match feedElems (s.sh f (slSrcQ w)).toEng n (slEty w) (slSty w) with
    | .wait => .wait s
    | .bad => .bad s 4
    | .ok vs _ =>
      let t := dropStream s f (slSrcQ w) n
      if slSty w = 0 then .done (wordRan (releaseItems (putValues t f u w vs) f (slSrcQ w) n) f q)
      else
        let head := if slSty w = 2 then 64 else 0
        let m := scaleBytes w
        match feedElems (t.sh f (slScaleQ w)).toEng m 0x0C 0 with
        | .wait => .wait s
        | .bad => .bad s 4
        | .ok cs _ =>
          let bs := cs.map (fun x => x.code)
          let ts : W32 := if slSty w = 2 then BitVec.ofNat 32 (ofLE ((bs.take 4).map (BitVec.ofNat 8))) else 0x3F800000#32
          let t := releaseItems (dropStream (releaseItems t f (slSrcQ w) n) f (slScaleQ w) m) f (slScaleQ w) m
          .done (wordRan (putScales (putValues (putTile t f u w ts) f u w vs) f u w (bs.drop head)) f q)

/-- SLOAD. -/
def execSload (f : Fin 64) (q : Fin 9) (s : State) : Host.Outcome State Fault Refusal :=
  spinRow s f q 0x10 (sloadBody f q)

/-! ## Operands and results of a pass -/

/-- The streamed operand has arrived, or why it has not. -/
inductive Operand where
  | wait (s : State)
  | bad (cause : Nat)
  | seg (z i : Nat)
  | ok (s : State) (cs : List Chunk) (used u0 seq : Nat)

/-- The port a ring-fed word of queue `q` reads. -/
def srcPort (f q w : Nat) : Nat × Nat := (spSrc w, ringIdx f q)

/-- Read a run of `n` chunks (R92): what the port buffers moves into the pass; the run's types are checked at the mark, its count then.
`redo` names the re-sent run (SEQ and retry number) that a re-run waits for (R102). -/
def runOperand (s : State) (f q w n kr : Nat) (redo : Option (Nat × Nat)) : Operand :=
  let (z, i) := srcPort f q w
  let s := drainPort s z i
  let p := s.rport z i
  let t := spEty w
  match p.run with
  | [] => .wait s
  | b :: bs =>
    if (match redo with | none => b.redo | some (sq, k) => !b.redo || b.seq ≠ sq || b.n ≠ k) then .wait s
    else if markEty b ≠ t ∨ markSty b ≠ spSty w ∨ markC64 b ≠ needC64 t kr then .bad 4
    else if markCount b ≠ n then .seg z i
    else if bs.length < runLength t (spSty w) (needC64 t kr) n then .wait s
    else .ok (s.setRport z i { p with run := [] }) (runChunks t (spSty w) (needC64 t kr) n bs) 0 (markU0 b) b.seq

/-- The streamed operand of a pass: `n` chunks from its ring port or its Shuttle queue. -/
def operandOf (s : State) (f q w n kr : Nat) : Operand :=
  let t := spEty w
  if spSrc w = 2 then
    let j := spSrcQ w
    match feedChunks (s.sh f j).toEng n t (spSty w) (needC64 t kr) with
    | .wait => .wait s
    | .bad => .bad 4
    | .ok cs used => .ok (dropStream s f j used) cs used 0 0
  else runOperand s f q w n kr none

/-- A chunk of an operand. -/
def chunkAt (cs : Array Chunk) (i : Nat) : Chunk := cs[i]?.getD ⟨[], [], 0⟩

/-- The streamed values of token `t` for column sub-tile `nb`, ascending in the contraction. -/
def tokenVals (p : PassShape) (w : Nat) (two : Bool) (cs : Array Chunk) (nb t : Nat) : List Val :=
  (List.range p.c).map (fun k =>
    let c := k / p.kr
    let pos := if two then posTwo p.t p.nch p.sub nb t c else posNat p.t p.nch p.sub t c
    chunkVal (spEty w) (spSty w) (chunkAt cs pos) (k % p.kr))

/-- The stationary values of output column `m`, ascending in the contraction. -/
def columnVals (s : State) (f : Nat) (p : PassShape) (trans : Bool) (m : Nat) : List Val :=
  (List.range p.c).map (fun k => if trans then tileVal s f p.tv m k else tileVal s f p.tv k m)

/-- How many of the contraction's terms entry (t, m) has received when the pass has made `lim` issues (R57, R60); all of them where it is
not broken off. -/
def termsDone (p : PassShape) (two : Bool) (lim : Option Nat) (t m : Nat) : Nat :=
  match lim with
  | none => p.c
  | some k =>
    let rows := p.kr * p.sub
    let nkb := (p.c + rows - 1) / rows
    let nb := m / p.tv.u.cols
    let (first, step) :=
      if two then (let sz := min 72 (p.t - 72 * (t / 72)); (nb * p.t * nkb + 72 * (t / 72) * nkb + t % 72, sz))
      else (t * p.nnb + nb, p.t * p.nnb)
    if k ≤ first then 0 else min p.c (((k - 1 - first) / step + 1) * rows)

/-- The sums of a pass in entry order, each with its overflow or clamp, and whether a NaN came in; `lim` breaks the pass off after so
many issues. -/
def passSums (s : State) (f w : Nat) (p : PassShape) (n : Nat) (lim : Option Nat) (cs : List Chunk) (start : List W32) :
    List (W32 × Bool) × Bool :=
  let arr := cs.toArray
  let st := start.toArray
  let two := spTwo w
  let cols := (List.range p.m).map (columnVals s f p (spTrans w))
  let pad : Bool := p.c % (p.kr * p.sub) != 0
  let xs := (List.range p.t).map (fun t => (List.range (if two then p.nnb else 1)).map (fun nb => tokenVals p w two arr nb t))
  (xs.zipIdx.flatMap (fun (x, t) => cols.zipIdx.map (fun (c, m) =>
      let k := termsDone p two lim t m
      sumChain p.isInt n (pad && k = p.c) ((x[if two then m / p.tv.u.cols else 0]?.getD []).take k) c (st[t * p.m + m]?.getD 0))),
   !p.isInt && (cols.any (fun c => c.any Val.isNan) || xs.any (fun x => x.any (fun l => l.any Val.isNan))))

/-- The decode of an SPASS (R55, R67, R97): the cause that rejects it, or its tile. -/
def passDecode (s : State) (f : Nat) (w : Nat) (u : SpinUnit) : Except Nat TileView :=
  match tileAt s f u (wHandle w), typeCause (spEty w) (spSty w) with
  | none, _ => .error 3
  | _, some c => .error c
  | some tv, none =>
    let m := if spTrans w then tv.k else tv.n
    let words := blockWords u (spT w) m (spTwo w)
    let peer := unitAt s f (spPeer w)
    if spInit w = 3 ∨ spOut w = 3 ∨ spSrc w = 3 then .error 3
    else if spTwo w ∧ (spInit w = 2 ∨ spOut w = 1) then .error 3
    else if accWords < 1024 * spAcc w + words then .error 3
    else if retryMode s f ∧ spInit w ≠ 0 ∧ 32768 < words then .error 3
    else if spOut w = 2 ∧ (peer.ms = [] ∨ accWords < 1024 * spAcc w + blockWords peer (spT w) m (spTwo w)) then .error 3
    else .ok tv

/-- What stops a pass when it begins (R29, R61, R93, R94): the mode, or a cause, or a ring protocol violation. -/
inductive PassMode where
  | bad (cause : Nat)
  | seg (z i : Nat)
  | ok (kr : Nat) (isInt : Bool)

/-- A ring word's segment conditions (R93, R94); a segment that goes on over a flex port has its head or tail in another module (R91). -/
def ringMode (s : State) (i w : Nat) (kr : Nat) (isInt : Bool) : PassMode :=
  if spSrc w < 2 ∧ isReduce s (spSrc w) i then .bad 3
  else if wOp w = 0x11 ∧ (spInit w = 2 ∨ spOut w = 1) then
    match reduceRing s i with
    | none => .bad 3
    | some z => if (spOut w = 1 ∧ lastMember s z i) ∨ (spInit w = 2 ∧ firstMember s z i) then .seg z i else .ok kr isInt
  else .ok kr isInt

/-- The start of a pass: operand pair (R61), scale dimension (R26), rings (R93, R94). -/
def passMode (s : State) (f q w : Nat) (r : TileRec) (dim : Nat) : PassMode :=
  match spinMode r.ety r.sty (spEty w) (spSty w) with
  | none => .bad 4
  | some (kr, isInt) => if r.sty ≠ 0 ∧ r.sdim ≠ dim then .bad 4 else ringMode s (ringIdx f q) w kr isInt

/-- The starting values of a pass that does not re-run (R59). -/
def startVals (s : State) (f w : Nat) (u : SpinUnit) (p : PassShape) : List W32 :=
  if spInit w = 0 ∨ spTwo w then List.replicate (p.t * p.m) 0 else blockGet s f u (spAcc w) p.t p.m

/-- Flags of a pass that is kept (R33, R44, R45, R49). -/
def notePass (s : State) (f : Nat) (inf sat exh : Bool) : State :=
  let s := if inf then noteInf s f else s
  let s := if exh then noteExh s f else s
  if sat then noteSat s f else s

/-- The checkpoint copy (R55): each entry's value before the pass, in the other half of the accumulator file. -/
def checkpoint (s : State) (f : Nat) (u : SpinUnit) (base m : Nat) (l : List ((Nat × Nat) × W32)) : State :=
  l.foldl (fun s ((a, b), v) => let (n, i) := entryAt u m a b; accSet s f n ((1024 * base + i + 32768) % 65536) v) s

/-- A pass makes the checkpoint copy (R55, R60, R95): in RETRY mode, INIT = ACC, not two-level. -/
def copies (s : State) (f w : Nat) : Bool := retryMode s f && spInit w = 1 && !spTwo w

/-! ## Landing the results -/

/-- Add the sums of a two-level pass into their pairs (R36, R60). Under OUT = PEER they are added to the target's pairs, whatever INIT
says; the issuing Spindle's own pairs take no part (DESIGN CHOICE, assumption 63). -/
def landPairs (s : State) (f w : Nat) (dst : SpinUnit) (p : PassShape) (vs : List W32) : State × Bool :=
  let old := if spOut w = 2 ∨ spInit w = 1 then pairsGet s f dst (spAcc w) p.t p.m else List.replicate (p.t * p.m) Pair.init
  let rs := (old.zip vs).map (fun (o, v) => addPair o (if p.isInt then intToF32 v else v))
  (pairsSet s f dst (spAcc w) p.t p.m (rs.map (·.1)), rs.any (·.2))

/-- The record of the block that a pass leaves at a region. INIT = CLEAR or RING begins it anew (R33); INIT = ACC keeps its SAT flag,
and its retry count unless this pass has retried (R47). The tensor factor is that of the pass that added last (DESIGN CHOICE, assumption
63). -/
def blockAfter (old : Option BlockRec) (w : Nat) (p : PassShape) (n : Nat) (fac : Option W32) (sat : Bool) : BlockRec :=
  let new : BlockRec := ⟨p.t, p.m, spTwo w, p.isInt && !spTwo w, fac, n, sat⟩
  match old with
  | some o => if spInit w = 1 then { new with n := if n = 0 then o.n else n, sat := o.sat || sat } else new
  | none => new

/-- The record of the block that an OUT = PEER pass has added into: one that stands keeps its shape, its tensor factor and, where the
pass has not retried, its retry count (DESIGN CHOICE, assumption 63). -/
def peerAfter (old : Option BlockRec) (w : Nat) (p : PassShape) (n : Nat) (fac : Option W32) (sat : Bool) : BlockRec :=
  match old with
  | some o => { o with n := if n = 0 then o.n else n, sat := o.sat || sat }
  | none => ⟨p.t, p.m, spTwo w, p.isInt && !spTwo w, fac, n, sat⟩

/-- The sums of a kept pass go where OUT says (R59), with retry number `n` and tensor factor `fac`; the Bools say that the additions
there overflowed or clamped. An overflow of an addition into another Spindle or into a pair is left infinite in either overflow mode:
R45 retries overflows of the pass's own sums (DESIGN CHOICE, assumption 63). -/
def landPass (s : State) (f w : Nat) (u : SpinUnit) (p : PassShape) (n : Nat) (fac : Option W32) (sat : Bool) (vs : List W32) :
    State × Bool × Bool :=
  let peer : Bool := spOut w = 2
  let dst := if peer then unitAt s f (spPeer w) else u
  let old := blockAt s f dst (spAcc w)
  let (s, inf, clamp) :=
    if spTwo w then
      let (s, o) := landPairs s f w dst p vs
      (s, o, false)
    else if peer then
      let rs := ((blockGet s f dst (spAcc w) p.t p.m).zip vs).map (fun (o, v) => addEntry p.isInt o v)
      let fl := rs.any (·.2)
      (blockSet s f dst (spAcc w) p.t p.m (rs.map (·.1)), fl && !p.isInt, fl && p.isInt)
    else (blockSet s f dst (spAcc w) p.t p.m vs, false, false)
  (setBlock s f dst (spAcc w) (if peer then peerAfter old w p n fac (sat || clamp) else blockAfter old w p n fac sat), inf, clamp)

/-- A pass that is broken off after `k` issues (R56): the entries already written stay as they are, with the terms they have received; an
addition into another Spindle or into a pair is made where the entry's chain has ended. -/
def passBroken (s : State) (f w : Nat) (u : SpinUnit) (p : PassShape) (n k : Nat) (cs : List Chunk) (start : List W32) : State :=
  let sums := (passSums s f w p n (some k) cs start).1.map (·.1)
  let cells := (entries p.t p.m).map (fun (a, b) => termsDone p (spTwo w) (some k) a b)
  let dst := if spOut w = 2 then unitAt s f (spPeer w) else u
  if spTwo w then
    let now := pairsGet s f dst (spAcc w) p.t p.m
    let old := if spOut w = 2 ∨ spInit w = 1 then now else List.replicate (p.t * p.m) Pair.init
    pairsSet s f dst (spAcc w) p.t p.m ((now.zip (old.zip (sums.zip cells))).map (fun (x, o, v, c) =>
      if c = p.c then (addPair o (if p.isInt then intToF32 v else v)).1 else x))
  else
    let now := blockGet s f dst (spAcc w) p.t p.m
    let s := if copies s f w then
        checkpoint s f u (spAcc w) p.m ((((entries p.t p.m).zip start).zip cells).filterMap (fun (x, c) => if c = 0 then none else some x))
      else s
    if spOut w = 2 then
      blockSet s f dst (spAcc w) p.t p.m ((now.zip (sums.zip cells)).map (fun (o, v, c) => if c = p.c then (addEntry p.isInt o v).1 else o))
    else blockSet s f dst (spAcc w) p.t p.m ((now.zip (sums.zip cells)).map (fun (o, v, c) => if c = 0 then o else v))

/-- The partial beats of a block (R81, R96). -/
def partialBeats (sid part seq : Nat) (redo : Bool) (n : Nat) (ovf : Bool) (vs : List W32) : List Beat :=
  (piecesOf 64 vs vs.length).map (fun g =>
    ⟨1, sid, part, seq, redo, n, ovf, padTo 256 (g.flatMap (fun v => toLE 4 v.toNat)), 0⟩)

/-- Put a notice on the return channel at stage `i` (R85). -/
def sendNotice (s : State) (z i : Nat) (kind : NoticeKind) (sid part seq n : Nat) : State :=
  s.setNotice z i (s.notice z i ++ [⟨kind, sid, part, seq, n, s.now⟩])

/-- The block SEQ of the pass at the head of queue `q` (R95): a pass that starts from the ring has that of the block that
landed for it, any other the count of passes sent. -/
def passSeq (p : RingPort) (w : Nat) : Nat :=
  if spInit w = 2 then (p.inSeq + 65536 - p.full.length % 65536) % 65536 else p.outSeq

/-- Hand a block's partial beats to the port (R96). -/
def emitBlock (s : State) (z i sel seq : Nat) (redo : Bool) (n : Nat) (ovf : Bool) (vs : List W32) : State :=
  let p := s.rport z i
  s.setRport z i { p with
    out := p.out ++ partialBeats (selSid sel z) (selPart sel z) seq redo n ovf vs,
    outSeq := if redo then p.outSeq else (p.outSeq + 1) % 65536 }

/-- Ask for a run again (R102). -/
def askRedo (s : State) (f q w seq n : Nat) (sel : Nat) : State :=
  if spSrc w < 2 then sendNotice s (spSrc w) (ringIdx f q) .redoReq (selSid sel (spSrc w)) (selPart sel (spSrc w)) seq n else s

/-- A member of a reduce segment in RETRY mode has run a block with retry number `n` (R103): it sends the block on, or, at
the tail, keeps it with a CONFIRM or asks for a re-run. A block that is sent on waits in the accumulator file at ACC_BASE, that of a
re-run in the fourth region (R96). The Bool says that the tail kept it. -/
def reduceRun (s : State) (f q w z : Nat) (u : SpinUnit) (p : PassShape) (seq n sel : Nat) (inOvf : Bool) (start : List W32)
    (sums : List (W32 × Bool)) (fac : Option W32) : State × Bool :=
  let i := ringIdx f q
  let own := sums.any (·.2)
  let vs := if inOvf then start else sums.map (·.1)
  let ovf := inOvf || (!p.isInt && own)
  let sat := p.isInt && own
  if spOut w = 1 then
    let s :=
      if n = 0 then
        setBlock (blockSet s f u (spAcc w) p.t p.m vs) f u (spAcc w) (blockAfter (blockAt s f u (spAcc w)) w p 0 fac sat)
      else s
    (emitBlock (notePass s f false sat false) z i sel seq (n ≠ 0) n ovf vs, false)
  else if ovf ∧ n < 3 then
    (sendNotice s z i .retry (selSid sel z) (selPart sel z) seq (n + 1), false)
  else
    let (s, inf, clamp) := landPass s f w u p n fac sat vs
    let s := notePass s f (ovf || inf) (sat || clamp) ovf
    (sendNotice s z i .confirm (selSid sel z) (selPart sel z) seq 0, true)

/-! ## SPASS -/

/-- The first landed INIT = RING block of a port is used up. -/
def usePartial (s : State) (z i : Nat) : State := s.setRport z i { s.rport z i with full := (s.rport z i).full.drop 1 }

/-- The reduce ring that a pass takes its starting block from, or sends its block on. -/
def passRing (s : State) (i w : Nat) : Option Nat := if spInit w = 2 ∨ spOut w = 1 then reduceRing s i else none

/-- An SPASS on a ring in reduce mode (R95, R96, R103); `s0` is the state before its operand was taken. -/
def reducePass (f q w z : Nat) (u : SpinUnit) (p : PassShape) (sel : Nat) (s0 s : State) (seq : Nat) (start : List W32)
    (sums : List (W32 × Bool)) (fac : Option W32) (rel : State → State) : State :=
  let i := ringIdx f q
  let n0 := physIdx s f q
  let own := sums.any (·.2)
  let port := s.rport z i
  let bseq := passSeq port w
  let inOvf : Bool := spInit w == 2 && port.full.headD false
  let s := if spInit w = 2 then usePartial s z i else s
  if retryMode s f then
    let x := s0.sh f (spSrcQ w)
    let (s, kept) := reduceRun s f q w z u p bseq 0 sel inOvf start sums fac
    let s := rel s
    if kept then wordRan s f q
    else
      let o : OpenPass := ⟨w, bseq, 0, none, if spInit w = 2 then [] else start, if spSrc w = 2 then x.kept else [],
                           x.skip, seq, sel, p.tv.recs⟩
      let s := s.setSpin f n0 { s.spin f n0 with open_ := (s.spin f n0).open_ ++ [o], sel := none, retry := none }
      let y := s.queue f q
      startPass (s.setQueue f q { y with words := y.words.drop 1 }) f q
  else
    let vs := sums.map (·.1)
    let s :=
      if spOut w = 1 then
        let s := setBlock (blockSet s f u (spAcc w) p.t p.m vs) f u (spAcc w)
          (blockAfter (blockAt s f u (spAcc w)) w p 0 fac (p.isInt && own))
        notePass (emitBlock s z i sel bseq false 0 false vs) f (!p.isInt && own) (p.isInt && own) false
      else
        let (s, inf, clamp) := landPass s f w u p 0 fac (p.isInt && own) vs
        notePass s f ((!p.isInt && own) || inf) ((p.isInt && own) || clamp) false
    wordRan (rel s) f q

/-- An SPASS whose operand and starting values are there (R57 to R60, R45, R103), or that breaks off after so many issues. -/
def passRun (f q w : Nat) (u : SpinUnit) (p : PassShape) (sel : Nat) (lim : Option Nat) (s0 s : State) (cs : List Chunk) (used seq : Nat) :
    State :=
  let start := startVals s f w u p
  match lim with
  | some k => passBroken s f w u p 0 k cs start
  | none =>
    let n0 := physIdx s f q
    let (sums, nan) := passSums s f w p 0 none cs start
    let s := if nan then noteNan s f else s
    let s := if copies s f w then checkpoint s f u (spAcc w) p.m ((entries p.t p.m).zip start) else s
    let fac := tensorFac p.tv.head (spSty w) cs
    let own := sums.any (·.2)
    let rel (s : State) : State := if spSrc w = 2 then releaseItems s f (spSrcQ w) used else s
    match passRing s (ringIdx f q) w with
    | some z => reducePass f q w z u p sel s0 s seq start sums fac rel
    | none =>
      if retryMode s f ∧ p.isInt = false ∧ own then
        let s := s.setSpin f n0 { s.spin f n0 with retry := some ⟨1, 0, [], 0, seq, false, false, false⟩ }
        askRedo s f q w seq 1 sel
      else
        let (s, inf, clamp) := landPass s f w u p 0 fac (p.isInt && own) (sums.map (·.1))
        wordRan (rel (notePass s f ((!p.isInt && own) || inf) ((p.isInt && own) || clamp) false)) f q

/-- A pass samples its selector where it has not yet (R90). -/
def sampled (s : State) (f q : Nat) : State × Nat :=
  let s := startPass s f q
  let n := physIdx s f q
  (s, ((s.spin f n).sel).getD (selOf s f n))

/-- SPASS of word `w`. -/
def spassBody (f q : Nat) (lim : Option Nat) (s : State) (w : Nat) (u : SpinUnit) : SpinOut :=
  match passDecode s f w u with
  | .error c => .bad s c
  | .ok tv =>
    match passMode s f q w tv.head (if spTrans w then 1 else 0) with
    | .bad c => .bad s c
    | .seg z i => .seg s z i
    | .ok kr isInt =>
      let p := passShape tv w kr isInt
      let i := ringIdx f q
      let from_ := if spInit w = 2 then reduceRing s i else none
      let s := match from_ with | some z => landPort s z i 8 | none => s
      let landed : Bool := match from_ with
        | some z => !(s.rport z i).full.isEmpty
        | none => true
      if landed = false then .wait s
      else
        let (s, sel) := sampled s f q
        match operandOf s f q w (p.count (spTwo w)) kr with
        | .wait s => .wait s
        | .bad c => .bad s c
        | .seg z i => .seg s z i
        | .ok t cs used _ seq => .done (passRun f q w u p sel lim s t cs used seq)

/-- SPASS. -/
def execSpass (f : Fin 64) (q : Fin 9) (ecc : SpinEcc) (s : State) : Host.Outcome State Fault Refusal :=
  spinRowEcc s f q 0x11 ecc (spassBody f q)

/-! ## SWPASS (R62, R63, R101) -/

/-- The dY row that stream token `t` meets (R101). -/
def tokenRow (p : PassShape) (w u0 sel t : Nat) : Nat :=
  if spSrc w = 2 then t else ((u0 + t) % p.t + p.t - bits sel 47 32 % p.t) % p.t

/-- Sub-tiles of a weight pass. -/
def subTiles (p : PassShape) : Nat := (p.nch + p.sub - 1) / p.sub * p.nnb

/-- The cells of sub-tile `x` with retry number `n` (R62): element, sum, overflow or clamp; and whether a NaN came in. The block scales of a
streamed X are applied to its elements as in any pass: R26 restricts the stationary tile only (DESIGN CHOICE, assumption 63). -/
def subSums (s : State) (f w : Nat) (p : PassShape) (n u0 sel x : Nat) (cs : List Chunk) : List (Nat × Nat × W32 × Bool) × Bool :=
  let arr := cs.toArray
  let kb := x / p.nnb
  let nb := x % p.nnb
  let rows := p.kr * p.sub
  let ks := (List.range (min rows (p.c - kb * rows))).map (fun i => kb * rows + i)
  let ns := (List.range (min p.tv.u.cols (p.m - nb * p.tv.u.cols))).map (fun i => nb * p.tv.u.cols + i)
  let xs := ks.map (fun k => (k, (List.range p.t).map (fun t =>
    chunkVal (spEty w) (spSty w) (chunkAt arr (posWeight p.t p.nch p.sub p.nnb nb t (k / p.kr))) (k % p.kr))))
  let ys := ns.map (fun c => (c, (List.range p.t).map (fun t => tileVal s f p.tv (tokenRow p w u0 sel t) c)))
  (xs.flatMap (fun (k, xv) => ys.map (fun (c, yv) =>
      let (v, o) := sumChain p.isInt n false xv yv 0
      (k, c, v, o))),
   !p.isInt && (xs.any (fun x => x.2.any Val.isNan) || ys.any (fun y => y.2.any Val.isNan)))

/-- 2^(8n) as an FP32 word. -/
def scaleUp (n : Nat) : W32 := BitVec.ofNat 32 ((127 + 8 * n) * 2 ^ 23)

/-- Flush a sub-tile into the wide buffer (R35, R47, R63); the Bool says that finite values gave an infinity. -/
def flushSub (s : State) (f w : Nat) (p : PassShape) (n : Nat) (fac : Option W32) (l : List (Nat × Nat × W32 × Bool)) : State × Bool :=
  let m := p.tv.u.leader
  l.foldl (fun (s, inf) (k, c, v, _) =>
    let v := if p.isInt then intToF32 v else v
    let v1 := if n = 0 then v else f32mul v (scaleUp n)
    let up := f32special v1 && !f32special v
    let v2 := match fac with | some a => f32mul v1 a | none => v1
    let a := 8192 * swWbOfs w + k * p.m + c
    let old := if swWbInit w then Pair.init else sget Pair.init (s.spin f m).wb a
    let (r, o) := addPair old v2
    (s.setSpin f m { s.spin f m with wb := sput Pair.init (s.spin f m).wb a r }, inf || up || o)) (s, false)

/-- Sub-tiles from `x` on, from the original delivery (R46, R62): an overflow in RETRY mode stops at its sub-tile. -/
def weightGo (f q w : Nat) (p : PassShape) (r : RetrySt) (sel : Nat) (fac : Option W32) (s : State) (x fuel : Nat) : State × RetrySt × Bool :=
  match fuel with
  | 0 => (s, r, true)
  | k + 1 =>
    let (l, nan) := subSums s f w p 0 r.u0 sel x r.orig
    let s := if nan then noteNan s f else s
    let own := l.any (fun e => e.2.2.2)
    if own ∧ p.isInt = false ∧ retryMode s f then (s, { r with n := 1, sub := x }, false)
    else
      let (s, inf) := flushSub s f w p 0 fac l
      let r := if p.isInt then { r with sat := r.sat || own } else { r with inf := r.inf || own || inf }
      weightGo f q w p r sel fac s (x + 1) k

/-- A weight pass goes on at sub-tile `x` to its end, or to the next sub-tile that re-runs. The Bool says that it ended. -/
def weightRun (f q w : Nat) (p : PassShape) (r : RetrySt) (sel : Nat) (s : State) (x : Nat) : State × Bool :=
  let fac := tensorFac p.tv.head (spSty w) r.orig
  let n0 := physIdx s f q
  match weightGo f q w p r sel fac s x (subTiles p - x) with
  | (s, r, true) => (notePass s f r.inf r.sat r.exh, true)
  | (s, r, false) =>
    (askRedo (s.setSpin f n0 { s.spin f n0 with retry := some r }) f q w r.seq 1 sel, false)

/-- A weight pass that breaks off after `k` sub-tiles from `x` on (R56): their flushes stay. -/
def weightBroken (f q w : Nat) (p : PassShape) (r : RetrySt) (sel : Nat) (s : State) (x k : Nat) : State :=
  (weightGo f q w p r sel (tensorFac p.tv.head (spSty w) r.orig) s x (min k (subTiles p - x))).1

/-- Count a wide-buffer command that a frozen tile suppresses (R76). -/
def frozenSkip (s : State) (f : Nat) (u : SpinUnit) : State :=
  u.ms.foldl (fun s m => if frozenAt s f m then s.bump (Reg.FRM_SPDn_FROZENSKIP_COUNT f m) 1 else s) s

/-- A unit with a resident frozen tile. -/
def frozenUnit (s : State) (f : Nat) (u : SpinUnit) : Bool := u.ms.any (frozenAt s f)

/-- SWPASS of word `w`. -/
def swpassBody (f q : Nat) (lim : Option Nat) (s : State) (w : Nat) (u : SpinUnit) : SpinOut :=
  match tileAt s f u (wHandle w), typeCause (spEty w) (spSty w) with
  | none, _ => .bad s 3
  | _, some c => .bad s c
  | some tv, none =>
    if spSrc w = 3 ∨ 262144 < swKd w * tv.n ∨ 262144 < 8192 * swWbOfs w + swKd w * tv.n then .bad s 3
    else
      match passMode s f q w tv.head 0 with
      | .bad c => .bad s c
      | .seg z i => .seg s z i
      | .ok kr isInt =>
        let p := weightShape tv w kr isInt
        let (s, sel) := sampled s f q
        match operandOf s f q w (weightCount p) kr with
        | .wait s => .wait s
        | .bad c => .bad s c
        | .seg z i => .seg s z i
        | .ok t cs used u0 seq =>
          let rel (s : State) : State := if spSrc w = 2 then releaseItems s f (spSrcQ w) used else s
          if frozenUnit t f u then .done (wordRan (rel (frozenSkip t f u)) f q)
          else
            let r : RetrySt := ⟨0, 0, cs, u0, seq, false, false, false⟩
            match lim with
            | some k => .done (weightBroken f q w p r sel t 0 k)
            | none =>
              match weightRun f q w p r sel t 0 with
              | (t, true) => .done (wordRan (rel t) f q)
              | (t, false) => .done t

/-- SWPASS. -/
def execSwpass (f : Fin 64) (q : Fin 9) (ecc : SpinEcc) (s : State) : Host.Outcome State Fault Refusal :=
  spinRowEcc s f q 0x12 ecc (swpassBody f q)

/-! ## Drains and clears (R64, R67, R76) -/

/-- Hand an engine's output to Shuttle queue `j` (R177). -/
def toQueue (s : State) (f j : Nat) (l : List EElem) : State :=
  s.setSh f j { s.sh f j with fromEng := (s.sh f j).fromEng ++ l }

/-- Hand entries to the Brush. -/
def toBrush (s : State) (f : Nat) (l : List EElem) : State := { s with brushIn := sput [] s.brushIn f (sget [] s.brushIn f ++ l) }

/-- Hand rows to the Easel. -/
def toEasel (s : State) (f : Nat) (l : List (List EElem)) : State :=
  { s with easelIn := sput [] s.easelIn f (sget [] s.easelIn f ++ l) }

/-- The values that a block drains (R35), its tensor factor (R30) not yet applied. -/
def drainVals (s : State) (f : Nat) (u : SpinUnit) (base : Nat) (b : BlockRec) : List W32 :=
  if b.two then (pairsGet s f u base b.t b.m).map Pair.val else blockGet s f u base b.t b.m

/-- Set the first `k` entries of a block to zero. -/
def clearBlock (s : State) (f : Nat) (u : SpinUnit) (base : Nat) (b : BlockRec) (k : Nat) : State :=
  if b.two then pairsSet s f u base b.t b.m (List.replicate (min k (b.t * b.m)) Pair.init)
  else blockSet s f u base b.t b.m (List.replicate (min k (b.t * b.m)) 0)

/-- SDRAIN of word `w`, all of it or its first entries; CLEAR_AFTER clears the block for a new sum, with its SAT flag and retry count
(R33). -/
def sdrainBody (f q : Nat) (lim : Option Nat) (s : State) (w : Nat) (u : SpinUnit) : SpinOut :=
  match blockAt s f u (spAcc w) with
  | none => .bad s 3
  | some b =>
    if sdDest w = 3 then .bad s 3
    else
      let all : List EElem := (drainVals s f u (spAcc w) b).map (fun v => ⟨v, b.isInt, b.n, b.sat, b.fac⟩)
      let k := lim.getD all.length
      let es := all.take k
      let s := match sdDest w with
        | 0 => toBrush s f es
        | 1 => toEasel s f (piecesOf b.m es es.length)
        | _ => toQueue s f (sdDestQ w) es
      let s := if sdClear w then clearBlock s f u (spAcc w) b k else s
      match lim with
      | some _ => .done s
      | none => .done (wordRan (if sdClear w then setBlock s f u (spAcc w) { b with n := 0, sat := false } else s) f q)

/-- SDRAIN. -/
def execSdrain (f : Fin 64) (q : Fin 9) (ecc : SpinEcc) (s : State) : Host.Outcome State Fault Refusal :=
  spinRowEcc s f q 0x13 ecc (sdrainBody f q)

/-- Set wide-buffer pairs to (0, 0). -/
def clearWide (s : State) (f : Nat) (u : SpinUnit) (lo n : Nat) : State :=
  s.setSpin f u.leader { s.spin f u.leader with wb := sclear (s.spin f u.leader).wb lo n }

/-- SWDRAIN of word `w`, all of it or its first entries. -/
def swdrainBody (f q : Nat) (lim : Option Nat) (s : State) (w : Nat) (u : SpinUnit) : SpinOut :=
  let lo := 8192 * swWbOfs w
  if sdDest w = 1 ∨ sdDest w = 3 ∨ 262144 < lo + swEnt w then .bad s 3
  else if frozenUnit s f u then .done (wordRan (frozenSkip s f u) f q)
  else
    let k := min (swEnt w) (lim.getD (swEnt w))
    let es : List EElem := (sgetList Pair.init (s.spin f u.leader).wb lo k).map (fun p => .word p.val)
    let s := if sdDest w = 0 then toBrush s f es else toQueue s f (sdDestQ w) es
    let s := if sdClear w then clearWide s f u lo k else s
    match lim with
    | some _ => .done s
    | none => .done (wordRan s f q)

/-- SWDRAIN. -/
def execSwdrain (f : Fin 64) (q : Fin 9) (ecc : SpinEcc) (s : State) : Host.Outcome State Fault Refusal :=
  spinRowEcc s f q 0x14 ecc (swdrainBody f q)

/-- SWCLR of word `w`. -/
def swclrBody (f q : Nat) (s : State) (w : Nat) (u : SpinUnit) : SpinOut :=
  let lo := 8192 * swWbOfs w
  if 262144 < lo + swEnt w then .bad s 3
  else if frozenUnit s f u then .done (wordRan (frozenSkip s f u) f q)
  else .done (wordRan (clearWide s f u lo (swEnt w)) f q)

/-- SWCLR. -/
def execSwclr (f : Fin 64) (q : Fin 9) (s : State) : Host.Outcome State Fault Refusal :=
  spinRow s f q 0x15 (swclrBody f q)

/-! ## SGANG (R70, R71) -/

/-- Write the gang fields of the shape record of a slot. -/
def setGang (s : State) (f q size deep : Nat) (lead : Bool) : State :=
  let n := physIdx s f q
  ((s.put (Reg.FRM_SPDn_SHAPE_GANG_SIZE f n) size).put (Reg.FRM_SPDn_SHAPE_GANG_DEEP f n) deep).put
    (Reg.FRM_SPDn_SHAPE_GANG_LEADER f n) (b2n lead)

/-- A presented slot that belongs to no gang. -/
def freeSlot (s : State) (f q : Nat) : Bool :=
  match physOf s f q with
  | some n => s.get (Reg.FRM_SPDn_SHAPE_GANG_SIZE f n) = 0
  | none => false

/-- SGANG of word `w`. -/
def sgangBody (f q : Nat) (s : State) (w : Nat) (u : SpinUnit) : SpinOut :=
  let size := sgSize w
  if size = 3 then .bad s 3
  else if size = 0 then
    if wGang w = false then .bad s 5
    else if (s.queue f q).ran ≠ [] ∨ (s.spin f u.leader).open_ ≠ [] then .wait s
    else .done (wordRan ((List.range u.size).foldl (fun s i => setGang s f (q + i) 0 0 false) s) f q)
  else
    let p := 2 ^ size
    if wGang w ∨ q % p ≠ 0 ∨ !((List.range p).all (fun i => freeSlot s f (q + i))) then .bad s 5
    else .done (wordRan ((List.range p).foldl (fun s i => setGang s f (q + i) size (sgDeep w) (i = 0)) s) f q)

/-- SGANG. -/
def execSgang (f : Fin 64) (q : Fin 9) (s : State) : Host.Outcome State Fault Refusal :=
  spinRow s f q 0x16 (sgangBody f q)

/-! ## Completion (R66, R96) -/

/-- Words of a list that send a block on the ring. -/
def outWords (l : List Nat) : Nat := (l.filter (fun w => wOp w = 0x11 && spOut w = 1)).length

/-- The executed word has landed its last write, or its last beat has been accepted downstream: a drain, once what is left of it fits
its consumer's input. -/
def wordLanded (s : State) (f q w : Nat) : Bool :=
  if wOp w = 0x13 ∨ wOp w = 0x14 then
    match sdDest w with
    | 0 => (sget [] s.brushIn f).length ≤ Config.brushRoom
    | 1 => (sget [] s.easelIn f).flatten.length ≤ Config.easelRoom
    | _ => (s.sh f (sdDestQ w)).fromEng.length ≤ 16384
  else if wOp w = 0x11 ∧ spOut w = 1 ∧ retryMode s f = false then
    match reduceRing s (ringIdx f q) with
    | some z =>
      let left := (((s.rport z (ringIdx f q)).out.map (fun b => b.seq)).eraseDups).length
      left < outWords (s.queue f q).ran
    | none => true
  else true

/-- SPINDLE_CMD_COMPLETE. -/
def execSpindleCmdComplete (f : Fin 64) (q : Fin 9) (s : State) : Host.Outcome State Fault Refusal :=
  let x := s.queue f q
  onClock s f (
    match x.ran with
    | [] => .next s
    | w :: r => if wordLanded s f q w then finish (completeWord (s.setQueue f q { x with ran := r }) f q w) else .next s)

/-! ## Re-runs (R45, R46, R102, R103, R180) -/

/-- Read kept items again from memory, in order (R180). -/
def rereadItems (s : State) (f j : Nat) (l : List ItemSt) (acc : List SElem) : ShRes (List SElem) :=
  match l with
  | [] => .ok s acc
  | it :: r => (wholeItem s f j it.word it.rd true .ok ShEcc.none).next (fun s els => rereadItems s f j r (acc ++ els))

/-- The operand of a re-run: kept items read again, or a REDO run that the port holds. -/
def redoOperand (s : State) (f q w n kr : Nat) (items : List ItemSt) (skip seq k : Nat) : Except SpinOut (State × List Chunk × Nat) :=
  if spSrc w = 2 then
    let j := spSrcQ w
    match rereadItems s f j items [] with
    | .wait t => .error (.wait t)
    | .bad t c a => .error (.fault t j c a)
    | .ok t els =>
      let l := els.drop skip
      match takeChunks n l [] [] with
      | none => .error (.wait s)
      | some (cs, rest) => .ok (t, cs, l.length - rest.length)
  else
    match runOperand s f q w n kr (some (seq, k)) with
    | .wait s => .error (.wait s)
    | .bad c => .error (.bad s c)
    | .seg z i => .error (.seg s z i)
    | .ok t cs _ _ _ => .ok (t, cs, 0)

/-- The re-run of a pass of an ungrouped Spindle or a gang (R45). -/
def retryPass (f q w : Nat) (u : SpinUnit) (p : PassShape) (r : RetrySt) (lim : Option Nat) (s : State) : SpinOut :=
  let x := s.sh f (spSrcQ w)
  match redoOperand s f q w (p.count (spTwo w)) p.kr x.kept x.skip r.seq r.n with
  | .error o => o
  | .ok (s, cs, used) =>
    let n0 := physIdx s f q
    let s := noteRetry s f
    let start := startVals s f w u p
    match lim with
    | some k => .done (passBroken s f w u p r.n k cs start)
    | none =>
      let (sums, _) := passSums s f w p r.n none cs start
      let own := sums.any (·.2)
      if own ∧ r.n < 3 then
        let sel := ((s.spin f n0).sel).getD 0
        .done (askRedo (s.setSpin f n0 { s.spin f n0 with retry := some { r with n := r.n + 1 } }) f q w r.seq (r.n + 1) sel)
      else
        let (s, inf, clamp) := landPass s f w u p r.n (tensorFac p.tv.head (spSty w) cs) false (sums.map (·.1))
        let s := notePass s f (own || inf) clamp own
        .done (wordRan (if spSrc w = 2 then releaseItems s f (spSrcQ w) used else s) f q)

/-- The re-run of a sub-tile of a weight pass (R46). -/
def retryWeight (f q w : Nat) (p : PassShape) (r : RetrySt) (lim : Option Nat) (s : State) : SpinOut :=
  let x := s.sh f (spSrcQ w)
  match redoOperand s f q w (weightCount p) p.kr x.kept x.skip r.seq r.n with
  | .error o => o
  | .ok (s, cs, used) =>
    let n0 := physIdx s f q
    let sel := ((s.spin f n0).sel).getD 0
    let s := noteRetry s f
    let (l, _) := subSums s f w p r.n r.u0 sel r.sub cs
    let own := l.any (fun e => e.2.2.2)
    if lim = some 0 then .done s
    else if own ∧ r.n < 3 then
      .done (askRedo (s.setSpin f n0 { s.spin f n0 with retry := some { r with n := r.n + 1 } }) f q w r.seq (r.n + 1) sel)
    else
      let (s, inf) := flushSub s f w p r.n (tensorFac p.tv.head (spSty w) r.orig) l
      let s := s.setSpin f n0 { s.spin f n0 with retry := none }
      let r := { r with n := 0, inf := r.inf || own || inf, exh := r.exh || own }
      match lim with
      | some k => .done (weightBroken f q w p r sel s (r.sub + 1) (k - 1))
      | none =>
        match weightRun f q w p r sel s (r.sub + 1) with
        | (t, true) => .done (wordRan (if spSrc w = 2 then releaseItems t f (spSrcQ w) used else t) f q)
        | (t, false) => .done t

/-- Replace an open pass by block SEQ, or drop it. -/
def setOpen (s : State) (f n seq : Nat) (o : Option OpenPass) : State :=
  let x := s.spin f n
  s.setSpin f n { x with open_ := x.open_.flatMap (fun p => if p.seq = seq then o.toList else [p]) }

/-- The re-run of a block of a reduce segment (R103), with the tile as it was: the head from its checkpoint, another member from the
re-run beats. -/
def retryOpen (f q : Nat) (u : SpinUnit) (o : OpenPass) (n : Nat) (lim : Option Nat) (s : State) : SpinOut :=
  let i := ringIdx f q
  let n0 := physIdx s f q
  let tv := viewOf u o.tile
  match reduceRing s i, passMode s f q o.word tv.head (if spTrans o.word then 1 else 0) with
  | some z, .ok kr isInt =>
    let p := passShape tv o.word kr isInt
    let s := if spInit o.word = 2 then landPort s z i 8 else s
    let port := s.rport z i
    let ready : Bool := spInit o.word != 2 || port.reland.length == p.t * p.m
    if ready = false then .wait s
    else
      match redoOperand s f q o.word (p.count false) kr o.items o.skip o.run n with
      | .error e => e
      | .ok (s, cs, _) =>
        let start := if spInit o.word = 2 then port.reland else o.ckpt
        let inOvf : Bool := spInit o.word == 2 && port.reovf
        let s := noteRetry s f
        match lim with
        | some k => .done (if spOut o.word = 1 then s else passBroken s f o.word u p n k cs start)
        | none =>
          let s := if spInit o.word = 2 then s.setRport z i { s.rport z i with reland := [], reovf := false } else s
          let (sums, _) := passSums s f o.word p n none cs start
          let (s, kept) := reduceRun s f q o.word z u p o.seq n o.sel inOvf start sums (tensorFac tv.head (spSty o.word) cs)
          if kept then
            let x := s.queue f q
            .done ((setOpen s f n0 o.seq none).setQueue f q { x with ran := x.ran ++ [o.word] })
          else .done (setOpen s f n0 o.seq (some { o with n := n, due := none }))
  | _, _ => .wait s

/-- SCALE_RETRY: the re-run of the pass at the head of queue `q`, or of a block of a reduce segment that is due. -/
def execScaleRetry (f : Fin 64) (q : Fin 9) (ecc : SpinEcc) (s : State) : Host.Outcome State Fault Refusal :=
  onClock s f (
    match physOf s f q with
    | none => .next s
    | some n =>
      let u := unitAt s f q
      match (s.spin f n).retry, (s.queue f q).words with
      | some r, w :: _ =>
        match tileAt s f u (wHandle w) with
        | none => .next s
        | some tv =>
          match spinMode tv.head.ety tv.head.sty (spEty w) (spSty w) with
          | none => .next s
          | some (kr, isInt) =>
            finish (spinEccOut s f q w u ecc (fun k =>
              if wOp w = 0x12 then retryWeight f q w (weightShape tv w kr isInt) r k s
              else retryPass f q w u (passShape tv w kr isInt) r k s))
      | _, _ =>
        match (s.spin f n).open_.find? (fun o => o.due.isSome) with
        | some o => finish (spinEccOut s f q o.word u ecc (fun k => retryOpen f q u o (o.due.getD 1) k s))
        | none => .next s)

end Sys2Proof.Machine
end

