-- ==== Sys2Proof/Machine/Ring.lean ====
section
/-! DEFINITION. The Twist ring commands (R81 to R104, R180): beats, notices, landing of partials, re-sent runs, the hop
watchdog, and rings that go on over flex ports (R91, R281). -/
namespace Sys2Proof.Machine

/-! ## Flex hops (R91, R281) -/

/-- The Frame whose segment port `p` feeds on ring `z`. -/
def flexFrame (s : State) (z p : Nat) : Option Nat := (List.range 64).find? (fun f => flexIn s z f = some p)

/-- The index whose beats of ring `z` leave on port `p`. -/
def flexTail (s : State) (z p : Nat) : Option Nat := (List.range 512).find? (fun i => flexOut s z i = some p)

/-- The 8-byte unit of a beat's sideband (Table 4-2). DESIGN CHOICE (assumption 40): bit 40 is the ring. -/
def sideband (z : Nat) (b : Beat) : Nat :=
  b.kind % 4 + 2 ^ 2 * (b.sid % 256) + 2 ^ 10 * (b.part % 256) + 2 ^ 18 * (b.seq % 65536) + 2 ^ 34 * b2n b.redo
    + 2 ^ 35 * (b.n % 4) + 2 ^ 37 * b2n b.ovf + 2 ^ 40 * (z % 2)

/-- The 8-byte unit of a notice. DESIGN CHOICE (assumption 40): KIND 3, bits [42:41] name the notice, 3 a credit return. -/
def noticeUnit (z : Nat) (n : Notice) : Nat :=
  3 + 2 ^ 2 * (n.sid % 256) + 2 ^ 10 * (n.part % 256) + 2 ^ 18 * (n.seq % 65536) + 2 ^ 35 * (n.n % 4) + 2 ^ 40 * (z % 2)
    + 2 ^ 41 * (match n.kind with | .redoReq => 0 | .retry => 1 | .confirm => 2)

/-- A beat leaves the module on a flex port. -/
def flexSend (s : State) (z p : Nat) (b : Beat) : State :=
  let s := { s with flexUsed := sput 0 s.flexUsed (2 * p + z) (sget 0 s.flexUsed (2 * p + z) + 1) }
  putStream s p 0 (toLE 8 (sideband z b) ++ b.data)

/-- The far end of a flex hop holds 512 beats a ring. -/
def flexRoom (s : State) (z p : Nat) : Bool := sget 0 s.flexUsed (2 * p + z) < 512

/-- A beat that has come by a flex port and leaves the head stage returns its credit. -/
def flexCredit (s : State) (z i : Nat) : State :=
  match flexFed s z i with
  | some p => putStream s p 2 (toLE 8 (creditUnit z))
  | none => s

/-- A unit that has arrived on a flex port: a beat for the head stage, a notice for the tail, or a credit (R281). Beats for
a ring that no Frame takes from the port, and unknown units, are dropped. -/
def flexUnit (s : State) (p x : Nat) (data : List Byte) : State :=
  let z := bits x 40 40
  if bits x 1 0 = 3 then
    match bits x 42 41 with
    | 3 => { s with flexUsed := sput 0 s.flexUsed (2 * p + z) (sget 0 s.flexUsed (2 * p + z) - 1) }
    | k =>
      let kind : NoticeKind := if k = 0 then .redoReq else if k = 1 then .retry else .confirm
      match flexTail s z p with
      | some i => s.setNotice z i (s.notice z i ++ [⟨kind, bits x 9 2, bits x 17 10, bits x 33 18, bits x 36 35, s.now⟩])
      | none => s
  else
    match flexFrame s z p with
    | none => s
    | some f =>
      match flexHead s z f with
      | none => s
      | some i =>
        s.setStage z i (s.stage z i ++ [⟨bits x 1 0, bits x 9 2, bits x 17 10, bits x 33 18, bit x 34, bits x 36 35, bit x 37,
          data, s.now⟩])

/-! ## Moving beats -/

/-- A beat goes on from index `i`: to the next stage, out by a flex port, or nowhere at the tail; none without room. -/
def passOn (s : State) (z i : Nat) (b : Beat) : Option State :=
  if isTail s z i then
    match flexOut s z i with
    | some p => if flexRoom s z p then some (flexSend s z p b) else none
    | none => some s
  else
    let k := ringNext z i
    if (s.stage z k).length < stageDepth z k then some (s.setStage z k (s.stage z k ++ [{ b with t := s.now }])) else none

/-- The oldest beat of stage `i` is gone: its place is free for the injector. -/
def popStage (s : State) (z i : Nat) : State :=
  let s := flexCredit (s.setStage z i ((s.stage z i).drop 1)) z i
  injFill s z (idxFrame i) 1

/-- The oldest beat of a stage moves, where every destination has room (R83); none where it is held. -/
def moveBeat (s : State) (z i : Nat) (b : Beat) : Option State :=
  match (if b.kind = 1 then takePartialBeat s z i b else takeOperandBeat s z i b) with
  | .pass => (passOn s z i b).map (fun t => popStage t z i)
  | .hold => none
  | .error => some (segError s z i 3)
  | .also p => (passOn s z i b).map (fun t => popStage (t.setRport z i p) z i)
  | .only p => some (popStage (s.setRport z i p) z i)

/-- A partial beat of the slot's own port leaves (R96). -/
def sendOwn (s : State) (z i : Nat) : Option State :=
  let p := s.rport z i
  match p.out with
  | [] => none
  | b :: r => (passOn s z i b).map (fun t => t.setRport z i { t.rport z i with out := r })

/-- The oldest beat of stage `i` moves; where it is held, or there is none, the stage sends a partial beat of its slot's own. Of a through
beat and one of the slot's own the stage tries the through beat first (DESIGN CHOICE, assumption 65: R84 states no order between the
two). -/
def stageBeat (s : State) (z i : Nat) (ecc : Ecc) : State :=
  match s.stage z i with
  | [] => (sendOwn s z i).getD s
  | b :: _ =>
    match ecc with
    | .double => segError s z i 2
    | .header => segError s z i 2
    | _ =>
      let f := idxFrame i
      let s := if ecc = .single then
          s.logErr { sev := 0, unit := 2, cause := 1, index := 16 * f + rerrSlot s z i 1,
                     d0 := storedWord s (0x100D014 + 0x10000 * f), stamp := s.timeOf f }
        else s
      match moveBeat s z i b with
      | some t => t
      | none => (sendOwn s z i).getD s

/-- RING_BEAT: what the port of slot `i` buffers lands as far as it can, the stage moves a beat (R83, R96), and what the port then
buffers lands. -/
def execRingBeat (ring : Ring) (i : Fin 512) (ecc : Ecc) (s : State) : Host.Outcome State Fault Refusal :=
  let z := ringNo ring
  onClock s (idxFrame i) (finish (landPort (stageBeat (landPort s z i 8) z i ecc) z i 8))

/-! ## Notices (R85, R102, R103) -/

/-- Take the first notice of a kind out of a list. -/
def pickNotice (k : NoticeKind) (l : List Notice) : Option (Notice × List Notice) :=
  match l with
  | [] => none
  | x :: r => if x.kind = k then some (x, r) else (pickNotice k r).map (fun p => (p.1, x :: p.2))

/-- A notice moves one stage upstream; at the head it leaves by the flex port that feeds the segment, or ends. -/
def noticeOn (s : State) (z i : Nat) (n : Notice) : State :=
  if isHead s z i then
    match flexFed s z i with
    | some p => putStream s p 2 (toLE 8 (noticeUnit z n))
    | none => s
  else
    let k := ringPrev z i
    s.setNotice z k (s.notice z k ++ [{ n with t := s.now }])

/-- The heads in Frame `f` of the segments of ring `z` that have their operands from the Frame's injector or a flex port. -/
def fedHeads (s : State) (z f : Nat) : List Nat :=
  ((injector s z f).map (fun p => ringIdx f p.1)).toList ++ ((flexHead s z f).filter (fun i => (flexFed s z i).isSome)).toList

/-- The oldest REDO_REQ in the segment headed at `i`: where it is, what it asks and the notices left there. -/
def redoAt (s : State) (z i : Nat) : Option (Nat × Notice × List Notice) :=
  ((segment s z i).reverse).findSome? (fun m => (pickNotice .redoReq (s.notice z m)).map (fun p => (m, p)))

/-- A request that has reached the injector of Frame `f` (R102): it is queued, or merged into one for the same run and number; one
for a run that is no longer kept is a ring protocol violation (R180). -/
def redoAsked (s : State) (z f i : Nat) (n : Notice) : State :=
  let x := s.inj z f
  let r : RedoRec := ⟨n.sid, n.part, n.seq, n.n⟩
  if x.kept.any (fun k => k.sid = n.sid && k.part = n.part && k.seq = n.seq) then
    if x.redo.contains r then s else s.setInj z f { x with redo := x.redo ++ [r] }
  else segError s z i 3

/-- REDO_REQ: a request reaches a head in Frame `f` (R102). Where a flex port feeds the segment, it crosses to the peer module (R91);
else it has reached the injector. -/
def execRedoReq (ring : Ring) (f : Fin 64) (s : State) : Host.Outcome State Fault Refusal :=
  let z := ringNo ring
  onClock s f (
    match (fedHeads s z f).findSome? (fun i => (redoAt s z i).map (fun p => (i, p))) with
    | none => .next s
    | some (i, m, n, rest) =>
      let s := s.setNotice z m rest
      let h := segHead s z i
      if (flexFed s z h).isSome then finish (noticeOn s z h n) else finish (redoAsked s z f i n))

/-- REDO_RUN: after the run it is sending, the injector executes a kept run again with REDO set (R102, R180). -/
def execRedoRun (ring : Ring) (f : Fin 64) (s : State) : Host.Outcome State Fault Refusal :=
  let z := ringNo ring
  onClock s f (
    let x := s.inj z f
    match x.run, x.redo with
    | [], r :: rest =>
      match x.kept.find? (fun k => k.sid = r.sid && k.part = r.part && k.seq = r.seq) with
      | none =>
        match injector s z f with
        | some (sl, _) => finish (segError s z (ringIdx f sl) 3)
        | none => .next s
      | some k =>
        match itemRun s f k.j k.item.word k.item.rd r.seq true r.n .ok ShEcc.none with
        | .wait t => .next t
        | .bad t c a => finish (shFault t f k.j c a k.item.num)
        | .ok t bs => finish (injFill (t.setInj z f { t.inj z f with run := bs, redo := rest }) z f bs.length)
    | _, _ => .next s)

/-- A member that a RETRY passes re-runs the block (R103): its re-run is due, and its operand is asked for again. -/
def retryMember (s : State) (z i : Nat) (n : Notice) : State :=
  match portSlot s i with
  | none => s
  | some (f, q, k) =>
    match (s.spin f k).open_.find? (fun o => o.seq = n.seq && selSid o.sel z = n.sid && selPart o.sel z = n.part) with
    | none => s
    | some o =>
      let s := setOpen s f k o.seq (some { o with due := some n.n })
      let p := s.rport z i
      let s := s.setRport z i { p with reland := [], reovf := false }
      askRedo s f q o.word o.run n.n o.sel

/-- RETRY: the oldest RETRY notice at stage `i` acts on the member there and moves on. -/
def execRetry (ring : Ring) (i : Fin 512) (s : State) : Host.Outcome State Fault Refusal :=
  let z := ringNo ring
  onClock s (idxFrame i) (
    match pickNotice .retry (s.notice z i) with
    | none => .next s
    | some (n, r) => finish (noticeOn (retryMember (s.setNotice z i r) z i n) z i n))

/-- A block's passes are final (R103): the member's OUT = RING pass has executed. -/
def confirmMember (s : State) (z i : Nat) (n : Notice) : State :=
  match portSlot s i with
  | none => s
  | some (f, q, k) =>
    match (s.spin f k).open_.find? (fun o => o.seq = n.seq && selSid o.sel z = n.sid && selPart o.sel z = n.part) with
    | none => s
    | some o =>
      let x := s.queue f q
      (setOpen s f k o.seq none).setQueue f q { x with ran := x.ran ++ [o.word] }

/-- CONFIRM: the oldest CONFIRM notice at stage `i` acts on the member there and moves on. -/
def execConfirm (ring : Ring) (i : Fin 512) (s : State) : Host.Outcome State Fault Refusal :=
  let z := ringNo ring
  onClock s (idxFrame i) (
    match pickNotice .confirm (s.notice z i) with
    | none => .next s
    | some (n, r) => finish (noticeOn (confirmMember (s.setNotice z i r) z i n) z i n))

/-! ## The hop watchdog (R104) -/

/-- A flex port by which the segment of `i` goes on has its link in retry: the watchdog pauses (R104). -/
def flexRetry (s : State) (z i : Nat) : Bool := (segPorts s z i).any (fun p => s.on (Reg.LNK_PORTp_STAT_RETRY p))

/-- The watchdog's counts go on by `d` ticks later, at the stages of segments that go on by flex port `p`: its link was in retry for
that long. -/
def pauseHops (s : State) (p d : Nat) : State :=
  let on (k : Nat) : Bool := (segPorts s (k / 512) (k % 512)).contains p
  { s with
    stages := s.stages.map (fun e => if on e.1 then (e.1, e.2.map (fun b => { b with t := b.t + d })) else e),
    notices := s.notices.map (fun e => if on e.1 then (e.1, e.2.map (fun n => { n with t := n.t + d })) else e) }

/-- A stage has held its oldest beat or notice for 100 µs. -/
def hopHeld (s : State) (z i : Nat) : Bool :=
  (match s.stage z i with | b :: _ => decide (b.t + 100 * tickUs ≤ s.now) | [] => false) ||
  (match s.notice z i with | n :: _ => decide (n.t + 100 * tickUs ≤ s.now) | [] => false)

/-- A Glaze switch has found something in flight at a stage for 100 µs. -/
def glazeHeld (s : State) (z i : Nat) : Bool :=
  match s.glazeT with
  | some t => (!(s.stage z i).isEmpty || !(s.notice z i).isEmpty) && decide (t + 100 * tickUs ≤ s.now)
  | none => false

/-- The refusal of the Glaze switch under way, where one is. -/
def glazeFails (s : State) : State :=
  match s.glazeReq with
  | some (_, w) => refuseGlaze s w
  | none => s

/-- HOP_WATCHDOG: stage `i` has held a beat or a notice for 100 µs, or a Glaze switch has found one there for that long and
is refused (R104, R377). -/
def execHopWatchdog (ring : Ring) (i : Fin 512) (s : State) : Host.Outcome State Fault Refusal :=
  let z := ringNo ring
  if freqStopped s ∨ flexRetry s z i then .next s
  else if glazeHeld s z i then finish (glazeFails (segError s z i 4))
  else if hopHeld s z i then finish (segError s z i 4)
  else .next s

end Sys2Proof.Machine
end

