-- ==== Sys2Proof/Machine/Glaze.lean ====
section
/-! DEFINITION. Glazes (R316, R375 to R378): their entries, the checks of a load, and switches. -/
namespace Sys2Proof.Machine

/-- What one entry of a Glaze sets (Table 16-8). -/
inductive GlazeOp where
  | ring (f r v : Nat)
  | sel (f n v : Nat)
  | mgrp (g v : Nat)
  | phase (p mhz : Nat)
  deriving DecidableEq, Repr

/-! ## Entries (R376) -/

/-- The bits of a shadowed ring register that are fields (Table 4-5). -/
def ringMask (r : Nat) : Nat :=
  match r with
  | 0 => 0xFFFF
  | 1 => 0xFFFF
  | 2 => 0x7FF8
  | 3 => 0xF
  | _ => 0x3F3F

/-- A selector with `k` steps added to its parts (SELX). -/
def stepSel (v k ss zs : Nat) : Nat :=
  bits v 7 0 + 2 ^ 8 * ((bits v 15 8 + k * ss) % 256) + 2 ^ 16 * bits v 23 16 +
    2 ^ 24 * ((bits v 31 24 + k * zs) % 256) + 2 ^ 32 * bits v 47 32

/-- What an entry sets, with the SEL entry that precedes it; none where it holds a reserved value, goes beyond slot 8, or is a
SELX without a SEL. -/
def glazeEntry (last : Option (Nat × Nat × Nat)) (e : Nat) : Option (List GlazeOp) :=
  match bits e 3 0 with
  | 1 =>
    if bits e 31 13 = 0 ∧ bits e 12 10 ≤ 4 ∧ bits e 63 32 &&& ringMask (bits e 12 10) = bits e 63 32 then
      some [.ring (bits e 9 4) (bits e 12 10) (bits e 63 32)] else none
  | 2 => if bits e 15 14 = 0 ∧ bits e 13 10 ≤ 8 then some [.sel (bits e 9 4) (bits e 13 10) (bits e 63 16)] else none
  | 3 =>
    match last with
    | some (f, n, v) =>
      let c := bits e 6 4 + 1
      if bits e 63 23 = 0 ∧ n + c ≤ 8 then
        some ((List.range c).map (fun i => .sel f (n + (i + 1)) (stepSel v (i + 1) (bits e 14 7) (bits e 22 15))))
      else none
    | none => none
  | 4 =>
    if bits e 15 12 = 0 ∧ bits e 63 16 &&& 0xFFFF0003FFFF = bits e 63 16 then some [.mgrp (bits e 11 4) (bits e 63 16)] else none
  | 5 => if bits e 31 12 = 0 ∧ bits e 63 48 = 0 then some [.phase (bits e 11 4) (bits e 47 32)] else none
  | _ => none

/-- The SEL entry that a following SELX repeats. -/
def lastSel (last : Option (Nat × Nat × Nat)) (e : Nat) : Option (Nat × Nat × Nat) :=
  if bits e 3 0 = 2 then some (bits e 9 4, bits e 13 10, bits e 63 16) else last

/-- Everything a Glaze sets, in order; none where an entry is refused. -/
def glazeOps (last : Option (Nat × Nat × Nat)) (l : List Nat) : Option (List GlazeOp) :=
  match l with
  | [] => some []
  | e :: r =>
    match glazeEntry last e, glazeOps (lastSel last e) r with
    | some a, some b => some (a ++ b)
    | _, _ => none

/-- The values that Glaze `g` of the job sets. -/
def jobGlaze (s : State) (g : Nat) : List GlazeOp := (glazeOps none (s.job.glazes.getD g [])).getD []

/-! ## Writing a Glaze -/

/-- The fields of the shadowed registers of Frame `f`, by the register numbers of Table 16-8. -/
def ringFields (f r : Nat) : List Ref :=
  match r with
  | 0 => [Reg.FRM_RCUT_S_CUT f, Reg.FRM_RCUT_Z_CUT f]
  | 1 => [Reg.FRM_RMODE_S_RED f, Reg.FRM_RMODE_Z_RED f]
  | 2 => [Reg.FRM_RINJ_S_EN f, Reg.FRM_RINJ_S_SLOT f, Reg.FRM_RINJ_Z_Q f, Reg.FRM_RINJ_Z_EN f, Reg.FRM_RINJ_Z_SLOT f]
  | 3 => [Reg.FRM_RINJQ_S_Q f]
  | 4 => [Reg.FRM_RFLEX_S_PORT f, Reg.FRM_RFLEX_S_OUT_EN f, Reg.FRM_RFLEX_S_IN_EN f, Reg.FRM_RFLEX_Z_PORT f,
      Reg.FRM_RFLEX_Z_OUT_EN f, Reg.FRM_RFLEX_Z_IN_EN f]
  | _ => []

def selFields (f n : Nat) : List Ref :=
  [Reg.FRM_RPn_SEL_S_SID f n, Reg.FRM_RPn_SEL_S_PART f n, Reg.FRM_RPn_SEL_Z_SID f n, Reg.FRM_RPn_SEL_Z_PART f n,
    Reg.FRM_RPn_SEL_SKEW f n]

def mgrpFields (g : Nat) : List Ref :=
  [Reg.LNK_MGRPg_PORTS g, Reg.LNK_MGRPg_LOCAL g, Reg.LNK_MGRPg_ROOT g, Reg.LNK_MGRPg_NMEM g]

/-- Write the listed fields of one register from its value. -/
def putFields (s : State) (l : List Ref) (v : Nat) : State := l.foldl (fun s r => s.put r (v / 2 ^ (r.key % 64))) s

/-- The shadows of every Frame: the base (reset values) and the entries over it. -/
def glazeShadows (s : State) (ops : List GlazeOp) : State :=
  let base := { s with regs := (List.range 64).foldl (fun r f => sclear r (64 * (0x100D000 + 0x10000 * f)) (64 * 0x14)) s.regs }
  ops.foldl (fun s o => match o with
    | .ring f r v => putFields s (ringFields f r) v
    | _ => s) base

/-- The selectors, the multicast entries and TABLE_MHZ: the base and the entries over it. -/
def glazeRest (s : State) (ops : List GlazeOp) : State :=
  let r := (List.range 64).foldl (fun r f => sclear r (64 * (0x100D100 + 0x10000 * f)) (64 * 0x48)) s.regs
  let base := { s with regs := sclear r (64 * 0x602000) (64 * 0x800) }
  let base := (List.range 256).foldl (fun s p => s.put (Reg.PWR_PHASEp_TABLE_MHZ p) 0) base
  ops.foldl (fun s o => match o with
    | .ring _ _ _ => s
    | .sel f n v => putFields s (selFields f n) v
    | .mgrp g v => putFields s (mgrpFields g) v
    | .phase p m => s.put (Reg.PWR_PHASEp_TABLE_MHZ p) m) base

/-- The field is shadowed: of FRM_RCUT, FRM_RMODE, FRM_RINJ, FRM_RINJQ or FRM_RFLEX of some Frame. -/
def shadowKey (k : Nat) : Bool :=
  0x1000000 ≤ k / 64 && k / 64 < 0x1400000 && 0xD000 ≤ (k / 64) % 0x10000 && (k / 64) % 0x10000 < 0xD014

/-- Every Frame takes its shadows, and the SEQ counts restart (R90, R95, R179, R316). -/
def takeShadows (s : State) : State :=
  { s with
    force := s.regs.filter (fun e => shadowKey e.1),
    rports := smap RingPort.empty (fun p => { p with inSeq := 0, outSeq := 0, past := none }) s.rports,
    injs := smap InjSt.empty (fun x => { x with kept := [], seqs := [], redo := [] }) s.injs }

/-- Glaze `g` comes into force at once. -/
def applyGlaze (s : State) (g : Nat) : State :=
  let ops := jobGlaze s g
  (glazeRest (takeShadows (glazeShadows s ops)) ops).put Reg.STU_GLAZE_CURRENT g

/-! ## The checks of a load (R376) -/

/-- Every ring has a cut, and the slots of one segment agree on the mode (R87). -/
def ringsOk (s : State) : Bool :=
  [0, 1].all (fun z =>
    (List.range 512).any (fun i => cutAfter s z i) &&
    (List.range 512).all (fun i => cutAfter s z i || isReduce s z i == isReduce s z (ringNext z i)))

/-- Flex hops leave at a tail of a Frame at x = 7 and enter at a head, on ports 13 to 15 (R91). -/
def flexOk (s : State) : Bool :=
  [0, 1].all (fun z => (List.range 64).all (fun f =>
    let out : Bool := inForce s (if z = 0 then Reg.FRM_RFLEX_S_OUT_EN f else Reg.FRM_RFLEX_Z_OUT_EN f) = 1
    let port := inForce s (if z = 0 then Reg.FRM_RFLEX_S_PORT f else Reg.FRM_RFLEX_Z_PORT f)
    let i := ringIdx f (if z = 0 then 7 else 0)
    (!out || (f % 8 = 7 && 13 ≤ port && isTail s z i)) &&
    (match flexIn s z f with
      | some p => 13 ≤ p && (flexHead s z f).isSome
      | none => true)))

/-- No two ports of a forwarding mask lead to the same module, by their roles (R282, as far as one module's masks show it: those of other
modules are in their Skeins). -/
def mcastOk (s : State) : Bool :=
  (List.range 256).all (fun g =>
    let ms := ((List.range 16).filter (fun p => bit (s.get (Reg.LNK_MGRPg_PORTS g)) p)).filterMap (rolePeer s)
    ms.eraseDups = ms)

/-- A Glaze may be part of a job: its entries hold nothing reserved, and over the base it breaks none of R87, R91, R282. -/
def glazeOk (s : State) (l : List Nat) : Bool :=
  match glazeOps none l with
  | none => false
  | some ops =>
    let t := glazeRest (takeShadows (glazeShadows s ops)) ops
    ringsOk t && flexOk t && mcastOk t

/-! ## Switches (R377) -/

/-- REQ_KNOT, ACK_KNOT and k start afresh (R378). -/
def restartGlazes (s : State) : State :=
  let s := (s.put (Reg.FRM_KNOTk_VALUE (s.job.reqK / 256) (s.job.reqK % 256)) 0).put
    (Reg.FRM_KNOTk_VALUE (s.job.ackK / 256) (s.job.ackK % 256)) 0
  { s.put Reg.STU_GLAZE_COUNT 0 with job := { s.job with nextG := 1 } }

/-- The request word at REQ_ADDR. -/
def requestWord (s : State) : Nat := ofLE (fmBytes s (s.job.reqK / 256) s.job.reqA 8)

/-- GLAZE_REQUEST: REQ_KNOT has reached k; the Studio reads the word and writes the shadows, or refuses the switch. `ecc` is what the check
of the word finds (R133): a switch whose word cannot be read is refused. The read waits while the Frame has no clock (R226). -/
def execGlazeRequest (ecc : Ecc) (s : State) : Host.Outcome State Fault Refusal :=
  let j := s.job
  if j.loaded = false ∨ j.nextG = 0 ∨ s.glazeReq.isSome ∨ stepState s = 0 ∨ 4 ≤ stepState s ∨
      s.knot (j.reqK / 256) (j.reqK % 256) < j.nextG ∨ freqStopped s then .next s
  else
    let w := requestWord s
    let (s, lost) := frameCheck s (frameBase + 0x1000000 * (j.reqK / 256) + j.reqA) ecc
    if lost ∨ bits w 63 32 ≠ j.nextG ∨ bits w 31 5 ≠ 0 ∨ j.glazes.length ≤ bits w 4 0 then finish (refuseGlaze s w)
    else
      let s := glazeShadows s (jobGlaze s (bits w 4 0))
      finish { s.put Reg.STU_GLAZE_BUSY 1 with glazeReq := some (bits w 4 0, w), glazeT := some s.now }

/-- Every stage of both rings is empty. -/
def ringsEmpty (s : State) : Bool := s.stages.all (fun e => e.2.isEmpty) && s.notices.all (fun e => e.2.isEmpty)

/-- A flex hop of the shadows whose link is down: ring and Frame. -/
def flexDown (s : State) : Option (Nat × Nat) :=
  ((List.range 128).map (fun k => (k / 64, k % 64))).find? (fun (z, f) =>
    let used : Bool := s.on (if z = 0 then Reg.FRM_RFLEX_S_OUT_EN f else Reg.FRM_RFLEX_Z_OUT_EN f) ||
      s.on (if z = 0 then Reg.FRM_RFLEX_S_IN_EN f else Reg.FRM_RFLEX_Z_IN_EN f)
    used && !portUp s (s.get (if z = 0 then Reg.FRM_RFLEX_S_PORT f else Reg.FRM_RFLEX_Z_PORT f)))

/-- The rings are empty and the Glaze comes into force (R377). -/
def switchGlaze (s : State) (g : Nat) : State :=
  let ops := jobGlaze s g
  let s := glazeRest (takeShadows s) ops
  let s := (s.put Reg.STU_GLAZE_CURRENT g).put Reg.STU_GLAZE_BUSY 0
  let s := s.put Reg.STU_GLAZE_COUNT (s.get Reg.STU_GLAZE_COUNT + 1)
  knotAddG { s with glazeReq := none, glazeT := none, switches := s.switches + 1,
                    job := { s.job with nextG := s.job.nextG + 1 } } s.job.ackK 1

/-- GLAZE_SWITCH: every Frame has reported both rings empty. A flex hop whose link is down makes the switch fail with a
segment error (R91), whose cause number the spec does not give (assumption 47). -/
def execGlazeSwitch (s : State) : Host.Outcome State Fault Refusal :=
  match s.glazeReq with
  | none => .next s
  | some (g, w) =>
    if ringsEmpty s = false ∨ freqStopped s then .next s
    else
      match flexDown s with
      | some (z, f) => finish (refuseGlaze (segErrorAs s z (ringIdx f (if z = 0 then 7 else 0)) 4 Config.flexDownCause) w)
      | none => finish (switchGlaze s g)

end Sys2Proof.Machine
end

