-- ==== Sys2Proof/Machine/StepProto.lean ====
section
/-! DEFINITION. The step protocol (R297, R301 to R307): a module's step states (Table 12-4), the root's decisions, the end of
a job. -/
namespace Sys2Proof.Machine

/-! ## Step Knots and times -/

/-- The value of step Knot `i` (R301). -/
def stepCount (s : State) (i : Nat) : Nat := s.knot (stepKnot s i / 256) (stepKnot s i % 256)

/-- Write step Knot `i`. -/
def setStepCount (s : State) (i v : Nat) : State :=
  s.put (Reg.FRM_KNOTk_VALUE (stepKnot s i / 256) (stepKnot s i % 256)) v

/-- PLY_STEPCFG.DEADLINE in ticks; a value outside the bounds reads as the nearer one (R309). -/
def deadlineTicks (s : State) : Nat := min 600000000 (max 1000 (s.get Reg.PLY_STEPCFG_DEADLINE)) * tickUs

/-- The step's deadline, counted from the entry into RUN. -/
def deadlineAt (s : State) : Nat := s.stepSt.runT + deadlineTicks s

/-! ## The end of a job (R302, R349) -/

/-- Halt every core of the job. -/
def haltJob (s : State) : State := (jobTasks s).foldl haltCores s

/-- The way assignment that a job's header replaced is in force again (R189: it holds for the job). -/
def restoreWays (s : State) (l : List Nat) : State := l.zipIdx.foldl (fun s e => writeWays s e.2 e.1) s

/-- The job ends on this module with the JOB_POST's status; unless it is OK, every task is aborted. -/
def endJob (s : State) (status detail : Nat) : State :=
  let s := if status = 0 then haltJob s else abortJob s
  let s := { s.put Reg.PLY_STEP_STATE 6 with glazeReq := none, glazeT := none }
  restoreWays (completeJob (s.put Reg.STU_GLAZE_BUSY 0) status detail) s.job.ways

/-- The record of a job's end without success (Table 17-4, cause 7). -/
def logJobEnd (s : State) : State :=
  s.logErr { sev := 2, unit := 0, cause := 7, d0 := s.job.last, stamp := s.timeOf 71 }

/-- The job ends with JOBFAIL and the last committed step (R302 to R304). -/
def failJob (s : State) : State := endJob (logJobEnd s) 6 s.job.last

/-! ## RUN -/

/-- Owners of an empty extent have no line to wait for: DONEK gets its 1 when the step begins (R289, R294). -/
def emptyOwners (s : State) : State :=
  s.shards.foldl (fun s sh =>
    match rankOf sh s.myId with
    | some (_, 0) => knotAddG s sh.donek 1
    | _ => s) s

/-- Enter RUN: the deadlines restart (R305), no decision is taken, the rounding registers are seeded (R41). -/
def enterRun (s : State) : State :=
  emptyOwners { s.put Reg.PLY_STEP_STATE 1 with
    stepSt := { s.stepSt with runT := s.now, decided := false, crepT := none },
    lfsr := [], lfsrKey := (s.job.seed, s.get Reg.PLY_STEP_STEP) }

/-- The step begins: a failure detected after the arrival of the one before is charged to it (R302). -/
def beginStep (s : State) : State :=
  let s := enterRun s
  if s.stepSt.owed then stepFail { s with stepSt := { s.stepSt with owed := false } } else s

/-- STEP_ARRIVE: AK has reached PLY_ATHR, and the root is told (Table 12-4). -/
def execStepArrive (s : State) : Host.Outcome State Fault Refusal :=
  if stepState s = 1 ∧ s.get Reg.PLY_ATHR_COUNT ≤ stepCount s 0 then
    finish (signal (s.put Reg.PLY_STEP_STATE 2) (rootId s) 2)
  else .next s

/-- The units that withhold credits (R295). -/
def withholding (s : State) : List Nat :=
  ((s.withheld.filterMap (fun w => (shardOf s (accShard w.record)).map (fun sh => unitOf sh (accOfs w.record / 32)))).eraseDups)

/-- STEP_DEADLINE: the deadline passes in RUN (Table 12-4, R295, R302). -/
def execStepDeadline (s : State) : Host.Outcome State Fault Refusal :=
  if stepState s = 1 ∧ deadlineAt s ≤ s.now then
    let s := (withholding s).foldl (fun s m =>
      let s := s.put Reg.PLY_STAT_RSFULL 1
      s.logErr { sev := 2, unit := 10, cause := 3, index := m, d0 := storedWord s 0x700018, stamp := s.timeOf 71 }) s
    let s := s.put Reg.PLY_STAT_LATE 1
    finish (s.stepErr { sev := 2, unit := 10, cause := 5, index := 8, d0 := storedWord s 0x700018, stamp := s.timeOf 71 })
  else .next s

/-! ## Commit -/

/-- Latch the statistics of the step that commits, and make those of the step after it current (R297). -/
def latchStats (s : State) : State :=
  let s := (List.range 16).foldl (fun s k =>
    let x := s.stat k 0
    (((s.put (Reg.PLY_STk_S1_VALUE k) (f64code x.s1)).put (Reg.PLY_STk_S2_VALUE k) (f64code x.s2)).put
      (Reg.PLY_STk_PN_COUNT k) x.pn).put (Reg.PLY_STk_LN_COUNT k) x.ln) s
  let odd {α : Type} (m : Sparse α) : Sparse α := (m.filter (fun e => e.1 % 2 = 1)).map (fun e => (e.1 - 1, e.2))
  { s with stats := odd s.stats, lineDone := odd s.lineDone }

/-- Pieces of the committed step's successor that were held early are handled now. -/
def drainAll (s : State) : State :=
  let lines := ((s.held.map (fun p => (p.shard, p.line))).eraseDups)
  let s := lines.foldl (fun s (id, line) =>
    match shardOf s id with
    | none => s
    | some sh =>
      let l := s.held.filter (fun x => x.shard = id ∧ x.line = line)
      let s := { s with held := s.held.filter (fun x => ¬(x.shard = id ∧ x.line = line)) }
      (l.mergeSort (fun a b => a.rank ≤ b.rank)).foldl (fun s p =>
        match takePiece s sh p with
        | .done s' => s'
        | .noSlot => { s with held := s.held ++ [p] }) s) s
  accRetry s (s.withheld.length + 1)

/-- GO gets 1 (Table 12-4), unless a snapshot that the next step would overwrite is still being delivered (R321). -/
def addGo (s : State) (wait : Bool) : State :=
  if wait then { s with stepSt := { s.stepSt with goHeld := true } } else knotAddG s (stepKnot s 1) 1

/-- The commit of the current step (Table 12-4, R378). `wait` says that GO is held back. -/
def commitStep (s : State) (wait : Bool) : State :=
  let n := s.get Reg.PLY_STEP_STEP
  let s := latchStats s
  let s := (s.put Reg.PLY_STEP_STEP (n + 1)).put Reg.PLY_STEP_ATTEMPT 0
  let s := restartGlazes (setStepCount s 0 0)
  let s := { s with commits := s.commits + 1,
                    job := { s.job with last := n, startG := s.get Reg.STU_GLAZE_CURRENT } }
  let s := addGo s wait
  if n = (s.job.first + s.job.nstep - 1) % 4294967296 then endJob s 0 n else drainAll (beginStep s)

/-- A snapshot of a version older than the one now committed is still being delivered. -/
def snapshotBlocks (s : State) : Bool :=
  match s.snap with
  | some x => x.version ≠ (s.get Reg.PLY_STEP_STEP + 1) % 4294967296
  | none => false

/-- COMMIT: CCOM has increased; an arrived module commits. -/
def execCommit (s : State) : Host.Outcome State Fault Refusal :=
  let v := stepCount s 5
  if v ≤ s.stepSt.ccom ∨ s.job.loaded = false then .next s
  else
    let t := { s with stepSt := { s.stepSt with ccom := s.stepSt.ccom + 1 } }
    if stepState t = 2 then finish (commitStep t (snapshotBlocks t)) else .next t

/-! ## Replay (R306, R307) -/

/-- Clear every wide buffer and accumulator file (R64). -/
def clearSpindles (s : State) : State :=
  { s with spins := smap SpinSt.empty (fun x => { x with acc := [], wb := [], blocks := [] }) s.spins }

/-- Enter QUIESCE: the clearing of R306. -/
def enterQuiesce (s : State) : State :=
  let a := s.get Reg.PLY_STEP_ATTEMPT
  let s := (s.put Reg.PLY_STEP_STATE 4).bump Reg.PLY_REPLAYCNT_COUNT 1
  let s := abortJob (s.logErr { sev := 2, unit := 0, cause := 6, d0 := a, stamp := s.timeOf 71 })
  let s := clearSpindles s
  let s := setStepCount { s with held := [], stats := [], lineDone := [], verRec := [] } 0 0
  accRetry s (s.withheld.length + 1)

/-- REPLAY: CREP has increased (Table 12-4). -/
def execReplay (s : State) : Host.Outcome State Fault Refusal :=
  let v := stepCount s 6
  if v ≤ s.stepSt.crep ∨ s.job.loaded = false then .next s
  else
    let t := { s with stepSt := { s.stepSt with crep := s.stepSt.crep + 1 } }
    if stepState t = 0 ∨ 4 ≤ stepState t then .next t
    else if t.get Reg.PLY_STEP_ATTEMPT < t.get Reg.PLY_STEPCFG_MAXREPLAY then finish (enterQuiesce t)
    else finish (failJob (t.put Reg.PLY_STAT_JOBFAIL 1))

/-- QUIESCE_DONE: the aborts have ended and no Glaze switch is under way; the step's starting Glaze is applied (R378), and
the root is told. -/
def execQuiesceDone (s : State) : Host.Outcome State Fault Refusal :=
  if stepState s = 4 ∧ s.aborts.isEmpty ∧ s.glazeReq.isNone then
    let s := restartGlazes (applyGlaze s s.job.startG)
    let s := { s.put Reg.PLY_STEP_STATE 5 with stepSt := { s.stepSt with heldT := s.now } }
    finish (signal s (rootId s) 4)
  else .next s

/-- A core in the state that the Studio gives it at a load or resume (R237): g1 to g31 and the local data SRAM zero, the
instruction cache invalid; it starts at its CORE_ENTRY where it has a task. -/
def loadCore (s : State) (f c : Nat) : State :=
  let x := s.core f c
  let s := s.setCore f c { CoreSt.empty with sb := x.sb, entry := x.entry }
  (s.put (Reg.FRM_COREc_PC_PC f c) x.entry).put (Reg.FRM_COREc_STATE_STATE f c) (if s.cTask f c = 0 then 0 else 1)

/-- Every core of a task starts at its CORE_ENTRY. -/
def startCores (s : State) : State :=
  (List.range 256).foldl (fun s k => if s.cTask (k / 4) (k % 4) = 0 then s else loadCore s (k / 4) (k % 4)) s

/-- Every count of a queue that a task owns is 0 (R138). -/
def zeroQueues (s : State) : State :=
  (List.range 1728).foldl (fun s k =>
    if s.qTask (k / 27) (k % 27) = 0 then s
    else ((s.setQueue (k / 27) (k % 27) QueueSt.empty).put (Reg.FRM_Qq_ISSUED_COUNT (k / 27) (k % 27)) 0).put
      (Reg.FRM_Qq_DONE_COUNT (k / 27) (k % 27)) 0) s

/-- RESUME: CRES has increased; a held module runs the next attempt (R306). -/
def execResume (s : State) : Host.Outcome State Fault Refusal :=
  let v := stepCount s 7
  if v ≤ s.stepSt.cres ∨ s.job.loaded = false then .next s
  else
    let t := { s with stepSt := { s.stepSt with cres := s.stepSt.cres + 1 } }
    if stepState t = 5 then
      let t := t.put Reg.PLY_STEP_ATTEMPT (t.get Reg.PLY_STEP_ATTEMPT + 1)
      let t := { t with held := [], stats := [], lineDone := [] }
      finish (accRetry (enterRun (startCores (zeroQueues t))) (t.withheld.length + 1))
    else .next t

/-! ## The root (R303, R304) -/

/-- This module is the root of a job that runs. -/
def isRoot (s : State) : Bool := s.job.loaded && rootId s = s.myId && 1 ≤ stepState s && stepState s ≤ 5

/-- The module ids of the job, ascending. -/
def jobModules (s : State) : List Nat := s.job.ranks.mergeSort (fun a b => decide (a ≤ b))

/-- Add 1 to step Knot `i` of every module of the job, in ascending module id. -/
def signalAll (s : State) (i : Nat) : State := (jobModules s).foldl (fun s m => signal s m i) s

/-- ROOT_COMMIT: every module has arrived. -/
def execRootCommit (s : State) : Host.Outcome State Fault Refusal :=
  if isRoot s ∧ s.stepSt.decided = false ∧ s.job.nmod ≤ stepCount s 2 then
    let s := setStepCount { s with stepSt := { s.stepSt with decided := true } } 2 0
    finish (signalAll s 5)
  else .next s

/-- ROOT_REPLAY: a failure has been declared, or 1 ms has passed after the root's deadline without every arrival. -/
def execRootReplay (s : State) : Host.Outcome State Fault Refusal :=
  if isRoot s ∧ s.stepSt.decided = false ∧ stepState s ≤ 3 ∧ stepCount s 2 < s.job.nmod ∧
      (stepCount s 3 ≠ 0 ∨ deadlineAt s + tickMs ≤ s.now) then
    finish (signalAll { s with stepSt := { s.stepSt with decided := true, crepT := some s.now } } 6)
  else .next s

/-- ROOT_RESUME: every module is quiet. -/
def execRootResume (s : State) : Host.Outcome State Fault Refusal :=
  if isRoot s ∧ s.stepSt.crepT.isSome ∧ s.job.nmod ≤ stepCount s 4 then
    let s := setStepCount (setStepCount (setStepCount s 2 0) 3 0) 4 0
    finish (signalAll { s with stepSt := { s.stepSt with crepT := none } } 7)
  else .next s

/-- The root is lost: the job ends (the last rows of Table 12-4). -/
def loseRoot (s : State) : State :=
  let s := s.put Reg.PLY_STAT_ROOTLOST 1
  failJob (s.logErr { sev := 2, unit := 10, cause := 6, index := 8, d0 := storedWord s 0x700018, stamp := s.timeOf 71 })

/-- RDONE_TIMEOUT: RDONE is incomplete 100 ms after the CREP, and the root ends the job by the last row of Table 12-4. -/
def execRdoneTimeout (s : State) : Host.Outcome State Fault Refusal :=
  match s.stepSt.crepT with
  | some t =>
    if isRoot s ∧ stepCount s 4 < s.job.nmod ∧ t + 100 * tickMs ≤ s.now then finish (loseRoot s)
    else .next s
  | none => .next s

/-- The bound of R304 has passed. -/
def rootSilent (s : State) : Bool :=
  match stepState s with
  | 2 => decide (deadlineAt s + 100 * tickMs ≤ s.now)
  | 3 => decide (deadlineAt s + 100 * tickMs ≤ s.now)
  | 5 => decide (s.stepSt.heldT + 200 * tickMs ≤ s.now)
  | _ => false

/-- No signal of the root's is on its way to being acted on. -/
def rootQuiet (s : State) : Bool :=
  stepCount s 5 ≤ s.stepSt.ccom && stepCount s 6 ≤ s.stepSt.crep && stepCount s 7 ≤ s.stepSt.cres

/-- ROOTLOST: a module has waited for the root for longer than R304 allows, and ends the job. -/
def execRootlost (s : State) : Host.Outcome State Fault Refusal :=
  if s.job.loaded ∧ rootSilent s ∧ rootQuiet s then finish (loseRoot s) else .next s

end Sys2Proof.Machine
end

