-- ==== Sys2Proof/Machine/Skein.lean ====
section
/-! DEFINITION. Loading a Skein (R255 to R261): the checks and effects of the steps of R259. -/
namespace Sys2Proof.Machine

/-- What the loader is given: the image and the fields of the job post (R349). -/
structure LoadArg where
  img   : List Byte
  nmod  : Nat
  ranks : List Nat
  rank  : Nat
  vals  : List Nat
  grant : Nat × Nat
  host  : Nat
  deriving DecidableEq, Repr

def LoadArg.u (a : LoadArg) (o n : Nat) : Nat := leAt a.img o n

/-- `n` bytes of the image from offset `o` are zero. -/
def LoadArg.zero (a : LoadArg) (o n : Nat) : Bool := ((a.img.drop o).take n).all (fun b => b = 0)

/-! ## Step 1: the header (Table 10-8) -/

def skTask (a : LoadArg) : Nat := a.u 0x1D 1
def skNseg (a : LoadArg) : Nat := a.u 0x1E 1
def skNglaze (a : LoadArg) : Nat := a.u 0x1F 1
def skPal (a : LoadArg) : Nat := a.u 0x20 4
def skSeg (a : LoadArg) : Nat := a.u 0x24 4
def skFrame (a : LoadArg) : Nat := a.u 0x28 4
def skPatch (a : LoadArg) : Nat := a.u 0x2C 4
def skNpatch (a : LoadArg) : Nat := a.u 0x30 4
def skToken (a : LoadArg) : Nat := a.u 0x34 4
def skShard (a : LoadArg) : Nat := a.u 0x38 4
def skNshard (a : LoadArg) : Nat := a.u 0x3C 4
def skGlaze (a : LoadArg) : Nat := a.u 0x40 4
def skSeed (a : LoadArg) : Nat := a.u 0x18 4

/-- A table of `n` bytes at `o` lies inside the image, at a multiple of 16 (R255). -/
def tableOk (a : LoadArg) (o n : Nat) : Bool := o % 16 = 0 && o + n ≤ a.img.length

def headerOk (a : LoadArg) : Bool :=
  128 ≤ a.img.length && a.u 0 4 = 0x324E4B53 && a.u 4 2 = 1 && a.u 6 1 = 2 && a.zero 7 1 && a.u 8 8 = a.img.length &&
    a.zero 0x44 0x3C && a.u 0x1C 1 ≤ 2 && 1 ≤ skTask a && skTask a ≤ 15 && 1 ≤ skNseg a && skNseg a ≤ 16 &&
    1 ≤ skNglaze a && skNglaze a ≤ 32 && tableOk a (skPal a) (if skPal a = 0 then 0 else 256) &&
    tableOk a (skSeg a) (32 * skNseg a) && tableOk a (skFrame a) 20480 && tableOk a (skPatch a) (16 * skNpatch a) &&
    tableOk a (skToken a) 256 && tableOk a (skShard a) (128 * skNshard a) &&
    tableOk a (skGlaze a) (16 + 8 * skNglaze a)

/-! ## Step 2: the shape digest (R261) -/

/-- The module's shape digest. -/
def shapeDigest (s : State) : Nat := ofLE ((sha384 (setAt s.shape 4 0)).take 8)

/-! ## Step 3: the way table (R189) -/

/-- Every way of a slice that leaves the cache role is cleaned and takes its new role at once. -/
def settleWays (s : State) (sl : Nat) : State :=
  (List.range 16).foldl (fun s w => if bit (sget 0 s.leaving sl) w then endRole s sl w else s) s

/-- The assignment of every slice. -/
def waysNow (s : State) : List Nat :=
  (List.range 64).map (fun sl => s.get (Reg.MEM_PALf_WAYS_SP sl) + 65536 * s.get (Reg.MEM_PALf_WAYS_RS sl))

def applyWays (s : State) (a : LoadArg) : State :=
  if skPal a = 0 then s
  else (List.range 64).foldl (fun s sl => settleWays (writeWays s sl (a.u (skPal a + 4 * sl) 4)) sl)
    { s with job := { s.job with ways := waysNow s } }

/-! ## Step 4: segments and shards (R256, R188, R191, R289) -/

/-- A segment table entry (Table 10-9). -/
structure SegEnt where
  seg   : Nat
  kind  : Nat
  mgrp  : Nat
  place : Nat
  ilen  : Nat
  limit : Nat
  arg   : Nat
  iofs  : Nat
  deriving DecidableEq, Repr

def segEnt (a : LoadArg) (i : Nat) : SegEnt :=
  let o := skSeg a + 32 * i
  ⟨a.u o 1, a.u (o + 1) 1, a.u (o + 2) 1, a.u (o + 3) 1, a.u (o + 4) 4, a.u (o + 8) 8, a.u (o + 16) 8, a.u (o + 24) 8⟩

/-- The entries in ascending segment number. -/
def segEnts (a : LoadArg) : List SegEnt :=
  ((List.range (skNseg a)).map (segEnt a)).mergeSort (fun x y => decide (x.seg ≤ y.seg))

def entOf (l : List SegEnt) (n : Nat) : Option SegEnt := l.find? (fun e => e.seg = n)

def segEntOk (a : LoadArg) (e : SegEnt) : Bool :=
  e.seg ≤ 15 && e.kind ≤ 4 && e.place ≤ 6 && (e.ilen = 0 || e.place = 0 || e.place = 3) && e.limit < 2 ^ 48 &&
    e.ilen ≤ e.limit && e.iofs + e.ilen ≤ a.img.length && (e.place ≠ 5 || e.arg < a.vals.length)

/-- No segment has two entries, and segment 0 is there with PLACE 0 and KIND 0. -/
def segTableOk (a : LoadArg) (l : List SegEnt) : Bool :=
  l.all (segEntOk a) && (l.map (fun e => e.seg)).eraseDups.length = l.length &&
    (match entOf l 0 with
      | some e => e.place = 0 && e.kind = 0
      | none => false)

/-- Bases of the PLACE 0 and 1 segments, in ascending segment number from `cur` on, and where they end. -/
def placeGo (l : List SegEnt) (cur : Nat) : List (Nat × Nat) × Nat :=
  match l with
  | [] => ([], cur)
  | e :: r =>
    if e.place ≤ 1 then
      let b := (cur + 65535) / 65536 * 65536
      let (t, fin) := placeGo r (b + e.limit)
      ((e.seg, b) :: t, fin)
    else placeGo r cur

/-- The base of a segment in Frame `f` (Table 10-9). -/
def segBase (a : LoadArg) (l : List SegEnt) (e : SegEnt) (f : Nat) : Nat :=
  (match e.place with
    | 2 => spadBase + f * 0x4000000 + e.arg
    | 3 => frameBase + f * 0x1000000 + e.arg
    | 4 => hostBase + a.host + e.arg
    | 5 => a.vals.getD e.arg 0
    | 6 => e.arg
    | _ => (((placeGo l a.grant.1).1.find? (fun p => p.1 = e.seg)).map (fun p => p.2)).getD 0) % 2 ^ 64

/-- The shard directory (R289): none without shards. -/
def directory (a : LoadArg) : List Byte := if skNshard a = 0 then [] else Config.shardDir a.img

/-- The directory stands behind the last segment in the grant, at a multiple of 256. -/
def dirBase (a : LoadArg) (l : List SegEnt) : Nat := ((placeGo l a.grant.1).2 + 255) / 256 * 256

/-- Where what the Studio takes of the grant ends. -/
def dirEnd (a : LoadArg) (l : List SegEnt) : Nat :=
  if skNshard a = 0 then (placeGo l a.grant.1).2 else dirBase a l + (directory a).length

/-- Place the directory in LPDDR. -/
def placeDirectory (s : State) (a : LoadArg) (l : List SegEnt) : State := (devWrite s (dirBase a l) (directory a)).st

/-- Every byte of every kind-0 segment is mapped and backed in every Frame (R188), and PLACE 0 and 1 and the directory fit
the grant. -/
def segsBacked (s : State) (a : LoadArg) (l : List SegEnt) : Bool :=
  dirEnd a l ≤ a.grant.1 + a.grant.2 && (skNshard a = 0 || backed s (dirBase a l) (directory a).length) &&
    l.all (fun e => e.kind ≠ 0 || e.limit = 0 || (List.range 64).all (fun f => backed s (segBase a l e f) e.limit))

/-- The segment table of every Frame. -/
def writeSegs (s : State) (a : LoadArg) (l : List SegEnt) : State :=
  (List.range 1024).foldl (fun s x =>
    let f := x / 16
    let n := x % 16
    match entOf l n with
    | some e =>
      (((s.put (Reg.FRM_SEGs_BASE_BASE f n) (segBase a l e f)).put (Reg.FRM_SEGs_LIM_LIMIT f n) e.limit).put
        (Reg.FRM_SEGs_LIM_KIND f n) e.kind).put (Reg.FRM_SEGs_LIM_MGRP f n) e.mgrp
    | none =>
      (((s.put (Reg.FRM_SEGs_BASE_BASE f n) 0).put (Reg.FRM_SEGs_LIM_LIMIT f n) 0).put
        (Reg.FRM_SEGs_LIM_KIND f n) 0).put (Reg.FRM_SEGs_LIM_MGRP f n) 0) s

/-- Copy the image bytes of a segment, or zero it. -/
def fillSeg (a : LoadArg) (l : List SegEnt) (s : State) (e : SegEnt) : State :=
  let d := (a.img.drop e.iofs).take e.ilen
  match e.place with
  | 0 => (devWrite s (segBase a l e 0) d).st
  | 1 => (devWrite s (segBase a l e 0) (List.replicate e.limit 0)).st
  | 3 => (List.range 64).foldl (fun s f => (devWrite s (segBase a l e f) d).st) s
  | _ => s

/-- Zero every scratchpad way (R191). -/
def zeroSpad (s : State) : State := { s with mem := sclear s.mem spadBase 0x100000000, spEpoch := [], spBad := [] }

/-- The rank entries of a shard: module and extent. -/
def rankEnts (a : LoadArg) (o n : Nat) : List (Nat × Nat) :=
  (List.range n).map (fun r => (a.u (o + 16 * r) 2, a.u (o + 16 * r + 8) 8))

/-- Every start is a multiple of 32, every extent within its bound, every module of the fabric; the sum of the extents. -/
def rankSum (s : State) (l : List (Nat × Nat)) (start : Nat) : Option Nat :=
  match l with
  | [] => some start
  | (m, e) :: r =>
    if start % 32 = 0 ∧ e ≤ 2 ^ 32 - 32 ∧ inFabric s m then rankSum s r (start + e) else none

/-- A shard table entry (Table 12-1). -/
def shardEnt (a : LoadArg) (i : Nat) : Shard :=
  let o := skShard a + 128 * i
  ⟨a.u o 2, a.u (o + 2) 1, a.u (o + 3) 1, a.u (o + 8) 8, rankEnts a (a.u (o + 16) 8) (min 65536 (a.u (o + 4) 4)),
    a.u (o + 0x18) 8, a.u (o + 0x20) 8, a.u (o + 0x28) 8, a.u (o + 0x30) 8, a.u (o + 0x38) 8, a.u (o + 0x40) 8,
    a.u (o + 0x48) 2⟩

/-- A shard may be loaded (R289); `prev` is the id before it plus one. -/
def shardOk (s : State) (a : LoadArg) (i prev : Nat) : Bool :=
  let o := skShard a + 128 * i
  let n := a.u (o + 4) 4
  let ro := a.u (o + 16) 8
  let x := shardEnt a i
  let big := x.ranks.foldl (fun m p => max m p.2) 0
  let lines := (big + 31) / 32
  let sz := etyWidth x.gtype / 8
  1 ≤ n && n ≤ 65536 && ro + 16 * n ≤ a.img.length && (List.range n).all (fun r => a.zero (ro + 16 * r + 2) 6) &&
    a.zero (o + 0x4A) 0x36 && x.id < 4096 && prev ≤ x.id && x.sclass ≤ 15 && 1 ≤ x.gtype && x.gtype ≤ 5 &&
    x.abase % 256 = 0 && x.lbase % 8 = 0 && x.donek < 16384 && rankSum s x.ranks 0 = some x.nelem &&
    (big = 0 || (backed s x.vbase0 (x.gofs + big * sz) && backed s x.vbase1 (x.gofs + big * sz) &&
      backed s x.abase (256 * lines) && backed s x.lbase (8 * lines) && backed s x.grad (4 * big)))

/-- Every shard of the table may be loaded. -/
def shardsOk (s : State) (a : LoadArg) : Bool :=
  (List.range (skNshard a)).all (fun i =>
    shardOk s a i (if i = 0 then 0 else a.u (skShard a + 128 * (i - 1)) 2 + 1))

/-! ## Step 5: patches (R258) -/

/-- One patch in Frame `f`: the word read, the field changed; none where it refuses the load. -/
def patchIn (s : State) (a : LoadArg) (l : List SegEnt) (e : SegEnt) (o f : Nat) : Option State :=
  let ctl := a.u o 4
  let opnd := a.u (o + 4) 4
  let w := bits ctl 19 14 + 1
  let pos := bits ctl 13 8
  let v : Option Nat :=
    match bits ctl 7 4 with
    | 0 => some (match entOf l (opnd % 16) with | some x => segBase a l x f | none => 0)
    | 1 => if opnd = 0xFFFFFFFF then some s.myId else a.ranks[opnd]?
    | 2 => a.vals[opnd]?
    | _ => some a.rank
  match v with
  | none => none
  | some v =>
    let at' := segBase a l e f + a.u (o + 8) 8
    let r := devRead s at' 8
    match r.err with
    | some _ => none
    | none =>
      let x := ofLE r.data
      let old := (x / 2 ^ pos) % 2 ^ w
      let new := if bits ctl 7 4 = 0 ∨ bits ctl 7 4 = 2 then old + v else v
      if 2 ^ w ≤ new then none
      else
        let m := devWrite r.st at' (toLE 8 (x - old * 2 ^ pos + new * 2 ^ pos))
        match m.err with
        | some _ => none
        | none => some m.st

/-- The Frames in turn. -/
def patchFrames (s : State) (a : LoadArg) (l : List SegEnt) (e : SegEnt) (o : Nat) (fs : List Nat) : State × Bool :=
  match fs with
  | [] => (s, true)
  | f :: r =>
    match patchIn s a l e o f with
    | none => (s, false)
    | some t => patchFrames t a l e o r

/-- The patches from number `i` on, in table order; the Bool says that none refused the load. -/
def patchGo (s : State) (a : LoadArg) (l : List SegEnt) (i fuel : Nat) : State × Bool :=
  match fuel with
  | 0 => (s, true)
  | k + 1 =>
    let o := skPatch a + 16 * i
    let ctl := a.u o 4
    match entOf l (bits ctl 3 0) with
    | none => (s, false)
    | some e =>
      if bits ctl 7 4 ≤ 3 ∧ bits ctl 25 20 = 0 ∧ a.u (o + 8) 8 % 8 = 0 ∧ bits ctl 13 8 + bits ctl 19 14 ≤ 63 ∧
          a.u (o + 8) 8 + 8 ≤ e.limit then
        match patchFrames s a l e o (if e.place = 2 ∨ e.place = 3 then List.range 64 else [bits ctl 31 26]) with
        | (t, true) => patchGo t a l (i + 1) k
        | (t, false) => (t, false)
      else (s, false)

/-! ## Step 6: the Frame load table and the tokens (R257, R262) -/

/-- The offset of Frame `f`'s load table entry. -/
def frameEnt (a : LoadArg) (f : Nat) : Nat := skFrame a + 320 * f

/-- A module-wide Knot is one of the eight step Knots (R301). -/
def isStepKnot (s : State) (k : Nat) : Bool := s.get Reg.PLY_KBASE_BASE ≤ k && k < s.get Reg.PLY_KBASE_BASE + 8

/-- A Frame's entry and the tokens hold nothing refused (R257, R259, R301). -/
def frameOk (s : State) (a : LoadArg) (f : Nat) : Bool :=
  let o := frameEnt a f
  a.zero (o + 4) 12 && a.zero (o + 0x3B) 5 &&
    (List.range 4).all (fun c => a.u (o + c) 1 ≤ skTask a && a.u (o + 0x10 + 4 * c) 4 % 4 = 0) &&
    (List.range 27).all (fun q => a.u (o + 0x20 + q) 1 ≤ skTask a &&
      (a.u (o + 0x20 + q) 1 = 0 || 9 ≤ q || (q ≠ 8 && (physOf s f q).isSome))) &&
    (List.range 256).all (fun k =>
      let b := a.u (o + 0x40 + k) 1
      b < 64 && b / 16 ≠ 3 && b % 16 ≤ skTask a && (b % 16 = 0 || !isStepKnot s (256 * f + k)))

def tokensOk (a : LoadArg) : Bool :=
  (List.range 256).all (fun p => a.u (skToken a + p) 1 < 32 && a.u (skToken a + p) 1 % 16 ≤ 8)

/-- Tasks, Knots, counts, tokens and the phase of Frame `f`; its engines hold nothing of an earlier job (R67). -/
def loadFrame (a : LoadArg) (s : State) (f : Nat) : State :=
  let o := frameEnt a f
  let s := (List.range 256).foldl (fun s k =>
    let b := a.u (o + 0x40 + k) 1
    ((s.put (Reg.FRM_KCFGk_TASK f k) (b % 16)).put (Reg.FRM_KCFGk_CLASS f k) (b / 16)).put (Reg.FRM_KNOTk_VALUE f k) 0) s
  let s := (List.range 27).foldl (fun s q =>
    ((((s.setQueue f q QueueSt.empty).put (Reg.FRM_Qq_TASK_TASK f q) (a.u (o + 0x20 + q) 1)).put
      (Reg.FRM_Qq_ISSUED_COUNT f q) 0).put (Reg.FRM_Qq_DONE_COUNT f q) 0)) s
  let s := (List.range 256).foldl (fun s p =>
    let b := a.u (skToken a + p) 1
    (s.put (Reg.FRM_TOKp_BR f p) (b / 16)).put (Reg.FRM_TOKp_SPD f p) (b % 16)) s
  let s := (List.range 9).foldl (fun s n =>
    s.setSpin f n { s.spin f n with tiles := [], blocks := [], sel := none, retry := none, open_ := [] }) s
  ((s.put (Reg.FRM_PHASE_ID f) 0).put (Reg.FRM_PHASE_HINT f) 0).put (Reg.FRM_PHASE_CORE f) 0

/-! ## Step 7: cores, mode and seed (R237, R43) -/

/-- The overflow mode that a job's size gives the shape record (R43). -/
def defaultOvf (nmod : Nat) : Nat := if nmod ≤ 64 then 0 else 1

/-- The mode of the program. -/
def loadOvf (a : LoadArg) : Nat :=
  match a.u 0x1C 1 with
  | 1 => 0
  | 2 => 1
  | _ => defaultOvf a.nmod

/-- A core's task, entry and segment bases; halted until step 9. -/
def loadCoreEnt (a : LoadArg) (l : List SegEnt) (s : State) (f c : Nat) : State :=
  let o := frameEnt a f
  let sb := (List.range 16).foldl (fun m n =>
    sput 0 m n (match entOf l n with | some e => BitVec.ofNat 64 (segBase a l e f) | none => 0)) []
  let s := s.setCore f c { CoreSt.empty with sb := sb, entry := a.u (o + 0x10 + 4 * c) 4 }
  ((s.put (Reg.FRM_COREc_STATE_TASK f c) (a.u (o + c) 1)).put (Reg.FRM_COREc_STATE_STATE f c) 0).put
    (Reg.FRM_COREc_PC_PC f c) (a.u (o + 0x10 + 4 * c) 4)

def loadCores (s : State) (a : LoadArg) (l : List SegEnt) : State :=
  let s := (List.range 256).foldl (fun s k => loadCoreEnt a l s (k / 4) (k % 4)) s
  (List.range 64).foldl (fun s f => s.put (Reg.FRM_NUMMODE_OVF_MODE f) (loadOvf a)) s

/-! ## Step 8: the Glazes (R375, R376) -/

/-- The entries of Glaze `g`; none where its place, size or header is refused. -/
def imgGlaze (a : LoadArg) (g : Nat) : Option (List Nat) :=
  let d := skGlaze a + 16 + 8 * g
  let o := a.u d 4
  let sz := a.u (d + 4) 2
  let n := a.u o 2
  if a.zero (d + 6) 2 ∧ 16 ≤ sz ∧ sz ≤ 4096 ∧ sz % 8 = 0 ∧ o + sz ≤ a.img.length ∧ a.zero (o + 2) 14 ∧ 16 + 8 * n ≤ sz then
    some ((List.range n).map (fun i => a.u (o + 16 + 8 * i) 8))
  else none

/-- A Knot may carry Glaze requests: it has no task and is no step Knot (R375). -/
def glazeKnotOk (s : State) (k : Nat) : Bool :=
  k < 16384 && s.get (Reg.FRM_KCFGk_TASK (k / 256) (k % 256)) = 0 && !isStepKnot s k

/-- The Glaze table may be loaded; its Glazes. -/
def imgGlazes (s : State) (a : LoadArg) : Option (List (List Nat)) :=
  let o := skGlaze a
  let rq := a.u o 2
  let ak := a.u (o + 2) 2
  let ra := a.u (o + 4) 4
  let gl := (List.range (skNglaze a)).map (imgGlaze a)
  if a.zero (o + 9) 7 ∧ a.u (o + 8) 1 < skNglaze a ∧ ra % 8 = 0 ∧ ra + 8 ≤ 0x1000000 ∧ rq / 256 = ak / 256 ∧
      glazeKnotOk s rq ∧ glazeKnotOk s ak ∧ gl.all (fun g => match g with | some x => glazeOk s x | none => false) then
    some (gl.map (fun g => g.getD []))
  else none

/-! ## R259 -/

/-- What becomes of a load: the state, and the step that refused it. -/
structure LoadRes where
  st     : State
  refuse : Option Nat
  deriving DecidableEq, Repr

/-- Steps 5 to 8, once the segments are in place. -/
def loadRest (s : State) (a : LoadArg) (l : List SegEnt) : LoadRes :=
  match patchGo s a l 0 (skNpatch a) with
  | (s, false) => ⟨s, some 5⟩
  | (s, true) =>
    if tokensOk a = false ∨ (List.range 64).all (frameOk s a) = false then ⟨s, some 6⟩
    else
      let s := (List.range 64).foldl (loadFrame a) s
      let s := loadCores s a l
      match imgGlazes s a with
      | none => ⟨s, some 8⟩
      | some gl =>
        let o := skGlaze a
        let j := { s.job with
          ntask := skTask a, seed := skSeed a, glazes := gl, reqK := a.u o 2, ackK := a.u (o + 2) 2, reqA := a.u (o + 4) 4,
          startG := a.u (o + 8) 1, nextG := 1 }
        let s := { s with
          job := j, brushIn := [], easelIn := [], verRec := [], stats := [], lineDone := [], held := [],
          shards := (List.range (skNshard a)).map (shardEnt a) }
        ⟨(applyGlaze s (a.u (o + 8) 1)).put Reg.STU_GLAZE_COUNT 0, none⟩

/-- Steps 1 to 8 of R259. What the steps before a refusal have written stays written. -/
def loadSkein (s : State) (a0 : LoadArg) : LoadRes :=
  let a := { a0 with img := a0.img.take (a0.u 8 8) }
  if headerOk a = false then ⟨s, some 1⟩
  else if a.u 0x10 8 ≠ shapeDigest s then ⟨s, some 2⟩
  else
    let s := applyWays s a
    let l := segEnts a
    if segTableOk a l = false ∨ segsBacked s a l = false then ⟨s, some 4⟩
    else
      let s := (l.foldl (fillSeg a l) (writeSegs s a l))
      let s := zeroSpad s
      if shardsOk s a = false then ⟨s, some 4⟩ else loadRest (placeDirectory s a l) a l

end Sys2Proof.Machine
end

