-- ==== Sys2Proof/Machine/HostPort.lean ====
section
/-! DEFINITION. The host port's rings and engine commands (R343 to R348, R360). -/
namespace Sys2Proof.Machine

/-! ## Rings (R343 to R345) -/

/-- SIZE of ring `n` (Table 15-11): a LOG2SIZE outside 4 to 12 reads as the nearer bound. -/
def ringSize (s : State) (n : Nat) : Nat := 2 ^ min 12 (max 4 (s.get (Reg.HIF_RINGn_CFG_LOG2SIZE n)))

def ringOn (s : State) (n : Nat) : Bool := s.on (Reg.HIF_RINGn_CFG_EN n)

/-- A JOB_POST that has started (one that is malformed never does). -/
def isJob (c : HostCmd) : Bool := leAt c.bytes 0 1 = 0x10 && c.start && c.result ≠ some (1, 0)

/-- A JOB_POST of the ring is outstanding. -/
def jobOut (r : HostRing) : Bool := r.cmds.any isJob

/-- HIF_RINGn_STAT.JOBHELD (R343). -/
def jobHeld (s : State) (n : Nat) : Bool := !ringOn s n && jobOut (s.ring n)

/-- The ring keeps its configuration: it is enabled, its commands still complete, or a job holds it (R343). -/
def ringLocked (s : State) (n : Nat) : Bool := ringOn s n || (s.ring n).closing || jobHeld s n

/-- The entries that one fetch may bring now (R345). -/
def fetchable (s : State) (n : Nat) : Nat :=
  let r := s.ring n
  let z := ringSize s n
  if ringOn s n ∧ r.stopped = false then min (min 16 (r.tail - r.head)) (min (z - r.used) (z - r.head % z)) else 0

/-- Issue a fetch where none is outstanding and entries may be fetched. -/
def issueFetch (s : State) (n : Nat) : State :=
  let r := s.ring n
  if r.fetchT.isNone ∧ fetchable s n ≠ 0 then s.setRing n { r with fetchT := some s.now } else s

/-- HIF_RINGn_STAT as it reads: JOBHELD, FULL (fetching waits for completion slots, R345), ERR and BUSY. -/
def ringStat (s : State) (n : Nat) : Nat :=
  let r := s.ring n
  8 * b2n (jobHeld s n) + 4 * b2n (ringOn s n && !r.stopped && r.head < r.tail && ringSize s n ≤ r.used) +
    2 * s.get (Reg.HIF_RINGn_STAT_ERR n) + b2n (!r.cmds.isEmpty)

/-- The ring stops with ERR, and the error is logged (R344). -/
def stopRing (s : State) (n : Nat) : State :=
  let s := (s.setRing n { s.ring n with stopped := true }).put (Reg.HIF_RINGn_STAT_ERR n) 1
  s.logErr { sev := 0, unit := 13, cause := 1, index := n, d0 := ringStat s n, stamp := s.timeOf 70 }

/-- A read of host memory for a command of ring `n` fails (R341): recorded (Table 17-3), and the command completes with
HOSTERR and the address. -/
def hostErr (s : State) (n k a : Nat) : State :=
  setResult (s.logErr { sev := 0, unit := 13, cause := 3, index := n, addr := a, d0 := ringStat s n,
                        stamp := s.timeOf 70 }) n k 4 a

/-- A write of the count `t` to a ring's SQ_TAIL (R344). -/
def writeSqTail (s : State) (n t : Nat) : State :=
  let r := s.ring n
  if ringOn s n = false ∨ r.stopped then s
  else
    let d := (t + 4294967296 - r.head % 4294967296) % 4294967296
    if d ≤ ringSize s n then issueFetch (s.setRing n { r with tail := r.head + d }) n else stopRing s n

/-- SQ_TAIL: the host writes the count of the entries it has posted (R344). -/
def execSqTail (n : Fin 64) (t : BitVec 32) (s : State) : Host.Outcome State Fault Refusal :=
  if hostOpen s (0x2000000 + 0x1000 * n) then finish (writeSqTail s n t.toNat) else .next s

/-- The number of ARGS fields of an entry that are not reserved, as (offset, size) (Table 15-4). -/
def argFields (op sub : Nat) : List (Nat × Nat) :=
  match op with
  | 0x02 => [(8, 8), (0x10, 8), (0x18, 8)]
  | 0x03 => [(8, 2), (0xC, 4)]
  | 0x04 => [(8, 1), (0x10, 8), (0x18, 8)]
  | 0x10 => [(8, 8)]
  | 0x11 => [(8, 1)]
  | 0x20 =>
    match sub with
    | 1 => [(8, 1), (0x10, 8)]
    | 2 => [(8, 1), (0x10, 8), (0x18, 8), (0x20, 8)]
    | _ => [(8, 1), (0x10, 8), (0x18, 8)]
  | _ => []

/-- Every byte of an entry outside its fields is zero. -/
def reservedZero (b : List Byte) (fl : List (Nat × Nat)) : Bool :=
  (List.range 64).all (fun i => i < 2 || (4 ≤ i && i < 8) || fl.any (fun p => p.1 ≤ i && i < p.1 + p.2) || b.getD i 0 = 0)

/-- An entry holds a command (R346, Tables 15-3, 15-4, 15-7). -/
def entryOk (s : State) (b : List Byte) : Bool :=
  let op := leAt b 0 1
  let sub := leAt b 8 1
  leAt b 1 1 < 4 && reservedZero b (argFields op sub) &&
    (match op with
      | 0x01 => true
      | 0x02 => 1 ≤ leAt b 0x18 8 && leAt b 0x18 8 ≤ 2 ^ 36 &&
          !(regionOf s (leAt b 8 8) = .host && regionOf s (leAt b 0x10 8) = .host)
      | 0x03 => leAt b 8 2 < 16384
      | 0x04 => sub ≤ 2
      | 0x10 => true
      | 0x11 => sub = 0
      | 0x20 => 1 ≤ sub && sub ≤ 5
      | _ => false)

/-- A fetched entry: a malformed one has its result at once. -/
def newCmd (s : State) (k : Nat) (b : List Byte) : HostCmd :=
  if entryOk s b then ⟨k, b, false, 0, none, none⟩ else ⟨k, b, true, 0, some (1, 0), none⟩

/-- Host memory at PCIe address `a`. -/
def hostRd (s : State) (a n : Nat) : List Byte := sgetList 0 s.mem (hostBase + a) n

/-- A posted write to host memory. -/
def hostWr (s : State) (a : Nat) (d : List Byte) : State := s.setBytes (hostBase + a) d

/-- ENTRY_FETCH: a fetch of `cnt` entries returns, as many as may be fetched (R345). -/
def execEntryFetch (n : Fin 64) (cnt : Nat) (s : State) : Host.Outcome State Fault Refusal :=
  let r := s.ring n
  let m := min cnt (fetchable s n)
  if r.fetchT.isNone ∨ cnt = 0 then .next s
  else if m = 0 then .next (s.setRing n { r with fetchT := none })
  else
    let z := ringSize s n
    let new := (List.range m).map (fun i =>
      newCmd s (r.head + i) (hostRd s (64 * s.get (Reg.HIF_RINGn_BASE_ADDR n) + 64 * ((r.head + i) % z)) 64))
    let s := s.setRing n { r with head := r.head + m, used := r.used + m, cmds := r.cmds ++ new, fetchT := none }
    finish (issueFetch s n)

/-- FETCH_TIMEOUT: a fetch has had no response for 50 ms. -/
def execFetchTimeout (n : Fin 64) (s : State) : Host.Outcome State Fault Refusal :=
  match (s.ring n).fetchT with
  | some t =>
    if t + 50 * tickMs ≤ s.now then finish (stopRing (s.setRing n { s.ring n with fetchT := none }) n) else .next s
  | none => .next s

/-- A write of the count `h` to a ring's CQ_HEAD (R348). -/
def writeCqHead (s : State) (n h : Nat) : State :=
  let r := s.ring n
  let d := (h + 4294967296 - r.cqHead % 4294967296) % 4294967296
  if d = 0 then s
  else if r.written - r.cqHead < d then stopRing s n
  else issueFetch (s.setRing n { r with cqHead := r.cqHead + d, used := r.used - d, times := r.times.drop d }) n

/-- CQ_HEAD: the host writes the count of the completion entries it has consumed (R348). -/
def execCqHead (n : Fin 64) (h : BitVec 32) (s : State) : Host.Outcome State Fault Refusal :=
  if hostOpen s (0x2000008 + 0x1000 * n) then finish (writeCqHead s n h.toNat) else .next s

/-- A write of 1 to HIF_RINGn_CFG.EN while EN is 0: every count is 0; ignored while the ring keeps its configuration. -/
def enableRing (s : State) (n : Nat) : State :=
  if ringLocked s n then s else (s.setRing n HostRing.empty).put (Reg.HIF_RINGn_CFG_EN n) 1

/-- The ring is stopped once every command but an outstanding JOB_POST has completed (R343). -/
def settleRing (s : State) (n : Nat) : State :=
  let r := s.ring n
  if r.closing ∧ r.cmds.all isJob then s.setRing n { r with closing := false } else s

/-- A write of 0 to EN while it is 1: fetching stops. -/
def disableRing (s : State) (n : Nat) : State :=
  if ringOn s n then
    settleRing ((s.setRing n { s.ring n with closing := true, fetchT := none }).put (Reg.HIF_RINGn_CFG_EN n) 0) n
  else s

/-- RING_ENABLE. -/
def execRingEnable (n : Fin 64) (s : State) : Host.Outcome State Fault Refusal :=
  if hostOpen s (0x1010 + 0x40 * n) then finish (enableRing s n) else .next s

/-- RING_DISABLE. -/
def execRingDisable (n : Fin 64) (s : State) : Host.Outcome State Fault Refusal :=
  if hostOpen s (0x1010 + 0x40 * n) then finish (disableRing s n) else .next s

/-! ## Commands (R346 to R348) -/

/-- The command with count `k` on ring `n`. -/
def cmdOf (s : State) (n k : Nat) : Option HostCmd := (s.ring n).cmds.find? (fun c => c.k = k)

def setCmd (s : State) (n : Nat) (c : HostCmd) : State :=
  let r := s.ring n
  s.setRing n { r with cmds := r.cmds.map (fun x => if x.k = c.k then c else x) }

/-- The engine that runs a command: COPY, KADD and FLUSH. -/
def engineOp (c : HostCmd) : Bool := leAt c.bytes 0 1 = 2 || leAt c.bytes 0 1 = 3 || leAt c.bytes 0 1 = 4

/-- Ring order and FENCE allow a command to start (R348). -/
def inOrder (r : HostRing) (c : HostCmd) : Bool :=
  c.start = false && c.result.isNone &&
    r.cmds.all (fun x => c.k ≤ x.k || (x.start && leAt c.bytes 1 1 % 2 = 0))

/-- Engine commands that run. -/
def engineBusy (s : State) : Nat :=
  s.rings.foldl (fun a e => a + (e.2.cmds.filter (fun c => engineOp c && c.start && c.result.isNone)).length) 0

/-- A ring of priority 1 other than `n` has an engine command that may start. -/
def prioWaits (s : State) (n : Nat) : Bool :=
  s.rings.any (fun e => e.1 ≠ n && s.on (Reg.HIF_RINGn_CFG_PRIO e.1) && e.2.cmds.any (fun c => engineOp c && inOrder e.2 c))

/-- The ring that the engine served last among those of ring `n`'s priority. -/
def engLast (s : State) (n : Nat) : Nat := if s.on (Reg.HIF_RINGn_CFG_PRIO n) then s.engTurn.2 else s.engTurn.1

/-- The engine takes a command of ring `n` next. -/
def engineServes (s : State) (n : Nat) : State :=
  { s with engTurn := if s.on (Reg.HIF_RINGn_CFG_PRIO n) then (s.engTurn.1, n) else (n, s.engTurn.2) }

/-- In the round robin among rings of one priority, ring `m` comes before ring `n`. -/
def comesFirst (s : State) (m n : Nat) : Bool := (m + 63 - engLast s n) % 64 < (n + 63 - engLast s n) % 64

/-- Another ring of ring `n`'s priority has an engine command that may start and comes before it. -/
def turnWaits (s : State) (n : Nat) : Bool :=
  s.rings.any (fun e => s.on (Reg.HIF_RINGn_CFG_PRIO e.1) = s.on (Reg.HIF_RINGn_CFG_PRIO n) && comesFirst s e.1 n &&
    e.2.cmds.any (fun c => engineOp c && inOrder e.2 c))

/-- The engine takes a command of ring `n` (R347): 8 at once, rings of priority 1 first, and in round robin. -/
def engineTakes (s : State) (n : Nat) : Bool :=
  engineBusy s < 8 && (s.on (Reg.HIF_RINGn_CFG_PRIO n) || !prioWaits s n) && !turnWaits s n

/-- In limited and recovery mode and on a stopped module only some commands run (R371, R372). -/
def modeRefuses (s : State) (op sub : Nat) : Bool :=
  if s.get Reg.STU_BOOT_STAT_MODE = 3 then !(op = 0x20 && sub = 4)
  else if s.get Reg.STU_BOOT_STAT_MODE = 1 ∧ stopped s = false then false
  else op = 0x10 || (op = 0x20 && (sub = 2 || sub = 5))

/-- One command of ring `n`: where the entry with count `k` holds `op` (and, for MBOX, `sub`) and may start, it starts and
`body` runs, unless the mode refuses it. -/
def hostStart (s : State) (n k op sub : Nat) (body : State → HostCmd → State) : Host.Outcome State Fault Refusal :=
  match cmdOf s n k with
  | none => .next s
  | some c =>
    if leAt c.bytes 0 1 = op ∧ (op ≠ 0x20 ∨ leAt c.bytes 8 1 = sub) ∧ inOrder (s.ring n) c ∧
        (engineOp c = false ∨ engineTakes s n) then
      let s := setCmd (if engineOp c then engineServes s n else s) n { c with start := true }
      if modeRefuses s op sub then finish (setResult s n k 5 0) else finish (body s { c with start := true })
    else .next s

/-- NOP. -/
def execNop (n : Fin 64) (k : Nat) (s : State) : Host.Outcome State Fault Refusal :=
  hostStart s n k 1 0 (fun s _ => setResult s n k 0 0)

/-- KADD (Table 15-4). -/
def execHostKadd (n : Fin 64) (k : Nat) (s : State) : Host.Outcome State Fault Refusal :=
  hostStart s n k 3 0 (fun s c =>
    let s := if stopped s then s else knotAddG s (leAt c.bytes 8 2) (leAt c.bytes 0xC 4)
    setResult s n k 0 0)

/-- FLUSH: waits while a maintenance operation runs, and completes with it (Table 15-4, R199). -/
def execFlush (n : Fin 64) (k : Nat) (s : State) : Host.Outcome State Fault Refusal :=
  if s.flush.isSome then .next s
  else
    hostStart s n k 4 0 (fun s c =>
      let len := leAt c.bytes 0x18 8
      beginFlush s ⟨leAt c.bytes 8 1, if len = 0 then none else some (leAt c.bytes 0x10 8, len), some (n, k)⟩)

/-! ## COPY (R347) -/

/-- The first byte of a range that is unmapped or unbacked, looked for at the start and at each 4 MiB boundary. -/
def firstUnbacked (s : State) (a n fuel : Nat) : Option Nat :=
  match fuel with
  | 0 => none
  | j + 1 =>
    if n = 0 then none
    else
      let m := min n (wayBytes - a % wayBytes)
      if backed s a m then firstUnbacked s (a + m) (n - m) j else some a

def badIn (s : State) (a n : Nat) : Option Nat := firstUnbacked s a n (n / wayBytes + 2)

def cpSrc (c : HostCmd) : Nat := leAt c.bytes 8 8
def cpDst (c : HostCmd) : Nat := leAt c.bytes 0x10 8
def cpLen (c : HostCmd) : Nat := leAt c.bytes 0x18 8

/-- The check of both ranges before any byte moves. -/
def copyCheck (s : State) (c : HostCmd) : Option Nat :=
  match badIn s (cpSrc c) (cpLen c) with
  | some a => some a
  | none => badIn s (cpDst c) (cpLen c)

/-- The engine cannot reach an end of a COPY now: LPDDR holds the access back (R195, R207), or the Frame that the address lies in has no
clock (R226). -/
def copyHeld (s : State) (a n : Nat) (write : Bool) : Bool :=
  memHeld s a n write || (regionOf s a = .frame && freqStopped s)

/-- Move `len` bytes of a COPY; `resp` is what a read of host memory meets, which may not have come yet, and `ecc` what the check of the
words of another read finds. -/
def copyMove (s : State) (n : Nat) (c : HostCmd) (len : Nat) (resp : Resp) (ecc : Ecc) : State :=
  let m := min len (cpLen c - c.moved)
  let src := cpSrc c + c.moved
  let dst := cpDst c + c.moved
  let fromHost := regionOf s src = .host
  if m = 0 ∨ copyHeld s src m false ∨ copyHeld s dst m true then s
  else if fromHost ∧ resp = .late then
    (if c.readT.isSome then s else setCmd s n { c with readT := some s.now })
  else if fromHost ∧ resp ≠ .ok then hostErr s n c.k src
  else
    let r := unitRead s src m ecc
    match r.err with
    | some a => setResult r.st n c.k 3 a
    | none =>
      let w := devWrite r.st dst r.data
      match w.err with
      | some a => setResult w.st n c.k 3 a
      | none =>
        let s := setCmd w.st n { c with moved := c.moved + m, readT := none }
        if c.moved + m = cpLen c then setResult s n c.k 0 0 else s

/-- COPY: starts, or moves the next `len` bytes of one that runs. -/
def execCopy (n : Fin 64) (k : Nat) (len : Nat) (resp : Resp) (ecc : Ecc) (s : State) : Host.Outcome State Fault Refusal :=
  match cmdOf s n k with
  | none => .next s
  | some c =>
    if leAt c.bytes 0 1 = 2 ∧ c.start ∧ c.result.isNone then finish (copyMove s n c len resp ecc)
    else
      hostStart s n k 2 0 (fun s c =>
        match copyCheck s c with
        | some a => setResult s n k 2 a
        | none => copyMove s n c len resp ecc)

/-! ## Completions (R348) -/

/-- The completion entry of Table 15-5. -/
def completionEntry (c : HostCmd) (head status detail phase stamp : Nat) : List Byte :=
  (c.bytes.drop 4).take 4 ++ toLE 4 head ++ toLE 1 status ++ c.bytes.take 1 ++ toLE 1 phase ++ List.replicate 5 0 ++
    toLE 8 detail ++ toLE 8 stamp

/-- A command leaves its ring: its entry is written at the next count, or, with NOCQ and OK, its slot is freed at once. -/
def writeCompletion (s : State) (n : Nat) (c : HostCmd) (status detail : Nat) : State :=
  let r := s.ring n
  let z := ringSize s n
  let r1 := { r with cmds := r.cmds.filter (fun x => x.k ≠ c.k) }
  if bit (leAt c.bytes 1 1) 1 ∧ status = 0 then s.setRing n { r1 with used := r.used - 1 }
  else
    let s := hostWr s (64 * s.get (Reg.HIF_RINGn_CBASE_ADDR n) + 32 * (r.written % z))
      (completionEntry c r.head status detail (1 - r.written / z % 2) (s.timeOf 70))
    s.setRing n { r1 with written := r.written + 1, times := r.times ++ [s.now] }

/-- Some JOB_POST has a result that has not been written. -/
def jobEnding (s : State) : Bool :=
  s.rings.any (fun e => e.2.cmds.any (fun c => isJob c && c.result.isSome))

/-- A result may be written out: that of a job only once every task abort has ended, that of a JOB_CTL after the job's
(R350). -/
def mayComplete (s : State) (c : HostCmd) : Bool :=
  match leAt c.bytes 0 1 with
  | 0x10 => !isJob c || s.aborts.isEmpty
  | 0x11 => s.aborts.isEmpty && !jobEnding s
  | _ => true

/-- HOST_COMMAND_COMPLETE: a command's completion is written (R348). -/
def execHostCommandComplete (n : Fin 64) (k : Nat) (s : State) : Host.Outcome State Fault Refusal :=
  match cmdOf s n k with
  | none => .next s
  | some c =>
    match c.result with
    | none => .next s
    | some (status, detail) =>
      if mayComplete s c then finish (issueFetch (settleRing (writeCompletion s n c status detail) n) n) else .next s

/-- COALESCE_TIMEOUT: the oldest unconsumed entry of a completion ring has waited HIF_RINGn_IRQ.TIME (R360). -/
def execCoalesceTimeout (n : Fin 64) (s : State) : Host.Outcome State Fault Refusal :=
  if coalesced s n then finish s else .next s

end Sys2Proof.Machine
end

