-- ==== Sys2Proof/Machine/HostJob.lean ====
section
/-! DEFINITION. Jobs and the mailbox (R310, R321, R349 to R351, R391). -/
namespace Sys2Proof.Machine

/-! ## JOB_POST (R310, R349) -/

/-- The job post record (Table 15-6): its fields. -/
structure JobRec where
  id     : Nat
  nmod   : Nat
  first  : Nat
  nstep  : Nat
  dline  : Nat
  maxr   : Nat
  nskein : Nat
  q      : Nat
  njv    : Nat
  rmap   : Nat
  skeins : Nat
  gbase  : Nat
  glen   : Nat
  hbase  : Nat
  jobval : Nat
  deriving DecidableEq, Repr

def jobRec (b : List Byte) : JobRec :=
  ⟨leAt b 0 4, leAt b 4 4, leAt b 8 4, leAt b 0xC 4, leAt b 0x10 4, leAt b 0x14 1, leAt b 0x15 1, leAt b 0x16 2 + 1,
    leAt b 0x18 4, leAt b 0x20 8, leAt b 0x28 8, leAt b 0x30 8, leAt b 0x38 8, leAt b 0x40 8, leAt b 0x48 8⟩

/-- The record's reserved bytes are zero and its fields in range. -/
def jobRecOk (b : List Byte) : Bool :=
  let r := jobRec b
  ((b.drop 0x1C).take 4).all (fun x => x = 0) && ((b.drop 0x50).take 48).all (fun x => x = 0) && 1 ≤ r.nmod &&
    r.nmod ≤ 65536 && 1 ≤ r.nstep && r.maxr ≤ 15 && 1 ≤ r.nskein && r.nskein ≤ 16 && r.njv ≤ 4096 && r.nmod % r.q = 0

/-- Replicas 8g to 8g + 7 of each stage are members of one Hank, each at its position, and no module appears twice (R310). -/
def mapOk (ids : List Nat) (q : Nat) : Bool :=
  ids.eraseDups.length = ids.length &&
    ids.zipIdx.all (fun p =>
      let j := p.2
      let r := j % q
      p.1 % 8 = r % 8 && p.1 / 8 = ids.getD (j - r % 8) 0 / 8)

/-- Where the reads of a post after the record begin, by their number: the rank map, the Skein entries, the job values, the image. -/
def postRead (r : JobRec) (img n : Nat) : Nat :=
  match n with
  | 1 => r.rmap
  | 2 => r.skeins
  | 3 => r.jobval
  | _ => img

/-- A post is refused: the record of the job's error, and the completion (R259, Table 17-4). -/
def refuseJob (s : State) (n k step : Nat) (b : List Byte) : State :=
  let d := step + 2 ^ 16 * (Config.refuseCause step b % 2 ^ 16)
  setResult ((restoreWays { s with job := JobSt.none } s.job.ways).logErr { sev := 1, unit := 0, cause := 3, d0 := d, stamp := s.timeOf 71 }) n k 5 d

/-- The job begins: the step registers, no learning (R327), every core of a task at its entry (R259 step 9). -/
def startJob (s : State) (n k : Nat) (r : JobRec) (ids : List Nat) (rank : Nat) (vals : List Nat) : State :=
  let s := { s with
    job := { s.job with loaded := true, id := r.id, nmod := r.nmod, first := r.first, nstep := r.nstep, nrep := r.q,
                        rank := rank, ring := n, k := k, ranks := ids, vals := vals, grant := (r.gbase, r.glen),
                        last := (r.first + 4294967295) % 4294967296 }
    stepSt := StepSt.empty }
  let s := ((s.put Reg.PLY_STEPCFG_ROOT (ids.getD 0 0)).put Reg.PLY_STEPCFG_MAXREPLAY r.maxr).put
    Reg.PLY_STEPCFG_DEADLINE (min 600000000 (max 1000 r.dline))
  let s := (s.put Reg.PLY_STEP_STEP r.first).put Reg.PLY_STEP_ATTEMPT 0
  let s := (List.range 256).foldl (fun s p => (s.put (Reg.PWR_PHASEp_PREF_W p) 0).put (Reg.PWR_PHASEp_UPDATES p) 0) s
  let s := (List.range 64).foldl notePhase { s with gov := { s.gov with small := [] } }
  enterRun (startCores s)

/-- A job post writes the shape record's overflow default (R43, R260). -/
def noteOvf (s : State) (nmod : Nat) : State := { s with shape := setAt s.shape 4 (BitVec.ofNat 8 (defaultOvf nmod)) }

/-- The post of a job whose record has been read: its checks, and the load (R349). -/
def postRecord (s : State) (n k : Nat) (b : List Byte) (at_ : Nat) (resp : Resp) : State :=
  let r := jobRec b
  let ids := (List.range r.nmod).map (fun j => leAt (hostRd s (r.rmap + 8 * j) 2) 0 2)
  let vals := (List.range r.njv).map (fun j => leAt (hostRd s (r.jobval + 8 * j) 8) 0 8)
  let ents := (List.range r.nskein).map (fun i => hostRd s (r.skeins + 32 * i) 32)
  let mine := ents.find? (fun e => leAt e 0 8 = shapeDigest s)
  let img := (mine.map (fun e => leAt e 8 8)).getD 0
  if jobRecOk b = false then refuseJob s n k 0 b
  else if resp ≠ .ok ∧ at_ ≤ 3 then hostErr s n k (postRead r img at_)
  else if (List.range r.nmod).any (fun j => leAt (hostRd s (r.rmap + 8 * j + 2) 6) 0 6 ≠ 0) ∨
      ents.any (fun e => leAt e 24 8 ≠ 0) ∨ mapOk ids r.q = false then refuseJob s n k 0 b
  else
    match ids.findIdx? (fun m => m = s.myId), mine with
    | some rank, some e =>
      if resp ≠ .ok then hostErr s n k img
      else
        let arg := ⟨hostRd s img (leAt e 16 8), r.nmod, ids, rank, vals, (r.gbase, r.glen), r.hbase⟩
        let x := loadSkein { s with job := { JobSt.none with id := r.id } } arg
        match x.refuse with
        | some step => refuseJob x.st n k step b
        | none => startJob x.st n k r ids rank vals
    | some _, none => refuseJob s n k 2 b
    | none, _ => refuseJob s n k 0 b

/-- The post of a job whose record, at `a`, is `b`. -/
def postJob (s : State) (n k : Nat) (b : List Byte) (at_ : Nat) (resp : Resp) (a : Nat) : State :=
  if resp ≠ .ok ∧ at_ = 0 then hostErr s n k a else postRecord (noteOvf s (jobRec b).nmod) n k b at_ resp

/-- The Studio cannot reach all of the module's memory now: a channel is paused (R207, R210), or the Frames have no clock (R226). -/
def memoryWaits (s : State) : Bool := freqStopped s || (List.range 128).any (fun c => s.get (Reg.MEM_CHc_MAP_STATE c) = 1 || s.get (Reg.MEM_CHc_MAP_STATE c) = 3)

/-- JOB_POST: while a job is loaded it completes with BUSY; it waits for task aborts under way, and for its reads of host memory and its
accesses to the module's. Read number `at_` meets `resp`. -/
def execJobPost (n : Fin 64) (k : Nat) (at_ : Nat) (resp : Resp) (s : State) : Host.Outcome State Fault Refusal :=
  if s.aborts.isEmpty = false ∨ resp = .late ∨ memoryWaits s then .next s
  else
    hostStart s n k 0x10 0 (fun s c =>
      if s.job.loaded then setResult s n k 8 0
      else postJob s n k (hostRd s (leAt c.bytes 8 8) 128) at_ resp (leAt c.bytes 8 8))

/-- JOB_CTL ABORT (R350). -/
def abortNow (s : State) : State := if s.job.loaded then endJob (logJobEnd s) 7 0 else s

/-- JOB_CTL. -/
def execJobCtl (n : Fin 64) (k : Nat) (s : State) : Host.Outcome State Fault Refusal :=
  hostStart s n k 0x11 0 (fun s _ => setResult (abortNow s) n k 0 0)

/-! ## The mailbox (R351) -/

/-- One mailbox command: while a snapshot is being delivered one of another kind completes with BUSY, and another snapshot
waits. -/
def mboxStart (s : State) (n k sub : Nat) (body : State → HostCmd → State) : Host.Outcome State Fault Refusal :=
  if s.snap.isSome ∧ sub = 2 then .next s
  else hostStart s n k 0x20 sub (fun s c => if s.snap.isSome then setResult s n k 8 0 else body s c)

def mbArg (c : HostCmd) (i : Nat) : Nat := leAt c.bytes (0x10 + 8 * i) 8

/-- The shape record as the host reads it. -/
def shapeBytes (s : State) : List Byte :=
  if s.shape.isEmpty then (List.range 0x440).map Config.unbuiltShape else s.shape

/-- READ_SHAPE (R260). -/
def execReadShape (n : Fin 64) (k : Nat) (s : State) : Host.Outcome State Fault Refusal :=
  mboxStart s n k 1 (fun s c => setResult (hostWr s (mbArg c 0) (shapeBytes s)) n k 0 0)

/-- An error record's 64 bytes (Table 17-2). -/
def recordBytes (r : ErrRec) : List Byte :=
  toLE 8 r.seq ++ toLE 8 r.stamp ++ toLE 1 r.sev ++ toLE 1 r.unit ++ toLE 2 r.cause ++ toLE 4 r.job ++ toLE 4 r.step ++
    toLE 1 r.attempt ++ toLE 1 r.task ++ toLE 2 r.index ++ toLE 8 r.addr ++ toLE 8 r.d0 ++ toLE 8 r.d1 ++ toLE 4 r.count ++
    toLE 1 (b2n r.prior) ++ toLE 3 0

/-- A slot without a record: SEV 0xFF (R391). -/
def emptySlot : List Byte := (List.range 64).map (fun i => if i = 0x10 then 0xFF else Config.emptyLogByte i)

/-- Mark the first `n` unread records read. -/
def markRead (l : List ErrRec) (n : Nat) : List ErrRec :=
  match l with
  | [] => []
  | r :: t => if r.read then r :: markRead t n else if n = 0 then r :: t else { r with read := true } :: markRead t (n - 1)

/-- READ_LOG (R391). -/
def execReadLog (n : Fin 64) (k : Nat) (s : State) : Host.Outcome State Fault Refusal :=
  mboxStart s n k 3 (fun s c =>
    let m := mbArg c 1
    let l := (s.log.filter (fun r => !r.read)).take m
    let d := l.flatMap recordBytes ++ (List.replicate (m - l.length) emptySlot).flatten
    setResult { hostWr s (mbArg c 0) d with log := markRead s.log m } n k 0 0)

/-! ## Snapshots (R321) -/

/-- A section of a snapshot: its header (Table 13-4) and data; none where an entry names no shard or no element size, and
an error address where the data cannot be read. -/
inductive SnapPart where
  | bad
  | err (addr : Nat)
  | part (s : State) (d : List Byte)
  deriving DecidableEq, Repr

/-- The section for entry number `i` of the field list, whose 16 bytes are `e`; `ofs` is its place in the stream. -/
def snapSection (s : State) (i ver ofs : Nat) (e : List Byte) : SnapPart :=
  let sz := leAt e 2 1
  match shardOf s (leAt e 0 2) with
  | none => .bad
  | some sh =>
    if sz ≠ 1 ∧ sz ≠ 2 ∧ sz ≠ 4 then .bad
    else
      match rankOf sh s.myId with
      | none => .part s []
      | some (r, ext) =>
        let start := (sh.ranks.take r).foldl (fun a p => a + p.2) 0
        let m := devRead s ((if ver % 2 = 0 then sh.vbase0 else sh.vbase1) + leAt e 8 8) (ext * sz)
        match m.err with
        | some a => .err a
        | none =>
          let n := (ext * sz + 63) / 64 * 64
          let pad := (List.range (n - ext * sz)).map (fun j => Config.snapPad ver (ofs + 64 + ext * sz + j))
          .part m.st (toLE 4 ver ++ toLE 2 sh.id ++ toLE 1 sz ++ toLE 1 i ++ toLE 4 r ++ toLE 4 0 ++ toLE 8 start ++ toLE 8 ext ++
            toLE 8 n ++ toLE 4 (crc32c m.data) ++ List.replicate 20 0 ++ m.data ++ pad)

/-- The sections of the whole list, in order. -/
def snapStream (s : State) (ver i : Nat) (l : List (List Byte)) (acc : List Byte) : SnapPart :=
  match l with
  | [] => .part s acc
  | e :: r =>
    match snapSection s i ver acc.length e with
    | .part s d => snapStream s ver (i + 1) r (acc ++ d)
    | x => x

/-- Send a stream as SNAP records of up to 4 KiB on port `p`. -/
def sendSnap (s : State) (p ver ofs : Nat) (d : List Byte) (fuel : Nat) : State :=
  match fuel with
  | 0 => s
  | j + 1 =>
    if d.isEmpty then s
    else
      let c := d.take 4096
      let dest := s.get (Reg.LNK_PORTp_PEER_MOD p)
      let s := putRecord s p 0 { typ := 9, len1 := c.length - 1, dest := dest, src := s.myId, addr := ofs,
                                 val := Config.snapStream ver % 2 ^ 32, data := c }
      let x := s.port p
      sendSnap (s.setPort p { x with reqs := x.reqs ++ [⟨9, dest, ofs, .snap⟩] }) p ver (ofs + c.length) (d.drop 4096) j

/-- The error status of a snapshot that is not delivered. -/
def snapError (ver : Nat) : Nat := 1 + Config.snapStatus ver % 8

/-- A snapshot ends without delivery: the record and the completion (R321, Table 17-4). -/
def snapFails (s : State) (n k ver : Nat) : State :=
  setResult (s.logErr { sev := 0, unit := 0, cause := 8, stamp := s.timeOf 71 }) n k (snapError ver) 0

/-- SNAPSHOT: the current version is streamed to host memory or to the role-15 port; the command completes when the last
write has been delivered. -/
def execSnapshot (n : Fin 64) (k : Nat) (resp : Resp) (s : State) : Host.Outcome State Fault Refusal :=
  if resp = .late ∨ memoryWaits s then .next s
  else
    mboxStart s n k 2 (fun s c =>
      let ver := s.get Reg.PLY_STEP_STEP
      let ents := (List.range (mbArg c 1)).map (fun i => hostRd s (mbArg c 0 + 16 * i) 16)
      if s.job.loaded = false then setResult s n k 5 0
      else if resp ≠ .ok then hostErr s n k (mbArg c 0)
      else
        match snapStream s ver 0 ents [] with
        | .bad => setResult s n k 1 0
        | .err a => setResult (s.logErr { sev := 0, unit := 0, cause := 8, stamp := s.timeOf 71 }) n k 3 a
        | .part s d =>
          if mbArg c 2 ≠ 0 then { hostWr s (mbArg c 2) d with snap := some ⟨n, k, ver, false⟩ }
          else
            match (List.range 16).find? (fun p => s.get (Reg.LNK_PORTp_CFG_ROLE p) = 15 && portUp s p) with
            | none => snapFails s n k ver
            | some p => sendSnap { s with snap := some ⟨n, k, ver, false⟩ } p ver 0 d (d.length / 4096 + 1))

/-- A SNAP record of this module has not been answered. -/
def snapOut (s : State) : Bool := s.ports.any (fun e => e.2.reqs.any (fun r => decide (r.who = .snap)))

/-- GO, where it waited for the snapshot (R321). -/
def releaseGo (s : State) : State :=
  if s.stepSt.goHeld then
    let s := { s with stepSt := { s.stepSt with goHeld := false } }
    if s.job.loaded then knotAddG s (stepKnot s 1) 1 else s
  else s

/-- SNAPSHOT_DELIVERED: the last write of the snapshot has been delivered, or the delivery has failed. -/
def execSnapshotDelivered (ok : Bool) (s : State) : Host.Outcome State Fault Refusal :=
  match s.snap with
  | none => .next s
  | some x =>
    if snapOut s then .next s
    else
      let s := { s with snap := none }
      finish (releaseGo (if ok && !x.failed then setResult s x.ring x.k 0 0 else snapFails s x.ring x.k x.version))

end Sys2Proof.Machine
end

