-- ==== Sys2Proof/Machine/Clock.lean ====
section
/-! DEFINITION. Clock regions, frequency changes, references and global time (R220 to R236, R412). -/
namespace Sys2Proof.Machine

/-- One tick in the units of the counters (R231). -/
def oneTick : Nat := 4294967296

/-- The frequency of a region in Hz (Table 9-3); the memory PHY regions run at their data rate ÷ 16. -/
def regionHz (s : State) (g : Nat) : Nat :=
  if g < 64 then s.get Reg.CLK_FREQ_CUR_MHZ * 1000000
  else if g < 68 then 1562500000
  else if g < 70 then
    match s.get Reg.MEM_CFG_RATE with
    | 0 => 800000000
    | 1 => 666687500
    | _ => 533312500
  else if g = 70 then 1000000000
  else 1200000000

/-- INC (R231): round(2^32 × 1,024 ÷ f) with f in MHz. -/
def incOf (hz : Nat) : Nat := (4294967296 * 1024000000 + hz / 2) / hz

/-- The part of a correction that this tick takes. -/
def corrShare (c : Int) (spread : Nat) : Int := if spread ≤ 1 then c else c / (spread : Int)

/-- Add a signed amount to a count. -/
def addInt (n : Nat) (d : Int) : Nat := ((n : Int) + d).toNat

/-- The periods that a region's generator completes in a tick, and the part carried on. -/
def periods (frac hz : Nat) : Nat × Nat := ((frac + hz) / 1024000000, (frac + hz) % 1024000000)

/-- A region's counter over one tick: INC for each period, or reference time while its generator is stopped; a spread
correction with it; held until the master reaches it (R231, R232). -/
def tickRegion (r : RegionSt) (master hz : Nat) (halt : Bool) : RegionSt :=
  let (n, fr) := periods r.frac hz
  let hold := r.hold && master < r.cnt
  let adv : Nat := if halt then oneTick else n * incOf hz
  let d : Int := if n = 0 ∧ halt = false then 0 else corrShare r.corr r.spread
  { cnt := if hold then r.cnt else addInt r.cnt ((adv : Int) + d), corr := r.corr - d, spread := r.spread - 1,
    hold := hold, skip := if halt then r.skip else r.skip - n, frac := fr }

/-- The compute cycles a Frame runs in a tick: its generator's periods less the edges that a stretch suppresses (R224). -/
def tickCycles (r : RegionSt) (hz : Nat) : Nat :=
  let n := (periods r.frac hz).1
  n - min n (r.skip - 1)

/-- The time master over one tick (R231, R233). -/
def tickMaster (s : State) : State :=
  let d := corrShare s.masterCorr s.masterSpread
  { s with
    master := addInt s.master (((oneTick - min oneTick s.masterHold : Nat) : Int) + d),
    masterHold := s.masterHold - oneTick, masterCorr := s.masterCorr - d, masterSpread := s.masterSpread - 1,
    source := s.source + 1 }

/-- A generator runs: locked, or in holdover on its held setting (R228). -/
def genRuns (s : State) (g : Nat) : Bool := s.on (Reg.CLK_GENg_STAT_LOCKED g) || s.on (Reg.CLK_GENg_STAT_HOLD g)

/-- Every clock region over one tick. -/
def tickRegions (s : State) : State :=
  let m := s.master
  (List.range 72).foldl (fun s g =>
    let r := s.region g
    let hz := regionHz s g
    let halt : Bool := freqStopped s && g < 64
    let s := if g < 64 && !halt && !stopped s && genRuns s g then
        s.put (Reg.FRM_CYCLES_COUNT g) (s.get (Reg.FRM_CYCLES_COUNT g) + tickCycles r hz) else s
    { s with regions := sput RegionSt.empty s.regions g (tickRegion r m hz halt) }) s

/-! ## Corrections (R232, R233) -/

/-- The size at which a correction is a step or a hold. -/
def stepLimit : Int := 64 * 4294967296

/-- A region corrects its counter towards a beacon (R232). -/
def correctRegion (s : State) (g : Nat) : State :=
  let r := s.region g
  let e : Int := (s.master : Int) - (r.cnt : Int)
  let set (s : State) (r : RegionSt) : State := { s with regions := sput RegionSt.empty s.regions g r }
  if e ≤ stepLimit ∧ -stepLimit ≤ e then set s { r with corr := e, spread := 1024, hold := false }
  else
    let s := s.bump Reg.CLK_TSTEPCNT_COUNT 1
    if 0 < e then set s { r with cnt := addInt r.cnt e, corr := 0, spread := 0, hold := false }
    else set s { r with corr := 0, spread := 0, hold := true }

/-- An error in half ticks as CLK_TERR holds it: R285 states no rounding of an odd number of half ticks, so it goes either
way (assumption 46). -/
def terrOf (h : Int) : Int := if h % 2 = 0 then h / 2 else if Config.halfTickUp h then (h + 1) / 2 else h / 2

/-- The master corrects its count by an error in half ticks (R233, R285): CLK_TERR keeps it. -/
def correctMaster (s : State) (h : Int) : State :=
  let s := s.put Reg.CLK_TERR_ERR (unsigned 32 (terrOf h))
  let e := h * 2147483648
  if e ≤ stepLimit ∧ -stepLimit ≤ e then { s with masterCorr := e, masterSpread := 1024, masterHold := 0 }
  else
    let s := s.bump Reg.CLK_TSTEPCNT_COUNT 1
    if 0 < e then { s with master := addInt s.master e, masterCorr := 0, masterSpread := 0, masterHold := 0 }
    else { s with masterCorr := 0, masterSpread := 0, masterHold := e.natAbs }

/-- BEACON: the master has reached a multiple of 1,024 ticks; every region but those in holdover corrects itself (R232). -/
def execBeacon (s : State) : Host.Outcome State Fault Refusal :=
  if s.beaconK < s.now / 1024 then
    finish ((List.range 72).foldl (fun s g => if s.on (Reg.CLK_GENg_STAT_HOLD g) then s else correctRegion s g)
      { s with beaconK := s.now / 1024 })
  else .next s

/-- The distance of a count from the nearest multiple of 1,024,000,000 ticks: the mark less the count. -/
def secondError (t : Nat) : Int :=
  let r := t % tickS
  if 2 * r < tickS then -(r : Int) else ((tickS - r : Nat) : Int)

/-- PPS_IN_EDGE: under SRC 2 an edge marks a second, unless it comes less than 0.9 s after the last accepted one (R412). -/
def execPpsInEdge (s : State) : Host.Outcome State Fault Refusal :=
  let early : Bool := match s.ppsT with
    | some t => decide (s.source < t + 921600000)
    | none => false
  if s.get Reg.CLK_TSYNC_SRC = 2 ∧ early = false then
    finish (correctMaster { s with ppsT := some s.source } (2 * secondError s.now))
  else .next s

/-- PPS_OUT: the master has crossed a multiple of 1,024,000,000 ticks, and the pin rises (R233). -/
def execPpsOut (s : State) : Host.Outcome State Fault Refusal :=
  if s.ppsOut < s.now / tickS then .next { s with ppsOut := s.now / tickS, ppsRise := some s.now } else .next s

/-- The level of TIME_PPS_OUT: high for 1 µs from its rise (R233). -/
def ppsLevel (s : State) : Bool :=
  match s.ppsRise with
  | some t => decide (s.now < t + tickUs)
  | none => false

/-! ## Stretching and phase (R222, R224) -/

/-- CLOCK_STRETCH: a Frame's droop detector fires; up to MAXSTRETCH edges are suppressed, then at least one full period runs
(R224, R332). -/
def execClockStretch (f : Fin 64) (edges : Nat) (s : State) : Host.Outcome State Fault Refusal :=
  if edges = 0 ∨ 4 < edges then .fault .illFormed
  else
    let n := min edges (s.get Reg.PWR_DROOP_CFG_MAXSTRETCH)
    let r := s.region f
    if r.skip ≠ 0 ∨ freqStopped s ∨ n = 0 then .next s
    else
      let g := { s.gov with edges := sput 0 s.gov.edges f (sget 0 s.gov.edges f + n) }
      .next { s.bump (Reg.FRM_STRETCHCNT_COUNT f) n with
        gov := g
        regions := sput RegionSt.empty s.regions f { r with skip := n + 1 } }

/-- PHASE_ERROR: a Frame crossing has drifted beyond its tolerance (R222). -/
def execPhaseError (f : Fin 64) (s : State) : Host.Outcome State Fault Refusal :=
  finish ((s.put Reg.CLK_STAT_PHASEERR 1).modErr
    { sev := 3, unit := 6, cause := 7, index := f, d0 := storedWord s (0x100B01C + 0x10000 * f), stamp := s.timeOf f })

/-! ## Frequency changes (R221, R226, R227) -/

/-- A target rounded down to a multiple of 25 MHz and clamped (R221). -/
def roundMhz (m : Nat) : Nat := min 2250 (max 800 (m / 25 * 25))

/-- The apply time: the first whole microsecond at least 2 µs ahead. -/
def applyTime (t : Nat) : Nat := (t + 2 * tickUs + (tickUs - 1)) / tickUs * tickUs

/-- A GO for a target (R227): it replaces a pending target before Ta, or is held until it can be accepted. While SAFE is
set it is rejected (R229). -/
def requestFreq (s : State) (m : Nat) : State :=
  let t := roundMhz m
  if s.on Reg.CLK_STAT_SAFE then s
  else
    match s.freq with
    | some x =>
      if x.stopped = false ∧ s.now < x.at_ then
        if t = s.get Reg.CLK_FREQ_CUR_MHZ then { s.put Reg.CLK_FREQ_CTL_PENDING 0 with freq := none }
        else { s with freq := some { x with mhz := t } }
      else { s with heldGo := some t }
    | none => { s with heldGo := some t }

/-- FREQ_GO: a write of CLK_FREQ_CTL with GO (R226, R227). -/
def execFreqGo (mhz : BitVec 12) (s : State) : Host.Outcome State Fault Refusal :=
  if hostOpen s 0x300004 then finish (requestFreq (s.put Reg.CLK_FREQ_CTL_TGT_MHZ mhz.toNat) mhz.toNat) else .next s

/-- A change is accepted: Ta is chosen and PENDING set. -/
def beginChange (s : State) (m : Nat) (backup restore : Bool) : State :=
  { s.put Reg.CLK_FREQ_CTL_PENDING 1 with freq := some ⟨m, applyTime s.now, false, backup, restore⟩ }

/-- 50 µs have passed since the last restart (R227). -/
def goOpen (s : State) : Bool :=
  match s.restartT with
  | some t => decide (t + 50 * tickUs ≤ s.now)
  | none => true

/-- GO_ACCEPT: a held GO is accepted; one for the frequency in force completes at once (R227). -/
def execGoAccept (s : State) : Host.Outcome State Fault Refusal :=
  match s.heldGo with
  | none => .next s
  | some m =>
    if s.on Reg.CLK_STAT_SAFE then .next { s with heldGo := none }
    else if s.freq.isSome ∨ goOpen s = false then .next s
    else if m = s.get Reg.CLK_FREQ_CUR_MHZ then .next { s with heldGo := none }
    else .next (beginChange { s with heldGo := none } m false false)

/-- The generators that relock in a change: the Frames', or every one where the tree changes. -/
def relocks (x : FreqChange) : List Nat := List.range (if x.backup || x.restore then 72 else 64)

/-- FREQ_STOP: at Ta every Frame stops and the generators relock (R226). -/
def execFreqStop (s : State) : Host.Outcome State Fault Refusal :=
  match s.freq with
  | some x =>
    if x.stopped = false ∧ x.at_ ≤ s.now then
      let s := { s with freq := some { x with stopped := true }, gov := { s.gov with stop := true } }
      .next ((relocks x).foldl (fun s g => s.put (Reg.CLK_GENg_STAT_LOCKED g) 0) s)
    else .next s
  | none => .next s

/-- The watchdogs and timeouts that pause for a stop (R226) begin `d` ticks later. -/
def shiftTimers (s : State) (d : Nat) : State :=
  { s with
    cores := s.cores.map (fun p => (p.1, { p.2 with since := p.2.since + d })),
    shut := s.shut.map (fun p => (p.1, { p.2 with
      reqT := p.2.reqT.map (· + d), batT := p.2.batT.map (· + d), unacked := p.2.unacked.map (fun r => { r with t := r.t + d }),
      asked := p.2.asked.map (fun r => { r with t := r.t + d }) })),
    stages := s.stages.map (fun p => (p.1, p.2.map (fun b => { b with t := b.t + d }))),
    notices := s.notices.map (fun p => (p.1, p.2.map (fun b => { b with t := b.t + d }))),
    mesh := s.mesh.map (fun p => (p.1, p.2.map (fun b => { b with t := b.t + d }))),
    glazeT := s.glazeT.map (· + d), aborts := s.aborts.map (fun a => { a with since := a.since + d }) }

/-- The state of the reference flags after a change of tree: every generator is locked to the tree in use. -/
def relockAll (s : State) (l : List Nat) (tree : Bool) : State :=
  l.foldl (fun s g =>
    let s := if tree then s.put (Reg.CLK_GENg_STAT_HOLD g) 0 else s
    s.put (Reg.CLK_GENg_STAT_LOCKED g) (1 - s.get (Reg.CLK_GENg_STAT_HOLD g))) s

/-- CLK_STAT.HOLDOVER follows the generators. -/
def syncHoldover (s : State) : State :=
  s.put Reg.CLK_STAT_HOLDOVER (b2n ((List.range 72).any (fun g => s.on (Reg.CLK_GENg_STAT_HOLD g))))

/-- FREQ_RESTART: at Ta + 1.5 µs every Frame restarts at the new frequency; a generator that has not locked stops the
module (R226, R227). -/
def execFreqRestart (unlocked : List (Fin 72)) (s : State) : Host.Outcome State Fault Refusal :=
  match s.freq with
  | none => .next s
  | some x =>
    if x.stopped = false ∨ s.now < x.at_ + 1536 then .next s
    else
      match unlocked.filter (fun g => (relocks x).contains g.val) with
      | g :: _ =>
        let s := s.put Reg.CLK_STAT_LOCKFAIL 1
        finish (s.modErr { sev := 3, unit := 11, cause := 3, index := g, d0 := storedWord s 0x300008, stamp := s.timeOf 71 })
      | [] =>
        let s := shiftTimers { s with freq := none, restartT := some s.now } (s.now - x.at_)
        let s := noteMhz ((s.put Reg.CLK_FREQ_CUR_MHZ x.mhz).put Reg.CLK_FREQ_CTL_PENDING 0)
        let s := (s.bump Reg.CLK_FCHGCNT_COUNT 1).put Reg.INT_ACK_FCHG 1
        let s := syncHoldover (relockAll s (relocks x) (x.backup || x.restore))
        finish (if x.restore then (s.put Reg.CLK_STAT_BACKUP 0).put Reg.CLK_STAT_SAFE 0 else s)

/-! ## References (R228 to R230) -/

def State.gen (s : State) (g : Nat) : GenSt := sget GenSt.empty s.gens g
def State.setGen (s : State) (g : Nat) (x : GenSt) : State := { s with gens := sput GenSt.empty s.gens g x }

/-- A clock error of severity C (Table 17-3, unit 11). -/
def clkCorr (s : State) (g cause : Nat) : State :=
  s.logErr { sev := 0, unit := 11, cause := cause, index := g, d0 := storedWord s 0x300008, stamp := s.timeOf 71 }

/-- A generator's reference is lost: flags and counter. -/
def noteLoss (s : State) (g : Nat) : State :=
  (s.put (Reg.CLK_GENg_STAT_REFLOSS g) 1).bump (Reg.CLK_GENg_STAT_LOSSCNT g) 1

/-- A generator enters holdover (R228). -/
def enterHold (s : State) (g : Nat) : State :=
  syncHoldover ((s.put (Reg.CLK_GENg_STAT_HOLD g) 1).put (Reg.CLK_GENg_STAT_LOCKED g) 0)

/-- REFERENCE_LOSS: the reference that a tree brings to a generator has been absent for 1 µs. The one in use: the generator holds its
frequency (R228). The primary one, on the backup tree: RESTORE waits for it (R230). -/
def execReferenceLoss (g : Fin 72) (tree : Bool) (s : State) : Host.Outcome State Fault Refusal :=
  let x := s.gen g
  let s := if tree then s else s.setGen g { x with lost := true }
  if tree ≠ s.on Reg.CLK_STAT_BACKUP ∨ s.on (Reg.CLK_GENg_STAT_HOLD g) then .next s
  else finish (clkCorr (enterHold (noteLoss (s.setGen g { s.gen g with holdT := s.now }) g) g) g 1)

/-- REFERENCE_RETURN: a reference returns. The one in use, within 1 ms: a generator in holdover relocks in place (R228). The primary one is
present from now on (R230). -/
def execReferenceReturn (g : Fin 72) (tree : Bool) (s : State) : Host.Outcome State Fault Refusal :=
  let x := s.gen g
  let s := if tree || !x.lost then s else s.setGen g { x with lost := false, presentT := s.now }
  if tree = s.on Reg.CLK_STAT_BACKUP ∧ s.on (Reg.CLK_GENg_STAT_HOLD g) ∧ s.now < x.holdT + tickMs then
    finish (syncHoldover ((s.put (Reg.CLK_GENg_STAT_HOLD g) 0).put (Reg.CLK_GENg_STAT_LOCKED g) 1))
  else .next s

/-- HOLDOVER_TIMEOUT: a generator has been in holdover for 1 ms; the die moves to the backup tree at 800 MHz (R229). -/
def execHoldoverTimeout (s : State) : Host.Outcome State Fault Refusal :=
  match (List.range 72).find? (fun g => s.on (Reg.CLK_GENg_STAT_HOLD g) && (s.gen g).holdT + tickMs ≤ s.now) with
  | none => .next s
  | some g =>
    if s.on Reg.CLK_STAT_BACKUP ∨ freqStopped s then .next s
    else
      let s := (s.put Reg.CLK_STAT_BACKUP 1).put Reg.CLK_STAT_SAFE 1
      finish (clkCorr (beginChange { s with heldGo := none } 800 true false) g 2)

/-- The first generator that has not seen its primary reference for 100 ms (R230). -/
def unstableGen (s : State) : Option Nat :=
  (List.range 72).find? (fun g => (s.gen g).lost || s.now < (s.gen g).presentT + 100 * tickMs)

/-- A write of 1 to CLK_REF_CTL.RESTORE (R230). -/
def restoreClock (s : State) : State :=
  if s.get Reg.CLK_STAT_BACKUP = 0 then s
  else
    match unstableGen s with
    | some g => clkCorr s g 4
    | none => if s.freq.isSome then s else beginChange s 800 false true

/-- RESTORE. -/
def execRestore (s : State) : Host.Outcome State Fault Refusal :=
  if hostOpen s 0x30000C then finish (restoreClock s) else .next s

end Sys2Proof.Machine
end

