-- ==== Sys2Proof/Machine/Mesh.lean ====
section
/-! DEFINITION. The mesh (R213 to R219, R223): forwarding by dimension order with replication, what an endpoint does with a packet, the
FIFOs between the edge Frames and the Weft ports, ECC of packets, the mesh watchdog. -/
namespace Sys2Proof.Machine

/-! ## Requests of this module that fail or are answered -/

/-- A request of this module ends with a REJECT (R184, R278): it is noted, and a Shuttle queue's task ends with cause 0x07; a read issued
before a cancel is only recorded (R183). -/
def reqRejected (s : State) (who : Origin) (typ dest addr cause port mod : Nat) : State :=
  let s := noteReject s cause typ port mod
  match who with
  | .shuttle f j =>
    let x := s.sh f j
    let key := placeKey (some dest) addr
    if typ = 2 then
      let s := s.setSh f j { x with asked := dropReq key x.asked }
      if s.on (Reg.FRM_SQj_STATE_CANCEL_BUSY f j) then syncBusy (lateRecord s f j) f j
      else shFault s f j 7 (dest * 2 ^ 48 + addr) x.item
    else
      let key := if typ = 8 then placeKey (some (65536 + dest)) addr else key
      syncBusy (shFault (s.setSh f j { x with unacked := dropReq key x.unacked }) f j 7 (dest * 2 ^ 48 + addr) x.item) f j
  | .snap => { s with snap := s.snap.map (fun x => { x with failed := true }) }
  | .knot => s

/-- The bytes of a read over the mesh reach the queue that asked (R182); those of a queue cancelled since are discarded (R183). -/
def gotData (s : State) (f j key : Nat) (d : List Byte) : State :=
  let x := s.sh f j
  let keep := !s.on (Reg.FRM_SQj_STATE_CANCEL_BUSY f j)
  syncBusy (s.setSh f j { x with
    asked := dropReq key x.asked, rbuf := if keep then sputList none x.rbuf key (d.map some) else x.rbuf }) f j

/-- A read over the mesh has failed: the queue's task ends with a cause of Table 7-7, or the failure is only recorded after a cancel
(R183). -/
def gotFault (s : State) (f j key cause addr : Nat) : State :=
  let x := s.sh f j
  let s := s.setSh f j { x with asked := dropReq key x.asked }
  if s.on (Reg.FRM_SQj_STATE_CANCEL_BUSY f j) then syncBusy (lateRecord s f j) f j else shFault s f j cause addr x.item

/-! ## The edge FIFOs (R223) -/

/-- The edge router takes what waits in the FIFO from Weft port `p`, while its Frame has a clock and its buffer room. -/
def edgePump (s : State) (p : Nat) : State :=
  let g := weftFrame p
  if frameStill s g then s
  else
    let q := s.meshQ g 5 0
    let o := sget [] s.edgeIn p
    let k := meshDepth - q.length
    { s.setMeshQ g 5 0 (q ++ (o.take k).map (fun x => { x with t := s.now })) with edgeIn := sput [] s.edgeIn p (o.drop k) }

/-- A packet enters the FIFO from Weft port `p`. -/
def fromWeft (s : State) (p : Nat) (x : MeshPkt) : State := edgePump { s with edgeIn := sput [] s.edgeIn p (sget [] s.edgeIn p ++ [x]) } p

/-- The FIFO from Weft port `p` has room. -/
def edgeRoom (s : State) (p : Nat) : Bool := (sget [] s.edgeIn p).length < fifoDepth

/-- A port can begin a record on a channel: no stream waits there, and it holds a credit and replay room. -/
def portFree (s : State) (p vc : Nat) : Bool :=
  let x := s.port p
  carries s p && x.retrain.isNone && (sget [] x.out vc).isEmpty && sget 0 x.credit vc < 256 && x.replay.length < 256

/-- A multicast write has reached every port of its group's mask, and each can send it: it goes out on all of them together (R283). -/
def mcastReady (s : State) (r : Record) : Bool :=
  (mcastPorts s (r.dest % 256)).all (fun q =>
    (match sget [] s.edgeOut q with
      | x :: _ => x.op = .send r
      | [] => false) && portFree s q (mcastVc s q r.src))

/-- Drop the head of the FIFO to a port. -/
def dropEdge (s : State) (p : Nat) : State := { s with edgeOut := sput [] s.edgeOut p ((sget [] s.edgeOut p).drop 1) }

/-- The origin of a packet's request. -/
def originOf (w : MeshWho) : Origin :=
  match w with
  | .shuttle f j => .shuttle f j
  | _ => .knot

/-- A multicast write that waited for its ports finds one of them down: it is refused, once, by the first that is (R287). -/
def mcastBlocked (s : State) (p : Nat) (r : Record) (w : MeshWho) : State :=
  if (mcastPorts s (r.dest % 256)).find? (fun q => !carries s q) = some p then
    match w with
    | .weft _ x => sendResp s (rejectRec s x 2)
    | w => reqRejected s (originOf w) 8 (r.dest % 256) r.addr 2 p s.myId
  else s

/-- The head of the FIFO to Weft port `p` leaves, if it can: a record of this module forms and waits for its answer (R277); a multicast
write goes out on all its ports; an answer goes to its place in the order of answers. -/
def edgeStep (s : State) (p : Nat) : Option State :=
  match sget [] s.edgeOut p with
  | [] => none
  | x :: _ =>
    match x.op, x.who with
    | .send r, w =>
      if r.typ = 8 then
        if mcastUp s (r.dest % 256) = false then some (mcastBlocked (dropEdge s p) p r w)
        else if mcastReady s r then some (mcastOut ((mcastPorts s (r.dest % 256)).foldl dropEdge s) (r.dest % 256) r)
        else none
      else if portUp s p ∧ 504 ≤ (sget [] (s.port p).out 0).length + (sget [] (s.port p).out 1).length then none
      else
        let s := dropEdge s p
        match sendReq s r (originOf w) with
        | .sent t => some t
        | .refused c => some (reqRejected s (originOf w) r.typ r.dest r.addr c p s.myId)
    | .data a d e, .weft q r => some (partDone (dropEdge s p) q r a d (if x.bad then some 3 else e.map (fun y => y.2)))
    | .ack a e, .weft q r => some (partDone (dropEdge s p) q r a [] (e.map (fun y => y.2)))
    | _, _ => some (dropEdge s p)

/-- What waits in the FIFO to Weft port `p` leaves as far as it can. -/
def edgeGo (s : State) (p fuel : Nat) : State :=
  match fuel with
  | 0 => s
  | k + 1 =>
    match edgeStep s p with
    | none => s
    | some t => edgeGo t p k

def edgeDrain (s : State) (p : Nat) : State := edgeGo s p (fifoDepth + 1)

/-- The FIFOs to every Weft port. -/
def edgesDrain (s : State) : State := (List.range 16).foldl edgeDrain s

/-! ## Endpoints -/

/-- Where the answer to a packet goes. -/
def MeshWho.dest (w : MeshWho) : Option MeshEnd :=
  match w with
  | .shuttle f _ => some (.frame f)
  | .core f _ => some (.frame f)
  | .weft p _ => some (.weft p)
  | .none => Option.none

/-- The endpoint at Frame `f` answers a packet (R214: on VC1). -/
def respond (s : State) (f : Nat) (p : MeshPkt) (op : MeshOp) : State :=
  match p.who.dest with
  | some d => meshSend s f ⟨[d], op, p.who, p.task, false, 0⟩
  | none => s

/-- A fault of Table 7-7 with its REJECT cause (Table 11-5). -/
def faultPair (c : Nat) : Nat × Nat := (c, if c = 7 then 1 else 3)

/-- A write that arrives marked uncorrectable is not performed, and the task it is charged to ends (R218). -/
def badPayload (s : State) (f addr : Nat) (p : MeshPkt) : State :=
  s.taskErr { sev := 1, unit := 6, cause := 4, index := f, task := p.task, addr := addr,
              d0 := storedWord s (0x100B01C + 0x10000 * f), stamp := s.timeOf f }

/-- The acknowledgement of a write that is done, or failed. -/
def ackWrite (s : State) (f : Nat) (p : MeshPkt) (addr : Nat) (err : Option Nat) : State :=
  respond s f p (.ack addr (err.map faultPair))

/-- Bytes written for a packet at Frame `f`. -/
def serveWrite (s : State) (f : Nat) (p : MeshPkt) (addr : Nat) (d : List Byte) : State :=
  if p.bad then ackWrite (badPayload s f addr p) f p addr (if p.task = 0 then some 4 else none)
  else
    let (t, e) := writeHere s addr d
    ackWrite t f p addr e

/-- The endpoint at Frame `f` takes a packet (R214, R218): its memory, its slice or its Knots serve a request; a queue or a core gets an
answer. `mem` is what the check of the words read finds. -/
def serve (s : State) (f : Nat) (p : MeshPkt) (mem : Ecc) : State :=
  match p.op with
  | .write a d => serveWrite s f p a d
  | .read a n =>
    match readHere s a n .ok mem with
    | (t, d, none) => respond t f p (.data a d none)
    | (t, _, some c) => respond t f p (.data a [] (some (faultPair c)))
  | .add a ety sat g v =>
    if p.bad then ackWrite (badPayload s f a p) f p a none
    else
      let (t, e) := addHere s g a ety sat v mem
      ackWrite t f p a e
  | .kadd k d => if p.bad then ackWrite (badPayload s f k p) f p k (if p.task = 0 then some 4 else none) else ackWrite (knotAddG s k d) f p k none
  | .kread k => respond s f p (.knot (s.knot (k / 256) (k % 256)))
  | .send r =>
    match p.who with
    | .weft _ _ => serveWrite s f p r.addr r.data
    | .shuttle g j =>
      if p.bad then badPayload s f r.addr p
      else
        match writeHere s r.addr r.data with
        | (t, none) => t
        | (t, some c) => shFault t g j c r.addr (t.sh g j).item
    | _ => s
  | .data a d err =>
    match p.who, err with
    | .shuttle g j, none => if p.bad then gotFault s g j (placeKey none a) 4 a else gotData s g j (placeKey none a) d
    | .shuttle g j, some (c, _) => gotFault s g j (placeKey none a) c a
    | _, _ => s
  | .ack a err =>
    match p.who, err with
    | .shuttle g j, none => answered s (.shuttle g j) (placeKey none a)
    | .shuttle g j, some (c, _) => shFault (answered s (.shuttle g j) (placeKey none a)) g j c a (s.sh g j).item
    | _, _ => s
  | .knot v =>
    match p.who with
    | .core g c =>
      match (s.core g c).kread with
      | some d =>
        if p.bad then (s.setCore g c { s.core g c with kread := none }).taskErr
          { sev := 1, unit := 6, cause := 4, index := f, task := p.task, d0 := storedWord s (0x100B01C + 0x10000 * f), stamp := s.timeOf f }
        else advance ((s.setCore g c { s.core g c with kread := none }).setGreg g c d (BitVec.ofNat 64 v)) g c
      | none => s
    | _ => s

/-- The endpoint at Frame `f` must wait: for LPDDR (R195, R207). -/
def serveHeld (s : State) (p : MeshPkt) : Bool :=
  match p.op with
  | .write a d => memHeld s a d.length true
  | .read a n => memHeld s a n false
  | .add a t _ _ _ => memHeld s a (grpBytes t) true
  | .send r => memHeld s r.addr r.data.length true
  | _ => false

/-- The endpoint at Frame `f` can take a packet: a request only when its answer can go onto VC1 (R214). -/
def serveRoom (s : State) (f : Nat) (p : MeshPkt) : Bool :=
  p.op.vc = 1 || ((p.who.dest.isNone || (meshRoom s f 0 1 && (sget [] s.meshOut (3 * f + 1)).isEmpty)) && !serveHeld s p)

/-! ## Routers (R214, R217) -/

/-- The branches of a packet at router `f`: the next input ports, each once. -/
def branches (f : Nat) (p : MeshPkt) : List (Nat × Nat) :=
  ((p.dsts.filter (fun d => d.router ≠ f)).map (fun d => meshNext f d.router)).eraseDups

/-- Every branch of a packet has room (R217): the buffers of the next routers, and what leaves the mesh here. -/
def branchRoom (s : State) (f v : Nat) (p : MeshPkt) : Bool :=
  (branches f p).all (fun b => meshRoom s b.1 b.2 v) &&
  (p.dsts.filter (fun d => d.router = f)).all (fun d =>
    match d with
    | .frame _ => serveRoom s f p
    | .weft q => (sget [] s.edgeOut q).length < fifoDepth)

/-- A packet goes to every branch at once (R217). -/
def sendOn (s : State) (f v : Nat) (p : MeshPkt) (mem : Ecc) : State :=
  let s := (branches f p).foldl (fun s b => meshPut s b.1 b.2 v { p with dsts := p.dsts.filter (fun d => d.router ≠ f && meshNext f d.router = b) }) s
  (p.dsts.filter (fun d => d.router = f)).foldl (fun s d =>
    match d with
    | .frame _ => serve s f p mem
    | .weft q => edgeDrain { s with edgeOut := sput [] s.edgeOut q (sget [] s.edgeOut q ++ [p]) } q) s

/-- A router notes a mesh error: the port of the first (Table 9-6). -/
def meshErrPort (s : State) (f port : Nat) : State :=
  if s.on (Reg.FRM_MESH_ERR_HDR f) || s.on (Reg.FRM_MESH_ERR_WDOG f) then s else s.put (Reg.FRM_MESH_ERR_PORT f) port

/-- What the check of a packet's payload finds at the receiving router (R218). -/
def payloadCheck (s : State) (f : Nat) (ecc : Ecc) : State :=
  match ecc with
  | .single => (s.bump (Reg.FRM_MESH_ECCCNT_CORR f) 1).logErr
      { sev := 0, unit := 6, cause := 3, index := f, d0 := storedWord s (0x100B01C + 0x10000 * f), stamp := s.timeOf f }
  | .double => s.bump (Reg.FRM_MESH_ECCCNT_UNCORR f) 1
  | _ => s

/-- After a packet has left an input buffer, what waits for its place comes in. -/
def refill (s : State) (f port v : Nat) : State :=
  if port = 0 then meshPump s f v
  else if port = 5 ∧ v = 0 then (List.range 16).foldl (fun s p => if weftFrame p = f then edgePump s p else s) s
  else s

/-- MESH_PACKET: a router passes on the packet at the head of an input buffer, or its endpoint takes it; without room on every branch the
packet stays (R217). A Frame without a clock edge moves none (R224, R226). -/
def execMeshPacket (f : Fin 64) (port : Fin 6) (vc : Fin 3) (ecc mem : Ecc) (s : State) : Host.Outcome State Fault Refusal :=
  match s.meshQ f port vc with
  | [] => .next s
  | p :: r =>
    if frameStill s f then .next s
    else if ecc = .header then
      let s := ((meshErrPort (s.setMeshQ f port vc r) f port).put (Reg.FRM_MESH_ERR_HDR f) 1).bump (Reg.FRM_MESH_ECCCNT_UNCORR f) 1
      finish (s.modErr { sev := 3, unit := 6, cause := 5, index := f, d0 := storedWord s (0x100B01C + 0x10000 * f), stamp := s.timeOf f })
    else if branchRoom s f vc p = false then .next s
    else
      let p := if ecc = .double then { p with bad := true } else p
      finish (refill (sendOn ((payloadCheck s f ecc).setMeshQ f port vc r) f vc p mem) f port vc)

/-! ## The watchdog (R219) -/

/-- A packet waits to leave by an edge port whose Weft link is in retry. -/
def waitsRetry (s : State) (p : MeshPkt) : Bool :=
  p.dsts.any (fun d => match d with | .weft q => s.on (Reg.LNK_PORTp_STAT_RETRY q) | .frame _ => false)

/-- The packets that wait at the edge Frame of Weft port `p` to leave by it are held to have come `d` ticks later: its link was in retry
for that long (R219). -/
def pauseEdge (s : State) (p d : Nat) : State :=
  { s with mesh := s.mesh.map (fun e =>
      if e.1 / 18 = weftFrame p then (e.1, e.2.map (fun x => if x.dsts.contains (.weft p) then { x with t := x.t + d } else x)) else e) }

/-- MESH_WATCHDOG: a router has held a packet of an input port for 100 µs (R219). It pauses during a frequency stop, and for a packet that
waits for an edge port whose link is in retry. -/
def execMeshWatchdog (f : Fin 64) (port : Fin 6) (s : State) : Host.Outcome State Fault Refusal :=
  let held := [0, 1, 2].any (fun v =>
    match s.meshQ f port v with
    | p :: _ => decide (p.t + 100 * tickUs ≤ s.now) && !(waitsRetry s p && p.dsts.any (fun d => d.router = f.val))
    | [] => false)
  if held ∧ freqStopped s = false then
    let s := (meshErrPort s f port).put (Reg.FRM_MESH_ERR_WDOG f) 1
    finish (s.modErr { sev := 3, unit := 6, cause := 6, index := f, d0 := storedWord s (0x100B01C + 0x10000 * f),
                       stamp := s.timeOf f })
  else .next s

end Sys2Proof.Machine
end

