-- ==== Sys2Proof/Machine/Weft.lean ====
section
/-! DEFINITION. The Weft ports' commands (R266 to R288, R292, R296): flits and retry, lanes, training, going down, records
that arrive, time exchange, LNK_KADD. -/
namespace Sys2Proof.Machine

/-- A Weft error of severity C (Table 17-3, unit 9). -/
def lnkCorr (s : State) (p cause : Nat) : State :=
  s.logErr { sev := 0, unit := 9, cause := cause, index := p, d0 := storedWord s (0x601004 + 0x40 * p),
             stamp := s.timeOf (64 + p / 4) }

/-- Units of the ring stream of a flex port in role 8 (R281), taken while they are whole. -/
def flexGo (s : State) (p : Nat) (st : List Byte) (fuel : Nat) : State × List Byte :=
  match fuel with
  | 0 => (s, st)
  | k + 1 =>
    if st.length < 8 then (s, st)
    else
      let x := leAt st 0 8
      if x = 0 then flexGo s p (st.drop 8) k
      else if x % 4 = 3 then flexGo (flexUnit s p x []) p (st.drop 8) k
      else if st.length < 264 then (s, st)
      else flexGo (flexUnit s p x ((st.drop 8).take 256)) p (st.drop 264) k

/-- What stands in a receive buffer is looked through: ring units at a role 8 port, records at another. -/
def scanRx (s : State) (p vc : Nat) (st : List Byte) : State × List Byte :=
  if s.get (Reg.LNK_PORTp_CFG_ROLE p) = 8 then flexGo s p st (st.length / 8 + 1) else purgeGo s p vc st (st.length / 8 + 1)

/-- A body has been accepted into a receive buffer. -/
def takeBody (s : State) (p vc : Nat) (body : List Byte) : State :=
  let s := s.setPort p { s.port p with rxT := s.timeOf (64 + p / 4) }
  let st := sget [] (s.port p).rx vc ++ body
  setRx (scanRx s p vc st).1 p vc st (scanRx s p vc st).2

/-! ## Retry (R267, R270) -/

/-- Replay or lane retraining begins: STAT.RETRY. -/
def retryOn (s : State) (p : Nat) : State :=
  if s.on (Reg.LNK_PORTp_STAT_RETRY p) then s
  else (s.setPort p { s.port p with retryT := s.now }).put (Reg.LNK_PORTp_STAT_RETRY p) 1

/-- It ends: the watchdogs that paused for it go on (R104, R219). -/
def retryOff (s : State) (p : Nat) : State :=
  if s.on (Reg.LNK_PORTp_STAT_RETRY p) then
    let d := s.now - (s.port p).retryT
    pauseEdge (pauseHops (s.put (Reg.LNK_PORTp_STAT_RETRY p) 0) p d) p d
  else s

/-! ## Flits (R268 to R271) -/

/-- An idle flit leaves, with acknowledgement and owed credits. -/
def sendIdle (s : State) (p : Nat) (nak : Bool) : State :=
  let x := s.port p
  let fl := makeFlit s p 0 x.txSeq x.cred nak true []
  s.setPort p { payCredits x x.cred with
    sent := x.sent ++ [fl], idle := if x.cred = 0 then x.idle else x.idle ++ [(x.txSeq, x.cred)] }

/-- The flits of a replay buffer that come after the acknowledged one. -/
def unacked (l : List (Nat × List Byte)) (a : Nat) : List (Nat × List Byte) :=
  l.filter (fun e => (e.1 + 4096 - a) % 4096 ≠ 0 && (e.1 + 4096 - a) % 4096 ≤ 256)

/-- Credits that come back, 2 bits for each channel. -/
def takeCredits (c : Sparse Nat) (cred : Nat) : Sparse Nat :=
  (List.range 4).foldl (fun c v => sput 0 c v (sget 0 c v - (cred / 4 ^ v) % 4)) c

/-- Send again every flit that waits in the replay buffer, in order, each with the credits that it carried before, for the receiver has
ignored them (R270). -/
def resend (s : State) (p : Nat) : State :=
  (s.port p).replay.foldl (fun s e =>
    let x := s.port p
    let fl := makeFlit s p ((leAt e.2 0 4) % 4) e.1 (bits (leAt e.2 0 4) 23 16) false false ((e.2.drop 4).take 504)
    s.setPort p { x with
      replay := x.replay.map (fun y => if y.1 = e.1 then (e.1, fl) else y), sent := x.sent ++ [fl] }) s

/-- On a NAK of what follows flit `a`: the credits of the idle flits that the receiver has discarded are owed again, to be recovered from
later flits (R270). Those are the ones that left behind a discarded flit, and, where no flit is to be replayed, the latest, whose own
failure the NAK tells of (DESIGN CHOICE, assumption 67). -/
def recoverIdle (x : PortSt) (a : Nat) : PortSt :=
  let lost := if x.replay.isEmpty then (x.idle.drop (x.idle.length - 1)) else x.idle.filter (fun e => e.1 ≠ (a + 1) % 4096)
  { x with owe := lost.foldl (fun o e => oweAgain o e.2) x.owe, idle := [] }

/-- The link word of an accepted or good idle flit takes effect (R270). -/
def takeLink (s : State) (p lw : Nat) : State :=
  let x := s.port p
  let a := bits lw 15 4
  let rep := if bit lw 2 then unacked x.replay a else x.replay
  let newly : Bool := rep.length < x.replay.length
  let s := s.setPort p { x with
    replay := rep, ackT := if newly then s.now else x.ackT, credit := takeCredits x.credit (bits lw 23 16),
    idle := if newly && !bit lw 3 then x.idle.filter (fun e => e.1 = x.txSeq) else x.idle }
  let s := if newly ∧ x.retrain.isNone then retryOff s p else s
  if bit lw 3 then
    let s := s.setPort p (recoverIdle (s.port p) a)
    if rep.isEmpty then s
    else
      resend (if s.on (Reg.LNK_PORTp_STAT_RETRY p) then s else (retryOn s p).bump (Reg.LNK_PORTp_REPLAYCNT_COUNT p) 1) p
  else s

/-- What the port puts out in a step that has received a flit: the flits that can be formed, or an idle one. -/
def answerFlit (s : State) (p : Nat) : State :=
  let s := edgesDrain (pump s p)
  if (s.port p).sent.isEmpty then sendIdle s p false else s

/-- A flit that fails its check is discarded; the first of a run asks for replay (R270). -/
def badFlit (s : State) (p : Nat) : State :=
  let x := s.port p
  if x.discard then sendIdle s p false
  else sendIdle (s.setPort p { x with discard := true, nakT := s.now }) p true

/-- Symbol errors that the decoder corrects in a codeword (R266). -/
def fecLimit : Nat := 15

/-- A codeword with errors that the decoder corrects, or with more. -/
def cwCorrected (c : Codeword) : Bool := c.errs ≠ 0 && c.errs ≤ fecLimit
def cwLost (c : Codeword) : Bool := fecLimit < c.errs

/-- The codewords that end with a flit are counted. -/
def countFec (s : State) (p : Nat) (l : List Codeword) : State :=
  (s.bump (Reg.LNK_PORTp_FECCNT_COUNT p) (l.filter (fun c => c.ends && cwCorrected c)).length).bump
    (Reg.LNK_PORTp_CRCCNT_UNCORR p) (l.filter (fun c => c.ends && cwLost c)).length

/-- FLIT: a flit reaches port `p` (R266, R269, R270). -/
def execFlit (p : Fin 16) (bytes : List Byte) (cws : List Codeword) (s : State) : Host.Outcome State Fault Refusal :=
  if bytes.length ≠ 512 then .fault .illFormed
  else if portUp s p = false ∨ (s.port p).retrain.isSome ∨ stopped s then .next s
  else
    let s := countFec (s.setPort p { s.port p with sent := [] }) p cws
    let x := s.port p
    let good : Bool := leAt bytes 508 4 = flitCrc (bytes.take 508) x.rxSeq s.myId p
    let s := if good then s else s.bump (Reg.LNK_PORTp_CRCCNT_FAIL p) 1
    if good = false ∨ cws.any cwLost then finish (badFlit s p)
    else
      let lw := leAt bytes 0 4
      if bit lw 24 then finish (answerFlit (takeLink s p lw) p)
      else
        let s := s.setPort p { s.port p with rxSeq := (x.rxSeq + 1) % 4096, discard := false }
        finish (answerFlit (takeBody (takeLink s p lw) p (lw % 4) ((bytes.drop 4).take 504)) p)

/-- NAK_REPEAT: no good flit within 2 µs of a NAK (R270). -/
def execNakRepeat (p : Fin 16) (s : State) : Host.Outcome State Fault Refusal :=
  let x := s.port p
  if portUp s p ∧ x.discard ∧ x.retrain.isNone ∧ x.nakT + 2 * tickUs ≤ s.now then
    .next (sendIdle (s.setPort p { x with nakT := s.now, sent := [] }) p true)
  else .next s

/-! ## Going down and training (R267, R273, R287) -/

/-- A port goes down (R287): its buffers are discarded, the requests of this module that it has not answered are answered here with REJECT
cause 2, and what waits in the FIFO to it is refused in the same way, so that its credits return to the mesh. -/
def portDown (s : State) (p : Nat) : State :=
  if s.get (Reg.LNK_PORTp_STAT_STATE p) = 0 then s
  else
    let s := retryOff s p
    let x := s.port p
    let gone := s.mcasts.filter (fun m => (mcastPorts s m.group).contains p)
    let s := { s.setPort p { PortSt.empty with downT := s.now, toldErr := x.toldErr } with
      withheld := s.withheld.filter (fun w => w.port ≠ some p),
      mcasts := s.mcasts.filter (fun m => !(mcastPorts s m.group).contains p),
      flexUsed := sput 0 (sput 0 s.flexUsed (2 * p) 0) (2 * p + 1) 0,
      timeReq := match s.timeReq with
        | some (q, t) => if q = p then none else some (q, t)
        | none => none }
    let s := (s.put (Reg.LNK_PORTp_STAT_STATE p) 0).put (Reg.LNK_PORTp_STAT_DOWN_EVT p) 1
    let s := lnkCorr s p 3
    let s := x.reqs.foldl (fun s r => reqRejected s r.who r.typ r.dest r.addr 2 p s.myId) s
    edgesDrain (gone.foldl (fun s m => reqRejected s m.who 8 m.group m.addr 2 p s.myId) s)

/-- RETRY_EXHAUSTED: flits are unacknowledged and none has been newly acknowledged for 1 ms (R271). -/
def execRetryExhausted (p : Fin 16) (s : State) : Host.Outcome State Fault Refusal :=
  let x := s.port p
  if portUp s p ∧ ¬ x.replay.isEmpty ∧ x.ackT + tickMs ≤ s.now then finish (portDown s p) else .next s

/-- Good lanes of a port. -/
def goodLanes (s : State) (p : Nat) : List Nat :=
  (List.range 5).filter (fun i => !bit (s.get (Reg.LNK_PORTp_STAT_LANE_BAD p)) i)

/-- Lane retraining onto `k` lanes begins: lanes that carried traffic and are good go on carrying it, with good ones beside them. -/
def beginRetrain (s : State) (p k : Nat) : State :=
  let good := goodLanes s p
  let keep := (s.port p).lanes.filter (fun i => good.contains i)
  retryOn (s.setPort p { s.port p with retrain := some k, lanes := (keep ++ good.filter (fun i => !keep.contains i)).take k }) p

/-- The port falls to 2 lanes (R267). -/
def degrade (s : State) (p : Nat) : State := lnkCorr (s.put (Reg.LNK_PORTp_STAT_DEGRADE p) 1) p 2

/-- LANE_FAIL: a lane fails; the port retrains onto the spare, or onto 2 lanes, or goes down, by its count of good lanes (R267). A port on
2 lanes stays on them: it returns to 4 only when it trains again. -/
def execLaneFail (p : Fin 16) (lane : Fin 5) (s : State) : Host.Outcome State Fault Refusal :=
  if portUp s p = false ∨ bit (s.get (Reg.LNK_PORTp_STAT_LANE_BAD p)) lane then .next s
  else
    let wide : Bool := s.get (Reg.LNK_PORTp_STAT_STATE p) = 2 && (s.port p).retrain ≠ some 2
    let s := s.put (Reg.LNK_PORTp_STAT_LANE_BAD p) (setBitTo (s.get (Reg.LNK_PORTp_STAT_LANE_BAD p)) lane 1)
    let n := (goodLanes s p).length
    if n < 2 then finish (portDown s p)
    else if 4 ≤ n then finish (lnkCorr (beginRetrain s p (if wide then 4 else 2)) p 1)
    else finish (degrade (beginRetrain s p 2) p)

/-- PORT_RETRAIN_DONE: lane retraining ends (R267). -/
def execPortRetrainDone (p : Fin 16) (s : State) : Host.Outcome State Fault Refusal :=
  let x := s.port p
  match x.retrain with
  | some k =>
    let s := s.setPort p { x with retrain := none, sent := [] }
    finish (edgesDrain (pump (retryOff (s.put (Reg.LNK_PORTp_STAT_STATE p) (if k = 4 then 2 else 3)) p) p))
  | none => .next s

/-- LOSS_OF_SIGNAL (R287). -/
def execLossOfSignal (p : Fin 16) (s : State) : Host.Outcome State Fault Refusal := finish (portDown s p)

/-- The peer that a port's role fixes (Table 11-2): its module, and its port. -/
def peerOk (s : State) (p : Nat) (seen : Peer) : Bool :=
  let r := s.get (Reg.LNK_PORTp_CFG_ROLE p)
  rolePeer s p = some seen.mod.val &&
    (if r = 1 then seen.port.val = 6 - p
     else if r ≤ 7 then seen.port.val = (if (r - 2) % 2 = 0 then 7 + (r - 2) + 1 else 7 + (r - 2) - 1)
     else if 9 ≤ r ∧ r ≤ 14 then 13 ≤ seen.port.val
     else seen.port.val = s.get (Reg.LNK_PORTp_CFG_PEER_PORT p) && (r ≠ 8 || seen.mod.val / 8 = s.myId / 8))

/-- The port has a peer to reach. -/
def hasPeer (s : State) (p : Nat) : Bool := (rolePeer s p).isSome

/-- A port stays down, or goes down, with nothing in its buffers. -/
def restPort (s : State) (p : Nat) (told : Bool) : State :=
  (s.setPort p { PortSt.empty with downT := s.now, toldErr := told }).put (Reg.LNK_PORTp_STAT_STATE p) 0

/-- A peer that the role does not fix (R273, R287): the port sets CABLE_ERR; the first such failure since it was up, or since the host
cleared CABLE_ERR, sets DOWN_EVT too and is reported. -/
def cableErr (s : State) (p : Nat) : State :=
  let told := (s.port p).toldErr
  let s := restPort (s.put (Reg.LNK_PORTp_STAT_CABLE_ERR p) 1) p true
  if told then s else lnkCorr (s.put (Reg.LNK_PORTp_STAT_DOWN_EVT p) 1) p 4

/-- The port comes up on the lanes that train, 4 of them or 2, by the worse direction, with sequence numbers and credits reset (R267,
R287). -/
def upPort (s : State) (p : Nat) (y : Peer) : State :=
  let l := (y.lanes.map (fun i => i.val)).eraseDups
  let k := if 4 ≤ min l.length y.far then 4 else 2
  let s := s.setPort p { PortSt.empty with lanes := l.take k }
  let s := s.put (Reg.LNK_PORTp_STAT_LANE_BAD p) (((List.range 5).filter (fun i => !l.contains i)).foldl (fun a i => a + 2 ^ i) 0)
  let s := s.put (Reg.LNK_PORTp_STAT_STATE p) (if k = 4 then 2 else 3)
  if k = 4 then s else degrade s p

/-- One attempt to train (R267, R273): with no far end, or fewer than 2 lanes, the port stays down, and so it does with a wrong peer;
else it comes up. -/
def trainPort (s : State) (p : Nat) (seen : Option Peer) : State :=
  match seen with
  | none => restPort s p (s.port p).toldErr
  | some y =>
    if min (y.lanes.map (fun i => i.val)).eraseDups.length y.far < 2 then restPort s p (s.port p).toldErr
    else
      let s := (s.put (Reg.LNK_PORTp_PEER_MOD p) y.mod).put (Reg.LNK_PORTp_PEER_PORT p) y.port
      if peerOk s p y then upPort s p y else cableErr s p

/-- The ports retry: in service, or in the boot phases that follow their first training. -/
def portsRetry (s : State) : Bool :=
  s.get Reg.STU_BOOT_STAT_MODE = 1 || (s.get Reg.STU_BOOT_STAT_MODE = 0 && 6 ≤ s.get Reg.STU_BOOT_STAT_PHASE)

/-- PORT_TRAIN_RETRY: a down port with a role tries to train, every 100 ms (R287). -/
def execPortTrainRetry (p : Fin 16) (seen : Option Peer) (s : State) : Host.Outcome State Fault Refusal :=
  if portUp s p = false ∧ hasPeer s p ∧ s.get (Reg.LNK_PORTp_CTL_DISABLE p) = 0 ∧ stopped s = false ∧ portsRetry s ∧
      s.on Reg.STU_PINS_PERST = false ∧
      (s.get (Reg.LNK_PORTp_STAT_STATE p) = 1 ∨ (s.port p).downT + 100 * tickMs ≤ s.now) then
    finish (trainPort s p seen)
  else .next s

/-- A write of 1 to LNK_PORTp_CTL.RETRAIN takes the port down and trains it again (R267). -/
def retrainPort (s : State) (p : Nat) : State :=
  let s := portDown s p
  if hasPeer s p ∧ s.get (Reg.LNK_PORTp_CTL_DISABLE p) = 0 then s.put (Reg.LNK_PORTp_STAT_STATE p) 1 else s

/-- RETRAIN. -/
def execRetrain (p : Fin 16) (s : State) : Host.Outcome State Fault Refusal :=
  if hostOpen s 0x601008 then finish (retrainPort s p) else .next s

/-- LNK_PORTp_CTL.DISABLE set to 1 holds the port down (R287). -/
def disablePort (s : State) (p : Nat) : State :=
  (portDown (s.put (Reg.LNK_PORTp_CTL_DISABLE p) 1) p).put (Reg.LNK_PORTp_STAT_STATE p) 0

/-- DISABLE. -/
def execDisable (p : Fin 16) (s : State) : Host.Outcome State Fault Refusal :=
  if hostOpen s 0x601008 then finish (disablePort s p) else .next s

/-! ## Records (R276 to R283) -/

/-- A record of type `t` cannot be taken from port `p` now: the port is down or carries none, or a request before it is held back (R295),
or there is no room to reserve for its answer (R275). -/
def heldBack (s : State) (p t : Nat) (r : Record) : Bool :=
  !carries s p || stopped s || (isRequest t && (s.withheld.any (fun w => w.port = some p) || !answerRoom s r))

/-- A record arrives at port `p`, which can take it. -/
def arrives (s : State) (p t : Nat) (r : Record) (k : State → State) : Host.Outcome State Fault Refusal :=
  if r.wfAs t = false then .fault .illFormed
  else if heldBack s p t r then .next s
  else finish (k (rxConsume s p r))

/-- A request for this module's Frames waits for the FIFO to them (R223). -/
def arrivesIn (s : State) (p t : Nat) (r : Record) (wait : Bool) (k : State → State) : Host.Outcome State Fault Refusal :=
  if r.wfAs t ∧ r.dest = s.myId ∧ (!edgeRoom s p || wait) then .next s else arrives s p t r k

/-- A record for this module is delivered; another is forwarded, refused where its way is blocked, or malformed (R281). -/
def routed (s : State) (p : Nat) (r : Record) (k : State → State) : State :=
  if r.dest = s.myId then k s
  else if inFabric s r.dest = false then malformed s p r
  else
    match forward s r with
    | some t => t
    | none => if isRequest r.typ then answerNow s p r (rejectRec s r 2) else s

/-- A request for `n` bytes at `a` goes to the Frames that serve them, in pieces of one granule in address order (R279). -/
def sendParts (s : State) (p : Nat) (r : Record) (n : Nat) (op : Nat → Nat → MeshOp) : State :=
  let l := granules ⟨none, r.addr, n, 0⟩ (n / 256 + 2)
  l.foldl (fun s x => fromWeft s p ⟨[.frame ((homeFrame s x.addr).getD 0)], op x.addr x.len, .weft p r, 0, false, 0⟩) (openReq s p r l.length)

/-- WRITE: delivered and acknowledged, or refused (R278, R188, R203). -/
def execWrite (p : Fin 16) (rec : Record) (s : State) : Host.Outcome State Fault Refusal :=
  arrivesIn s p 1 rec false (fun s => routed s p rec (fun s =>
    let n := rec.data.length
    if backed s rec.addr n = false then answerNow s p rec (rejectRec s rec 1)
    else if regionOf s rec.addr = .host then answerNow (devWrite s rec.addr rec.data).st p rec (ackRec s rec)
    else sendParts s p rec n (fun a m => .write a (bytesAt rec.data (a - rec.addr) m))))

/-- READ: served with RDATA, or refused; `resp` is the host's answer to a read of host memory, which may not have come yet (R278, R341). -/
def execRead (p : Fin 16) (rec : Record) (resp : Resp) (s : State) : Host.Outcome State Fault Refusal :=
  arrivesIn s p 2 rec false (fun s => routed s p rec (fun s =>
    let n := rec.len1 + 1
    if backed s rec.addr n = false then answerNow s p rec (rejectRec s rec 1)
    else if regionOf s rec.addr = .host then
      (if resp = .late then openReq s p rec 1
       else if resp = .hostUR ∨ resp = .hostCA then answerNow s p rec (rejectRec s rec 7)
       else answerNow s p rec (dataRec s rec (rawBytes s rec.addr n)))
    else sendParts s p rec n (fun a m => .read a m)))

/-- Take the oldest request out of a port's list. -/
def takeReq (q : PendReq → Bool) (l : List PendReq) : Option (PendReq × List PendReq) :=
  match l with
  | [] => none
  | x :: r => if q x then some (x, r) else (takeReq q r).map (fun y => (y.1, x :: y.2))

/-- Take the oldest unanswered request that satisfies `q`, on the first port that has one. -/
def popReq (s : State) (q : PendReq → Bool) : Option (PendReq × State) :=
  (List.range 16).findSome? (fun p =>
    (takeReq q (s.port p).reqs).map (fun y => (y.1, s.setPort p { s.port p with reqs := y.2 })))

/-- RDATA: the bytes of a READ reach the queue that asked (R278); those of a request that the queue has given up are discarded. -/
def execRdata (p : Fin 16) (rec : Record) (s : State) : Host.Outcome State Fault Refusal :=
  arrives s p 3 rec (fun s => routed s p rec (fun s =>
    match popReq s (fun x => x.typ = 2 && x.dest = rec.src && x.addr = rec.addr) with
    | none => malformed s p rec
    | some (x, s') =>
      match x.who with
      | .shuttle f j =>
        let key := placeKey (some rec.src) rec.addr
        match (s'.sh f j).asked.find? (fun a => a.key = key) with
        | some a => if a.len = rec.len1 + 1 then gotData s' f j key rec.data else malformed s p rec
        | none => s'
      | _ => s'))

/-- Unanswered requests to module `m` that an ACK completes. -/
def owedAcks (s : State) (m : Nat) : Nat :=
  (List.range 16).foldl (fun a p => a + ((s.port p).reqs.filter (fun x => x.dest = m && x.typ ≠ 2)).length) 0

/-- Module `m` can be a member that still has to answer a multicast write: the tree reaches it by the first hop of the root's route to it
(R282). -/
def McastSt.owedBy (s : State) (m : Nat) (c : McastSt) : Bool :=
  !c.acked.contains m &&
    (match nextHop s s.myId m with
      | some (p, _) => (mcastPorts s c.group).contains p
      | none => s.on (Reg.LNK_MGRPg_LOCAL c.group))

/-- Member `m` has answered the oldest multicast write that it owes: with NMEM answers the write is delivered (R283). -/
def mcastAck (s : State) (m : Nat) (l : List McastSt) (acc : List McastSt) : State :=
  match l with
  | [] => s
  | c :: r =>
    if c.owedBy s m then
      (if c.due ≤ 1 then answered { s with mcasts := acc.reverse ++ r } c.who (mcastKey c.group c.addr)
       else { s with mcasts := acc.reverse ++ { c with due := c.due - 1, acked := m :: c.acked } :: r })
    else mcastAck s m r (c :: acc)

/-- The place of a request among those of its queue. -/
def PendReq.key (x : PendReq) : Nat := placeKey (some x.dest) x.addr

/-- One acknowledgement of module `m`: its oldest request of this module, else its share of the oldest multicast write that it owes (R278,
R283; their order among each other is DESIGN CHOICE, assumption 28). -/
def ackOne (s : State) (m : Nat) : State :=
  match popReq s (fun x => x.dest = m && x.typ ≠ 2) with
  | some (x, s) => answered s x.who x.key
  | none => mcastAck s m s.mcasts []

/-- Acknowledgements, one after another. -/
def ackMany (s : State) (m n : Nat) : State :=
  match n with
  | 0 => s
  | k + 1 => ackMany (ackOne s m) m k

/-- ACK: completes the oldest VAL unanswered requests of its source; a VAL of 0, or above their number, is malformed (R278). -/
def execAck (p : Fin 16) (rec : Record) (s : State) : Host.Outcome State Fault Refusal :=
  arrives s p 4 rec (fun s => routed s p rec (fun s =>
    let most := owedAcks s rec.src + (s.mcasts.filter (fun c => c.owedBy s rec.src)).length
    if rec.val = 0 ∨ most < rec.val then malformed s p rec else ackMany s rec.src rec.val))

/-- A member refuses a multicast write: the root's task ends, and the write waits for its other members (R283). -/
def mcastReject (s : State) (rec : Record) (cause p : Nat) : Option State :=
  (s.mcasts.find? (fun c => c.addr = rec.addr && !c.acked.contains rec.src)).map (fun c =>
    let s := { s with mcasts := if c.due ≤ 1 then s.mcasts.erase c
      else s.mcasts.map (fun x => if x = c then { c with due := c.due - 1, acked := rec.src :: c.acked } else x) }
    reqRejected s c.who 8 c.group rec.addr cause p rec.src)

/-- REJECT: a request of this module is refused (R278, R184). -/
def execReject (p : Fin 16) (rec : Record) (s : State) : Host.Outcome State Fault Refusal :=
  arrives s p 5 rec (fun s => routed s p rec (fun s =>
    let cause := rec.val % 256
    let found := (popReq s (fun x => x.dest = rec.src && x.addr = rec.addr)).or
      (popReq s (fun x => x.addr = rec.addr))
    match found with
    | some (x, s) => reqRejected s x.who x.typ x.dest rec.addr cause p rec.src
    | none => (mcastReject s rec cause p).getD (malformed s p rec)))

/-- A WRITE, ACC or MCAST that the module has accepted from a source is not delivered yet. -/
def undelivered (s : State) (src : Nat) : Bool :=
  (List.range 16).any (fun p => (s.port p).inb.any (fun x =>
    x.req.src = src && x.ans.isNone && (x.req.typ = 1 || x.req.typ = 6 || x.req.typ = 8)))

/-- KADD_RECORD: a remote Knot add, once what the source has sent before is delivered (R280); a number outside the module is refused. -/
def execKaddRecord (p : Fin 16) (rec : Record) (s : State) : Host.Outcome State Fault Refusal :=
  arrivesIn s p 7 rec (undelivered s rec.src) (fun s => routed s p rec (fun s =>
    if 16384 ≤ rec.addr then answerNow s p rec (rejectRec s rec 6)
    else fromWeft (openReq s p rec 1) p ⟨[.frame (rec.addr / 256)], .kadd rec.addr rec.val, .weft p rec, 0, false, 0⟩))

/-- MCAST: one packet to every port of the group's mask and, when LOCAL is 1, to the Frame that serves its address (R217, R283). -/
def execMcast (p : Fin 16) (rec : Record) (s : State) : Host.Outcome State Fault Refusal :=
  if rec.wfAs 8 ∧ edgeRoom s p = false then .next s
  else arrives s p 8 rec (fun s =>
    let g := rec.dest % 256
    let here := s.on (Reg.LNK_MGRPg_LOCAL g)
    let ok := backed s rec.addr rec.data.length
    if mcastUp s g = false then answerNow s p rec (rejectRec s rec 2)
    else
      let dsts := (mcastPorts s g).map MeshEnd.weft ++ (if here && ok then [MeshEnd.frame ((homeFrame s rec.addr).getD 0)] else [])
      let s := if here && !ok then answerNow s p rec (rejectRec s rec 1) else if here then openReq s p rec 1 else s
      if dsts.isEmpty then s else fromWeft s p ⟨dsts, .send rec, .weft p rec, 0, false, 0⟩)

/-- SNAP: snapshot data is received and acknowledged (R278). -/
def execSnap (p : Fin 16) (rec : Record) (s : State) : Host.Outcome State Fault Refusal :=
  arrives s p 9 rec (fun s => routed s p rec (fun s => answerNow s p rec (ackRec s rec)))

/-- Held pieces that the pieces of a record release or meet: those of its shard and lines. -/
def heldNear (s : State) (r : Record) : Option Piece :=
  s.held.find? (fun x => x.shard = accShard r && accOfs r / 32 ≤ x.line && x.line < accOfs r / 32 + r.data.length / 128 + 1)

/-- What the check of a held piece's words finds (R296): one is corrected; two lose the contribution and fail the step. -/
def heldCheck (s : State) (r : Record) (ecc : Ecc) : State :=
  match ecc, heldNear s r with
  | .ok, _ => s
  | _, none => s
  | e, some x =>
    let u := ((shardOf s x.shard).map (fun sh => unitOf sh x.line)).getD 0
    if e = .single then palSingle s (8 * u) 0
    else plyErr { s with held := s.held.erase x } Reg.PLY_STAT_RSECC x.shard u 2

/-- ACC: the pieces of a contribution are handled by Table 12-3, and it is acknowledged (R292). Its bytes stay in the receive buffer, and
their credits with them, until every piece has been added or held (R295). -/
def execAcc (p : Fin 16) (rec : Record) (ecc : Ecc) (s : State) : Host.Outcome State Fault Refusal :=
  if rec.wfAs 6 = false then .fault .illFormed
  else if heldBack s p 6 rec then .next s
  else if rec.dest = s.myId ∧ accBad s rec = false then
    let rx := if (rxChannel s p (recBytes rec)).isSome then recBytes rec else []
    finish (accept (heldCheck (openReq s p rec 1) rec ecc) ⟨some p, .knot, rec, rx⟩)
  else finish (routed (rxConsume s p rec) p rec (fun s => malformed s p rec))

/-! ## Time exchange (R284, R285) -/

/-- The port towards a module's time parent; none for the torus master. -/
def parentPort (s : State) : Option Nat :=
  let (x, y, z, h) := coords s s.myId
  if h ≠ 0 then some (7 - h)
  else if z ≠ 0 then some (if hopPlus z 0 s.dz then 11 else 12)
  else if y ≠ 0 then some (if hopPlus y 0 s.dy then 9 else 10)
  else if x ≠ 0 then some (if hopPlus x 0 s.dx then 7 else 8)
  else none

/-- TIME_EXCHANGE: every 1,024,000 ticks a follower asks its parent for the time (R285); with the parent's port down it runs
free, raises the clock event and reports it. -/
def execTimeExchange (s : State) : Host.Outcome State Fault Refusal :=
  match parentPort s with
  | none => .next s
  | some p =>
    if s.get Reg.CLK_TSYNC_SRC ≠ 1 ∨ s.now < s.timeT + 1024000 then .next s
    else if carries s p then
      let r : Record := { typ := 10, len1 := 15, dest := s.get (Reg.LNK_PORTp_PEER_MOD p), src := s.myId, addr := 0, val := 0,
                          data := List.replicate 16 0 }
      finish { putRecord s p 2 r with timeReq := some (p, s.timeOf (64 + p / 4)), timeT := s.now, freeRun := false }
    else finish (lnkCorr { s with timeT := s.now, freeRun := true } p 6)

/-- TIME: a request is stamped and answered; a reply corrects the follower's master (R285). Stamps are the corrected time of the link
region: of the arrival of the body that ends the record, where it stands in a receive stream. A record of a replayed flit is ignored. -/
def execTime (p : Fin 16) (rec : Record) (replayed : Bool) (s : State) : Host.Outcome State Fault Refusal :=
  let stamp := if (rxChannel s p (recBytes rec)).isSome then (s.port p).rxT else s.timeOf (64 + p / 4)
  arrives s p 10 rec (fun s =>
    if replayed then s
    else if rec.val = 0 then
      putRecord s p 2 { typ := 10, len1 := 15, dest := rec.src, src := s.myId, addr := 0, val := 1,
                        data := toLE 8 stamp ++ toLE 8 (s.timeOf (64 + p / 4)) }
    else if rec.val = 1 then
      match s.timeReq with
      | some (q, t1) =>
        if q = p.val ∧ rec.data.length = 16 then
          let t2 := leAt rec.data 0 8
          let t3 := leAt rec.data 8 8
          correctMaster { s with timeReq := none } (((t2 : Int) - t1) - ((stamp : Int) - t3))
        else s
      | none => s
    else malformed s p rec)

/-- A 64-bit write of LNK_KADD adds to a Knot on any module (R280). -/
def writeKadd (s : State) (v : Nat) : State :=
  let m := bits v 15 0
  let k := bits v 29 16
  let d := bits v 63 32
  if m = s.myId then knotAddG s k d
  else (sendNoted s { typ := 7, len1 := 0, dest := m, src := s.myId, addr := k, val := d, data := [] } .knot).1

/-- LNK_KADD. -/
def execLnkKadd (value : BitVec 64) (s : State) : Host.Outcome State Fault Refusal :=
  if hostOpen s 0x600008 then finish (writeKadd s value.toNat) else .next s

end Sys2Proof.Machine
end

