-- ==== Sys2Proof/Machine/HostEvent.lean ====
section
/-! DEFINITION. The host's side of the event controller (R352, R356 to R362), Function Level Reset and D3hot (R342), the end
of a task's abort (R393), and reads of host memory that stay without a completion (R341). -/
namespace Sys2Proof.Machine

/-! ## Claims, completions and messages -/

/-- What a read through BAR0 or BAR2 returned. -/
def setRead (s : State) (d : List Byte) (abort : Bool) : State := { s with hostRead := d, hostAbort := abort }

/-- HOST_CLAIM: a read of INT_HOST_CLAIM; one of 32 bits claims (R356), one of another width returns 0 and claims nothing
(R10). -/
def execHostClaim (width : Nat) (s : State) : Host.Outcome State Fault Refusal :=
  if hostOpen s 0x203000 = false ∨ width ≠ 32 then .next (setRead s (toLE (width / 8) 0) false)
  else
    let r := claim s 258
    finish (setRead r.1 (toLE 4 (r.2.getD 4294967295)) false)

/-- HOST_DONE: a write of INT_HOST_DONE (R357). -/
def execHostDone (value : BitVec 32) (s : State) : Host.Outcome State Fault Refusal :=
  if hostOpen s 0x203004 then finish (complete s 258 (value.toNat % 1024)) else .next s

/-- MSIX_EN passes from 0 to 1: one message for each vector with a deliverable host source (R359). -/
def enableMsix (s : State) : State :=
  if s.on Reg.INT_HOSTCFG_MSIX_EN then s
  else
    let s := s.put Reg.INT_HOSTCFG_MSIX_EN 1
    let now := deliverables s 258
    let vs := ((now.map (fun x => s.get (Reg.INT_SRCs_CFG_VEC x))).eraseDups)
    { vs.foldl sendMsix s with ready := now }

/-- MSIX_EN: a write of 1 to INT_HOSTCFG.MSIX_EN. -/
def execMsixEn (s : State) : Host.Outcome State Fault Refusal :=
  if hostOpen s 0x20300C then finish (enableMsix s) else .next s

/-- A vector is unmasked: its pending message is sent if one of its sources is still deliverable (R359). -/
def unmask (s : State) (v : Nat) : State :=
  let s := { s with msixMask := sput true s.msixMask v false }
  if sget false s.msixPend v ∧ s.on Reg.INT_HOSTCFG_MSIX_EN then
    let s := { s with msixPend := sput false s.msixPend v false }
    if (deliverables s 258).any (fun x => s.get (Reg.INT_SRCs_CFG_VEC x) = v) then sendMsix s v else s
  else s

/-- MSIX_UNMASK. -/
def execMsixUnmask (v : Fin 64) (s : State) : Host.Outcome State Fault Refusal :=
  if hostOpen s 0x203000 then finish (unmask s v) else .next s

/-- A write of one double word of BAR4 at offset `o` (Table 15-1): the message address (its lower bits, then its upper), the data, and the
mask of a vector. The pending-bit array takes no write. -/
def writeBar4 (s : State) (o v : Nat) : State :=
  let n := o / 16
  let a := sget 0 s.msixAddr n
  if 1024 ≤ o ∨ o % 4 ≠ 0 then s
  else
    match o % 16 / 4 with
    | 0 => { s with msixAddr := sput 0 s.msixAddr n (a / 2 ^ 32 * 2 ^ 32 + v / 4 * 4) }
    | 1 => { s with msixAddr := sput 0 s.msixAddr n (v * 2 ^ 32 + a % 2 ^ 32) }
    | 2 => { s with msixData := sput 0 s.msixData n v }
    | _ =>
      if bit v 0 then { s with msixMask := sput true s.msixMask n true }
      else if sget true s.msixMask n then unmask s n else s

/-- What a read of one double word of BAR4 returns. -/
def readBar4 (s : State) (o : Nat) : Nat :=
  if o % 4 ≠ 0 then 0
  else if o < 1024 then
    match o % 16 / 4 with
    | 0 => sget 0 s.msixAddr (o / 16) % 2 ^ 32
    | 1 => sget 0 s.msixAddr (o / 16) / 2 ^ 32
    | 2 => sget 0 s.msixData (o / 16)
    | _ => b2n (sget true s.msixMask (o / 16))
  else if o = 0x800 ∨ o = 0x804 then
    ((List.range 32).map (fun i => b2n (sget false s.msixPend (8 * (o - 0x800) + i)) * 2 ^ i)).sum
  else 0

/-- A write of INT_KWATCHw (R360): the comparison with the Knot follows at once. -/
def setKwatch (s : State) (w v : Nat) : State :=
  (s.put (Reg.INT_KWATCHw_THRESH w) (v / 2 ^ 32)).put (Reg.INT_KWATCHw_KNOT w) (v % 2 ^ 14)

/-- KWATCH. -/
def execKwatch (w : Fin 256) (value : BitVec 64) (s : State) : Host.Outcome State Fault Refusal :=
  if agentOpen s .studio 0x204000 then finish (setKwatch s w value.toNat) else .next s

/-- SWSET: a write of INT_SWSETr asserts sources (R362). -/
def execSwset (r : Fin 8) (value : BitVec 32) (s : State) : Host.Outcome State Fault Refusal :=
  if hostOpen s 0x205000 then finish (s.put (Reg.INT_SWSETr_BITS r) (s.get (Reg.INT_SWSETr_BITS r) ||| value.toNat)) else .next s

/-- READY_ACK: a write of 1 to HIF_CTL.READY_ACK (R352). -/
def execReadyAck (s : State) : Host.Outcome State Fault Refusal :=
  if hostOpen s 4 then finish (s.put Reg.HIF_CTL_READY_ACK 1) else .next s

/-! ## Resets of the function (R342) -/

/-- The registers of HIF, but for the link's state, and of INT at their reset values. -/
def resetHostRegs (r : Sparse Nat) : Sparse Nat :=
  sclear (sclear r (64 * 4) (64 * 0x100000 - 64 * 4)) (64 * 0x200000) (64 * 0x100000)

/-- The host port's rings, the event controller and BAR4 as a reset leaves them. -/
def resetHost (s : State) : State :=
  { s with regs := resetHostRegs s.regs, rings := [], active := [], defer := [], ready := [], msixMask := [], msixPend := [], msixAddr := [],
           msixData := [],
           d3 := false, engTurn := (63, 63), snap := none,
           flush := s.flush.map (fun x => { x with host := none }) }

/-- FLR: as JOB_CTL ABORT; every ring is disabled and every event source idle; the rest stays. -/
def execFlr (s : State) : Host.Outcome State Fault Refusal :=
  if hostOpen s 0 then finish { resetHost (abortNow s) with flr := some s.now } else .next s

/-- D3HOT: accepted only when no job is loaded. -/
def execD3hot (s : State) : Host.Outcome State Fault Refusal :=
  if hostOpen s 0 = false ∨ s.job.loaded then .next s else .next { s with d3 := true }

/-! ## The end of a task abort (R393, R394) -/

/-- Every Shuttle queue of a task has CANCEL_BUSY clear. -/
def cancelsDone (s : State) (t : Nat) : Bool :=
  (taskQueues s t).all (fun p => !(9 ≤ p.2 && p.2 ≤ 24 && s.on (Reg.FRM_SQj_STATE_CANCEL_BUSY p.1 (p.2 - 9))))

/-- TASK_ABORT_COMPLETE: the cancels have completed or the Shuttle's request timeout has passed; the task's Knots are reset
and the abort's record is written. -/
def execTaskAbortComplete (task : Fin 16) (s : State) : Host.Outcome State Fault Refusal :=
  match s.aborts.find? (fun a => a.task = task.val) with
  | none => .next s
  | some a =>
    if cancelsDone s task ∨ a.since + 10 * tickMs ≤ s.timeOf 71 then
      let s := (resetKnots s task).logErr { sev := 1, unit := 0, cause := 5, task := task, d0 := a.seq, d1 := a.more,
                                            stamp := s.timeOf 71 }
      finish { s with aborts := s.aborts.filter (fun x => x.task ≠ task.val) }
    else .next s

/-! ## Host completion timeout (R341) -/

/-- Segment `i` of Frame `f` is device-local and lies in host memory. -/
def hostSeg (s : State) (f i : Nat) : Bool := (segOf s f i).kind = 0 && regionOf s (segOf s f i).base = .host

/-- An item reads host memory: its elements, its index list or its scales. -/
def hostItem (s : State) (f w : Nat) (it : ItemSt) : Bool :=
  (match itemRd w it with
    | some d => hostSeg s f (dSeg d) || (dSty d ≠ 0 && hostSeg s f (dScSeg d))
    | none => false) || (dIdxEn (itemMain w it) && hostSeg s f (dIdxSeg (itemMain w it)))

/-- 8 ms have passed since the request was issued. -/
def hostLate (s : State) (t : Option Nat) : Bool :=
  match t with
  | some t => decide (t + 8 * tickMs ≤ s.now)
  | none => false

/-- HOST_COMPLETION_TIMEOUT: a read of host memory has had no completion for 8 ms. It ends as one completed with Completer
Abort (R341). -/
def execHostCompletionTimeout (who : HostReader) (s : State) : Host.Outcome State Fault Refusal :=
  match who with
  | .shuttle f j =>
    let x := s.sh f j
    match x.word, x.act with
    | some w, some it =>
      if hostLate s x.reqT && hostItem s f w it then
        execShuttleResponse f j (dCount (itemMain w it)) .hostCA .ok .data s
      else .next s
    | some w, none =>
      if hostLate s x.batT && hostSeg s f (sxDseg w) then execDescriptorBatch f j .hostCA .ok s else .next s
    | none, _ => if x.late && hostLate s x.reqT then finish (lateResponse s f j .hostCA .ok) else .next s
  | .copy n k =>
    match cmdOf s n k with
    | none => .next s
    | some c =>
      if leAt c.bytes 0 1 = 2 ∧ c.start ∧ c.result.isNone ∧ hostLate s c.readT then
        finish (hostErr s n k (cpSrc c + c.moved))
      else .next s
  | .remote p rec =>
    if rec.wfAs 2 then
      (match (s.port p).inb.find? (fun x => x.req = rec && x.ans.isNone && regionOf s rec.addr = .host) with
        | some x =>
          if hostLate s (some x.t) then finish (replyTo s p (fun r => r = rec) (rejectRec s rec 7)) else .next s
        | none => .next s)
    else .fault .illFormed

end Sys2Proof.Machine
end

