-- ==== Sys2Proof/Machine/Power.lean ====
section
/-! DEFINITION. Power, droop and cooling (14): the governor, the fast limiter, cooling classes and the thermal trip. -/
namespace Sys2Proof.Machine

/-! ## Classes and caps (R323, R324) -/

/-- The class, cap and sustained clock of a COOL_ID code (Table 14-1). -/
def coolClass (code : Nat) : Option (Nat × Nat × Nat) :=
  match code with
  | 6 => some (0, 4800, 2250)
  | 5 => some (1, 3600, 2000)
  | 3 => some (2, 1600, 1350)
  | _ => none

/-- The sustained clock of the sampled class in MHz; without a class that of no cap. -/
def classMhz (s : State) : Nat :=
  match s.get Reg.PWR_CLASS_CLASS with
  | 1 => 2000
  | 2 => 1350
  | _ => 2250

/-- The effective cap (R323, R324). -/
def effCap (s : State) : Nat := if s.gov.forced then 1600 else min (s.get Reg.PWR_CLASS_CAP_W) s.gov.userCap

/-- A class has been sampled: without one the module has no cap. -/
def hasClass (s : State) : Bool := s.get Reg.PWR_CLASS_CLASS ≠ 3

/-- The Studio samples the pins for the first time (R323). -/
def sampleClass (s : State) (code : Nat) : State :=
  let s := s.put Reg.PWR_CLASS_COOL_ID code
  match coolClass code with
  | none => s.put Reg.PWR_CLASS_CLASS 3
  | some (c, cap, _) =>
    let s := ((s.put Reg.PWR_CLASS_CLASS c).put Reg.PWR_CLASS_CAP_W cap).put Reg.PWR_CAP_USER_CAP_W cap
    { s with gov := { s.gov with userCap := cap } }

/-- A power error (Table 17-3, unit 12); DETAIL0 is PWR_STAT. -/
def pwrErr (s : State) (sev cause : Nat) : ErrInfo :=
  { sev := sev, unit := 12, cause := cause, d0 := storedWord s 0x40000C, stamp := s.timeOf 71 }

/-- The Studio's firmware runs: a boot has ended and the die has power. -/
def governs (s : State) : Bool := hostOpen s 0x400000

/-- The die has power and is not in reset. -/
def powered (s : State) : Bool := s.get Reg.STU_PINS_PERST = 0 && s.get Reg.STU_PINS_PGOOD ≠ 0

/-- The Studio samples COOL_ID (R323): its firmware runs, and has taken the first sample with the start of the host port. -/
def samples (s : State) : Bool := powered s && s.get Reg.HIF_LINK_GEN ≠ 0 && s.get Reg.STU_BOOT_STAT_MODE ≠ 3

/-- COOL_ID_SAMPLE: the pins are sampled, once in a millisecond (R323). -/
def execCoolIdSample (code : BitVec 3) (s : State) : Host.Outcome State Fault Refusal :=
  let k := s.now / tickMs
  if samples s = false ∨ k ≤ s.gov.coolK then .next s
  else
    let old := s.get Reg.PWR_CLASS_COOL_ID
    let s := { s with gov := { s.gov with coolK := k } }.put Reg.PWR_CLASS_COOL_ID code.toNat
    if code.toNat = old then .next s
    else
      let s := { s.put Reg.PWR_STAT_COOLCHG 1 with gov := { s.gov with forced := true } }
      finish (s.modErr (pwrErr s 3 5))

/-- PWR_CAP_USER_WRITE: clamped to 800 W and the class cap; in force from the next interval (R324). -/
def execPwrCapUserWrite (watts : BitVec 16) (s : State) : Host.Outcome State Fault Refusal :=
  if hostOpen s 0x400004 then
    .next (s.put Reg.PWR_CAP_USER_CAP_W (min (s.get Reg.PWR_CLASS_CAP_W) (max 800 watts.toNat)))
  else .next s

/-! ## The fast limiter (R330) -/

/-- A sample of the last 10 µs: PWR_IN, HOLD, and the telemetry sums. -/
def limitSample (s : State) (inW dieW : Nat) : State :=
  let s := (s.put Reg.PWR_IN_IN_W inW).put Reg.PWR_IN_DIE_W dieW
  let h := s.get Reg.PWR_HOLD_HOLD
  let c := effCap s
  let h' := if hasClass s = false then h else if c < inW then min 12 (h + 2) else if 100 * inW < 97 * c then h - 1 else h
  { s.put Reg.PWR_HOLD_HOLD h' with
    gov := { s.gov with fastK := s.now / (10 * tickUs) }
    telem := s.telem.map (fun t => { t with inSum := t.inSum + inW, dieSum := t.dieSum + dieW, samples := t.samples + 1 }) }

/-- FAST_LIMITER: a sample, once in 10 µs, whatever the firmware does. -/
def execFastLimiter (inW : Nat) (dieW : Nat) (s : State) : Host.Outcome State Fault Refusal :=
  if ¬(inW < 65536 ∧ dieW < 65536) then .fault .illFormed
  else if powered s = false ∨ s.now / (10 * tickUs) ≤ s.gov.fastK then .next s
  else .next (limitSample s inW dieW)

/-! ## Learning and prediction (R326 to R328) -/

/-- S at a frequency, as a numerator over 4,096 times the second number: linear between the fused points (R325). -/
def sAtGo (s : State) (mhz i fuel : Nat) : Nat × Nat :=
  let a := s.get (Reg.PWR_OPPi_MHZ i)
  let b := s.get (Reg.PWR_OPPi_MHZ (i + 1))
  match fuel with
  | 0 => (s.get (Reg.PWR_OPPi_S i), 1)
  | n + 1 =>
    if mhz ≤ a then (s.get (Reg.PWR_OPPi_S i), 1)
    else if mhz < b then
      (s.get (Reg.PWR_OPPi_S i) * (b - mhz) + s.get (Reg.PWR_OPPi_S (i + 1)) * (mhz - a), b - a)
    else sAtGo s mhz (i + 1) n

def sAt (s : State) (mhz : Nat) : Nat × Nat := sAtGo s mhz 0 3

/-- The phase a Frame runs. -/
def phaseOf (s : State) (f : Nat) : Nat := s.get (Reg.FRM_PHASE_ID f)

/-- A Frame has held its phase since the last boundary. -/
def heldPhase (s : State) (f : Nat) : Bool := sget 0 s.phaseT f ≤ s.gov.govK * (100 * tickUs) + 1

/-- A quotient in whole watts, rounded down or, as no rounding is stated, up. -/
def watts (p k num den : Nat) : Nat :=
  if den = 0 then Config.prefIdle p k else min 65535 (num / den + b2n (Config.prefUp p k))

/-- P_ref(p) and UPDATES(p) after an interval with measured power `m` and estimates `est` (R326). -/
def learnPhase (s : State) (m : Nat) (est : List Nat) (k p : Nat) : State :=
  let fs := (List.range 64).filter (fun f => phaseOf s f = p && heldPhase s f)
  let (sn, sd) := sAt s (s.get Reg.CLK_FREQ_CUR_MHZ)
  let num := 64 * m * ((fs.map (fun f => est.getD f 0)).sum) * (4096 * sd)
  let den := fs.length * est.sum * sn
  let u := s.get (Reg.PWR_PHASEp_UPDATES p)
  let old := s.get (Reg.PWR_PHASEp_PREF_W p)
  let v := if u = 0 then watts p k num den else if den = 0 then Config.prefIdle p k else watts p k (7 * old * den + num) (8 * den)
  (s.put (Reg.PWR_PHASEp_PREF_W p) (min 65535 v)).put (Reg.PWR_PHASEp_UPDATES p) (min 255 (u + 1))

/-- The phases that some Frames held for the whole interval. -/
def heldPhases (s : State) : List Nat := (((List.range 64).filter (heldPhase s)).map (phaseOf s)).eraseDups

/-- Learning at a boundary: none after an interval with a frequency stop, or while the estimate is distrusted (R334). -/
def learn (s : State) (m : Meas) (k : Nat) : State :=
  if s.gov.stop || s.on Reg.PWR_STAT_MODEL_MISMATCH then s else (heldPhases s).foldl (fun s p => learnPhase s m.dieW m.est k p) s

/-- The token prior of phase p in a Frame, in tenths of a watt (R327). -/
def prior10 (s : State) (f p : Nat) : Nat :=
  let small := sget false s.gov.small p
  let spd := if small then 8 else s.get (Reg.FRM_TOKp_SPD f p)
  let br := if small then 1 else s.get (Reg.FRM_TOKp_BR f p)
  64 * (160 + 53 * spd + 70 * br)

/-- P_heavy in tenths of a watt (R328). -/
def heavy10 (s : State) : Nat :=
  let l := ((List.range 256).filter (fun p => 8 ≤ s.get (Reg.PWR_PHASEp_UPDATES p))).map (fun p => s.get (Reg.PWR_PHASEp_PREF_W p))
  if l.isEmpty then 41860 else 10 * l.foldl max 0

/-- The prediction of a Frame in tenths of a watt. -/
def pred10 (s : State) (heavy f : Nat) : Nat :=
  let p := phaseOf s f
  let b := if 8 ≤ s.get (Reg.PWR_PHASEp_UPDATES p) then 10 * s.get (Reg.PWR_PHASEp_PREF_W p) else prior10 s f p
  if s.on (Reg.FRM_PHASE_HINT f) then max b heavy else b

/-! ## The governor's choice (R329 to R333) -/

/-- P_hat(fr) is at most the cap: `load` is what S multiplies, in 640ths of a watt, by which the whole is scaled; while the
estimate is distrusted, it is M over S at the frequency in force (R334). -/
def underCap (s : State) (m : Meas) (fr : Nat) : Bool :=
  let (sn, sd) := sAt s fr
  let n : Int := (m.inW : Int) - m.dieW
  let c : Int := effCap s
  if s.on Reg.PWR_STAT_MODEL_MISMATCH then
    let (cn, cd) := sAt s (s.get Reg.CLK_FREQ_CUR_MHZ)
    decide ((m.dieW * sn * cd : Int) ≤ (c - n) * (cn * sd : Nat))
  else
    let h := heavy10 s
    let load := ((List.range 64).map (pred10 s h)).sum
    decide ((load * sn : Int) ≤ (c - n) * (640 * 4096 * sd : Nat))

/-- f_cap. -/
def fCap (s : State) (m : Meas) (k : Nat) : Nat :=
  match ((List.range 59).map (fun i => 2250 - 25 * i)).find? (underCap s m) with
  | some f => f
  | none => 800 + 25 * (Config.capStep k % 59)

/-- f_table. -/
def fTable (s : State) : Nat :=
  ((List.range 64).map (fun f =>
    match s.get (Reg.PWR_PHASEp_TABLE_MHZ (phaseOf s f)) with
    | 0 => classMhz s
    | v => v)).foldl min 2250

/-- f_therm after an interval (R333). -/
def nextTherm (s : State) (tj : List Nat) : Nat :=
  if tj.any (fun t => 105 ≤ t) then max 800 (s.gov.fTherm - 25)
  else if tj.all (fun t => t < 100) then min 2250 (s.gov.fTherm + 25) else s.gov.fTherm

/-- In the interval some Frame's suppressed edges exceeded 1 % of its generator periods (R332). -/
def stretched (s : State) : Bool := s.gov.edges.any (fun e => s.gov.clkSum < 100 * 1024 * e.2)

/-- f_droop and the number of the last interval with too much stretching, after interval `k`. -/
def nextDroop (s : State) (k : Nat) : Nat × Nat :=
  if stretched s then (max 800 (s.get Reg.CLK_FREQ_CUR_MHZ - 25), k)
  else if s.gov.droopK + 100 ≤ k then (min 2250 (s.gov.fDroop + 25), s.gov.droopK) else (s.gov.fDroop, s.gov.droopK)

/-- The target, and what limits it as REASON has it (R329, R331). -/
def target (s : State) (m : Meas) (k therm droop : Nat) : Nat × Nat :=
  let mm := s.on Reg.PWR_STAT_MODEL_MISMATCH
  let cap := fCap s m k
  let tab := fTable s
  let t := match s.get Reg.PWR_CTL_MODE with
    | 0 => if mm then min cap tab else cap
    | 1 => min cap tab
    | 2 => if mm then min (s.get Reg.PWR_CTL_FIXED_MHZ) tab else s.get Reg.PWR_CTL_FIXED_MHZ
    | _ => if mm then min (Config.modeMhz k % 4096) tab else Config.modeMhz k % 4096
  let t := min t (min therm droop)
  let low := decide (t < classMhz s)
  (t, 2 * b2n (low && t = therm) + 4 * b2n (low && t = droop) + 8 * b2n (low && mm) +
    16 * b2n (low && t = cap && effCap s < s.get Reg.PWR_CLASS_CAP_W) +
    32 * b2n (low && t = tab && (mm || s.get Reg.PWR_CTL_MODE = 1)))

/-- THROTTLE and REASON for the interval that ends (R331). -/
def evalThrottle (s : State) : State :=
  let g := s.gov
  let low : Bool := decide (100 * g.effSum < 97 * 16 * g.ticks * classMhz s)
  let reason := b2n g.held + g.limits + 64 * b2n (s.on Reg.CLK_STAT_SAFE)
  let was := s.on Reg.PWR_STAT_THROTTLE
  let s := (s.put Reg.PWR_STAT_THROTTLE (b2n low)).put Reg.PWR_STAT_REASON reason
  let s := if low then s.bump Reg.PWR_THROTCNT_COUNT 1 else s
  if low && !was then (s.put Reg.INT_ACK_THROTTLE 1).logErr (pwrErr s 0 1) else s

/-- The power status record (Table 14-3) at boundary `k`. -/
def writeStatRec (s : State) (k inW : Nat) : State :=
  let a := s.get Reg.PWR_STATREC_ADDR
  if a = 0 then s
  else
    (devWrite s a (toLE 8 (k * (100 * tickUs)) ++ toLE 2 (s.get Reg.CLK_FREQ_CUR_MHZ) ++ toLE 2 (effCap s) ++
      toLE 1 (storedWord s 0x40000C % 256) ++ toLE 1 (s.get Reg.PWR_HOLD_HOLD) ++ toLE 2 inW ++ List.replicate 48 0)).st

/-- The highest reading and the first Frame that has it. -/
def hottest (tj : List Nat) : Nat × Nat :=
  let t := tj.foldl max 0
  (t, (tj.findIdx? (· = t)).getD 0)

/-- The junction readings of an interval (R333). -/
def noteTemps (s : State) (tj : List Nat) : State :=
  let t := (hottest tj).1
  let f := (hottest tj).2
  let s := (s.put Reg.PWR_TJ_TJ_C t).put Reg.PWR_TJ_FRAME f
  let s : State := { s with telem := s.telem.map (fun x => { x with tjMax := max x.tjMax t }) }
  if 105 ≤ t ∧ s.get Reg.PWR_STAT_THERM_WARN = 0 then
    let s := s.put Reg.PWR_STAT_THERM_WARN 1
    s.logErr (pwrErr s 0 3)
  else if 105 ≤ t then s.put Reg.PWR_STAT_THERM_WARN 1 else s

/-- GOVERNOR_INTERVAL: the governor acts at a multiple of 100 µs (R329). -/
def execGovernorInterval (m : Meas) (s : State) : Host.Outcome State Fault Refusal :=
  let k := s.now / (100 * tickUs)
  if m.wf = false then .fault .illFormed
  else if governs s = false ∨ k ≤ s.gov.govK ∨ hasClass s = false then .next s
  else
    let s := { s with gov := { s.gov with userCap := s.get Reg.PWR_CAP_USER_CAP_W } }
    let s := if s.gov.fastK < s.now / (10 * tickUs) then limitSample s m.inS m.dieS else s
    let s := noteTemps (learn s m k) m.tj
    let s := evalThrottle s
    let therm := nextTherm s m.tj
    let droop := nextDroop s k
    let (t, why) := target s m k therm droop.1
    let s := { s with gov := { s.gov with
      govK := k, fTherm := therm, fDroop := droop.1, droopK := droop.2, edges := [], clkSum := 0, effSum := 0, ticks := 0,
      stop := freqStopped s, held := false, limits := why } }
    let s := if t = s.get Reg.CLK_FREQ_CUR_MHZ ∨ s.on Reg.CLK_STAT_SAFE then s
      else requestFreq (s.put Reg.CLK_FREQ_CTL_TGT_MHZ t) t
    finish (writeStatRec s k m.inW)

/-- MODEL_MISMATCH: a window of 1 ms ends (R334). -/
def execModelMismatch (estW : Nat) (dieW : Nat) (s : State) : Host.Outcome State Fault Refusal :=
  let k := s.now / tickMs
  if ¬(estW < 65536 ∧ dieW < 65536) then .fault .illFormed
  else if governs s = false ∨ k ≤ s.gov.winK then .next s
  else
    let s := s.put Reg.PWR_EST_EST_W estW
    let diff := ((estW : Int) - dieW).natAbs
    let n := if 15 * dieW < 100 * diff then s.gov.badWin + 1 else 0
    let s := { s with gov := { s.gov with winK := k, badWin := if n = 10 then 0 else n } }
    if n = 10 ∧ s.get Reg.PWR_STAT_MODEL_MISMATCH = 0 then
      let s := s.put Reg.PWR_STAT_MODEL_MISMATCH 1
      finish (s.logErr (pwrErr s 0 2))
    else finish s

/-! ## The thermal trip (R333) -/

/-- The power stage switches off: PWR_GOOD falls, and a pending frequency change ends unapplied. -/
def stageOff (s : State) : State :=
  { (s.put Reg.STU_PINS_PGOOD 0).put Reg.CLK_FREQ_CTL_PENDING 0 with freq := none, heldGo := none }

/-- THERMAL_TRIP: the comparator of a Frame finds 125 °C or more. -/
def execThermalTrip (f : Fin 64) (tj : Nat) (s : State) : Host.Outcome State Fault Refusal :=
  if 256 ≤ tj then .fault .illFormed
  else if tj < 125 ∨ s.get Reg.STU_PINS_PGOOD = 0 then .next s
  else
    let s := (s.put Reg.PWR_TJ_TJ_C tj).put Reg.PWR_TJ_FRAME f
    let s : State := { stageOff (s.put Reg.STU_PINS_TRIPPED 1) with pwrStage := 3 }
    finish (s.modErr { sev := 3, unit := 12, cause := 4, d0 := tj, stamp := s.timeOf 71 })

end Sys2Proof.Machine
end

