-- ==== Sys2Proof/Machine/Boot.lean ====
section
/-! DEFINITION. Boot, trust and configuration (16): images and their checks, the boot phases, the Underpainting, limited and
recovery mode, staging. -/
namespace Sys2Proof.Machine

/-! ## Images (R366, R370) -/

def Image.u (x : Image) (o n : Nat) : Nat := leAt x.hdr o n
def Image.typ (x : Image) : Nat := x.u 4 1
def Image.key (x : Image) : Nat := x.u 5 1
def Image.svn (x : Image) : Nat := x.u 0xC 1
def Image.floor (x : Image) : Nat := x.u 7 1
def Image.version (x : Image) : Nat := x.u 8 4

def Slot.img (x : Slot) (t : Nat) : Image := sget Image.none x.imgs t
def Flash.slot (x : Flash) (n : Nat) : Slot := if n = 0 then x.a else x.b
def Flash.setSlot (x : Flash) (n : Nat) (v : Slot) : Flash := if n = 0 then { x with a := v } else { x with b := v }

/-- Key slot `k` holds a hash. -/
def Fuses.programmed (x : Fuses) (k : Nat) : Bool := (x.hash.getD k []).any (fun b => b ≠ 0)

/-- A key slot's purpose allows an image type (Table 16-2). -/
def Fuses.allows (x : Fuses) (k t : Nat) : Bool := bit (x.purp.getD k 0) (if t ≤ 5 then 0 else t - 5)

/-- The fixed fields of a header are as Table 16-3 has them, for an image of type `t` with its body. -/
def headOk (x : Image) (t : Nat) : Bool :=
  x.hdr.length = 352 && x.u 0 4 = 0x4D493744 && x.typ = t && (bytesAt x.hdr 0xD 3).all (· = 0) &&
    (bytesAt x.hdr 0xE8 24).all (· = 0)

/-- KEYSLOT names a slot that may sign the type. -/
def keyOk (z : Fuses) (x : Image) (t : Nat) : Bool :=
  x.key < 4 && z.programmed x.key && !bit z.revoked x.key && z.allows x.key t

/-- The key, the signature and the body's digest. -/
def signOk (z : Fuses) (x : Image) : Bool :=
  let pub := bytesAt x.hdr 0x88 96
  let sig := bytesAt x.hdr 0x100 96
  sha384 pub = z.hash.getD x.key [] && x.u 0x10 8 = x.body.length && sha384 x.body = bytesAt x.hdr 0x18 48 &&
    ecdsaVerify (ofBE (pub.take 48)) (ofBE (pub.drop 48)) (ofBE (sig.take 48)) (ofBE (sig.drop 48)) (x.hdr.take 256)

/-- SVN and SVN_FLOOR against the fuses. -/
def svnOk (z : Fuses) (x : Image) (t : Nat) : Bool := sget 0 z.svn t ≤ x.svn && x.floor ≤ x.svn

/-- What is wrong with an image of type `t`, by the causes of R383. -/
def imageFault (z : Fuses) (x : Image) (t : Nat) : Option Nat :=
  if headOk x t = false then some 1
  else if keyOk z x t = false then some 3
  else if signOk z x = false then some 1
  else if svnOk z x t = false then some 2
  else none

/-- A slot is valid (R369). -/
def slotOk (z : Fuses) (x : Slot) : Bool := x.dir && (List.range 7).all (fun i => (imageFault z (x.img (i + 1)) (i + 1)).isNone)

/-- Image `i` allows version `v` of type `j` (COMPAT). -/
def compat (x : Image) (j v : Nat) : Bool := x.u (0x48 + 8 * j) 4 ≤ v && v ≤ x.u (0x4C + 8 * j) 4

def versionOf (x : Slot) (t : Nat) : Nat := if t = 0 then Config.romVersion.toNat else (x.img t).version

/-- Images i and j of a slot were tested together (R370). -/
def tested (x : Slot) (i j : Nat) : Bool :=
  compat (x.img i) j (versionOf x j) && (j = 0 || compat (x.img j) i (versionOf x i))

/-- The first untested pair in ascending (i, j). -/
def untested (x : Slot) : Option (Nat × Nat) :=
  ((List.range 7).flatMap (fun i => (List.range 8).map (fun j => (i + 1, j)))).find? (fun p => p.1 ≠ p.2 && !tested x p.1 p.2)

/-! ## Limited mode (R364, R371) -/

/-- An error of the boot (Table 17-3, unit 14). -/
def bootErr (s : State) (cause index d1 : Nat) : State :=
  s.logErr { sev := 0, unit := 14, cause := cause, index := index, d0 := storedWord s 0x100000, d1 := d1, stamp := s.timeOf 71 }

/-- The boot ends: its time is kept (Table 16-10). -/
def endBoot (s : State) (mode : Nat) : State :=
  (s.put Reg.STU_BOOT_STAT_MODE mode).put Reg.STU_BOOT_MS_MS (s.now / tickMs)

/-- The pending flag clears. -/
def clearPend (s : State) : State := { s.put Reg.STU_FW_CTL_PENDING 0 with flash := { s.flash with pend := none } }

/-- The boot ends in limited mode. Past phase 1, a boot of the pending slot reports cause 3 and the next boot takes the previous
slot (R384). -/
def limited (s : State) (cause index d1 : Nat) : State :=
  let c := if s.boot.staged then 3 else cause
  let s := if s.boot.staged then clearPend s else s
  let s := (endBoot (resetUnits s) 2).put Reg.STU_BOOT_STAT_CAUSE c
  bootErr s c index d1

/-- The next phase begins. -/
def nextPhase (s : State) (p : Nat) : State :=
  { s.put Reg.STU_BOOT_STAT_PHASE p with boot := { s.boot with phaseT := s.now } }

/-- Phase `p` of a boot runs. -/
def inPhase (s : State) (p : Nat) : Bool :=
  s.standby && s.get Reg.STU_PINS_PERST = 0 && s.get Reg.STU_BOOT_STAT_MODE = 0 && s.get Reg.STU_BOOT_STAT_PHASE = p &&
    !stopped s

/-- A phase's limit in ticks (Table 16-1); phase 5 ends as its row states. -/
def phaseLimit (p : Nat) : Option Nat :=
  match p with
  | 1 => some (4 * tickS)
  | 2 => some (4 * tickS)
  | 3 => some (30 * tickS)
  | 4 => some (20 * tickS)
  | 6 => some (6 * tickS)
  | _ => none

/-- The running phase, or the boot, has overrun its limit (R364). -/
def overrun (s : State) : Bool :=
  (90 * tickS < s.now && s.get Reg.STU_BOOT_STAT_PHASE < 7) ||
    (match phaseLimit (s.get Reg.STU_BOOT_STAT_PHASE) with
      | some l => decide (s.boot.phaseT + l < s.now)
      | none => false)

/-- What a command does where phase `p` runs: an end of the phase past its limit, or past the boot's, ends the boot (R364). -/
def endsPhase (s : State) (p : Nat) (op : Host.Outcome State Fault Refusal) : Host.Outcome State Fault Refusal :=
  if inPhase s p then (if overrun s then finish (limited s 8 0 0) else op) else .next s

/-! ## Phase 1 (R363, R369, R370, R381) -/

/-- Measurements 1 to 9 of a slot (Table 16-9). -/
def measure (z : Fuses) (x : Option Slot) : List (List Byte) :=
  sha384 (Config.fuseItem Config.romVersion.toNat z.hash z.purp z.revoked ((List.range 7).map (fun i => sget 0 z.svn (i + 1))) z.dev) ::
    (match x with
      | none => []
      | some x =>
        (List.range 6).map (fun i => sha384 (x.img (i + 1)).hdr) ++
          [sha384 (x.img 6).body, sha384 ((x.img 7).hdr ++ (x.img 7).body)])

/-- The slot that phase 1 takes: the pending one first, else the preferred one, and the other if that is not valid. -/
def chooseSlot (s : State) : Option Nat :=
  let f := s.flash.pend.getD s.flash.pref
  if slotOk s.fuses (s.flash.slot f) then some f
  else if slotOk s.fuses (s.flash.slot (1 - f)) then some (1 - f) else none

/-- STU_FUSE_KEYS and the floors of STU_IMGt show the fuses. -/
def showFuses (s : State) : State :=
  let m (p : Nat → Bool) : Nat := ((List.range 4).map (fun k => if p k then 2 ^ k else 0)).sum
  let s := (s.put Reg.STU_FUSE_KEYS_PROGRAMMED (m s.fuses.programmed)).put Reg.STU_FUSE_KEYS_REVOKED s.fuses.revoked
  let s := s.put Reg.STU_BOOT_STAT_DEV (b2n s.fuses.dev)
  (List.range 7).foldl (fun s i => s.put (Reg.STU_IMGt_FLOOR (i + 1)) (sget 0 s.fuses.svn (i + 1))) s

/-- STU_IMGt of a booted slot. -/
def showImages (s : State) (x : Slot) : State :=
  (List.range 7).foldl (fun s i =>
    let im := x.img (i + 1)
    ((s.put (Reg.STU_IMGt_PRESENT (i + 1)) 1).put (Reg.STU_IMGt_SVN (i + 1)) im.svn).put (Reg.STU_IMGt_VERSION (i + 1)) im.version) s

/-- Untested pairs are accepted (R371). -/
def overridden (s : State) : Bool := s.fuses.dev && s.on Reg.STU_FW_CTL_OVERRIDE

/-- What phase 1 leaves: fuses and ROM shown, measurements taken. -/
def verified (s : State) (n : Option Nat) : State :=
  let s := showFuses ((s.put (Reg.STU_IMGt_PRESENT 0) 1).put (Reg.STU_IMGt_VERSION 0) Config.romVersion.toNat)
  let s : State := { s with boot := { s.boot with done1 := true, slot := n, meas := measure s.fuses (n.map s.flash.slot) } }
  match n with
  | some k => showImages (s.put Reg.STU_BOOT_STAT_SLOT k) (s.flash.slot k)
  | none => s

/-- Phase 1 of a boot ends: in phase 2, in limited mode with an untested pair, or in recovery mode. -/
def endVerify (s : State) : State :=
  let n := chooseSlot s
  let s := verified s n
  let s := match s.flash.pend with
    | some p =>
      if n = some p then { s with boot := { s.boot with staged := true } } else clearPend (s.put Reg.STU_BOOT_STAT_PENDFAIL 1)
    | none => s
  match n with
  | none => bootErr ((endBoot (resetUnits s) 3).put Reg.STU_BOOT_STAT_CAUSE 2) 2 0 0
  | some k =>
    match untested (s.flash.slot k) with
    | some (i, j) =>
      let s := (s.put Reg.STU_BOOT_PAIR_TYPE_I i).put Reg.STU_BOOT_PAIR_TYPE_J j
      if overridden s then nextPhase s 2
      else
        let s : State := if s.boot.staged then { clearPend s with boot := { s.boot with staged := false } } else s
        limited s 1 i 0
    | none => nextPhase s 2

/-- VERIFY: the ROM ends phase 1 (R363); while PERST_N is asserted it only measures. -/
def execVerify (s : State) : Host.Outcome State Fault Refusal :=
  if inPhase s 1 then endsPhase s 1 (finish (endVerify s))
  else if s.standby ∧ s.on Reg.STU_PINS_PERST ∧ s.boot.done1 = false then .next (verified s (chooseSlot s))
  else .next s

/-! ## Phases 2 to 5 -/

/-- HIF_LINK of a trained host port. -/
def trainHost (s : State) (gen lanes : Nat) : State :=
  (s.put Reg.HIF_LINK_GEN gen).put Reg.HIF_LINK_WIDTH (if lanes = 16 then Config.width16 else lanes)

/-- STUDIO_START: with PWR_GOOD high the host port trains and COOL_ID is sampled; the host port of a module in limited or
recovery mode trains too. -/
def execStudioStart (gen : Nat) (lanes : Nat) (coolId : BitVec 3) (s : State) : Host.Outcome State Fault Refusal :=
  if ¬(5 ≤ gen ∧ gen ≤ 7 ∧ (lanes = 4 ∨ lanes = 8 ∨ lanes = 16)) then .fault .illFormed
  else if s.get Reg.STU_PINS_PGOOD = 0 ∨ s.on Reg.STU_PINS_PERST ∨ s.get Reg.HIF_LINK_GEN ≠ 0 then .next s
  else if inPhase s 2 then
    endsPhase s 2 (
      let s := sampleClass (trainHost s gen lanes) coolId.toNat
      finish (if (coolClass coolId.toNat).isNone then limited s 5 6 (Config.classDetail coolId.toNat 3) else nextPhase s 3))
  else if s.get Reg.STU_BOOT_STAT_MODE = 2 then finish (sampleClass (trainHost s gen lanes) coolId.toNat)
  else if s.get Reg.STU_BOOT_STAT_MODE = 3 then finish (trainHost s gen lanes)
  else .next s

/-- DIE_TEST: the generators have locked and the self-tests have run; a failure outside the Spindles ends the boot. -/
def execDieTest (result : DieTest) (s : State) : Host.Outcome State Fault Refusal :=
  endsPhase s 3 (
    let s := (List.range 72).foldl (fun s g => s.put (Reg.CLK_GENg_STAT_LOCKED g) 1) s
    let s : State := { s with boot := { s.boot with
      cols := result.cols.map (fun c => (c.1.val, c.2.1.val, c.2.2.val)), stores := result.stores.map (fun c => (c.1.val, c.2.val)) } }
    finish (if result.outside then limited s 7 0 0 else nextPhase s 4))

/-- The lowest of the rates that the channels reached, as MEM_CFG.RATE codes it (the slowest has the highest code). -/
def slowest (l : List (Fin 136 × Nat)) : Nat := (l.filter (fun p => p.2 < 3)).foldl (fun a p => max a p.2) 0

/-- Some memory group has two failed channels. -/
def twoFailed (l : List Nat) : Bool := (List.range 8).any (fun m => 2 ≤ (l.filter (fun c => c / 17 = m)).length)

/-- LPDDR_TRAINING: every channel trains (a physical channel not listed reaches 12.8 Gb/s, 3 is no rate), and every block is
written with zeros (R200, R202). -/
def execLpddrTraining (rates : List (Fin 136 × Nat)) (s : State) : Host.Outcome State Fault Refusal :=
  if rates.all (fun p => p.2 ≤ 3) = false then .fault .illFormed
  else endsPhase s 4 (
    let bad := ((rates.filter (fun p => p.2 = 3)).map (fun p => p.1.val)).eraseDups
    let s := (s.put Reg.MEM_CFG_RATE (slowest rates)).put Reg.MEM_CFG_CAP (b2n s.fit2T)
    let s : State := { s with mem := sclear s.mem 0 spadBase, bad := [], lines := [], boot := { s.boot with chans := bad } }
    finish (if twoFailed bad then limited s 6 0 0 else nextPhase s 5))

/-- The layout of a part's body. -/
def layoutOf (t : Nat) : Config.Layout := (Config.partLayout t).getD ⟨id, id, fun _ => rfl⟩

/-- A field, of 4 bytes, of the booted factory part (6) or deployment part (7). Fields of the factory part: 0 the memory of the ordering code
(0 1 TiB, 1 2 TiB), 1 its lid, 2 the cooling class, 0x10 + c PHYS of logical channel c, 0x90 + m the spare of
group m, 0x100 + 5 k + m bypass word m of Spindle k = 9 f + n. Fields of the deployment part: 0 module id, 1 to 3 the torus extents less
1, 4 time source, 5 retraining interval, 6 droop margin, 7 stretch limit, 8 to 10 AUTO, WINDOW and THRESH of the repair
policy, 0x20 + p role, 0x30 + p and 0x40 + p flex peer of port p, 0x80 + f way roles of slice f. -/
def part (s : State) (t i : Nat) : Nat :=
  leAt ((layoutOf t).fields ((s.flash.slot (s.boot.slot.getD 0)).img t).body) (4 * i) 4

/-- A role is allowed on a port (Table 11-2). -/
def roleOk (r p : Nat) : Bool :=
  r = 0 || (r = 1 && p ≤ 6) || (2 ≤ r && r ≤ 7 && p = r + 5) || (8 ≤ r && r ≤ 15 && 13 ≤ p && p ≤ 15)

/-- The fabric's registers from the deployment part (R272, R273). -/
def putFabric (s : State) : State :=
  let s := (s.put Reg.LNK_MODID_ID (part s 7 0)).put Reg.LNK_MODID_HPOS (part s 7 0 % 8)
  let s := ((s.put Reg.LNK_FABRIC_DX_M1 (part s 7 1)).put Reg.LNK_FABRIC_DY_M1 (part s 7 2)).put Reg.LNK_FABRIC_DZ_M1 (part s 7 3)
  (List.range 16).foldl (fun s p =>
    ((s.put (Reg.LNK_PORTp_CFG_ROLE p) (part s 7 (0x20 + p))).put (Reg.LNK_PORTp_CFG_PEER_MOD p) (part s 7 (0x30 + p))).put
      (Reg.LNK_PORTp_CFG_PEER_PORT p) (part s 7 (0x40 + p))) s

/-- WEFT_TRAINING: every port with a role trains with the far end it sees (none where it is not listed); a port left untrained
retries (R267, R287). -/
def execWeftTraining (seen : List (Fin 16 × Peer)) (s : State) : Host.Outcome State Fault Refusal :=
  endsPhase s 5 (
    let s := putFabric s
    let s := (List.range 16).foldl (fun s p =>
      if hasPeer s p ∧ roleOk (s.get (Reg.LNK_PORTp_CFG_ROLE p)) p then
        trainPort s p ((seen.find? (fun e => e.1.val = p)).map (fun e => e.2))
      else s) s
    finish (nextPhase s 6))

/-! ## Phase 6: the Underpainting (R374) -/

/-- The channel map: the factory's, overlaid with the repair log, then with the spares of channels that failed at boot
(R200, R201, R374). -/
def logMap (s : State) (c : Nat) : Nat :=
  (s.repairLog.filter (fun e => e.2.2)).foldl (fun a e => if e.1 = c then e.2.1 else a) (part s 6 (0x10 + c))

def spareOf (s : State) (m : Nat) : Nat := part s 6 (0x90 + m)

/-- The logical channels of a group. -/
def groupChans (m : Nat) : List Nat := (List.range 16).map (fun i => 16 * m + i)

/-- A group's spare serves no logical channel and trained. -/
def spareFree (s : State) (m : Nat) : Bool :=
  (groupChans m).all (fun c => logMap s c ≠ spareOf s m) && !s.boot.chans.contains (spareOf s m)

/-- The physical channel that serves logical channel c. -/
def bootMap (s : State) (c : Nat) : Nat :=
  if s.boot.chans.contains (logMap s c) && spareFree s (c / 16) then spareOf s (c / 16) else logMap s c

/-- A spare is left after the boot's own replacement. -/
def spareLeft (s : State) (m : Nat) : Bool :=
  spareFree s m && (groupChans m).all (fun c => bootMap s c ≠ spareOf s m)

/-- Every group has 16 logical channels in service on channels of its own (R201). -/
def mapOk16 (s : State) : Bool :=
  (List.range 8).all (fun m =>
    let l := (groupChans m).map (bootMap s)
    l.eraseDups.length = 16 && l.all (fun c => c / 17 = m && !s.boot.chans.contains c) && spareOf s m / 17 = m)

/-- Every field of both parts is in range. -/
def partsOk (s : State) : Bool :=
  part s 6 0 ≤ 1 && part s 6 1 ≤ 2 && part s 6 2 ≤ 2 &&
    (List.range 576).all (fun k => part s 6 (0x100 + 5 * k + 4) < 16) &&
    (List.range 128).all (fun c => part s 6 (0x10 + c) < 136) &&
    part s 7 1 < 16 && part s 7 2 < 16 && part s 7 3 < 32 &&
    part s 7 0 < 8 * (part s 7 1 + 1) * (part s 7 2 + 1) * (part s 7 3 + 1) && part s 7 4 ≤ 2 && 16 ≤ part s 7 5 &&
    part s 7 5 ≤ 4096 && part s 7 6 < 256 && 1 ≤ part s 7 7 && part s 7 7 ≤ 4 && part s 7 8 ≤ 1 && 1 ≤ part s 7 9 &&
    part s 7 9 ≤ 255 && part s 7 10 < 65536 &&
    (List.range 16).all (fun p => roleOk (part s 7 (0x20 + p)) p && part s 7 (0x30 + p) < 65536 && part s 7 (0x40 + p) < 16) &&
    (List.range 64).all (fun f => part s 7 (0x80 + f) % 65536 &&& part s 7 (0x80 + f) / 65536 = 0)

/-- The bad columns of physical Spindle n of Frame f: the factory's and the self-test's (R72), as a mask. -/
def badCols (s : State) (f n : Nat) : Nat :=
  let fac := ((List.range 5).map (fun m => part s 6 (0x100 + 5 * (9 * f + n) + m) * 2 ^ (32 * m))).sum
  s.boot.cols.foldl (fun a c => if c.1 = f ∧ c.2.1 = n then a ||| 2 ^ c.2.2 else a) fac

/-- The width of a Spindle with `b` bad columns (R72). -/
def widthOf (b : Nat) : Nat := min 128 (4 * ((132 - b) / 4))

def badCount (m : Nat) : Nat := ((List.range 132).filter (fun i => bit m i)).length

/-- A Spindle is retired (R72). -/
def retired (s : State) (f n : Nat) : Bool := 37 ≤ badCount (badCols s f n) || s.boot.stores.contains (f, n)

/-- The slot that physical Spindle n of Frame f presents (R73). -/
def slotFor (s : State) (f n : Nat) : Option Nat :=
  if retired s f n then none
  else if n < 8 then some n
  else (List.range 8).find? (fun k => retired s f k)

/-- The Spindles of a Frame as the map leaves them. -/
def putSpindles (s : State) (f : Nat) : State :=
  (List.range 9).foldl (fun s n =>
    let m := badCols s f n
    let s := (List.range 5).foldl (fun s i => s.put (Reg.FRM_SPDn_BADCOLm_BAD f n i) (m / 2 ^ (32 * i))) s
    let s := (s.put (Reg.FRM_SPDn_SHAPE_SPARE f n) (b2n (n = 8))).put (Reg.FRM_SPDn_SHAPE_RETIRED f n) (b2n (retired s f n))
    (s.put (Reg.FRM_SPDn_SHAPE_SLOT f n) ((slotFor s f n).getD 15)).put (Reg.FRM_SPDn_SHAPE_WIDTH f n)
      (if retired s f n then 0 else widthOf (badCount m))) s

/-- A Frame's 16 bytes of the shape record (Table 10-12). -/
def shapeFrame (s : State) (f : Nat) : List Byte :=
  (List.range 8).flatMap (fun k =>
    match (List.range 9).find? (fun n => slotFor s f n = some k) with
    | some n => toLE 1 (widthOf (badCount (badCols s f n)))
    | none => toLE 1 0) ++
  (match slotFor s f 8 with
    | some k => toLE 1 1 ++ toLE 1 k
    | none => toLE 1 (if retired s f 8 then 2 else 0) ++ toLE 1 0) ++ List.replicate 6 0

/-- The shape record (Table 10-12). -/
def buildShape (s : State) : List Byte :=
  toLE 2 1 ++ toLE 1 (part s 6 0) ++ toLE 1 (s.get Reg.PWR_CLASS_CLASS) ++ List.replicate 4 0 ++
    (List.range 16).flatMap (fun p => toLE 1 (part s 7 (0x20 + p))) ++ List.replicate 40 0 ++
    (List.range 64).flatMap (shapeFrame s)

/-- The memory's destinations of Table 16-6. -/
def putChannels (s : State) : State :=
  let s := (List.range 128).foldl (fun s c => s.put (Reg.MEM_CHc_MAP_PHYS c) (bootMap s c)) s
  (List.range 8).foldl (fun s m =>
    (s.put (Reg.MEM_GRPm_SPARE_PHYS m) (spareOf s m)).put (Reg.MEM_GRPm_SPARE_AVAIL m) (b2n (spareLeft s m))) s

/-- The other destinations of the deployment part. -/
def putDeployment (s : State) : State :=
  let s := (putFabric s).put Reg.CLK_TSYNC_SRC (part s 7 4)
  let s := ((s.put Reg.MEM_RETRAIN_CFG_INTERVAL (part s 7 5)).put Reg.PWR_DROOP_CFG_THRESH (part s 7 6)).put
    Reg.PWR_DROOP_CFG_MAXSTRETCH (part s 7 7)
  let s := ((s.put Reg.MEM_REPAIR_POL_AUTO (part s 7 8)).put Reg.MEM_REPAIR_POL_WINDOW (part s 7 9)).put
    Reg.MEM_REPAIR_POL_THRESH (part s 7 10)
  (List.range 64).foldl (fun s f => settleWays (writeWays s f (part s 7 (0x80 + f))) f) s

/-- A repair-log entry that fails its check is ignored and recorded (R374). -/
def badEntries (s : State) : State :=
  (s.repairLog.filter (fun e => !e.2.2)).foldl (fun s _ => bootErr s 0x11 6 0) s

/-- The Underpainting is applied, the seal set, and the clock raised to the class value. -/
def applyParts (s : State) : State :=
  let s := (List.range 64).foldl putSpindles s
  let s := putDeployment (putChannels { s with shape := buildShape s })
  let s := nextPhase ({ s with sealed := true }.put Reg.STU_BOOT_STAT_SEAL 1) 7
  requestFreq (s.put Reg.CLK_FREQ_CTL_TGT_MHZ (classMhz s)) (classMhz s)

/-- APPLY: phase 6 (R374). -/
def execApply (s : State) : Host.Outcome State Fault Refusal :=
  endsPhase s 6 (
    let s := badEntries s
    if partsOk s ∧ part s 6 2 ≠ s.get Reg.PWR_CLASS_CLASS then
      finish (limited s 5 6 (Config.classDetail (s.get Reg.PWR_CLASS_COOL_ID) (part s 6 2)))
    else if partsOk s = false ∨ part s 6 0 ≠ b2n s.fit2T ∨ mapOk16 s = false then finish (limited s 4 6 0)
    else finish (applyParts s))

/-! ## Phase 7 (R367, R368, R384) -/

/-- The floors of the booted images are burned. -/
def burnFloors (z : Fuses) (x : Slot) : Fuses :=
  (List.range 7).foldl (fun z i =>
    { z with svn := sput 0 z.svn (i + 1) (max (sget 0 z.svn (i + 1)) (min 64 (x.img (i + 1)).floor)) }) z

/-- A revocation may be burned: of another slot than the image's own, leaving a slot with firmware purpose. -/
def mayRevoke (z : Fuses) (x : Image) (k : Nat) : Bool :=
  x.key ≠ k && (List.range 4).any (fun i => i ≠ k && z.programmed i && !bit z.revoked i && z.allows i 1)

/-- The revocations of one image, in ascending order of slots. -/
def revoke (s : State) (x : Image) (t : Nat) : State :=
  (List.range 4).foldl (fun s k =>
    if bit (x.u 6 1) k = false ∨ bit s.fuses.revoked k then s
    else if mayRevoke s.fuses x k then { s with fuses := { s.fuses with revoked := s.fuses.revoked + 2 ^ k } }
    else bootErr s 0x10 t 0) s

/-- READY: the boot has reached phase 7: HRB_N is released, floors and revocations are burned, and a pending slot becomes the
preferred one. -/
def execReady (s : State) : Host.Outcome State Fault Refusal :=
  if inPhase s 7 then
    let x := s.flash.slot (s.boot.slot.getD 0)
    let s := (endBoot s 1).put Reg.STU_BOOT_STAT_CAUSE 0
    let s : State := { s with fuses := burnFloors s.fuses x }
    let s := showFuses ((List.range 7).foldl (fun s i => revoke s (x.img (i + 1)) (i + 1)) s)
    let s : State := if s.boot.staged then
        clearPend { s with flash := { s.flash with pref := s.boot.slot.getD 0 }, boot := { s.boot with staged := false } }
      else s
    finish s
  else .next s

/-- BOOT_TIMEOUT: limited mode with cause 0x08. -/
def execBootTimeout (s : State) : Host.Outcome State Fault Refusal :=
  if inPhase s (s.get Reg.STU_BOOT_STAT_PHASE) ∧ overrun s then finish (limited s 8 0 0) else .next s

/-! ## Staging (R382 to R384) -/

/-- The images of a bundle, one after another, header and body; none where they do not fit it. -/
def bundleGo (b : List Byte) (fuel : Nat) (acc : List Image) : Option (List Image) :=
  match fuel with
  | 0 => if b.isEmpty then some acc else none
  | n + 1 =>
    if b.isEmpty then some acc
    else
      let len := leAt b 0x10 8
      if b.length < 352 + len then none
      else bundleGo (b.drop (352 + len)) n (acc ++ [⟨b.take 352, (b.drop 352).take len⟩])

/-- The candidate: the bundle's images over those of the running slot. -/
def candidate (old : Slot) (l : List Image) : Slot :=
  ⟨true, l.foldl (fun m x => sput Image.none m x.typ x) old.imgs⟩

/-- Bytes of a slot's images. -/
def imageBytes (x : Slot) : Nat := (x.imgs.map (fun e => e.2.hdr.length + e.2.body.length)).sum

/-- The size of a slot, and of a bundle at most: 120 MiB. -/
def slotSize : Nat := 120 * 1048576

/-- Why a candidate is refused: cause and image type (R383). -/
def stageFault (z : Fuses) (x : Slot) : Option (Nat × Nat) :=
  if slotSize < imageBytes x then some (5, 0)
  else
    match (List.range 7).findSome? (fun i => (imageFault z (x.img (i + 1)) (i + 1)).map (fun c => (c, i + 1))) with
    | some e => some e
    | none => (untested x).map (fun p => (4, p.2))

/-- A staging fails: STAGED reads 3, and the command is refused. -/
def stageFails (s : State) (n k cause t : Nat) : State :=
  setResult (s.put Reg.STU_FW_CTL_STAGED 3) n k 5 (cause * 2 ^ 16 + t * 2 ^ 32)

/-- The bundle `b` is staged into the slot that did not boot. -/
def stage (s : State) (n k : Nat) (b : List Byte) (flashOk : Bool) : State :=
  match bundleGo b 7 [] with
  | none => stageFails s n k 5 0
  | some l =>
    if l.isEmpty then stageFails s n k 5 0
    else
      match l.find? (fun x => x.typ = 0 || 7 < x.typ) with
      | some x => stageFails s n k 1 x.typ
      | none =>
        let old := match s.boot.slot with
          | some m => s.flash.slot m
          | none => Slot.empty
        let x := candidate old l
        let tgt := 1 - s.boot.slot.getD 0
        match stageFault s.fuses x with
        | some (c, t) => stageFails s n k c t
        | none =>
          if flashOk = false then
            stageFails { s with flash := s.flash.setSlot tgt { s.flash.slot tgt with dir := false } } n k 6 0
          else
            let s : State := { s.put Reg.STU_FW_CTL_STAGED 2 with flash := s.flash.setSlot tgt x }
            let s : State := if s.get Reg.STU_BOOT_STAT_MODE = 3 then
                { s.put Reg.STU_FW_CTL_PENDING 1 with flash := { s.flash with pend := some tgt } }
              else s
            setResult s n k 0 0

/-- FW_STAGE (R382). -/
def execFwStage (n : Fin 64) (k : Nat) (resp : Resp) (flashOk : Bool) (s : State) : Host.Outcome State Fault Refusal :=
  if resp = .late then .next s
  else
    mboxStart s n k 4 (fun s c =>
      if slotSize < mbArg c 1 then stageFails s n k 5 0
      else if resp ≠ .ok then hostErr s n k (mbArg c 0)
      else stage s n k (hostRd s (mbArg c 0) (mbArg c 1)) flashOk)

/-- A write of 1 to ACTIVATE (R384). -/
def activateStaged (s : State) : State :=
  if s.get Reg.STU_FW_CTL_STAGED = 2 then
    { s.put Reg.STU_FW_CTL_PENDING 1 with flash := { s.flash with pend := some (1 - s.boot.slot.getD 0) } }
  else s

/-- ACTIVATE. -/
def execActivate (s : State) : Host.Outcome State Fault Refusal :=
  if hostOpen s 0x10000C then .next (activateStaged s) else .next s

end Sys2Proof.Machine
end

