-- ==== Sys2Proof/Machine/Funcs.lean ====
section
/-! DEFINITION. Elementary functions to well beyond FP32 accuracy, in fixed point with 448 fraction bits, and the rule by
which an approximated result is chosen (R42, R113, R119, R143): any value within the stated error bound. -/
namespace Sys2Proof.Machine

/-- Fraction bits of the fixed point. -/
def fxP : Nat := 448

/-- 1 in fixed point. -/
def fxOne : Int := 2 ^ 448

/-- ln 2 in fixed point. -/
def fxLn2 : Int := 0xb17217f7d1cf79abc9e3b39803f2f6af40f343267298b62d8a0d175b8baafa2be7b876206debac98559552fb4afa1b10ed2eae35c1382144

/-- 1 ÷ √(2π) in fixed point. -/
def fxInvSqrt2Pi : Int := 0x662114cf50d942343f2cf1402eae38bfd3829f30512706d8c0471b4802639d2e9df8ac55447d3db723f5d3abb374e88deb14277970be1513

def fxMul (a b : Int) : Int := a * b / fxOne
def fxDiv (a b : Int) : Int := if b = 0 then 0 else a * fxOne / b

/-- An exact finite value in fixed point. -/
def fxOf (v : Val) : Int :=
  match v with
  | .fin neg m e => sInt neg (if 0 ≤ e + 448 then m * 2 ^ (e + 448).toNat else m / 2 ^ (-(e + 448)).toNat)
  | _ => 0

/-- The value of a fixed point number. -/
def fxVal (x : Int) : Val := .fin (decide (x < 0)) x.natAbs (-448)

/-- Σ r^i ÷ i! from term `i` on. -/
def expTaylor (r term : Int) (i fuel : Nat) : Int :=
  match fuel with
  | 0 => 0
  | k + 1 => term + expTaylor r (fxMul term r / (i + 1 : Nat)) (i + 1) k

/-- e^x; beyond ±300 the nearest of 0 and e^300. -/
def fxExp (x : Int) : Int :=
  if x < -300 * fxOne then 0
  else
    let x := if 300 * fxOne < x then 300 * fxOne else x
    let k := x / fxLn2
    let y := expTaylor (x - k * fxLn2) fxOne 0 90
    if 0 ≤ k then y * 2 ^ k.toNat else y / 2 ^ (-k).toNat

/-- Σ z^(2i+1) ÷ (2i+1) from power `p` on. -/
def atanhSum (z2 p : Int) (i fuel : Nat) : Int :=
  match fuel with
  | 0 => 0
  | k + 1 => p / (2 * i + 1 : Nat) + atanhSum z2 (fxMul p z2) (i + 1) k

/-- ln (m × 2^e) for m > 0. -/
def fxLn (m : Nat) (e : Int) : Int :=
  let l := Nat.log2 m
  let y : Int := if l ≤ 448 then (m : Int) * 2 ^ (448 - l) else (m : Int) / 2 ^ (l - 448)
  let z := fxDiv (y - fxOne) (y + fxOne)
  2 * atanhSum (fxMul z z) z 0 150 + (e + l) * fxLn2

/-- σ(x) = 1 ÷ (1 + e^(−x)). -/
def fxSigmoid (x : Int) : Int :=
  if 0 ≤ x then fxDiv fxOne (fxOne + fxExp (-x)) else (let t := fxExp x; fxDiv t (fxOne + t))

/-- tanh x. -/
def fxTanh (x : Int) : Int := let t := fxExp (-2 * x.natAbs); let r := fxDiv (fxOne - t) (fxOne + t); if x < 0 then -r else r

/-- φ(x), the normal density. -/
def fxPhi (x : Int) : Int := fxMul fxInvSqrt2Pi (fxExp (-(fxMul x x) / 2))

/-- Σ x^(2n+1) ÷ (2n+1)!! from term `n` on. -/
def oddSum (x2 term : Int) (n fuel : Nat) : Int :=
  match fuel with
  | 0 => 0
  | k + 1 => term + oddSum x2 (fxMul term x2 / (2 * n + 3 : Nat)) (n + 1) k

/-- x + i ÷ (x + (i + 1) ÷ (x + …)). -/
def millsGo (x : Int) (i fuel : Nat) : Int :=
  match fuel with
  | 0 => x
  | k + 1 => x + fxDiv (i * fxOne) (millsGo x (i + 1) k)

/-- (1 − Φ(x)) ÷ φ(x) for x ≥ 8, by its continued fraction. -/
def fxMills (x : Int) : Int := fxDiv fxOne (millsGo x 1 300)

/-- Φ(x), the normal distribution: its tails beyond ±8 from φ, so that they keep their relative accuracy. -/
def fxNormal (x : Int) : Int :=
  let a : Int := x.natAbs
  if 8 * fxOne < a then (let t := fxMul (fxPhi a) (fxMills a); if x < 0 then t else fxOne - t)
  else
    let s := fxMul (fxPhi a) (oddSum (fxMul a a) a 0 600)
    if x < 0 then fxOne / 2 - s else fxOne / 2 + s

/-- 0.79788 (x + 0.044715 x³), the argument of the tanh form of GELU (Table 5-2). -/
def geluArg (x : Int) : Int := (x + fxMul (fxMul x x) x * 44715 / 1000000) * 79788 / 100000

/-- The derivative of `geluArg`. -/
def geluArg' (x : Int) : Int := (fxOne + 3 * fxMul x x * 44715 / 1000000) * 79788 / 100000

/-! ## Activations and their derivatives (Table 5-2, Table 6-6) -/

/-- GELU in the erf form, its tanh form, SiLU and Mish: code 16 to 19 (20 and 21 use 18 and 17). -/
def actFn (code : Nat) (x : Int) : Int :=
  match code with
  | 16 => fxMul x (fxNormal x)
  | 17 => fxMul x (fxSigmoid (2 * geluArg x))
  | 18 => fxMul x (fxSigmoid x)
  | _ =>
    let t := fxExp x
    let n := fxMul t t + 2 * t
    fxMul x (if 100 * fxOne < x then fxOne else fxDiv n (n + 2 * fxOne))

/-- The derivatives of codes 16 to 19. -/
def actFn' (code : Nat) (x : Int) : Int :=
  match code with
  | 16 => if x < -8 * fxOne then fxMul (fxPhi x) (fxMills (-x) + x) else fxNormal x + fxMul x (fxPhi x)
  | 17 =>
    let u := 2 * geluArg x
    fxSigmoid u + fxMul (fxMul x (fxMul (fxSigmoid u) (fxSigmoid (-u)))) (2 * geluArg' x)
  | 18 => fxMul (fxSigmoid x) (fxOne + fxMul x (fxSigmoid (-x)))
  | _ =>
    if 100 * fxOne < x then fxOne
    else
      let t := fxExp x
      let n := fxMul t t + 2 * t
      let d := n + 2 * fxOne
      let a := fxOne + t
      fxDiv n d + fxMul x (fxMul (fxDiv (fxDiv (4 * fxMul a a) d) d) (fxSigmoid x))

/-! ## Choosing an approximated result -/

/-- The error bounds of Tables 5-2 and 6-6. -/
inductive Bound where
  | ulps (n : Nat)
  | rel20
  deriving DecidableEq, Repr

/-- The FP32 value `c` lies within the bound of the exact result `r`. -/
def within (b : Bound) (r : Val) (c : W32) : Bool :=
  match r, f32val c with
  | .fin n m e, .fin cn cm ce =>
    let d := vabs (vsub (.fin cn cm ce) (.fin n m e))
    match b with
    | .ulps k => vcmp d (.fin false k (fmtFP32.ulpExp m e)) ≤ 0
    | .rel20 => vcmp d (.fin false m (e - 20)) ≤ 0
  | _, _ => false

/-- The result of an approximated function: the implementation's own value where it lies within the bound of the exact
result, else the exact result rounded to nearest even. -/
def approx (b : Bound) (r : Val) (own : W32) : W32 := if within b r own then own else f32rnd r

end Sys2Proof.Machine
end

