-- ==== Sys2Proof/Machine/Brush.lean ====
section
/-! DEFINITION. The Brush commands (R113, R139 to R145). -/
namespace Sys2Proof.Machine

/-! ## What a Brush or Easel command does -/

/-- An engine command waits, is rejected with a cause of unit 5, meets an unreadable word, or is done. -/
inductive EngOut where
  | wait
  | bad (cause : Nat)
  | done (s : State)

/-- The index of an error of the Brush (queue 25) or the Easel (queue 26) of Frame `f`. -/
def engIdx (f q : Nat) : Nat := 2 * f + (q - 25)

/-- A command of the Brush or the Easel is executing: its last output has not been granted. -/
def engBusy (s : State) (f q : Nat) : Bool := !(s.queue f q).ran.isEmpty

/-- Vectors of 1,024 BF16 lanes serve the command (R139). -/
def lanes16 (w : Nat) : Bool := 0x20 ≤ wOp w && wOp w ≤ 0x22 && brIty w = 2 && brOty w = 2

/-- The commands in an engine queue: those that wait and those executing (R137; DEDUCED, assumption 62). -/
def engDepth (s : State) (f q : Nat) : Nat := min 64 ((s.queue f q).words.length + (s.queue f q).ran.length)

/-- FRM_BRUSH_STATE as it reads. -/
def brushState (s : State) (f : Nat) : Nat :=
  let x := s.queue f 25
  256 * engDepth s f 25 + 2 * b2n (match x.ran with | w :: _ => lanes16 w | [] => false) + b2n (engBusy s f 25)

/-- The Easel is frozen by a stall of its output or its input (R69, R120): the queue that takes its output is full, or its command's rows
or bytes have come only in part. -/
def easelFrozen (s : State) (f : Nat) : Bool :=
  let x := s.queue f 26
  x.ran.any (fun w => (givesTo 26 w).any (fun j => 16384 < (s.sh f j).fromEng.length)) ||
  (match x.words with
    | w :: _ =>
      ((wOp w = 0x30 || wOp w = 0x31) && eaSrc w = 1 && !(sget [] s.easelIn f).isEmpty && (sget [] s.easelIn f).length < eaRows w) ||
        (takesFrom 26 w).any (fun j => let l := (s.sh f j).toEng; !l.isEmpty && l.length < wordTakes s f 26 w j l)
    | [] => false)

/-- FRM_EASEL_STATE as it reads. -/
def easelState (s : State) (f : Nat) : Nat := 256 * engDepth s f 26 + 2 * b2n (easelFrozen s f) + b2n (engBusy s f 26)

/-- The status register of an engine queue. -/
def engState (s : State) (f q : Nat) : Nat := if q = 25 then brushState s f else easelState s f

/-- A command of the Brush or the Easel ends its task (Table 17-3); a word of no task is dropped. -/
def engErr (s : State) (f q unit cause idx d0 : Nat) : State :=
  let s := s.taskErr { sev := 1, unit := unit, cause := cause, index := idx, task := s.qTask f q, d0 := d0, stamp := s.timeOf f }
  let x := s.queue f q
  s.setQueue f q { x with words := x.words.drop 1 }

/-- The head word has executed. -/
def engRan (s : State) (f q : Nat) : State :=
  let x := s.queue f q
  s.setQueue f q { words := x.words.drop 1, ran := x.ran ++ x.words.take 1 }

/-- The first uncorrectable word that the checks of a command's reads find: in the statistics store (true) or in Frame
memory. -/
def eccFatal (l : List (Bool × Ecc)) : Option Bool := (l.find? (fun x => x.2 = .double || x.2 = .header)).map (fun x => x.1)

/-- Count and log the corrected words (R121, R133). -/
def eccCorr (s : State) (f : Nat) (l : List (Bool × Ecc)) : State :=
  l.foldl (fun s (store, e) =>
    if e = .single then
      if store then s.logErr { sev := 0, unit := 5, cause := 1, index := engIdx f 26, d0 := engState s f 26, stamp := s.timeOf f }
      else
        (s.bump (Reg.FRM_FMEM_ECCCNT_CORR f) 1).logErr
          { sev := 0, unit := 6, cause := 1, index := f, d0 := storedWord s (0x100C000 + 0x10000 * f), stamp := s.timeOf f }
    else s) s

/-- The row of opcode `op` on engine queue `q`: a word that `ok` refuses is rejected by any row; what the ECC checks of a
command that runs find is counted and logged, and an uncorrectable word ends the task (R121, R133). -/
def engRow (s : State) (f q op : Nat) (ok : Nat → Bool) (eccs : List (Bool × Ecc)) (body : State → Nat → EngOut) :
    Host.Outcome State Fault Refusal :=
  onClock s f (
    match (s.queue f q).words with
    | [] => .next s
    | w :: _ =>
      if ok w = false then finish (engErr s f q 5 3 (engIdx f q) (engState s f q))
      else if wOp w ≠ op then .next s
      else
        match body s w with
        | .wait => .next s
        | .bad c => finish (engErr s f q 5 c (engIdx f q) (engState s f q))
        | .done t =>
          match eccFatal eccs with
          | none => finish (engRan (eccCorr t f eccs) f q)
          | some true => finish (engErr s f q 5 2 (engIdx f 26) (engState s f 26))
          | some false =>
            finish (engErr (s.bump (Reg.FRM_FMEM_ECCCNT_UNCORR f) 1) f q 6 2 f (storedWord s (0x100C000 + 0x10000 * f))))

/-! ## Decode (R140, R141, Table 6-4) -/

/-- Function codes that Table 5-2 defines. -/
def actCode (n : Nat) : Bool := n ≤ 6 || (16 ≤ n && n ≤ 21)

/-- FN is defined for the opcode. -/
def brushFnOk (w : Nat) : Bool :=
  match wOp w with
  | 0x20 => brFn w ≤ 15
  | 0x21 => actCode (brFn w)
  | 0x22 => actCode (brFn w)
  | 0x23 => brFn w = 0
  | 0x24 => brFn w ≤ 2
  | 0x25 => brFn w ≤ 1
  | _ => false

/-- The pair of types is one of Table 6-4. -/
def brushTypesOk (w : Nat) : Bool :=
  let i := brIty w
  let o := brOty w
  let f3 (t : Nat) : Bool := 1 ≤ t && t ≤ 3
  match wOp w with
  | 0x20 => f3 i && f3 o
  | 0x21 => f3 i && f3 o
  | 0x22 => f3 i && 1 ≤ o && o ≤ 8
  | 0x23 => (f3 i || i = 0x0B) && 1 ≤ o && o ≤ 0x0C
  | 0x24 => f3 i && o = 1
  | 0x25 => i = 1 && (o = 1 || o = 2 || o = 4)
  | _ => false

/-- No reserved code or bit in a Brush word. -/
def brushWordOk (w : Nat) : Bool :=
  onlyFields w brushFields && brushFnOk w && brushTypesOk w && brOsty w ≤ 2 && styValid (brOsty w) (brOty w) && brSrcA w ≠ 3

/-- The input streams that a command reads (Tables 6-4, 6-6): 0 A, 1 B, 2 C, 3 D. -/
def brushIns (w : Nat) : List Nat :=
  match wOp w with
  | 0x20 =>
    if brFn w ≤ 2 ∨ brFn w = 4 ∨ brFn w = 5 ∨ brFn w = 11 then [0, 1] else if brFn w = 3 ∨ brFn w = 15 then [0, 1, 2] else [0]
  | 0x21 => if 20 ≤ brFn w then [0, 1] else [0]
  | 0x22 => if 20 ≤ brFn w then [0, 1, 2] else [0, 1]
  | 0x25 => if brFn w = 0 then [0, 1, 2] else [0, 1, 2, 3]
  | _ => [0]

/-- Bytes that `n` elements of a type take in memory (R21). -/
def packedBytes (t n : Nat) : Nat := if etyWidth t = 6 then (n + 3) / 4 * 3 else (n * etyWidth t + 7) / 8

/-- Elements to a row: ROWLEN, or all of them where it is 0 (assumption 45). -/
def brushRow (w : Nat) (a : BrushArg) : Nat := if a.rowl = 0 then brCnt w else a.rowl

/-- Block scales of `n` elements in rows of `l` (R25). -/
def brushScales (st l n : Nat) : Nat :=
  n / l * ((l + styBlock st - 1) / styBlock st) + (n % l + styBlock st - 1) / styBlock st

/-- The outputs of a command: which of Y to Y4 (0 to 3), and bytes. Y goes to a queue under DST = 1, but for a pair. -/
def brushOuts (w : Nat) : List (Nat × Nat) :=
  let n := brCnt w
  let y (b : Nat) : List (Nat × Nat) := if brDst w = 1 then [] else [(0, b)]
  match wOp w with
  | 0x22 => y (packedBytes (brOty w) n) ++ (if 20 ≤ brFn w then [(1, 4 * n)] else [])
  | 0x24 => if brAcc w then [(0, 8)] else y 4
  | 0x25 => y (4 * n) ++ [(1, 4 * n)] ++ (if brFn w = 1 then [(2, 4 * n)] else []) ++ [(3, packedBytes (brOty w) n)]
  | _ => y (packedBytes (brOty w) n)

/-- The ranges (offset, bytes) of the inputs that lie in Frame memory. -/
def brushInRanges (w : Nat) (a : BrushArg) : List (Nat × Nat) :=
  (brushIns w).filterMap (fun i =>
    let o := a.ins[i]?.getD 0
    if (i = 0 ∧ brSrcA w ≠ 0) ∨ o = noAddr then none else some (o, packedBytes (brIty w) (brCnt w)))

/-- The ranges of the outputs, the scales among them. -/
def brushOutRanges (w : Nat) (a : BrushArg) : List (Nat × Nat) :=
  (brushOuts w).filterMap (fun (i, b) => let o := a.outs[i]?.getD 0; if o = noAddr then none else some (o, b)) ++
  (if brOsty w = 0 then [] else [(a.scale, (if brOsty w = 2 then 64 else 0) + brushScales (brOsty w) (brushRow w a) (brCnt w))])

/-- Bytes of a Frame's memory. -/
def fmSize : Nat := 0x1000000

/-- A command is rejected for its addresses (R140, R141). -/
def brushAddrBad (w : Nat) (a : BrushArg) : Bool :=
  let ins := brushInRanges w a
  let outs := brushOutRanges w a
  fmSize < brArg w + 128 || (ins ++ outs).any (fun r => r.1 % 64 ≠ 0 || fmSize < r.1 + r.2) ||
  outs.any (fun o => ins.any (fun i => i ≠ o && meets i.1 i.2 o.1 o.2))

/-! ## Element functions -/

/-- The result of a function: exact, to be rounded once, an FP32 value already, or the input itself, which may lie beyond FP32 where
a drain carries it there (R39). -/
inductive FnRes where
  | exact (v : Val)
  | word (w : W32)
  | same (v : Val)

/-- The implementation's own value of function `fn` of opcode `op`. -/
def ownValue (op fn : Nat) (args : List Val) : W32 := Config.fnValue (256 * op + fn) (args.map f32rnd)

/-- A value greater than 0. -/
def vpos (v : Val) : Bool := match v with | .fin neg m _ => !neg && m ≠ 0 | .inf neg => !neg | .nan => false

/-- A zero of either sign. -/
def vzero (v : Val) : Bool := match v with | .fin _ m _ => m = 0 | _ => false

def vone : Val := .fin false 1 0

/-- A quotient; one the spec states no value for, by zero or of infinities, is free. -/
def quotient (op fn : Nat) (a b : Val) : FnRes :=
  if a.isNan || b.isNan then .exact .nan
  else if vzero b || (a.isInf && b.isInf) then .word (ownValue op fn [a, b])
  else .exact (vdiv a b)

/-- A square root; that of a negative number is free. -/
def root (op fn : Nat) (a : Val) : FnRes :=
  match a with
  | .nan => .exact .nan
  | a => if vpos a || vzero a then .exact (vsqrt a) else .word (ownValue op fn [a])

/-- BOP (Table 6-6); on BF16 lanes 1 ÷ √A is exact up to its one rounding (R42). -/
def bopFn (fn : Nat) (l16 : Bool) (a b c : Val) (s0 s1 : W32) : FnRes :=
  let nanAny : Bool := a.isNan || b.isNan
  match fn with
  | 0 => .exact (vadd a b)
  | 1 => .exact (vsub a b)
  | 2 => .exact (vmul a b)
  | 3 => .exact (vadd (vmul a b) c)
  | 4 => .exact (if nanAny then .nan else if vcmp a b ≤ 0 then a else b)
  | 5 => .exact (if nanAny then .nan else if vcmp a b ≥ 0 then a else b)
  | 6 => .exact (vabs a)
  | 7 => .exact (vneg a)
  | 8 => .exact (vadd (vmul a (f32val s0)) (f32val s1))
  | 9 => root 0x20 9 a
  | 10 =>
    match a with
    | .nan => .exact .nan
    | .inf false => .exact .zero
    | a =>
      if vpos a then (if l16 then .exact (vrsqrt a) else .word (approx (.ulps 1) (vrsqrt a) (ownValue 0x20 10 [a])))
      else .word (ownValue 0x20 10 [a])
  | 11 => quotient 0x20 11 a b
  | 12 =>
    match a with
    | .nan => .exact .nan
    | .inf neg => .exact (if neg then .zero else .inf false)
    | a => .word (approx (.ulps 2) (fxVal (fxExp (fxOf a))) (ownValue 0x20 12 [a]))
  | 13 =>
    match a with
    | .nan => .exact .nan
    | .inf false => .exact (.inf false)
    | .fin false (m + 1) e => .word (approx (.ulps 2) (fxVal (fxLn (m + 1) e)) (ownValue 0x20 13 [a]))
    | a => .word (ownValue 0x20 13 [a])
  | 14 => .same a
  | _ => .exact (if vpos c then a else b)

/-- An activation of codes 16 to 19 of a finite value, exact to fixed point; below the fixed point's range a tiny value of the
argument's sign. -/
def actVal (code : Nat) (a : Val) : Val :=
  match a, fxVal (actFn code (fxOf a)) with
  | .fin neg _ _, .fin _ 0 _ => .fin neg 1 (-400)
  | _, v => v

/-- The derivative of an activation of codes 16 to 19 at a finite value: far below 0, where it is under the fixed point's range, a tiny
negative value. -/
def actDeriv (code : Nat) (x : Val) : Val :=
  match x, fxVal (actFn' code (fxOf x)) with
  | .fin true _ _, .fin _ 0 _ => .fin true 1 (-440)
  | _, v => v

/-- BACT (Tables 5-2, 6-6). -/
def bactFn (fn : Nat) (a b : Val) (s0 : W32) : FnRes :=
  let own := ownValue 0x21 fn [a, b, f32val s0]
  let e1 : Val := .fin true 1 0
  if a.isNan ∨ (20 ≤ fn ∧ b.isNan) then .exact .nan
  else
    match fn with
    | 0 => .exact (if vpos a then a else .zero)
    | 1 => .exact (if vpos a then a else vmul (f32val s0) a)
    | 2 =>
      match a with
      | .inf neg => .exact (if neg then .zero else vone)
      | a => .word (approx (.ulps 2) (fxVal (fxSigmoid (fxOf a))) own)
    | 3 =>
      match a with
      | .inf neg => .exact (.fin neg 1 0)
      | a => if vzero a then .exact a else .word (approx (.ulps 2) (fxVal (fxTanh (fxOf a))) own)
    | 4 =>
      match a with
      | .inf neg => .exact (if neg then .zero else .inf false)
      | a => .word (approx (.ulps 2) (fxVal (fxExp (fxOf a))) own)
    | 5 =>
      match a with
      | .inf neg => .exact (if neg then .zero else .inf false)
      | a =>
        let x := fxOf a
        let r := if 300 * fxOne < x then a else fxVal (fxLn (fxOne + fxExp x).toNat (-448))
        .word (approx (.ulps 3) r own)
    | 6 =>
      if vpos a then .exact a
      else
        match a with
        | .inf _ => .exact (vmul (f32val s0) e1)
        | a => .word (approx (.ulps 2) (vmul (f32val s0) (fxVal (fxExp (fxOf a) - fxOne))) own)
    | 20 => if a.isInf then .word own else .word (approx (.ulps 4) (vmul (actVal 18 a) b) own)
    | 21 => if a.isInf then .word own else .word (approx (.ulps 4) (vmul (actVal 17 a) b) own)
    | k =>
      if a.isInf then .word own
      else .word (approx (if k = 16 ∨ k = 19 then .rel20 else .ulps 4) (actVal k a) own)

/-- f′ of codes 0 to 6 from the saved output, exact but for code 5 (Table 5-2). -/
def deriv (fn : Nat) (y : Val) (s0 : W32) : Val :=
  match fn with
  | 0 => if vpos y then vone else .zero
  | 1 => if vpos y then vone else f32val s0
  | 2 => vmul y (vsub vone y)
  | 3 => vsub vone (vmul y y)
  | 4 => y
  | 5 =>
    match y with
    | .inf neg => if neg then .inf true else vone
    | y => vsub vone (fxVal (fxExp (fxOf (vneg y))))
  | _ => if vpos y then vone else vadd y (f32val s0)

/-- DACT (R113): dx, or da, from dy, the saved tensor and, for the gated forms, b; on BF16 lanes a function that is no
transcendental one is exact (R42). -/
def dactFn (fn : Nat) (l16 : Bool) (dy x b : Val) (s0 : W32) : FnRes :=
  let own := ownValue 0x22 fn [dy, x, b, f32val s0]
  if dy.isNan ∨ x.isNan ∨ (20 ≤ fn ∧ b.isNan) then .exact .nan
  else if fn ≤ 6 then
    let r := vmul dy (deriv fn x s0)
    let k := match fn with | 2 => 2 | 3 => 2 | 5 => 3 | 6 => 1 | _ => 0
    if k = 0 ∨ (l16 ∧ fn ≠ 5) then .exact r else .word (approx (.ulps k) r own)
  else if x.isInf then .word own
  else
    let d := actDeriv (if fn = 20 then 18 else if fn = 21 then 17 else fn) x
    if fn < 20 then .word (approx (if fn = 16 ∨ fn = 19 then .rel20 else .ulps 4) (vmul dy d) own)
    else .word (approx (.ulps 4) (vmul (vmul dy b) d) own)

/-- db of the gated forms (Table 5-2). -/
def dactGate (fn : Nat) (dy a b : Val) : W32 :=
  let own := ownValue 0x22 (fn + 32) [dy, a, b]
  if dy.isNan ∨ a.isNan ∨ b.isNan then 0x7FC00000#32
  else if a.isInf then own
  else approx (.ulps 4) (vmul dy (actVal (if fn = 20 then 18 else 17) a)) own

/-- The value that goes into the conversion to OTYPE (R42, R143): rounded once into FP32 on FP32 lanes, exact on BF16 ones; a copied
input as it is (R39, R47). -/
def laneVal (l16 : Bool) (r : FnRes) : Val :=
  match r with
  | .exact v => if l16 then v else f32val (f32rnd v)
  | .word w => f32val w
  | .same v => v

/-- A word of a result. -/
def FnRes.w32 (r : FnRes) : W32 := match r with | .exact v => f32rnd v | .word w => w | .same v => f32rnd v

/-- One element of a BOPT step (R145): p′, m′, v′. -/
def boptElem (fn : Nat) (sc : List W32) (p g m v : W32) : W32 × W32 × W32 :=
  let S (i : Nat) : W32 := sc[i]?.getD 0
  let neg (x : W32) : W32 := f32rnd (vneg (f32val x))
  let t := f32mul g (S 7)
  if fn = 0 then
    let m' := f32fma (S 1) m t
    let e := f32fma (S 6) p m'
    (f32fma (neg (S 0)) e p, m', 0)
  else
    let u := f32mul (S 2) t
    let m' := f32fma (S 1) m u
    let w := f32mul t t
    let w2 := f32mul (S 4) w
    let v' := f32fma (S 3) v w2
    let mh := f32mul m' (S 8)
    let vh := f32mul v' (S 9)
    let q := f32add (root 0x25 9 (f32val vh)).w32 (S 5)
    let d := (quotient 0x25 11 (f32val mh) (f32val q)).w32
    let e := f32fma (S 6) p d
    (f32fma (neg (S 0)) e p, m', v')

/-! ## Reductions (R144) -/

/-- Fold a list of vectors lane by lane. -/
def laneFold (op : W32 → W32 → W32) (acc : List W32) (l : List (List W32)) : List W32 :=
  match l with
  | [] => acc
  | x :: r => laneFold op ((acc.zip x).map (fun (a, b) => op a b) ++ acc.drop x.length) r

/-- Combine neighbours, lanes 2i and 2i + 1. -/
def pairLanes (op : W32 → W32 → W32) (l : List W32) : List W32 :=
  match l with
  | a :: b :: r => op a b :: pairLanes op r
  | l => l

/-- The fixed pairwise tree over `k` levels. -/
def treeFold (op : W32 → W32 → W32) (l : List W32) (k : Nat) : W32 :=
  match k with
  | 0 => l.headD 0
  | n + 1 => treeFold op (pairLanes op l) n

/-- The greater of two magnitudes. -/
def maxMag (a b : W32) : W32 :=
  if f32isNan a || f32isNan b then 0x7FC00000#32 else if vcmp (f32val a) (f32val b) ≥ 0 then a else b

/-- BRED's result. -/
def bredValue (fn : Nat) (vs : List W32) : W32 :=
  let op := if fn = 2 then maxMag else f32add
  let xs := match fn with
    | 0 => vs
    | 1 => vs.map (fun v => f32mul v v)
    | _ => vs.map (fun v => if f32special v then 0x7FC00000#32 else f32rnd (vabs (f32val v)))
  treeFold op (laneFold op (List.replicate 512 0#32) (piecesOf 512 xs xs.length)) 9

/-! ## Conversion and output -/

/-- Convert elements j, j + 1, … into OTYPE without scales. -/
def brushCvt (s : State) (f t : Nat) (sat sr : Bool) (j : Nat) (vs : List Val) (acc : List Nat) : State × List Nat :=
  match vs with
  | [] => (s, acc.reverse)
  | v :: r =>
    let (s, c) := cvtLane s f (j % 1024) t sat sr v
    brushCvt s f t sat sr (j + 1) r (c :: acc)

/-- Quantise the elements of a block with its scale. -/
def brushQuantBlock (s : State) (f st t sc : Nat) (ts : W32) (sr : Bool) (j : Nat) (vs : List Val) (acc : List Nat) : State × List Nat :=
  match vs with
  | [] => (s, acc.reverse)
  | v :: r =>
    let (s, c) := quantLane s f (j % 1024) st t sc ts sr v
    brushQuantBlock s f st t sc ts sr (j + 1) r (c :: acc)

/-- Quantise blocks in order: codes and scale bytes (R28). -/
def brushQuant (s : State) (f st t : Nat) (ts : W32) (sr : Bool) (j : Nat) (bl : List (List Val)) (cs scs : List Nat) :
    State × List Nat × List Nat :=
  match bl with
  | [] => (s, cs, scs)
  | b :: r =>
    let sc := quantScale st t ts (amaxOf b)
    let (s, c) := brushQuantBlock s f st t sc ts sr j b []
    brushQuant s f st t ts sr (j + b.length) r (cs ++ c) (scs ++ [sc])

/-- Store codes densely from offset `o` (R21); bits beyond the last element are kept. -/
def storePacked (s : State) (f o t : Nat) (cs : List Nat) : State :=
  let w := etyWidth t
  let n := packedBytes t cs.length
  let v := cs.foldr (fun c a => c % 2 ^ w + 2 ^ w * a) 0
  let old := ofLE (fmBytes s f o n)
  s.setFm f o (toLE n (old / 2 ^ (w * cs.length) * 2 ^ (w * cs.length) + v))

/-- The element that leaves for a Shuttle queue (R172): an FP32 value or an INT32 one. -/
def outElem (t st sc : Nat) (ts : W32) (c : Nat) : EElem :=
  if st = 0 ∧ etyFloat t = false then { v := BitVec.ofNat 32 (unsigned 32 (etyInt t c)), isInt := true }
  else
    let v := scaledVal st t sc c
    .word (f32rnd (if st = 2 then vmul (f32val ts) v else v))

/-- Convert values into OTYPE and OSTYPE and write them at offset `o` (none: to the DST queue), scales at SCALE_ADDR. -/
def brushOut (s : State) (f w : Nat) (a : BrushArg) (o : Option Nat) (vs : List Val) : State :=
  let t := brOty w
  let st := brOsty w
  if o = some noAddr then s
  else if st = 0 then
    let (s, cs) := brushCvt s f t (brSat w) (brSr w) 0 vs []
    match o with
    | some x => storePacked s f x t cs
    | none => toQueue s f (brDstQ w) (cs.map (outElem t 0 0 0))
  else
    let ts := Config.brushTensorScale a.sc
    let rows := piecesOf (brushRow w a) vs vs.length
    let (s, cs, scs) := brushQuant s f st t ts (brSr w) 0 (rows.flatMap (fun r => piecesOf (styBlock st) r r.length)) [] []
    let bs := scs.map (BitVec.ofNat 8)
    let s := if st = 2 then (s.setFm f a.scale (toLE 4 ts.toNat)).setFm f (a.scale + 64) bs else s.setFm f a.scale bs
    match o with
    | some x => storePacked s f x t cs
    | none =>
      let lens := rows.flatMap (fun r => (piecesOf (styBlock st) r r.length).map List.length)
      let each := (lens.zip scs).flatMap (fun (n, sc) => List.replicate n sc)
      toQueue s f (brDstQ w) ((cs.zip each).map (fun (c, sc) => outElem t st sc ts c))

/-- Write FP32 words at offset `o`, unless it is suppressed. -/
def putWords (s : State) (f o : Nat) (ws : List W32) : State :=
  if o = noAddr then s else s.setFm f o (ws.flatMap (fun w => toLE 4 w.toNat))

/-! ## Inputs -/

/-- The values of `n` packed elements from offset `o`. -/
def fmVals (s : State) (f o t n : Nat) : List Val :=
  let w := etyWidth t / 8
  let bs := (fmBytes s f o (n * w)).toArray
  (List.range n).map (fun i => etyVal t (ofLE ((List.range w).map (fun k => bs[i * w + k]?.getD 0))))

/-- The values of input stream `i`, and the state with what it consumes taken. A stream that a Spindle drains is of the sums' own
type, FP32 or INT32, whatever ITYPE names for the streams in memory (R109). -/
def brushIn1 (s : State) (f w : Nat) (a : BrushArg) (i : Nat) : Except EngOut (State × List Val) :=
  let n := brCnt w
  if i = 0 ∧ brSrcA w = 1 then
    let l := sget [] s.brushIn f
    if l.length < n then .error .wait
    else .ok ({ s with brushIn := sput [] s.brushIn f (l.drop n) }, (l.take n).map EElem.val)
  else if i = 0 ∧ brSrcA w = 2 then
    let j := brSrcQ w
    match feedElems (s.sh f j).toEng n (brIty w) 0 with
    | .wait => .error .wait
    | .bad => .error (.bad 3)
    | .ok l _ => .ok (releaseItems (dropStream s f j n) f j n, l.map (fun e => etyVal e.ety e.code))
  else
    let o := a.ins[i]?.getD 0
    if o = noAddr then .ok (s, List.replicate n (f32val (a.sc[1]?.getD 0))) else .ok (s, fmVals s f o (brIty w) n)

/-- The values of the input streams that the command reads, in order. -/
def brushInputs (s : State) (f w : Nat) (a : BrushArg) (l : List Nat) : Except EngOut (State × List (List Val)) :=
  match l with
  | [] => .ok (s, [])
  | i :: r =>
    match brushIn1 s f w a i with
    | .error e => .error e
    | .ok (s, v) =>
      match brushInputs s f w a r with
      | .error e => .error e
      | .ok (s, vs) => .ok (s, v :: vs)

/-- Rows of equal place out of some streams; a stream that is not read gives zeros. -/
def zipStreams (n : Nat) (vs : List (List Val)) : List (Val × Val × Val × Val) :=
  let g (i : Nat) : Array Val := ((vs[i]?).getD []).toArray
  let (a, b, c, d) := (g 0, g 1, g 2, g 3)
  (List.range n).map (fun i => (a.getD i .zero, b.getD i .zero, c.getD i .zero, d.getD i .zero))

/-- The argument record of a Brush command. -/
def brushArgOf (s : State) (f w : Nat) : BrushArg := brushArg (fmBytes s f (brArg w) 128)

/-- A Brush command: its addresses are checked, its inputs taken; `k` does the rest. -/
def brushBody (f : Nat) (k : State → Nat → BrushArg → List (Val × Val × Val × Val) → State) (s : State) (w : Nat) : EngOut :=
  let a := brushArgOf s f w
  if brushAddrBad w a then .bad 3
  else
    match brushInputs s f w a (brushIns w) with
    | .error e => e
    | .ok (t, vs) => .done (k t w a (zipStreams (brCnt w) vs))

/-- Where Y goes. -/
def yPlace (w : Nat) (a : BrushArg) : Option Nat := if brDst w = 1 then none else some (a.outs[0]?.getD 0)

def scalar (a : BrushArg) (i : Nat) : W32 := a.sc[i]?.getD 0

/-! ## The commands -/

/-- BOP (R143). -/
def execBop (f : Fin 64) (ecc : Ecc) (s : State) : Host.Outcome State Fault Refusal :=
  engRow s f 25 0x20 brushWordOk [(false, ecc)] (brushBody f (fun s w a l =>
    brushOut s f w a (yPlace w a) (l.map (fun (x, y, z, _) => laneVal (lanes16 w) (bopFn (brFn w) (lanes16 w) x y z (scalar a 0) (scalar a 1))))))

/-- BACT (R143). -/
def execBact (f : Fin 64) (ecc : Ecc) (s : State) : Host.Outcome State Fault Refusal :=
  engRow s f 25 0x21 brushWordOk [(false, ecc)] (brushBody f (fun s w a l =>
    brushOut s f w a (yPlace w a) (l.map (fun (x, y, _, _) => laneVal (lanes16 w) (bactFn (brFn w) x y (scalar a 0))))))

/-- DACT (R113). -/
def execDact (f : Fin 64) (ecc : Ecc) (s : State) : Host.Outcome State Fault Refusal :=
  engRow s f 25 0x22 brushWordOk [(false, ecc)] (brushBody f (fun s w a l =>
    let fn := brFn w
    let s := brushOut s f w a (yPlace w a)
      (l.map (fun (x, y, z, _) => laneVal (lanes16 w) (dactFn fn (lanes16 w) x y z (scalar a 0))))
    if 20 ≤ fn then putWords s f (a.outs[1]?.getD 0) (l.map (fun (x, y, z, _) => dactGate fn x y z)) else s))

/-- BCVT (R139, R141): one rounding into OTYPE. -/
def execBcvt (f : Fin 64) (ecc : Ecc) (s : State) : Host.Outcome State Fault Refusal :=
  engRow s f 25 0x23 brushWordOk [(false, ecc)] (brushBody f (fun s w a l => brushOut s f w a (yPlace w a) (l.map (fun x => x.1))))

/-- BRED (R144). -/
def execBred (f : Fin 64) (ecc : Ecc) (s : State) : Host.Outcome State Fault Refusal :=
  engRow s f 25 0x24 brushWordOk [(false, ecc)] (brushBody f (fun s w a l =>
    let v := bredValue (brFn w) (l.map (fun x => f32rnd x.1))
    let o := a.outs[0]?.getD 0
    if brAcc w then
      (if o = noAddr then s
       else
        let p : Pair := ⟨BitVec.ofNat 32 (ofLE (fmBytes s f o 4)), BitVec.ofNat 32 (ofLE (fmBytes s f (o + 4) 4))⟩
        let r := p.add v
        putWords s f o [r.s, r.c])
    else if brDst w = 1 then toQueue s f (brDstQ w) [.word v]
    else putWords s f o [v]))

/-- BOPT (R145). -/
def execBopt (f : Fin 64) (ecc : Ecc) (s : State) : Host.Outcome State Fault Refusal :=
  engRow s f 25 0x25 brushWordOk [(false, ecc)] (brushBody f (fun s w a l =>
    let rs := l.map (fun (p, g, m, v) => boptElem (brFn w) a.sc (f32rnd p) (f32rnd g) (f32rnd m) (f32rnd v))
    let s := if brDst w = 1 then toQueue s f (brDstQ w) (rs.map (fun r => .word r.1))
      else putWords s f (a.outs[0]?.getD 0) (rs.map (fun r => r.1))
    let s := putWords s f (a.outs[1]?.getD 0) (rs.map (fun r => r.2.1))
    let s := if brFn w = 1 then putWords s f (a.outs[2]?.getD 0) (rs.map (fun r => r.2.2)) else s
    brushOut s f w a (some (a.outs[3]?.getD 0)) (rs.map (fun r => f32val r.1))))

/-- The oldest executed word of an engine queue completes (R138): its output has been accepted. -/
def engComplete (s : State) (f q : Nat) : Host.Outcome State Fault Refusal :=
  let x := s.queue f q
  onClock s f (
    match x.ran with
    | [] => .next s
    | w :: r =>
      if (givesTo q w).all (fun j => (s.sh f j).fromEng.length ≤ 16384) then finish (completeWord (s.setQueue f q { x with ran := r }) f q w)
      else .next s)

/-- BRUSH_CMD_COMPLETE (R140). -/
def execBrushCmdComplete (f : Fin 64) (s : State) : Host.Outcome State Fault Refusal := engComplete s f 25

end Sys2Proof.Machine
end

