-- ==== Sys2Proof/Machine/Easel.lean ====
section
/-! DEFINITION. The Easel commands (R114 to R124). -/
namespace Sys2Proof.Machine

/-! ## Elementary operations (R119) -/

def negInf : W32 := 0xFF800000#32
def f32One : W32 := 0x3F800000#32
def f32NaN : W32 := 0x7FC00000#32

/-- e^x, within 2 ulp. -/
def easelExp (x : W32) : W32 :=
  match f32val x with
  | .nan => f32NaN
  | .inf neg => if neg then 0 else 0x7F800000#32
  | v => approx (.ulps 2) (fxVal (fxExp (fxOf v))) (Config.fnValue 0x3000 [x])

/-- a ÷ b, within 1 ulp; a quotient that the spec gives no value, by zero or of infinities, is free. -/
def easelDiv (a b : W32) : W32 :=
  match quotient 0x30 1 (f32val a) (f32val b) with
  | .word w => w
  | .exact v => if v.special then f32rnd v else approx (.ulps 1) v (Config.fnValue 0x3001 [a, b])
  | .same v => f32rnd v

/-- 1 ÷ √x, within 1 ulp; free where x is not positive. -/
def easelRsqrt (x : W32) : W32 :=
  match f32val x with
  | .nan => f32NaN
  | .inf false => 0
  | v => if vpos v then approx (.ulps 1) (vrsqrt v) (Config.fnValue 0x3002 [x]) else Config.fnValue 0x3002 [x]

/-! ## Folds (R114) -/

/-- Fold vectors lane by lane; an absent element takes no part. -/
def laneFoldO {α β : Type} (op : α → β → α) (acc : List α) (l : List (List (Option β))) : List α :=
  match l with
  | [] => acc
  | x :: r =>
    laneFoldO op ((acc.zip x).map (fun (a, b) => match b with | some v => op a v | none => a) ++ acc.drop x.length) r

/-- Combine neighbours. -/
def pairWith {α : Type} (op : α → α → α) (l : List α) : List α :=
  match l with
  | a :: b :: r => op a b :: pairWith op r
  | l => l

/-- The fixed tree over `k` levels. -/
def treeWith {α : Type} (op : α → α → α) (d : α) (l : List α) (k : Nat) : α :=
  match k with
  | 0 => l.headD d
  | n + 1 => treeWith op d (pairWith op l) n

/-- A sum over a row's lanes. -/
def rowSum (l : List (Option W32)) : W32 :=
  treeWith f32add 0 (laneFoldO f32add (List.replicate 128 0#32) (piecesOf 128 l l.length)) 7

/-- A sum s taken over to a new maximum m: nothing where it is 0 from m = −∞ (R115). -/
def rescale (s m0 m : W32) : W32 := if s = 0 ∧ m0 = negInf then 0 else f32mul s (easelExp (f32sub m0 m))

def f32gt (a b : W32) : Bool := !f32isNan a && !f32isNan b && vcmp (f32val a) (f32val b) > 0

/-- A value enters a softmax pair (m, s). -/
def softIn (p : W32 × W32) (v : W32) : W32 × W32 :=
  if f32gt v p.1 then (v, f32add (rescale p.2 p.1 v) f32One) else (p.1, f32add p.2 (easelExp (f32sub v p.1)))

/-- Two softmax pairs combine. -/
def softJoin (a b : W32 × W32) : W32 × W32 :=
  let m := if f32gt b.1 a.1 then b.1 else a.1
  (m, f32add (rescale a.2 a.1 m) (rescale b.2 b.1 m))

/-- The softmax pair of a row. -/
def rowSoft (l : List (Option W32)) : W32 × W32 :=
  treeWith softJoin (negInf, 0) (laneFoldO softIn (List.replicate 128 (negInf, 0#32)) (piecesOf 128 l l.length)) 7

/-! ## Rows -/

/-- Map the elements that take part. -/
def omap {α β : Type} (f : α → β) (l : List (Option α)) : List (Option β) := l.map (fun x => x.map f)

/-- Combine elements of two rows that take part. -/
def ozip {α β γ : Type} (f : α → β → γ) (a : List (Option α)) (b : List β) : List (Option γ) :=
  (a.zip b).map (fun (x, y) => x.map (fun v => f v y))

/-- An element of the row is a NaN. -/
def rowNan (l : List (Option W32)) : Bool := l.any (fun x => (x.map f32isNan).getD false)

/-- A number as an FP32 word. -/
def natF32 (n : Nat) : W32 := f32rnd (.fin false n 0)

/-- The forward functions of Table 5-3 on a row of `len` elements: outputs (none: masked), W0, W1. -/
def fwdRow (fn len : Nat) (a : EaselArg) (x : List (Option W32)) (gm bt : List W32) : List (Option W32) × W32 × W32 :=
  let n := natF32 len
  if x.all Option.isNone then (x, negInf, 0)
  else if rowNan x then (omap (fun _ => f32NaN) x, if fn = 2 then 0 else f32NaN, f32NaN)
  else
    match fn with
    | 0 =>
      let v := omap (f32mul a.alpha) x
      let (m, t) := rowSoft v
      (omap (fun e => easelDiv (easelExp (f32sub e m)) t) v, m, t)
    | 1 =>
      let mu := easelDiv (rowSum x) n
      let d := omap (fun e => f32sub e mu) x
      let var := easelDiv (rowSum (omap (fun e => f32mul e e) d)) n
      let rho := easelRsqrt (f32add var a.eps)
      (ozip f32add (omap (fun e => f32mul e rho) (ozip (fun e g => f32mul g e) d gm)) bt, mu, rho)
    | _ =>
      let rho := easelRsqrt (f32add (easelDiv (rowSum (omap (fun e => f32mul e e) x)) n) a.eps)
      (omap (fun e => f32mul e rho) (ozip (fun e g => f32mul g e) x gm), 0, rho)

/-- The normalised row x̂ (R117). -/
def hatRow (fn : Nat) (x : List (Option W32)) (w0 w1 : W32) : List (Option W32) :=
  if fn = 1 then omap (fun e => f32mul (f32sub e w0) w1) x else omap (fun e => f32mul e w1) x

/-- Two rows of options, element by element. -/
def ozip2 (f : W32 → W32 → W32) (a b : List (Option W32)) : List (Option W32) :=
  (a.zip b).map (fun (x, y) => match x, y with | some u, some v => some (f u v) | _, _ => none)

/-- The backward functions of R117: dx from dy, the saved row and the statistics. -/
def bwdRow (fn len ymode : Nat) (a : EaselArg) (dy sv : List (Option W32)) (w0 w1 : W32) (gm : List W32) : List (Option W32) :=
  let n := natF32 len
  if rowNan dy ∨ rowNan sv ∨ f32isNan w0 ∨ f32isNan w1 then omap (fun _ => f32NaN) dy
  else
    match fn with
    | 0 =>
      let y := if ymode = 0 then sv else omap (fun e => easelDiv (easelExp (f32sub (f32mul a.alpha e) w0)) w1) sv
      let t := rowSum (ozip2 f32mul dy y)
      ozip2 f32mul (omap (f32mul a.alpha) y) (omap (fun e => f32sub e t) dy)
    | k =>
      let xh := hatRow k sv w0 w1
      let g := ozip f32mul dy gm
      let p := easelDiv (rowSum (ozip2 f32mul g xh)) n
      let c := ozip2 f32sub (if k = 1 then (let q := easelDiv (rowSum g) n; omap (fun e => f32sub e q) g) else g)
        (omap (fun e => f32mul e p) xh)
      omap (f32mul w1) c

/-! ## Decode (R121, R123) -/

/-- No reserved code or bit, and no handle beyond the store. -/
def easelOk (w : Nat) : Bool :=
  let o := eaOty w
  let t := eaIty w
  easelWordOk w &&
  (if wOp w = 0x30 ∨ wOp w = 0x31 then
     eaFn w ≤ 2 && eaSrc w ≤ 1 && 1 ≤ t && t ≤ 3 && 1 ≤ o && o ≤ 5 && eaHandle w + eaRows w ≤ 32768
   else if wOp w = 0x32 then eaHandle w + eaRows w ≤ 32768
   else true)

/-- Rows from an offset with a stride lie in Frame memory. -/
def rowsIn (o stride rows bytes : Nat) : Bool := o + (rows - 1) * stride + bytes ≤ fmSize

/-- A vector of `n` bytes at an offset lies in Frame memory, or is absent. -/
def vecIn (o n : Nat) : Bool := o = noAddr || o + n ≤ fmSize

/-- A command is rejected for its addresses and strides (R123). -/
def easelAddrBad (w : Nat) (a : EaselArg) : Bool :=
  let l := eaLen w
  let r := eaRows w
  let bwd : Bool := wOp w = 0x31
  let ib := l * (etyWidth (eaIty w) / 8)
  a.inS % 64 ≠ 0 || a.outS % 64 ≠ 0 || !rowsIn a.inA a.inS r ib || (bwd && eaSrc w = 0 && !rowsIn a.in2 a.inS r ib) ||
  (eaDst w = 0 && !rowsIn a.outA a.outS r (l * (etyWidth (eaOty w) / 8))) ||
  (eaFn w ≠ 0 && !vecIn a.gamma (4 * l)) || (eaFn w = 1 && !bwd && !vecIn a.beta (4 * l)) ||
  (bwd && eaDparam w && eaFn w ≠ 0 && fmSize < a.pacc + (if eaFn w = 1 then 16 else 8) * l)

/-! ## Data -/

/-- A row of FP32 words from memory, converted exactly from its type. -/
def fmRow (s : State) (f o t n : Nat) : List W32 := (fmVals s f o t n).map f32rnd

/-- γ or β: a vector of FP32 words, or the constant `d` where its address is absent. -/
def fmVec (s : State) (f o n : Nat) (d : W32) : List W32 := if o = noAddr then List.replicate n d else fmRow s f o 1 n

/-- Mark the elements of command row `r` that take part (R116). -/
def maskRow (w : Nat) (a : EaselArg) (r : Nat) (l : List W32) : List (Option W32) :=
  if eaMask w then l.zipIdx.map (fun (x, j) => if (r : Int) + a.mofs < j then none else some x) else l.map some

/-- Convert a row into its output type (R114); a masked element is +0. -/
def outRow (s : State) (f t : Nat) (l : List (Option W32)) (acc : List Nat) : State × List Nat :=
  match l with
  | [] => (s, acc.reverse)
  | x :: r =>
    let (c, fl) := convert t false none (match x with | some v => f32val v | none => .zero)
    outRow (noteCvt s f fl) f t r (c :: acc)

/-- Deliver an output row to memory or to the DST queue. -/
def putRow (s : State) (f w : Nat) (a : EaselArg) (r : Nat) (l : List (Option W32)) : State :=
  let t := eaOty w
  let (s, cs) := outRow s f t l []
  if eaDst w = 1 then toQueue s f (eaDstQ w) (cs.map (outElem t 0 0 0))
  else s.setFm f (a.outA + r * a.outS) (cs.flatMap (toLE (etyWidth t / 8)))

/-- The statistics words of a handle (R121). -/
def statGet (s : State) (f h : Nat) : W32 × W32 := (sget 0 s.easelStat (65536 * f + 2 * h), sget 0 s.easelStat (65536 * f + 2 * h + 1))

def statSet (s : State) (f h : Nat) (w0 w1 : W32) : State :=
  { s with easelStat := sput 0 (sput 0 s.easelStat (65536 * f + 2 * h) w0) (65536 * f + 2 * h + 1) w1 }

/-- Add values to pairs at an offset (R118); an element that takes no part leaves its pair. -/
def addPairs (s : State) (f o : Nat) (l : List (Option W32)) : State :=
  l.zipIdx.foldl (fun s (x, j) =>
    match x with
    | none => s
    | some v =>
      let b := o + 8 * j
      let p : Pair := ⟨BitVec.ofNat 32 (ofLE (fmBytes s f b 4)), BitVec.ofNat 32 (ofLE (fmBytes s f (b + 4) 4))⟩
      let r := p.add v
      s.setFm f b (toLE 4 r.s.toNat ++ toLE 4 r.c.toNat)) s

/-- The drained rows that a command with SRC = 1 takes, and the state without them; a row of another length rejects it. -/
def drainRows (s : State) (f w : Nat) : Except EngOut (State × List (List EElem)) :=
  if eaSrc w = 0 then .ok (s, [])
  else
    let l := sget [] s.easelIn f
    let n := eaRows w
    if (l.take n).any (fun r => r.length ≠ eaLen w) then .error (.bad 3)
    else if l.length < n then .error .wait
    else .ok ({ s with easelIn := sput [] s.easelIn f (l.drop n) }, l.take n)

/-- A drained row is converted into IN_TYPE and copied to IN_ADDR, where the passes read it (R120). -/
def copyRow (s : State) (f w : Nat) (a : EaselArg) (r : Nat) (l : List EElem) : State :=
  let t := eaIty w
  let (s, cs) := outRow s f t (l.map (fun e => some (f32rnd e.val))) []
  s.setFm f (a.inA + r * a.inS) (cs.flatMap (toLE (etyWidth t / 8)))

/-! ## EFWD -/

/-- One row of EFWD. -/
def fwdOne (f w : Nat) (a : EaselArg) (rows : List (List EElem)) (s : State) (r : Nat) : State :=
  let s := if eaSrc w = 1 then copyRow s f w a r (rows[r]?.getD []) else s
  let l := eaLen w
  let x := maskRow w a r (fmRow s f (a.inA + r * a.inS) (eaIty w) l)
  let (y, w0, w1) := fwdRow (eaFn w) l a x (fmVec s f a.gamma l f32One) (fmVec s f a.beta l 0)
  (statSet (putRow s f w a r y) f (eaHandle w + r) w0 w1).bump (Reg.FRM_EASEL_ROWCNT_COUNT f) 1

/-- The argument record of an Easel command (R124). -/
def easelArgOf (s : State) (f w : Nat) : EaselArg := easelArg (fmBytes s f (eaArg w) 64)

/-- EFWD or EBWD: addresses checked, drained rows taken, row by row. -/
def easelBody (f : Nat) (row : Nat → Nat → EaselArg → List (List EElem) → State → Nat → State) (s : State) (w : Nat) : EngOut :=
  let a := easelArgOf s f w
  if easelAddrBad w a then .bad 3
  else
    match drainRows s f w with
    | .error e => e
    | .ok (t, rows) => .done ((List.range (eaRows w)).foldl (row f w a rows) t)

/-- EFWD (R115). -/
def execEfwd (f : Fin 64) (ecc : Ecc) (s : State) : Host.Outcome State Fault Refusal :=
  engRow s f 26 0x30 easelOk [(false, ecc)] (easelBody f fwdOne)

/-! ## EBWD -/

/-- One row of EBWD (R117, R118). -/
def bwdOne (f w : Nat) (a : EaselArg) (rows : List (List EElem)) (s : State) (r : Nat) : State :=
  let l := eaLen w
  let fn := eaFn w
  let sv := maskRow w a r (fmRow s f (a.inA + r * a.inS) (eaIty w) l)
  let dyv := if eaSrc w = 1 then (rows[r]?.getD []).map (fun e => f32rnd e.val) else fmRow s f (a.in2 + r * a.inS) (eaIty w) l
  let dy := maskRow w a r dyv
  let (w0, w1) := statGet s f (eaHandle w + r)
  let dx := bwdRow fn l (eaYmode w) a dy sv w0 w1 (fmVec s f a.gamma l f32One)
  let s := putRow s f w a r dx
  let s :=
    if eaDparam w ∧ fn ≠ 0 then
      let s := addPairs s f a.pacc (ozip2 f32mul dy (hatRow fn sv w0 w1))
      if fn = 1 then addPairs s f (a.pacc + 8 * l) dy else s
    else s
  s.bump (Reg.FRM_EASEL_ROWCNT_COUNT f) 1

/-- EBWD (R117, R118); `stat` is what the check of the statistics rows finds. -/
def execEbwd (f : Fin 64) (ecc stat : Ecc) (s : State) : Host.Outcome State Fault Refusal :=
  engRow s f 26 0x31 easelOk [(true, stat), (false, ecc)] (easelBody f bwdOne)

/-! ## ESTAT and EPREAD -/

/-- The bytes of a stream of unscaled elements of whole bytes. -/
def streamBytes (l : List SElem) : List Byte := l.flatMap (fun e => toLE (etyWidth e.ety / 8) e.code)

/-- ESTAT (R122): statistics rows leave as FP32 words, or come in as the bytes of a stream. -/
def estatBody (f : Nat) (s : State) (w : Nat) : EngOut :=
  let hs := (List.range (eaRows w)).map (fun r => eaHandle w + r)
  if esDir w = 0 then
    .done (toQueue s f (esQ w) (hs.flatMap (fun h =>
      let (a, b) := statGet s f h
      [.word a, .word b])))
  else
    let l := (s.sh f (esQ w)).toEng
    match l with
    | [] => .wait
    | x :: _ =>
      let k := etyWidth x.ety / 8
      if k = 0 ∨ etyWidth x.ety % 8 ≠ 0 then .bad 3
      else
        match feedElems l (8 * eaRows w / k) x.ety 0 with
        | .wait => .wait
        | .bad => .bad 3
        | .ok es n =>
          let bs := streamBytes es
          let s := releaseItems (dropStream s f (esQ w) n) f (esQ w) n
          .done (hs.zipIdx.foldl (fun s (h, i) =>
            statSet s f h (BitVec.ofNat 32 (leAt bs (8 * i) 4)) (BitVec.ofNat 32 (leAt bs (8 * i + 4) 4))) s)

/-- ESTAT; `ecc` is what the check of the statistics rows finds. -/
def execEstat (f : Fin 64) (ecc : Ecc) (s : State) : Host.Outcome State Fault Refusal :=
  engRow s f 26 0x32 easelOk [(true, ecc)] (estatBody f)

/-- EPREAD (R118): pairs leave as RNE(s + c). -/
def epreadBody (f : Nat) (s : State) (w : Nat) : EngOut :=
  let o := eaArg w
  let n := epCnt w
  if fmSize < o + 8 * n then .bad 3
  else
    let ws := (fmRow s f o 1 (2 * n))
    let ps := (piecesOf 2 ws n).map (fun p => (⟨p.headD 0, (p.drop 1).headD 0⟩ : Pair))
    let s := toQueue s f (esQ w) (ps.map (fun p => .word p.val))
    .done (if epClear w then s.setFm f o (List.replicate (8 * n) 0) else s)

/-- EPREAD. -/
def execEpread (f : Fin 64) (ecc : Ecc) (s : State) : Host.Outcome State Fault Refusal :=
  engRow s f 26 0x33 easelOk [(false, ecc)] (epreadBody f)

/-- EASEL_CMD_COMPLETE (R123). -/
def execEaselCmdComplete (f : Fin 64) (s : State) : Host.Outcome State Fault Refusal := engComplete s f 26

end Sys2Proof.Machine
end

