-- ==== Sys2Proof/Machine/Pins.lean ====
section
/-! DEFINITION. Standby power, the power stage and PERST_N (16.1, 18.6): the events on these pins. -/
namespace Sys2Proof.Machine

/-! ## What outlives a reset -/

/-- The fuses and the pending slot as the registers show them from a start of the ROM on. -/
def romStart (s : State) : State :=
  (showFuses s).put Reg.STU_FW_CTL_PENDING (b2n s.flash.pend.isSome)

/-- The module without standby power: only the fuses, the flash and what is fitted remain (R417). -/
def unpowered (s : State) : State :=
  { State.reset with
    fit2T := s.fit2T, fitLid := s.fitLid, fuses := s.fuses, flash := s.flash, repairLog := s.repairLog, errArea := s.errArea,
    fresh := s.fresh, pending := s.pending, mem := s.mem.filter (fun e => hostBase ≤ e.1) }

/-- STU_PINS, which lies in the standby domain, and OVERRIDE, which only a power-on resets (Table 0-3), taken over from `s`. -/
def keepPins (s t : State) : State :=
  let c (t : State) (r : Ref) : State := t.put r (s.get r)
  let t := c (c (c t Reg.STU_PINS_SLOT_ID) Reg.STU_PINS_PWREN) Reg.STU_PINS_PGOOD
  let t := c (c (c t Reg.STU_PINS_RAILFAIL) Reg.STU_PINS_INFAULT) Reg.STU_PINS_TRIPPED
  c t Reg.STU_FW_CTL_OVERRIDE

/-- The module while PERST_N is asserted: every register but those of `keepPins` at its reset value; standby, the power stage, the
error log, the memories and what `unpowered` keeps remain. -/
def inReset (s : State) : State :=
  romStart (keepPins s { unpowered s with
    mem := s.mem, bad := s.bad, spBad := s.spBad, spEpoch := s.spEpoch, log := s.log, nextSeq := s.nextSeq,
    standby := s.standby, pwrStage := s.pwrStage, stopHeld := s.stopHeld, hostRead := s.hostRead, hostAbort := s.hostAbort })

/-! ## Standby (R363, R409, R417) -/

/-- STANDBY_ON: the ROM starts and SLOT_ID is sampled. -/
def execStandbyOn (slotId : BitVec 6) (s : State) : Host.Outcome State Fault Refusal :=
  if s.standby then .next s
  else .next (romStart ({ unpowered s with standby := true }.put Reg.STU_PINS_SLOT_ID slotId.toNat))

/-- STANDBY_LOSS. -/
def execStandbyLoss (s : State) : Host.Outcome State Fault Refusal :=
  if s.standby then .next (unpowered s) else .next s

/-! ## The power stage (R404, R405, R414 to R416) -/

/-- A module stop that no earlier record caused: DETAIL0 is all ones. -/
def powerStop (s : State) : State :=
  if stopped s then s
  else
    let s := if s.get (Reg.STU_ERRCNT_SEVv_COUNT 3) = 0 then (s.put Reg.STU_ERR_STAT_UNIT 0).put Reg.STU_ERR_STAT_CAUSE 9 else s
    moduleStop s (2 ^ 64 - 1)

/-- PWR_EN_ASSERT: the stage acts; a thermal trip's pin is released. -/
def execPwrEnAssert (s : State) : Host.Outcome State Fault Refusal :=
  if s.standby = false ∨ s.on Reg.STU_PINS_PWREN then .next s
  else .next { (s.put Reg.STU_PINS_PWREN 1).put Reg.STU_PINS_TRIPPED 0 with pwrStage := 1 }

/-- RAILS_UP: PWR_GOOD rises. -/
def execRailsUp (s : State) : Host.Outcome State Fault Refusal :=
  if s.pwrStage = 1 then .next { s.put Reg.STU_PINS_PGOOD 1 with pwrStage := 2 } else .next s

/-- RAILFAIL: the stage switches off until PWR_EN falls and rises again. -/
def execRailfail (s : State) : Host.Outcome State Fault Refusal :=
  if s.pwrStage = 1 then .next { s.put Reg.STU_PINS_RAILFAIL 1 with pwrStage := 3 } else .next s

/-- PWR_EN_DEASSERT: the stage ramps down; with PERST_N released the module stops, until PERST_N is asserted and released again with
PWR_GOOD high (R416). -/
def execPwrEnDeassert (s : State) : Host.Outcome State Fault Refusal :=
  if s.on Reg.STU_PINS_PWREN then
    let s := { stageOff (s.put Reg.STU_PINS_PWREN 0) with pwrStage := 0 }
    finish (if s.on Reg.STU_PINS_PERST then s else { powerStop s with stopHeld := true })
  else .next s

/-- INFAULT: the input switch opens; with PERST_N released the module stops, else when it is released (R405). -/
def execInfault (s : State) : Host.Outcome State Fault Refusal :=
  if s.pwrStage = 1 ∨ s.pwrStage = 2 then
    let s := stageOff (s.put Reg.STU_PINS_INFAULT 1)
    finish (if s.on Reg.STU_PINS_PERST then { s with pwrStage := 4 } else { powerStop s with pwrStage := 3 })
  else .next s

/-! ## PERST_N (R286, R363, R392) -/

/-- PERST_ASSERT: everything outside the standby domain is reset; the Weft transmitters are off. The seal stays, for the release clears
it (R9). -/
def execPerstAssert (s : State) : Host.Outcome State Fault Refusal :=
  if s.on Reg.STU_PINS_PERST then .next s
  else .next { (inReset s).put Reg.STU_BOOT_STAT_SEAL (s.get Reg.STU_BOOT_STAT_SEAL) with sealed := s.sealed }

/-- Enter the records of a saved set that the log does not hold (R392). -/
def enterSet (s : State) (l : List ErrRec) : State :=
  l.foldl (fun s r =>
    if s.log.any (fun x => x.seq = r.seq) then s
    else
      let (m, lost) := logRoom s.log
      let s := if lost then s.bump Reg.STU_LOG_LOST_COUNT 1 else s
      { s with log := m ++ [{ r with prior := true, read := false }], nextSeq := max s.nextSeq (r.seq + 1) }) s

/-- The sets that no boot has entered are entered, the oldest first, and marked. -/
def enterSets (s : State) : State :=
  let t := (s.errArea.reverse.filter (fun e => !e.2)).foldl (fun s e => enterSet s e.1) s
  { t with errArea := s.errArea.map (fun e => (e.1, true)) }

/-- The module stays in the stop that it has recorded (R416). -/
def stayStopped (s : State) : State :=
  ((s.put Reg.STU_ERR_STAT_MSTOP 1).put Reg.STU_ERR_STAT_UNIT 0).put Reg.STU_ERR_STAT_CAUSE 9

/-- What holds the module in a stop, or stops it, at the release of PERST_N: an input fault that came while it was asserted (R405), and a
fall of PWR_EN where PWR_GOOD is still low (R416). -/
def releaseStop (s : State) : State :=
  if s.pwrStage = 4 then { powerStop s with pwrStage := 3 }
  else if s.stopHeld then (if s.on Reg.STU_PINS_PGOOD then { s with stopHeld := false } else stayStopped s)
  else s

/-- PERST_RELEASE: global time starts from 0 and the Studio restarts from its ROM, unless the module is held in a stop. -/
def execPerstRelease (s : State) : Host.Outcome State Fault Refusal :=
  if s.standby = false ∨ s.on Reg.STU_PINS_PERST = false then .next s
  else
    finish (releaseStop (enterSets ((inReset s).put Reg.STU_PINS_PERST 0)))

/-! ## The pins (R408, R418) -/

/-- The module's pins, and the pairs of Weft port `p`. -/
inductive Pin where
  | wlTx (p : Fin 16) | wlRx (p : Fin 16) | peTx | hrbN | pwrGood | thermTripN | timePpsOut | smbus | modPrsntN
  deriving DecidableEq, Repr

/-- What a pin does (Table 18-9). -/
inductive PinState where
  | highZ | low | high | released | idle | training | active | terminated | responding | grounded
  deriving DecidableEq, Repr

/-- The columns of Table 18-9. -/
inductive PinPhase where
  | unpowered | standby | reset | booting | service
  deriving DecidableEq, Repr

/-- The column that holds; with PWR_GOOD low after a fault it is that of standby (DESIGN CHOICE, assumption 60). -/
def pinPhase (s : State) : PinPhase :=
  if s.standby = false then .unpowered
  else if s.get Reg.STU_PINS_PGOOD = 0 then .standby
  else if s.on Reg.STU_PINS_PERST then .reset
  else if s.get Reg.STU_BOOT_STAT_MODE = 0 ∧ s.get Reg.STU_BOOT_STAT_PHASE < 7 ∧ stopped s = false then .booting
  else .service

/-- The transmitters of a Weft port from boot phase 7 on. -/
def wlTxState (s : State) (p : Nat) : PinState :=
  if s.get Reg.STU_BOOT_STAT_MODE = 2 ∨ stopped s then .highZ
  else
    match s.get (Reg.LNK_PORTp_STAT_STATE p) with
    | 0 => .highZ
    | 1 => .training
    | _ => .active

/-- A level of a pin that is driven both ways. -/
def drives (b : Bool) : PinState := if b then .high else .low

/-- A level of an open-drain pin. -/
def opens (b : Bool) : PinState := if b then .released else .low

/-- Table 18-9. -/
def pinState (s : State) (x : Pin) : PinState :=
  match x, pinPhase s with
  | .modPrsntN, _ => .grounded
  | _, .unpowered => .highZ
  | .wlTx _, .standby => .highZ
  | .wlTx _, .reset => .highZ
  | .wlTx _, .booting => if s.get Reg.STU_BOOT_STAT_PHASE < 5 then .highZ else .training
  | .wlTx p, .service => wlTxState s p
  | .wlRx _, .standby => .highZ
  | .wlRx _, _ => .terminated
  | .peTx, .standby => .highZ
  | .peTx, .reset => .idle
  | .peTx, .booting => if s.get Reg.STU_BOOT_STAT_PHASE < 2 then .idle else .training
  | .peTx, .service => .active
  | .hrbN, .service => opens (hrbReleased s)
  | .hrbN, _ => .low
  | .pwrGood, _ => drives (s.on Reg.STU_PINS_PGOOD)
  | .thermTripN, _ => opens (!s.on Reg.STU_PINS_TRIPPED)
  | .timePpsOut, .booting => drives (ppsLevel s)
  | .timePpsOut, .service => drives (ppsLevel s)
  | .timePpsOut, _ => .low
  | .smbus, _ => .responding

end Sys2Proof.Machine
end

