-- ==== Sys2Proof/Machine/Telem.lean ====
section
/-! DEFINITION. Telemetry windows (R398 to R400). -/
namespace Sys2Proof.Machine

/-- TELEM: starts telemetry with windows of ARG1 ticks, or stops it (R399). -/
def startTelem (s : State) (addr p : Nat) : State :=
  let m := s.get Reg.CLK_FREQ_CUR_MHZ
  { s.put Reg.STU_TELEM_STAT_RUN 1 with
    telem := some ⟨addr, p, s.now / p + 1, [], none, 0, 0, m, m, 0, 0, 0, 0, false, s.commits, s.switches⟩ }

/-- TELEM. -/
def execTelem (n : Fin 64) (k : Nat) (s : State) : Host.Outcome State Fault Refusal :=
  mboxStart s n k 5 (fun s c =>
    let p := mbArg c 1
    if p = 0 then setResult { s.put Reg.STU_TELEM_STAT_RUN 0 with telem := none } n k 0 0
    else if p % 1024000 ≠ 0 ∨ 60 * tickS < p then setResult s n k 1 0
    else setResult (startTelem s (mbArg c 0) p) n k 0 0)

/-! ## The window record (Table 17-6) -/

/-- The region that a register field belongs to (R234, Table 9-3): a Frame's, with its slice's and, at the edge of its group, its Ply
unit's (DESIGN CHOICE, assumption 68); a memory controller's; a Weft port's; else the Studio's. -/
def refRegion (r : Ref) : Nat :=
  let off := r.key / 64
  if 0x1000000 ≤ off ∧ off < 0x1400000 then (off - 0x1000000) / 0x10000
  else if 0x501000 ≤ off ∧ off < 0x501400 then (off - 0x501000) / 0x10
  else if 0x502000 ≤ off ∧ off < 0x502800 then 68 + (off - 0x502000) / 0x400
  else if 0x601000 ≤ off ∧ off < 0x601400 then 64 + (off - 0x601000) / 0x100
  else if 0x700100 ≤ off ∧ off < 0x700200 then
    let m := (off - 0x700100) / 0x20
    if m < 4 then 2 * m else 56 + 2 * (m - 4)
  else 71

/-- The registers of a region at a latch. -/
def Latch.regsOf (l : Latch) (g : Nat) : Sparse Nat :=
  match l.regions.find? (fun e => e.1 = g) with
  | some e => e.2
  | none => l.rest

/-- The value of a register field at a latch. -/
def Latch.val (l : Latch) (r : Ref) : Nat := sget 0 (l.regsOf (refRegion r)) r.key ^^^ r.reset

/-- A latch with the value that a field has in `regs`: its counter was written (R399). -/
def Latch.recount (l : Latch) (regs : Sparse Nat) (r : Ref) : Latch :=
  let g := refRegion r
  { l with regions := (g, sput 0 (l.regsOf g) r.key (sget 0 regs r.key)) :: l.regions.filter (fun e => e.1 ≠ g) }

/-- Each region latches its counters once its corrected time has reached the next boundary (R399). -/
def latchRegions (s : State) : State :=
  match s.telem with
  | none => s
  | some t =>
    let l := (List.range 72).filter (fun g => t.next * t.period ≤ s.timeOf g && !t.latch.any (fun e => e.1 = g))
    if l.isEmpty then s else { s with telem := some { t with latch := t.latch ++ l.map (fun g => (g, s.regs)) } }

/-- What stands latched for the boundary that ends a window. -/
def closing (s : State) (t : TelemSt) : Latch := ⟨t.latch, s.regs⟩

/-- How far a counter has run from one latch to the next. -/
def ran (a b : Latch) (r : Ref) : Nat := a.val r - b.val r

def ranSum (a b : Latch) (l : List Ref) : Nat := (l.map (ran a b)).sum

/-- The same register of every Frame. -/
def perFrame (r : Nat → Ref) : List Ref := (List.range 64).map r

/-- The units of an idle class: Spindles, Brush, Easel, cores. -/
def idleUnits (cls : Nat) : List Nat :=
  match cls with
  | 0 => List.range 9
  | 1 => [9]
  | 2 => [10]
  | _ => [11, 12, 13, 14]

def idleRefs (cls c : Nat) : List Ref := (idleUnits cls).flatMap (fun u => perFrame (fun f => Reg.FRM_IDLEu_Cc_COUNT f u c))

/-- The counters of the record from 0x240 on, with the bytes each takes. -/
def windowCounters : List (List Ref × Nat) :=
  [(perFrame Reg.FRM_RETRYCNT_COUNT, 8), (perFrame Reg.FRM_INFCNT_COUNT, 8), (perFrame Reg.FRM_SATCNT_COUNT, 8),
    (perFrame Reg.FRM_CVTSATCNT_COUNT, 8), ((List.range 128).map Reg.MEM_CHc_CRCCNT_CORR, 8),
    ((List.range 128).map Reg.MEM_CHc_CRCCNT_UNCORR, 8), (perFrame Reg.MEM_PALf_HITCNT_COUNT, 8),
    (perFrame Reg.MEM_PALf_MISSCNT_COUNT, 8), (perFrame Reg.MEM_PALf_ECCCNT_CORR, 8),
    (perFrame Reg.FRM_MESH_ECCCNT_CORR, 8)] ++
  (List.range 16).flatMap (fun p => [([Reg.LNK_PORTp_FECCNT_COUNT p], 4), ([Reg.LNK_PORTp_CRCCNT_FAIL p], 2),
    ([Reg.LNK_PORTp_REPLAYCNT_COUNT p], 2)]) ++
  [((List.range 8).map Reg.PLY_UNITm_PIECECNT_COUNT, 8), ((List.range 8).map Reg.PLY_UNITm_WHCNT_COUNT, 8),
    ([Reg.PLY_STALECNT_COUNT], 8)]

/-- The counters from 0x330 on. -/
def windowTail : List (List Ref) :=
  [perFrame Reg.FRM_STRETCHCNT_COUNT, perFrame Reg.FRM_TOKEXCESS_COUNT, perFrame Reg.FRM_SQ_MERGECNT_COUNT,
    perFrame Reg.FRM_SQ_OOBCNT_COUNT]

/-- A counter has reached its maximum since the last boundary. -/
def saturated (a b : Latch) : Bool :=
  ((windowCounters.flatMap (fun p => p.1)) ++ windowTail.flatten).any (fun r =>
    a.val r = 2 ^ r.width - 1 && ran a b r ≠ 0)

/-- The mean of a sum of samples; the latest measurement where no sample was taken. -/
def meanOr (sum n last : Nat) : Nat := if n = 0 then last else sum / n

/-- The record of window `k`. -/
def windowBytes (s : State) (t : TelemSt) (b : Latch) (k : Nat) : List Byte :=
  let a := closing s t
  let flags := b2n (saturated a b) + 2 * b2n t.written + 4 * b2n (ran a b Reg.CLK_FCHGCNT_COUNT ≠ 0) +
    8 * b2n (ran a b Reg.PLY_REPLAYCNT_COUNT ≠ 0) + 16 * b2n (s.switches ≠ t.switches)
  let sev (v : Nat) := ran a b (Reg.STU_ERRCNT_SEVv_COUNT v)
  toLE 8 k ++ toLE 8 (k * t.period) ++ toLE 8 ((k + 1) * t.period) ++ toLE 4 t.seq ++ toLE 4 t.lost ++ toLE 4 flags ++
    toLE 2 t.mhzMin ++ toLE 2 t.mhzMax ++ toLE 4 (s.get Reg.PLY_STEP_STEP) ++ toLE 2 (s.commits - t.commits) ++
    toLE 2 (ran a b Reg.PLY_REPLAYCNT_COUNT) ++ toLE 4 (sev 0) ++ toLE 2 (sev 1) ++ toLE 1 (sev 2) ++ toLE 1 (sev 3) ++
    toLE 2 (meanOr t.inSum t.samples (s.get Reg.PWR_IN_IN_W)) ++ toLE 2 (meanOr t.dieSum t.samples (s.get Reg.PWR_IN_DIE_W)) ++
    toLE 1 (max t.tjMax (s.get Reg.PWR_TJ_TJ_C)) ++ List.replicate 3 0 ++
    (List.range 64).flatMap (fun i => toLE 8 (ranSum a b (idleRefs (i / 16) (i % 16)))) ++
    windowCounters.flatMap (fun p => toLE p.2 (ranSum a b p.1)) ++ toLE 8 ((List.range 8).map (slotsHeld s)).sum ++
    windowTail.flatMap (fun l => toLE 8 (ranSum a b l)) ++ List.replicate 176 0

/-- The counters are latched at a boundary, and the next window begins. -/
def relatch (s : State) (t : TelemSt) : TelemSt :=
  let m := s.get Reg.CLK_FREQ_CUR_MHZ
  { t with next := t.next + 1, latch := [], base := some (closing s t), mhzMin := m, mhzMax := m, inSum := 0, dieSum := 0, samples := 0, tjMax := 0,
           written := false, commits := s.commits, switches := s.switches }

/-- A window ends: its record is written, or skipped while the host has consumed none of ENTRIES records (R400). -/
def endWindow (s : State) (t : TelemSt) (b : Latch) : State :=
  let ents := leAt (hostRd s t.addr 4) 0 4
  let head := leAt (hostRd s (t.addr + 4) 4) 0 4
  if ents ≤ (t.seq + 4294967296 - head % 4294967296) % 4294967296 then
    { s with telem := some (relatch s { t with lost := t.lost + 1 }) }
  else
    let k := t.next - 1
    let d := windowBytes s t b k
    let t1 := relatch s { t with seq := (t.seq + 1) % 4294967296, lost := 0 }
    (hostWr { s with telem := some t1 } (t.addr + 1024 + t.seq % ents * 1024) d).put Reg.STU_TELEM_STAT_WINDOW k

/-- TELEM_WINDOW: global time has reached the next boundary; a region that has not yet counts as it stands. -/
def execTelemWindow (s : State) : Host.Outcome State Fault Refusal :=
  match s.telem with
  | none => .next s
  | some t =>
    if s.now < t.next * t.period then .next s
    else
      match t.base with
      | none => .next { s with telem := some (relatch s t) }
      | some b => finish (endWindow s t b)

end Sys2Proof.Machine
end

