-- ==== Sys2Proof/Machine/Register.lean ====
section
/-! DEFINITION. Register writes and reads (R6 to R10, R339) and BAR2 (R3, R340, R203). -/
namespace Sys2Proof.Machine

/-! ## Writes -/

/-- A field takes a write of `x` by its access code (R7); one under the seal stays (R9). -/
def writeField (s : State) (fl : Field) (off x : Nat) : State :=
  let r := fl.ref off
  match fl.acc with
  | .rw => s.put r x
  | .rws => s.put r x
  | .rwl => if s.sealed then s else s.put r x
  | .w1c => s.put r (s.get r ^^^ (s.get r &&& x))
  | .w1s => s.put r (s.get r ||| x)
  | .ro => s
  | .wo => s

/-- Every field of a register takes its part of `v`. -/
def writeFields (s : State) (fs : List Field) (off v : Nat) : State :=
  fs.foldl (fun s fl => writeField s fl off (v / 2 ^ fl.lo % 2 ^ fl.width)) s

def nearest (lo hi v : Nat) : Nat := min hi (max lo v)

/-- The value that a register's table lets it hold for a written `v`: a field outside its range reads as the nearer bound. By
the BAR0 offset of the register's first instance: FRM_KWAIT_TO, PWR_DROOP_CFG, PWR_STATREC (R331: a record outside LPDDR and the
scratchpad is none), MEM_RETRAIN_CFG, PLY_STEPCFG, PLY_KBASE. -/
def heldValue (s : State) (base v : Nat) : Nat :=
  match base with
  | 0x1008804 => nearest 1 60000000 (v % 2 ^ 26)
  | 0x400020 => if v / 256 % 8 = 0 then v + 256 else v
  | 0x400028 =>
    match regionOf s (v % 2 ^ 48) with
    | .lpddr => v
    | .spad => v
    | _ => 0
  | 0x500004 => nearest 16 4096 (v % 65536)
  | 0x700008 => v / 2 ^ 30 * 2 ^ 30 + nearest 1000 600000000 (v % 2 ^ 30)
  | 0x700010 => v / 8 * 8
  | _ => v

/-- A host write that a loaded job refuses (R189, R309, LNK_MGRPg): MEM_PALf_WAYS, LNK_MGRPg, PLY_STEPCFG, PLY_KBASE, PLY_ATHR. -/
def jobRefuses (s : State) (by_ : Agent) (base : Nat) : Bool :=
  s.job.loaded && (base = 0x501000 || (by_ = .host && (base = 0x602000 || base = 0x700008 || base = 0x700010 || base = 0x700014)))

/-- A write of HIF_RINGn_CFG (R343, Table 15-11): SIZE only while the ring is not configured to run, then PRIO and EN. -/
def writeRingCfg (s : State) (n v : Nat) : State :=
  let s := if ringLocked s n then s else s.put (Reg.HIF_RINGn_CFG_LOG2SIZE n) (nearest 4 12 (v % 16))
  let s := s.put (Reg.HIF_RINGn_CFG_PRIO n) (v / 32 % 2)
  if bit v 4 then enableRing s n else disableRing s n

/-- A write of INT_SRCs_CFG (Table 15-10): PRIO and TARGET of an active source wait for its completion. -/
def writeSrcCfg (s : State) (src v : Nat) : State :=
  let s := s.put (Reg.INT_SRCs_CFG_VEC src) (v / 65536 % 64)
  if (activeOf s src).isSome then { s with defer := sput 0 s.defer src (v % 8192 + 1) } else setSrcCfg s src v

/-- A write of STU_FW_CTL (R371, R384): OVERRIDE needs the fuse. -/
def writeFwCtl (s : State) (v : Nat) : State :=
  let s := if s.fuses.dev then s.put Reg.STU_FW_CTL_OVERRIDE (v / 4 % 2) else s
  if bit v 0 then activateStaged s else s

/-- A write of LNK_PORTp_CTL (R267, R287). -/
def writePortCtl (s : State) (p v : Nat) : State :=
  if bit v 1 then disablePort s p
  else
    let s := s.put (Reg.LNK_PORTp_CTL_DISABLE p) 0
    if bit v 0 then retrainPort s p else s

/-- The effect of a write beyond what the access codes say, after the fields have taken it; `i` and `j` are the register's
indices. -/
def writeEffect (s : State) (base i j v : Nat) : State :=
  match base with
  | 0x300004 => if bit v 31 then requestFreq s (v % 4096) else s
  | 0x30000C => if bit v 0 then restoreClock s else s
  | 0x40000C => if bit v 8 then { s with gov := { s.gov with badWin := 0 } } else s
  | 0x500100 => if bit v 3 then startFlush s (v % 4) (bit v 2) else s
  | 0x503104 => if bit v 31 then startRepair s (v % 128) else s
  | 0x600000 => s.put Reg.LNK_MODID_HPOS (s.get Reg.LNK_MODID_ID % 8)
  | 0x600008 => writeKadd s v
  | 0x601004 => if bit v 16 then s.setPort i { s.port i with toldErr := false } else s
  | 0x100C700 => if bit v 1 then wakeFrame s i else s
  | 0x100A104 => if bit v 0 then cancelWithStarved s i j else s
  | _ => s

/-- Counters of the telemetry windows, by the offset of their first instance (Table 17-6). -/
def telemCounters : List Nat :=
  [0x100F008, 0x100F00C, 0x100F010, 0x100F014, 0x502004, 0x501004, 0x501008, 0x50100C, 0x100B018, 0x601010, 0x601014, 0x601018,
    0x700108, 0x700104, 0x70001C, 0x100B008, 0x100CD04, 0x100A210, 0x100A214, 0x1009000, 0x100220, 0x300024, 0x700020]

/-- Telemetry counts on from a written counter's new value (R399). -/
def noteWritten (s : State) (d : RegDesc) (off : Nat) : State :=
  if telemCounters.contains d.base then
    { s with telem := s.telem.map (fun t => { t with
        written := true
        base := t.base.map (fun b => d.fields.foldl (fun b fl => b.recount s.regs (fl.ref off)) b) }) }
  else s

/-- A write of `v` to a register at its own width and aligned address. -/
def writeReg (s : State) (by_ : Agent) (d : RegDesc) (ix : List Nat) (off v : Nat) : State :=
  let i := ix.headD 0
  let j := ix.getD 1 0
  if jobRefuses s by_ d.base then s.logReg 2 off
  else
    match d.base with
    | 0x8 => if v % 2 ^ 41 % s.bar2Size = 0 then s.put Reg.HIF_BAR2_BASE_BASE v else s
    | 0x1000 => if ringLocked s i then s else writeFields s d.fields off v
    | 0x1008 => if ringLocked s i then s else writeFields s d.fields off v
    | 0x1010 => writeRingCfg s i v
    | 0x10000C => writeFwCtl s v
    | 0x200000 => writeSrcCfg s i v
    | 0x203004 => complete s 258 (v % 1024)
    | 0x20300C => if bit v 0 then enableMsix s else s.put Reg.INT_HOSTCFG_MSIX_EN 0
    | 0x204000 => setKwatch s i v
    | 0x205004 => s.put (Reg.INT_SWSETr_BITS i) (s.get (Reg.INT_SWSETr_BITS i) ^^^ (s.get (Reg.INT_SWSETr_BITS i) &&& v))
    | 0x400004 => s.put Reg.PWR_CAP_USER_CAP_W (min (s.get Reg.PWR_CLASS_CAP_W) (max 800 (v % 65536)))
    | 0x501000 => writeWays s i v
    | 0x601008 => writePortCtl s i v
    | _ =>
      let s := if s.sealed && d.fields.any (fun fl => fl.acc = .rwl) then s.logReg 1 off else s
      noteWritten (writeEffect (writeFields s d.fields off (heldValue s d.base v)) d.base i j v) d off

/-- BAR4 as REGISTER_WRITE and `readReg` name it: its offset above the 64 MiB of BAR0 (Table 15-1). -/
def bar4Base : Nat := 0x4000000

/-- REGISTER_WRITE: one access of exactly the register's width at its address writes it; another is dropped (R10, R339). The host's
offsets from 64 MiB on are those of BAR4. -/
def execRegisterWrite (by_ : Agent) (off : Nat) (width : Nat) (value : Nat) (s : State) : Host.Outcome State Fault Refusal :=
  if 2 ^ width ≤ value then .fault .illFormed
  else if agentOpen s by_ off = false then .next s
  else if bar4Base ≤ off then
    if by_ = .host ∧ width = 32 then finish (writeBar4 s (off - bar4Base) value) else .next s
  else if 0x2000000 ≤ off then
    let n := (off - 0x2000000) / 0x1000
    if width ≠ 32 ∨ 64 ≤ n then .next s
    else if off % 0x1000 = 0 then finish (writeSqTail s n value)
    else if off % 0x1000 = 8 then finish (writeCqHead s n value)
    else .next s
  else
    match findReg off with
    | none => .next s
    | some (d, ix) =>
      if width ≠ d.width then .next s
      else if 0x1000000 ≤ off ∧ off < 0x1400000 then
        viaCtl s by_ ((off - 0x1000000) / 0x10000) off value (finish (writeReg s by_ d ix off value))
      else finish (writeReg s by_ d ix off value)

/-- Register writes leave the FIFO to the Frames in order, each once its Frame has a clock edge (R223). -/
def drainCtl (s : State) (l : List (Agent × Nat × Nat)) : State :=
  match l with
  | [] => { s with ctlIn := [] }
  | (by_, off, v) :: r =>
    if frameStill s ((off - 0x1000000) / 0x10000) then { s with ctlIn := l }
    else
      match findReg off with
      | some (d, ix) => drainCtl (writeReg s by_ d ix off v) r
      | none => drainCtl s r

/-! ## Reads -/

/-- A status register as the units show it; none where every field is held in the register itself. -/
def shownReg (s : State) (base i j : Nat) : Option Nat :=
  match base with
  | 0x1018 => some (ringStat s i)
  | 0x101C => some ((s.ring i).head % 2 ^ 32)
  | 0x100200 => some (unread s)
  | 0x100208 => some s.nextSeq
  | 0x200000 =>
    some (s.get (Reg.INT_SRCs_CFG_PRIO i) + 16 * s.get (Reg.INT_SRCs_CFG_TARGET i) + 65536 * s.get (Reg.INT_SRCs_CFG_VEC i) +
      2 ^ 32 * srcState s i + 2 ^ 34 * b2n (srcLevel s i))
  | 0x202000 => some (s.get (Reg.INT_TGTt_THR_THR i) + 256 * runPrio s i)
  | 0x205004 => some (s.get (Reg.INT_SWSETr_BITS i))
  | 0x300010 => some s.now
  | 0x700100 => some (2 ^ 31 * b2n ((withholding s).contains i) + slotsHeld s i)
  | 0x100A108 =>
    let x := s.sh i j
    let n := x.word.toList.length + x.behind.length
    some (storedWord s (0x100A108 + 0x10000 * i + 0x10 * j) % 8 / 2 * 2 + b2n (n ≠ 0) +
      256 * min 64 (n + (s.queue i (9 + j)).words.length) + 65536 * (x.item % 65536))
  | 0x100B010 => some (s.timeOf i)
  | 0x100C600 => some (brushState s i)
  | 0x100E01C => some (spdState s i j)
  | 0x100E400 => some (easelState s i)
  | _ => none

/-- The fields of a register as a read returns them: WO fields and reserved bits are 0 (R6, R7). -/
def readFields (s : State) (fs : List Field) (off : Nat) : Nat :=
  (fs.map (fun fl => if fl.acc = .wo then 0 else s.get (fl.ref off) * 2 ^ fl.lo)).sum

/-- What a read of `width` bits at BAR0 offset `off` returns: 0 where no register of that width lies there (R10) or the block does
not answer (R339, R371, R395). A read of INT_HOST_CLAIM, which claims, is HOST_CLAIM. -/
def readReg (s : State) (by_ : Agent) (off width : Nat) : Nat :=
  if agentOpen s by_ off = false then 0
  else if bar4Base ≤ off then (if by_ = .host ∧ width = 32 then readBar4 s (off - bar4Base) else 0)
  else
    match findReg off with
    | none => 0
    | some (d, ix) =>
      if width ≠ d.width then 0 else (shownReg s d.base (ix.headD 0) (ix.getD 1 0)).getD (readFields s d.fields off)

/-- The identifiers of the function's configuration header (R338): vendor, device, class code, subsystem device. -/
def headerIds (s : State) : List Nat := [0x1F6C, 0xD700, 0x120000, s.fitLid + 4 * b2n s.fit2T]

/-! ## BAR2 -/

/-- The sizes that the resizable BAR capability offers: powers of two from 1 GiB, up to 1 TiB on the 1 TiB variants, else to 2 TiB. -/
def bar2Sizes (s : State) : List Nat := (List.range (if s.fit2T then 12 else 11)).map (fun i => 2 ^ (30 + i))

/-- BAR2 answers an access: the LPDDR has been trained, the die runs, and the access lies within the BAR. -/
def bar2Open (s : State) (ofs len : Nat) : Bool :=
  hostOpen s 0x500000 && 5 ≤ s.get Reg.STU_BOOT_STAT_PHASE && 0 < len && ofs + len ≤ s.bar2Size

/-- BAR2_RESIZE: a size that is not offered is not taken (R3, Table 15-1). -/
def execBar2Resize (bytes : Nat) (s : State) : Host.Outcome State Fault Refusal :=
  if hostOpen s 0 ∧ (bar2Sizes s).contains bytes then .next { s with bar2Size := bytes } else .next s

/-- An access of BAR2 waits for a channel that takes no commands; a write, for room in its queue (R207, R210). -/
def bar2Held (s : State) (a n : Nat) (write : Bool) : Bool :=
  (gransOf a n).any (fun g => if write then chanFull s g else chanPaused s g)

/-- BAR2_READ: bytes at the controllers, beneath the Palette; Completer Abort beyond LPDDR or on an uncorrectable block. -/
def execBar2Read (ofs : Nat) (len : Nat) (s : State) : Host.Outcome State Fault Refusal :=
  let a := s.get Reg.HIF_BAR2_BASE_BASE + ofs
  if bar2Open s ofs len = false then .next s
  else if lpddrSize s < a + len then .next (setRead s [] true)
  else if bar2Held s a len false then .next s
  else
    let r := chanRead s a len
    match r.err with
    | some b =>
      finish (setRead (r.st.logErr { sev := 0, unit := 7, cause := 2, index := chanOf (b / 256), addr := b,
                                     stamp := s.timeOf (68 + chanOf (b / 256) / 64) }) [] true)
    | none => .next (setRead r.st r.data false)

/-- BAR2_WRITE: bytes to the controllers; one beyond LPDDR, or a part of an uncorrectable block, is dropped and logged. -/
def execBar2Write (ofs : Nat) (data : List Byte) (s : State) : Host.Outcome State Fault Refusal :=
  let a := s.get Reg.HIF_BAR2_BASE_BASE + ofs
  if bar2Open s ofs data.length = false then .next s
  else if lpddrSize s < a + data.length then
    finish (s.logErr { sev := 0, unit := 13, cause := 2, addr := a, stamp := s.timeOf 70 })
  else if bar2Held s a data.length true then .next s
  else
    let r := chanWrite s a data
    match r.err with
    | some b =>
      finish (r.st.logErr { sev := 0, unit := 7, cause := 3, index := chanOf (b / 256), addr := b, stamp := s.timeOf (68 + chanOf (b / 256) / 64) })
    | none => .next r.st

end Sys2Proof.Machine
end

