-- ==== Sys2Proof/Machine/Spdm.lean ====
section
/-! DEFINITION. The SPDM responder (R379 to R381): one connection per transport. A request out of its order of versions,
capabilities and algorithms is answered with ERROR UnexpectedRequest, one for an empty certificate slot or an index without a
measurement with ERROR InvalidRequest, as SPDM 1.3 has it (PRESUMED, assumption 57). -/
namespace Sys2Proof.Machine

def spdmConn (s : State) (tr : Transport) : SpdmSt :=
  match tr with
  | .pcieVdm => s.spdmVdm
  | .smbus => s.spdmBus

def setSpdm (s : State) (tr : Transport) (x : SpdmSt) : State :=
  match tr with
  | .pcieVdm => { s with spdmVdm := x }
  | .smbus => { s with spdmBus := x }

/-- The responder hears a transport: PCIe VDM once the host port has trained, SMBus whenever standby power is present. -/
def spdmHears (s : State) (tr : Transport) : Bool :=
  s.standby &&
    (match tr with
      | .pcieVdm => !s.on Reg.STU_PINS_PERST && s.on Reg.STU_PINS_PGOOD && s.get Reg.HIF_LINK_GEN ≠ 0
      | .smbus => true)

/-- The answer to a request on a transport; `f` forms it from the connection once phase 1 has ended. -/
def spdmAnswer (s : State) (tr : Transport) (f : SpdmSt → SpdmSt) : Host.Outcome State Fault Refusal :=
  if spdmHears s tr = false then .next s
  else
    let x := spdmConn s tr
    .next (setSpdm s tr (if s.boot.done1 then f x else { x with reply := some .busy }))

/-- An answer that asks for an established connection. -/
def whenReady (x : SpdmSt) (r : SpdmReply) : SpdmSt := { x with reply := some (if x.stage = 3 then r else .unexpected) }

/-- Measurement 2, the Studio firmware's. -/
def meas2 (s : State) : List Byte := s.boot.meas.getD 1 []

/-- The chain of slot 0 (R380): the root and the identity certificate, and the alias certificate of this phase 1. -/
def certChain (s : State) : List Byte := s.flash.certs ++ Config.aliasCert s.fuses.unique (meas2 s)

/-- Measurement 10 (Table 16-9). -/
def measState (s : State) : List Byte := sha384 (Config.statItem (storedWord s 0x100000) (s.on Reg.STU_FW_CTL_OVERRIDE))

/-- Every measurement by its index. -/
def allMeas (s : State) : List (Nat × List Byte) :=
  ((List.range s.boot.meas.length).map (fun i => (i + 1, s.boot.meas.getD i []))) ++ [(10, measState s)]

/-- A signature with the alias key. -/
def signAlias (s : State) (nonce : Nat) (l : List (List Byte)) : List Byte :=
  Config.spdmSign s.fuses.unique (meas2 s) nonce l s.fresh

/-- GET_VERSION: 1.3; the connection starts afresh. -/
def execGetVersion (tr : Transport) (s : State) : Host.Outcome State Fault Refusal :=
  spdmAnswer s tr (fun _ => ⟨1, some (.version 1 3)⟩)

/-- GET_CAPABILITIES: certificates, challenges and signed measurements, no sessions. -/
def execGetCapabilities (tr : Transport) (s : State) : Host.Outcome State Fault Refusal :=
  spdmAnswer s tr (fun x => if x.stage = 1 then ⟨2, some (.capabilities true true true false)⟩ else { x with reply := some .unexpected })

/-- NEGOTIATE_ALGORITHMS. -/
def execNegotiateAlgorithms (tr : Transport) (s : State) : Host.Outcome State Fault Refusal :=
  spdmAnswer s tr (fun x =>
    if x.stage = 2 then ⟨3, some (.algorithms "TPM_ALG_ECDSA_ECC_NIST_P384" "TPM_ALG_SHA_384")⟩
    else { x with reply := some .unexpected })

/-- GET_DIGESTS: slot 0 is the one that is not empty. -/
def execGetDigests (tr : Transport) (s : State) : Host.Outcome State Fault Refusal :=
  spdmAnswer s tr (fun x => whenReady x (.digests [(0, sha384 (certChain s))]))

/-- GET_CERTIFICATE: bytes of the chain and how many remain after them. -/
def execGetCertificate (tr : Transport) (slot : Nat) (ofs : Nat) (len : Nat) (s : State) : Host.Outcome State Fault Refusal :=
  spdmAnswer s tr (fun x =>
    let c := certChain s
    whenReady x (if slot ≠ 0 ∨ c.length ≤ ofs then .invalid
      else .certificate ((c.drop ofs).take len) (c.length - min c.length (ofs + len))))

/-- CHALLENGE: the chain's digest and a signature over it. -/
def execChallenge (tr : Transport) (slot : Nat) (nonce : Nat) (s : State) : Host.Outcome State Fault Refusal :=
  let d := sha384 (certChain s)
  spdmAnswer s.tickFresh tr (fun x =>
    whenReady x (if slot ≠ 0 then .invalid else .challengeAuth 0 d (signAlias s nonce [d])))

/-- GET_MEASUREMENTS: one by its index, all by 255, none by 0; signed where it is asked. -/
def execGetMeasurements (tr : Transport) (index : Nat) (signed : Bool) (nonce : Nat) (s : State) :
    Host.Outcome State Fault Refusal :=
  spdmAnswer s.tickFresh tr (fun x =>
    let l := if index = 255 then allMeas s else (allMeas s).filter (fun p => p.1 = index)
    let sig := if signed then some (signAlias s nonce (l.map (fun p => p.2))) else none
    whenReady x (if l.isEmpty ∧ index ≠ 0 then .invalid else .measurements l sig))

/-- SPDM_UNSUPPORTED: every other request. -/
def execSpdmUnsupported (tr : Transport) (code : BitVec 8) (s : State) : Host.Outcome State Fault Refusal :=
  spdmAnswer s tr (fun x => { x with reply := some (.unsupported code.toNat) })

end Sys2Proof.Machine
end

