-- ==== Sys2Proof/Machine/Dispatch.lean ====
section
/-! DEFINITION. The dispatch: each command to its meaning. -/
namespace Sys2Proof.Machine

/-- The effect of a command on everything but the queue. -/
def exec (i : Instr) (s : State) : Host.Outcome State Fault Refusal :=
  match i with
  | .registerWrite by_ off width value => Sys2Proof.Machine.execRegisterWrite by_ off width value s
  | .bar2Resize bytes => Sys2Proof.Machine.execBar2Resize bytes s
  | .bar2Read ofs len => Sys2Proof.Machine.execBar2Read ofs len s
  | .bar2Write ofs data => Sys2Proof.Machine.execBar2Write ofs data s
  | .sload f q => Sys2Proof.Machine.execSload f q s
  | .spass f q ecc => Sys2Proof.Machine.execSpass f q ecc s
  | .swpass f q ecc => Sys2Proof.Machine.execSwpass f q ecc s
  | .sdrain f q ecc => Sys2Proof.Machine.execSdrain f q ecc s
  | .swdrain f q ecc => Sys2Proof.Machine.execSwdrain f q ecc s
  | .swclr f q => Sys2Proof.Machine.execSwclr f q s
  | .sgang f q => Sys2Proof.Machine.execSgang f q s
  | .spindleCmdComplete f q => Sys2Proof.Machine.execSpindleCmdComplete f q s
  | .scaleRetry f q ecc => Sys2Proof.Machine.execScaleRetry f q ecc s
  | .ringBeat ring idx ecc => Sys2Proof.Machine.execRingBeat ring idx ecc s
  | .redoReq ring f => Sys2Proof.Machine.execRedoReq ring f s
  | .redoRun ring f => Sys2Proof.Machine.execRedoRun ring f s
  | .retry ring idx => Sys2Proof.Machine.execRetry ring idx s
  | .confirm ring idx => Sys2Proof.Machine.execConfirm ring idx s
  | .hopWatchdog ring idx => Sys2Proof.Machine.execHopWatchdog ring idx s
  | .bop f ecc => Sys2Proof.Machine.execBop f ecc s
  | .bact f ecc => Sys2Proof.Machine.execBact f ecc s
  | .dact f ecc => Sys2Proof.Machine.execDact f ecc s
  | .bcvt f ecc => Sys2Proof.Machine.execBcvt f ecc s
  | .bred f ecc => Sys2Proof.Machine.execBred f ecc s
  | .bopt f ecc => Sys2Proof.Machine.execBopt f ecc s
  | .brushCmdComplete f => Sys2Proof.Machine.execBrushCmdComplete f s
  | .efwd f ecc => Sys2Proof.Machine.execEfwd f ecc s
  | .ebwd f ecc stat => Sys2Proof.Machine.execEbwd f ecc stat s
  | .estat f ecc => Sys2Proof.Machine.execEstat f ecc s
  | .epread f ecc => Sys2Proof.Machine.execEpread f ecc s
  | .easelCmdComplete f => Sys2Proof.Machine.execEaselCmdComplete f s
  | .sxfer f j => Sys2Proof.Machine.execSxfer f j s
  | .descriptorBatch f j resp ecc => Sys2Proof.Machine.execDescriptorBatch f j resp ecc s
  | .itemDecode f j => Sys2Proof.Machine.execItemDecode f j s
  | .shuttleResponse f j n resp ecc part => Sys2Proof.Machine.execShuttleResponse f j n resp ecc part s
  | .sxferComplete f j => Sys2Proof.Machine.execSxferComplete f j s
  | .queueCancel f j => Sys2Proof.Machine.execQueueCancel f j s
  | .requestTimeout f j => Sys2Proof.Machine.execRequestTimeout f j s
  | .add f c d a b => Sys2Proof.Machine.execAdd f c d a b s
  | .sub f c d a b => Sys2Proof.Machine.execSub f c d a b s
  | .and f c d a b => Sys2Proof.Machine.execAnd f c d a b s
  | .or f c d a b => Sys2Proof.Machine.execOr f c d a b s
  | .xor f c d a b => Sys2Proof.Machine.execXor f c d a b s
  | .sll f c d a b => Sys2Proof.Machine.execSll f c d a b s
  | .srl f c d a b => Sys2Proof.Machine.execSrl f c d a b s
  | .sra f c d a b => Sys2Proof.Machine.execSra f c d a b s
  | .slt f c d a b => Sys2Proof.Machine.execSlt f c d a b s
  | .sltu f c d a b => Sys2Proof.Machine.execSltu f c d a b s
  | .min f c d a b => Sys2Proof.Machine.execMin f c d a b s
  | .max f c d a b => Sys2Proof.Machine.execMax f c d a b s
  | .minu f c d a b => Sys2Proof.Machine.execMinu f c d a b s
  | .maxu f c d a b => Sys2Proof.Machine.execMaxu f c d a b s
  | .mul f c d a b => Sys2Proof.Machine.execMul f c d a b s
  | .mulh f c d a b => Sys2Proof.Machine.execMulh f c d a b s
  | .mulhu f c d a b => Sys2Proof.Machine.execMulhu f c d a b s
  | .div f c d a b => Sys2Proof.Machine.execDiv f c d a b s
  | .divu f c d a b => Sys2Proof.Machine.execDivu f c d a b s
  | .rem f c d a b => Sys2Proof.Machine.execRem f c d a b s
  | .remu f c d a b => Sys2Proof.Machine.execRemu f c d a b s
  | .addi f c d a imm => Sys2Proof.Machine.execAddi f c d a imm s
  | .andi f c d a imm => Sys2Proof.Machine.execAndi f c d a imm s
  | .ori f c d a imm => Sys2Proof.Machine.execOri f c d a imm s
  | .xori f c d a imm => Sys2Proof.Machine.execXori f c d a imm s
  | .slti f c d a imm => Sys2Proof.Machine.execSlti f c d a imm s
  | .sltiu f c d a imm => Sys2Proof.Machine.execSltiu f c d a imm s
  | .shi f c d a kind amt => Sys2Proof.Machine.execShi f c d a kind amt s
  | .insh f c d h imm => Sys2Proof.Machine.execInsh f c d h imm s
  | .lb f c d a imm ecc => Sys2Proof.Machine.execLb f c d a imm ecc s
  | .lbu f c d a imm ecc => Sys2Proof.Machine.execLbu f c d a imm ecc s
  | .lh f c d a imm ecc => Sys2Proof.Machine.execLh f c d a imm ecc s
  | .lhu f c d a imm ecc => Sys2Proof.Machine.execLhu f c d a imm ecc s
  | .lw f c d a imm ecc => Sys2Proof.Machine.execLw f c d a imm ecc s
  | .lwu f c d a imm ecc => Sys2Proof.Machine.execLwu f c d a imm ecc s
  | .ld f c d a imm ecc => Sys2Proof.Machine.execLd f c d a imm ecc s
  | .sb f c b a imm => Sys2Proof.Machine.execSb f c b a imm s
  | .sh f c b a imm => Sys2Proof.Machine.execSh f c b a imm s
  | .sw f c b a imm => Sys2Proof.Machine.execSw f c b a imm s
  | .sd f c b a imm => Sys2Proof.Machine.execSd f c b a imm s
  | .beq f c b a imm => Sys2Proof.Machine.execBeq f c b a imm s
  | .bne f c b a imm => Sys2Proof.Machine.execBne f c b a imm s
  | .blt f c b a imm => Sys2Proof.Machine.execBlt f c b a imm s
  | .bge f c b a imm => Sys2Proof.Machine.execBge f c b a imm s
  | .bltu f c b a imm => Sys2Proof.Machine.execBltu f c b a imm s
  | .bgeu f c b a imm => Sys2Proof.Machine.execBgeu f c b a imm s
  | .j f c ofs => Sys2Proof.Machine.execJ f c ofs s
  | .jal f c ofs => Sys2Proof.Machine.execJal f c ofs s
  | .jalr f c d a imm => Sys2Proof.Machine.execJalr f c d a imm s
  | .undefinedEncoding f c w => Sys2Proof.Machine.execUndefinedEncoding f c w s
  | .icacheFill f c resp => Sys2Proof.Machine.execIcacheFill f c resp s
  | .qpush f c q a b => Sys2Proof.Machine.execQpush f c q a b s
  | .qwait f c q a => Sys2Proof.Machine.execQwait f c q a s
  | .qwaitRelease f c => Sys2Proof.Machine.execQwaitRelease f c s
  | .qcancel f c j => Sys2Proof.Machine.execQcancel f c j s
  | .kadd f c a b => Sys2Proof.Machine.execKadd f c a b s
  | .kset f c a b => Sys2Proof.Machine.execKset f c a b s
  | .kwait f c a b => Sys2Proof.Machine.execKwait f c a b s
  | .kwaitRelease f c => Sys2Proof.Machine.execKwaitRelease f c s
  | .waitTimeout f c => Sys2Proof.Machine.execWaitTimeout f c s
  | .kread f c d a => Sys2Proof.Machine.execKread f c d a s
  | .sleep f c => Sys2Proof.Machine.execSleep f c s
  | .sleepWake f c => Sys2Proof.Machine.execSleepWake f c s
  | .halt f c => Sys2Proof.Machine.execHalt f c s
  | .phase f c tag hint => Sys2Proof.Machine.execPhase f c tag hint s
  | .sysrd f c d sel => Sys2Proof.Machine.execSysrd f c d sel s
  | .sysrdClaim f c d => Sys2Proof.Machine.execSysrdClaim f c d s
  | .evdone f c a => Sys2Proof.Machine.execEvdone f c a s
  | .knotWrite f k value => Sys2Proof.Machine.execKnotWrite f k value s
  | .wake f => Sys2Proof.Machine.execWake f s
  | .frameGate f => Sys2Proof.Machine.execFrameGate f s
  | .frameUngate f => Sys2Proof.Machine.execFrameUngate f s
  | .meshPacket f port vc ecc mem => Sys2Proof.Machine.execMeshPacket f port vc ecc mem s
  | .meshWatchdog f port => Sys2Proof.Machine.execMeshWatchdog f port s
  | .paletteAccess sl acc ecc => Sys2Proof.Machine.execPaletteAccess sl acc ecc s
  | .lineFill sl ecc => Sys2Proof.Machine.execLineFill sl ecc s
  | .waysWrite sl value => Sys2Proof.Machine.execWaysWrite sl value s
  | .wayRoleChange sl ecc => Sys2Proof.Machine.execWayRoleChange sl ecc s
  | .paletteClean ranged => Sys2Proof.Machine.execPaletteClean ranged s
  | .paletteInvalidate ranged => Sys2Proof.Machine.execPaletteInvalidate ranged s
  | .paletteCleanInvalidate ranged => Sys2Proof.Machine.execPaletteCleanInvalidate ranged s
  | .paletteFlushDone ecc => Sys2Proof.Machine.execPaletteFlushDone ecc s
  | .lpddrRead addr errs => Sys2Proof.Machine.execLpddrRead addr errs s
  | .lpddrWrite addr data => Sys2Proof.Machine.execLpddrWrite addr data s
  | .refresh ch bank => Sys2Proof.Machine.execRefresh ch bank s
  | .channelRetrain ch => Sys2Proof.Machine.execChannelRetrain ch s
  | .retrainingEnd ch => Sys2Proof.Machine.execRetrainingEnd ch s
  | .repairAutoStart ch => Sys2Proof.Machine.execRepairAutoStart ch s
  | .repairStart ch => Sys2Proof.Machine.execRepairStart ch s
  | .repairCopy grp => Sys2Proof.Machine.execRepairCopy grp s
  | .mapSwitch grp => Sys2Proof.Machine.execMapSwitch grp s
  | .clockStretch f edges => Sys2Proof.Machine.execClockStretch f edges s
  | .phaseError f => Sys2Proof.Machine.execPhaseError f s
  | .freqGo mhz => Sys2Proof.Machine.execFreqGo mhz s
  | .goAccept => Sys2Proof.Machine.execGoAccept s
  | .freqStop => Sys2Proof.Machine.execFreqStop s
  | .freqRestart unlocked => Sys2Proof.Machine.execFreqRestart unlocked s
  | .referenceLoss g tree => Sys2Proof.Machine.execReferenceLoss g tree s
  | .referenceReturn g tree => Sys2Proof.Machine.execReferenceReturn g tree s
  | .holdoverTimeout => Sys2Proof.Machine.execHoldoverTimeout s
  | .restore => Sys2Proof.Machine.execRestore s
  | .beacon => Sys2Proof.Machine.execBeacon s
  | .ppsInEdge => Sys2Proof.Machine.execPpsInEdge s
  | .ppsOut => Sys2Proof.Machine.execPpsOut s
  | .flit p bytes cws => Sys2Proof.Machine.execFlit p bytes cws s
  | .nakRepeat p => Sys2Proof.Machine.execNakRepeat p s
  | .retryExhausted p => Sys2Proof.Machine.execRetryExhausted p s
  | .laneFail p lane => Sys2Proof.Machine.execLaneFail p lane s
  | .portRetrainDone p => Sys2Proof.Machine.execPortRetrainDone p s
  | .lossOfSignal p => Sys2Proof.Machine.execLossOfSignal p s
  | .portTrainRetry p seen => Sys2Proof.Machine.execPortTrainRetry p seen s
  | .retrain p => Sys2Proof.Machine.execRetrain p s
  | .disable p => Sys2Proof.Machine.execDisable p s
  | .write p rec => Sys2Proof.Machine.execWrite p rec s
  | .read p rec resp => Sys2Proof.Machine.execRead p rec resp s
  | .rdata p rec => Sys2Proof.Machine.execRdata p rec s
  | .ack p rec => Sys2Proof.Machine.execAck p rec s
  | .reject p rec => Sys2Proof.Machine.execReject p rec s
  | .kaddRecord p rec => Sys2Proof.Machine.execKaddRecord p rec s
  | .mcast p rec => Sys2Proof.Machine.execMcast p rec s
  | .snap p rec => Sys2Proof.Machine.execSnap p rec s
  | .acc p rec ecc => Sys2Proof.Machine.execAcc p rec ecc s
  | .time p rec replayed => Sys2Proof.Machine.execTime p rec replayed s
  | .timeExchange => Sys2Proof.Machine.execTimeExchange s
  | .lnkKadd value => Sys2Proof.Machine.execLnkKadd value s
  | .stepArrive => Sys2Proof.Machine.execStepArrive s
  | .stepDeadline => Sys2Proof.Machine.execStepDeadline s
  | .commit => Sys2Proof.Machine.execCommit s
  | .replay => Sys2Proof.Machine.execReplay s
  | .quiesceDone => Sys2Proof.Machine.execQuiesceDone s
  | .resume => Sys2Proof.Machine.execResume s
  | .rootCommit => Sys2Proof.Machine.execRootCommit s
  | .rootReplay => Sys2Proof.Machine.execRootReplay s
  | .rootResume => Sys2Proof.Machine.execRootResume s
  | .rdoneTimeout => Sys2Proof.Machine.execRdoneTimeout s
  | .rootlost => Sys2Proof.Machine.execRootlost s
  | .glazeRequest ecc => Sys2Proof.Machine.execGlazeRequest ecc s
  | .glazeSwitch => Sys2Proof.Machine.execGlazeSwitch s
  | .governorInterval m => Sys2Proof.Machine.execGovernorInterval m s
  | .fastLimiter inW dieW => Sys2Proof.Machine.execFastLimiter inW dieW s
  | .modelMismatch estW dieW => Sys2Proof.Machine.execModelMismatch estW dieW s
  | .coolIdSample code => Sys2Proof.Machine.execCoolIdSample code s
  | .thermalTrip f tj => Sys2Proof.Machine.execThermalTrip f tj s
  | .pwrCapUserWrite watts => Sys2Proof.Machine.execPwrCapUserWrite watts s
  | .sqTail n t => Sys2Proof.Machine.execSqTail n t s
  | .entryFetch n cnt => Sys2Proof.Machine.execEntryFetch n cnt s
  | .fetchTimeout n => Sys2Proof.Machine.execFetchTimeout n s
  | .cqHead n h => Sys2Proof.Machine.execCqHead n h s
  | .ringEnable n => Sys2Proof.Machine.execRingEnable n s
  | .ringDisable n => Sys2Proof.Machine.execRingDisable n s
  | .nop n k => Sys2Proof.Machine.execNop n k s
  | .copy n k len resp ecc => Sys2Proof.Machine.execCopy n k len resp ecc s
  | .hostKadd n k => Sys2Proof.Machine.execHostKadd n k s
  | .flush n k => Sys2Proof.Machine.execFlush n k s
  | .jobPost n k at_ resp => Sys2Proof.Machine.execJobPost n k at_ resp s
  | .jobCtl n k => Sys2Proof.Machine.execJobCtl n k s
  | .hostCommandComplete n k => Sys2Proof.Machine.execHostCommandComplete n k s
  | .coalesceTimeout n => Sys2Proof.Machine.execCoalesceTimeout n s
  | .readShape n k => Sys2Proof.Machine.execReadShape n k s
  | .snapshot n k resp => Sys2Proof.Machine.execSnapshot n k resp s
  | .readLog n k => Sys2Proof.Machine.execReadLog n k s
  | .fwStage n k resp flashOk => Sys2Proof.Machine.execFwStage n k resp flashOk s
  | .telem n k => Sys2Proof.Machine.execTelem n k s
  | .telemWindow => Sys2Proof.Machine.execTelemWindow s
  | .hostClaim width => Sys2Proof.Machine.execHostClaim width s
  | .hostDone value => Sys2Proof.Machine.execHostDone value s
  | .msixEn => Sys2Proof.Machine.execMsixEn s
  | .kwatch w value => Sys2Proof.Machine.execKwatch w value s
  | .swset r value => Sys2Proof.Machine.execSwset r value s
  | .readyAck => Sys2Proof.Machine.execReadyAck s
  | .flr => Sys2Proof.Machine.execFlr s
  | .d3hot => Sys2Proof.Machine.execD3hot s
  | .standbyOn slotId => Sys2Proof.Machine.execStandbyOn slotId s
  | .standbyLoss => Sys2Proof.Machine.execStandbyLoss s
  | .pwrEnAssert => Sys2Proof.Machine.execPwrEnAssert s
  | .railsUp => Sys2Proof.Machine.execRailsUp s
  | .railfail => Sys2Proof.Machine.execRailfail s
  | .pwrEnDeassert => Sys2Proof.Machine.execPwrEnDeassert s
  | .infault => Sys2Proof.Machine.execInfault s
  | .perstAssert => Sys2Proof.Machine.execPerstAssert s
  | .perstRelease => Sys2Proof.Machine.execPerstRelease s
  | .verify => Sys2Proof.Machine.execVerify s
  | .studioStart gen lanes coolId => Sys2Proof.Machine.execStudioStart gen lanes coolId s
  | .dieTest result => Sys2Proof.Machine.execDieTest result s
  | .lpddrTraining rates => Sys2Proof.Machine.execLpddrTraining rates s
  | .weftTraining seen => Sys2Proof.Machine.execWeftTraining seen s
  | .apply => Sys2Proof.Machine.execApply s
  | .ready => Sys2Proof.Machine.execReady s
  | .bootTimeout => Sys2Proof.Machine.execBootTimeout s
  | .activate => Sys2Proof.Machine.execActivate s
  | .getVersion tr => Sys2Proof.Machine.execGetVersion tr s
  | .getCapabilities tr => Sys2Proof.Machine.execGetCapabilities tr s
  | .negotiateAlgorithms tr => Sys2Proof.Machine.execNegotiateAlgorithms tr s
  | .getDigests tr => Sys2Proof.Machine.execGetDigests tr s
  | .getCertificate tr slot ofs len => Sys2Proof.Machine.execGetCertificate tr slot ofs len s
  | .challenge tr slot nonce => Sys2Proof.Machine.execChallenge tr slot nonce s
  | .getMeasurements tr index signed nonce => Sys2Proof.Machine.execGetMeasurements tr index signed nonce s
  | .spdmUnsupported tr code => Sys2Proof.Machine.execSpdmUnsupported tr code s
  | .taskAbortComplete task => Sys2Proof.Machine.execTaskAbortComplete task s
  | .hostCompletionTimeout who => Sys2Proof.Machine.execHostCompletionTimeout who s
  | .msixUnmask v => Sys2Proof.Machine.execMsixUnmask v s
  | .snapshotDelivered ok => Sys2Proof.Machine.execSnapshotDelivered ok s

end Sys2Proof.Machine
end

