-- ==== Sys2Proof/Machine/Tick.lean ====
section
/-! DEFINITION. One tick of global time: clocks (R231), idle counters (R317, R318), token excess (R262), withheld cycles (R295), what
the governor sums up (R331), the end of a Function Level Reset (R342). The block ticks when no command waits. -/
namespace Sys2Proof.Machine

/-! ## Idle causes (Table 13-2) -/

/-- The oldest outstanding request of a Shuttle queue over the mesh. -/
def oldestReq (x : ShutSt) : Option ShReq :=
  (x.asked ++ x.unacked).foldl (fun a r => match a with
    | none => some r
    | some o => if r.t < o.t then some r else some o) none

/-- A request of queue `j` of Frame `f` to another module waits for link credit, or behind a replay (R270): its record stands in the FIFO
to a Weft port, or in the port. -/
def linkWaits (s : State) (f j : Nat) (r : ShReq) : Bool :=
  (List.range 16).any (fun p =>
    (sget [] s.edgeOut p).any (fun x => x.who = .shuttle f j && (match x.op with
      | .send q => decide (placeKey (some q.dest) q.addr = r.key) || decide (mcastKey (q.dest % 256) q.addr = r.key)
      | _ => false)) ||
    (!((sget [] (s.port p).out 0).isEmpty && (sget [] (s.port p).out 1).isEmpty) &&
      (s.port p).reqs.any (fun q => q.who = .shuttle f j && placeKey (some q.dest) q.addr = r.key)))

/-- The place that the next element of an item reads or writes; none where an index decides it, or padding. -/
def nextPlace (s : State) (f w pos : Nat) (it : ItemSt) : Option Nat :=
  let d := itemMain w it
  if dIdxEn d then none
  else
    match spotOf d (sxXpose w && sxSrc w = 0) pos 0 with
    | .at xs =>
      let x := spanOf s d (segOf s f (dSeg d)) (byteOf d (locOf d xs)).toNat 1
      if x.mod.isSome then none else some x.addr
    | _ => none

/-- An access to an address waits for a free entry of its home slice's miss table (R197). -/
def missWaits (s : State) (a : Nat) : Bool := regionOf s a = .lpddr && (lookup s (a / 256)).isNone && missFull s (a / 256)

/-- An item writes host memory. -/
def hostWrites (s : State) (f w : Nat) (it : ItemSt) : Bool :=
  match itemWr w it with
  | some d => hostSeg s f (dSeg d)
  | none => false

/-- The cause of a wait on the stream of Shuttle queue `j` (R317), by its oldest outstanding request: link credit or withheld credit, a full
miss table, host memory, other memory. -/
def streamCause (s : State) (f j : Nat) : Nat :=
  let x := s.sh f j
  if s.withheld.any (fun w => w.who = .shuttle f j) then 10
  else
    match oldestReq x with
    | some r => if linkWaits s f j r then 10 else if r.key < 2 ^ 64 ∧ missWaits s r.key then 11 else 3
    | none =>
      match x.word, x.act with
      | some w, some it =>
        if (nextPlace s f w x.pos it).any (missWaits s) then 11
        else if hostItem s f w it || hostWrites s f w it then 12
        else 3
      | _, _ => 3

/-- The cause of a core: one that runs and waits for its instruction cache or for an answer counts 15. -/
def coreCause (s : State) (f c : Nat) : Nat :=
  match s.cState f c with
  | 1 => if (s.core f c).kread.isSome || (fetchOk s f c && (fetchWord s f c).isNone) then 15 else 0
  | 2 => 4
  | 3 =>
    let k := (s.core f c).waitOn
    match s.get (Reg.FRM_KCFGk_CLASS (k / 256) (k % 256)) with
    | 0 => 4
    | 1 => 5
    | 2 => 6
    | _ => 15
  | _ => 15

/-- The cause of an engine without a command (R318). -/
def idleCause (s : State) (f : Nat) : Nat :=
  match (List.range 4).find? (fun c => s.cState f c = 2 || s.cState f c = 3) with
  | some c => coreCause s f c
  | none => 15

/-- A wait on ring `z` at index `i`, as cause `c`: 10 while the link of a flex hop of the segment is in retry (Table 4-7). -/
def ringCause (s : State) (z i c : Nat) : Nat :=
  if (segPorts s z i).any (fun p => s.on (Reg.LNK_PORTp_STAT_RETRY p)) then 10 else c

/-- The run that a pass reads from its ring port has not arrived whole. -/
def runShort (s : State) (f q w : Nat) : Bool :=
  let (z, i) := srcPort f q w
  match ((drainPort s z i).rport z i).run with
  | [] => true
  | b :: bs => bs.length < runLength (spEty w) (spSty w) (markC64 b) (chunksTaken s f q w)

/-- A word takes its operand from a ring. -/
def ringFed (q w : Nat) : Bool := q < 8 && (wOp w = 0x11 || wOp w = 0x12) && spSrc w < 2

/-- The ring on which the slot of queue `q` has beats that wait to leave. -/
def ringOut (s : State) (f q : Nat) : Option Nat :=
  if 8 ≤ q then none else [0, 1].find? (fun z => !(s.rport z (ringIdx f q)).out.isEmpty)

/-- The cause of a command `w` of queue `q` that waits to execute (R68). -/
def wordCause (s : State) (f q w : Nat) : Nat :=
  match (takesFrom q w).find? (streamShort s f q w), (givesTo q w).find? (fun j => 16384 < (s.sh f j).fromEng.length) with
  | some j, _ => streamCause s f j
  | none, some j => streamCause s f j
  | none, none =>
    if ringFed q w && runShort s f q w then ringCause s (spSrc w) (ringIdx f q) 1
    else
      match ringOut s f q with
      | some z => ringCause s z (ringIdx f q) 2
      | none => 0

/-- The cause of a command that has executed and not completed: a drain to an input that is full (R68), or a block that waits to leave. -/
def ranCause (s : State) (f q w : Nat) : Nat :=
  if q < 9 ∧ wordLanded s f q w = false then
    if wOp w = 0x13 ∨ wOp w = 0x14 then (if sdDest w < 2 then 15 else streamCause s f (sdDestQ w))
    else
      match ringOut s f q with
      | some z => ringCause s z (ringIdx f q) 2
      | none => 0
  else
    match (givesTo q w).find? (fun j => 16384 < (s.sh f j).fromEng.length) with
    | some j => streamCause s f j
    | none => 0

/-- The cause of the engine of queue `q`. -/
def engCause (s : State) (f q : Nat) : Nat :=
  match (s.queue f q).ran.find? (fun w => ranCause s f q w ≠ 0), (s.queue f q).words, (s.queue f q).ran with
  | some w, _, _ => ranCause s f q w
  | none, w :: _, _ => wordCause s f q w
  | none, [], _ :: _ => 0
  | none, [], [] => idleCause s f

/-- The cause of a Spindle that its queue's commands name: a re-run (R45, R103) counts 14, a sent block that waits to leave 2. -/
def leadCause (s : State) (f u q : Nat) : Nat :=
  let x := s.spin f u
  if x.retry.isSome || x.open_.any (fun o => o.due.isSome) then 14
  else if x.open_.isEmpty || !(s.queue f q).words.isEmpty then engCause s f q
  else
    match ringOut s f q with
    | some z => ringCause s z (ringIdx f q) 2
    | none => engCause s f q

/-- The cause of physical Spindle `u`, whose queue is `q`: a member of a gang other than the leader is frozen while its leader waits for
data or credit (R69), and busy with it. -/
def spinCause (s : State) (f u q : Nat) : Nat :=
  let ms := (unitAt s f q).ms
  let l := ms.headD u
  if l = u ∨ !ms.contains u then leadCause s f u q
  else
    match spdQueue s f l with
    | none => idleCause s f
    | some p =>
      let c := leadCause s f l p
      if (s.queue f p).words.isEmpty ∧ (s.queue f p).ran.isEmpty then c else if c = 0 ∨ c = 14 then c else 13

/-- The cause of unit `u` of a Frame in a period that nothing holds: Spindle slots 0 to 8, Brush, Easel, cores. -/
def unitCause (s : State) (f u : Nat) : Nat :=
  if u < 9 then
    match spdQueue s f u with
    | some q => spinCause s f u q
    | none => idleCause s f
  else if u = 9 then engCause s f 25
  else if u = 10 then engCause s f 26
  else coreCause s f (u - 11)

/-! ## A Frame over a tick -/

def countIdle (s : State) (f u c n : Nat) : State := if n = 0 then s else s.bump (Reg.FRM_IDLEu_Cc_COUNT f u c) n

/-- Of `m` cycles from cycle `c0` on, those that the fast limiter holds at HOLD `h` (R330). -/
def heldCycles (c0 m h : Nat) : Nat := ((List.range m).filter (fun i => (c0 + i) % 16 < h)).length

/-- The units of a Frame over `n` periods, `sup` of them suppressed: cores are not held (R330). -/
def countUnit (s : State) (f n sup u : Nat) : State :=
  let held := if u < 11 then heldCycles (s.get (Reg.FRM_CYCLES_COUNT f)) (n - sup) (s.get Reg.PWR_HOLD_HOLD) else 0
  let c := unitCause s f u
  countIdle (countIdle (countIdle s f u 7 sup) f u 9 held) f u c (n - sup - held)

/-- Token excess over `m` cycles (R262); what grew marks the phase (R327). -/
def countTokens (s : State) (f m : Nat) : State :=
  let p := phaseOf s f
  let act := ((List.range 9).filter (fun u => unitCause s f u = 0 || unitCause s f u = 14)).length
  if m ≠ 0 && (s.get (Reg.FRM_TOKp_SPD f p) < act || (s.get (Reg.FRM_TOKp_BR f p) = 0 && engCause s f 25 = 0)) then
    let s := s.bump (Reg.FRM_TOKEXCESS_COUNT f) m
    { s with gov := { s.gov with small := sput false s.gov.small p true } }
  else s

/-- The counters of a Frame. During a stop each unit counts the periods it would have run (R226). -/
def tickFrame (s : State) (f : Nat) : State :=
  let r := s.region f
  let n := (periods r.frac (regionHz s f)).1
  if freqStopped s then (List.range 15).foldl (fun s u => countIdle s f u 8 n) s
  else
    let sup := min n (r.skip - 1)
    countTokens ((List.range 15).foldl (fun s u => countUnit s f n sup u) s) f (n - sup)

/-- The Frames and Ply units run. -/
def unitsRun (s : State) : Bool := !stopped s && s.get Reg.STU_BOOT_STAT_MODE = 1

/-- The Frame at whose edge the Ply unit of group `m` sits (Table 9-1). -/
def plyFrame (m : Nat) : Nat := if m < 4 then 2 * m else 56 + 2 * (m - 4)

/-- Every Frame and Ply unit over a tick; WHCNT counts compute cycles (R309). -/
def tickUnits (s : State) : State :=
  if unitsRun s then
    let s := (List.range 64).foldl tickFrame s
    if freqStopped s then s
    else (withholding s).foldl (fun s m =>
      s.bump (Reg.PLY_UNITm_WHCNT_COUNT m) (tickCycles (s.region (plyFrame m)) (regionHz s (plyFrame m)))) s
  else s

/-- What waits at the crossings goes on: requests' times (R185), register writes to the Frames, the FIFOs of the Weft ports (R223). -/
def tickFlow (s : State) : State :=
  let s := (s.shut.map (fun e => e.1)).foldl (fun s k => tickRequest s (k / 16) (k % 16)) s
  let s := if s.ctlIn.isEmpty then s else drainCtl s s.ctlIn
  let s := (s.edgeIn.map (fun e => e.1)).foldl edgePump s
  if s.edgeOut.isEmpty then s else edgesDrain s

/-! ## The module over a tick -/

/-- A boundary at which the governor does not act yet: what has been summed up is of an interval before it (R331, R332). -/
def freshGov (s : State) : State :=
  if s.now % (100 * tickUs) = 0 && !governs s then
    { s with gov := { s.gov with edges := [], clkSum := 0, effSum := 0, ticks := 0, stop := false, held := false } }
  else s

/-- What the governor sums up over an interval: clock, clock less held cycles, whether a stop or a hold fell in it. -/
def tickGov (s : State) : State :=
  let s := freshGov s
  let h := s.get Reg.PWR_HOLD_HOLD
  let f := s.get Reg.CLK_FREQ_CUR_MHZ
  let off := freqStopped s
  { s with gov := { s.gov with
    clkSum := s.gov.clkSum + f, effSum := s.gov.effSum + (if off then 0 else f * (16 - h)), ticks := s.gov.ticks + 1,
    stop := s.gov.stop || off, held := s.gov.held || h ≠ 0 } }

/-- A Function Level Reset ends within 100 ms (R342). -/
def tickFlr (s : State) : State :=
  match s.flr with
  | some t => if t + min (Config.flrTicks t) (100 * tickMs) ≤ s.now then { s with flr := none } else s
  | none => s

/-- The Studio's cores serve the sources that name them (R353, R356). -/
def tickStudio (s : State) : State :=
  if agentOpen s .studio 0x200000 then studioServes (studioServes s 256) 257 else s

/-- One tick. -/
def tick (s : State) : State := tickStudio (tickFlow (latchRegions (tickFlr (tickGov (tickRegions (tickUnits (tickMaster s)))))))

/-- The block on an empty queue: global time runs on while PERST_N is released and standby power is present; otherwise
nothing happens. -/
def idle (s : State) : Host.Outcome State Fault Refusal :=
  if s.standby ∧ s.get Reg.STU_PINS_PERST = 0 then finish (tick s) else .next s

end Sys2Proof.Machine
end

