-- ==== Sys2Proof/Safety.lean ====
section
/-! DEFINITION. The words in which claims about the block are stated. -/
namespace Sys2Proof.Machine

/-- A command answers a next state of which `P` holds. -/
def Answers (c : Instr) (s : State) (P : State → Prop) : Prop := ∃ t, exec c s = .next t ∧ P t

/-! ## The whole block -/

/-- From `a` on to `b` the fuses are only burned (R365, R367, R368): hashes, purposes, life cycle and the unique value stay, no
floor falls, no revocation goes. -/
def Burned (a b : Fuses) : Prop :=
  b.hash = a.hash ∧ b.purp = a.purp ∧ b.dev = a.dev ∧ b.unique = a.unique ∧
    (∀ i, sget 0 a.svn i ≤ sget 0 b.svn i) ∧ (∀ k, bit a.revoked k = true → bit b.revoked k = true)

/-- An unrevoked slot with firmware purpose is left (R368). -/
def Fuses.bootable (z : Fuses) : Bool := (List.range 4).any (fun i => z.programmed i && !bit z.revoked i && z.allows i 1)

/-- What every step keeps: registers and memory are in canonical form, the error log is within its 4,096 slots and its records
lie below the next SEQ (R388, R391), the flash's error area holds at most 16 sets (R392), and a firmware slot is left
(R368). -/
def Healthy (s : State) : Prop :=
  scanon 0 s.regs = true ∧ scanon 0 s.mem = true ∧ s.log.length ≤ 4096 ∧ (∀ r ∈ s.log, r.seq < s.nextSeq) ∧
    s.errArea.length ≤ 16 ∧ s.fuses.bootable = true

/-! ## Frames -/

/-- Every register field but those with a listed key is as before. -/
def SameRegs (s t : State) (ks : List Nat) : Prop := ∀ r : Ref, r.key ∉ ks → t.get r = s.get r

/-- Every general register but `d` of core `c` of Frame `f` is as before. -/
def SameGregs (s t : State) (f : Fin 64) (c : Fin 4) (d : Fin 32) : Prop :=
  ∀ (f' : Fin 64) (c' : Fin 4) (n : Fin 32), (f', c', n) ≠ (f, c, d) → t.greg f' c' n = s.greg f' c' n

/-- Every core's state but its general registers is as before. -/
def SameCores (s t : State) : Prop :=
  ∀ (f' : Fin 64) (c' : Fin 4), { t.core f' c' with g := [] } = { s.core f' c' with g := [] }

/-- Nothing but the event controller's own memory, the registers and the cores differs. -/
def OnlyRegsCores (s t : State) : Prop :=
  t = { s with regs := t.regs, cores := t.cores, active := t.active, wakes := t.wakes, ready := t.ready, msix := t.msix, msixPend := t.msixPend }

/-- Nothing but the registers and the event controller's own memory differs. -/
def OnlyRegs (s t : State) : Prop :=
  t = { s with regs := t.regs, active := t.active, wakes := t.wakes, ready := t.ready, msix := t.msix, msixPend := t.msixPend }

/-- Each listed register field holds its value, and every other register field is as before. -/
def Sets (s t : State) (l : List (Ref × Nat)) : Prop :=
  (∀ p ∈ l, t.get p.1 = p.2) ∧ SameRegs s t (l.map (fun p => p.1.key))

/-- The outcome of a command that sets the listed register fields and changes nothing else (the event controller follows). -/
def RegEffect (s : State) (l : List (Ref × Nat)) (o : Host.Outcome State Fault Refusal) : Prop :=
  ∃ t, o = .next t ∧ Sets s t l ∧ OnlyRegs s t

/-- A record of severity, unit, cause and index is in the error log. -/
def Recorded (t : State) (sev unit cause index : Nat) : Prop :=
  ∃ r ∈ t.log, r.sev = sev ∧ r.unit = unit ∧ r.cause = cause ∧ r.index = index

/-! ## Frame cores (R134, R237 to R250) -/

def pcKey (f c : Nat) : Nat := (Reg.FRM_COREc_PC_PC f c).key
def coreStateKey (f c : Nat) : Nat := (Reg.FRM_COREc_STATE_STATE f c).key

/-- The core runs, and waits for no Knot of another Frame; its Frame is neither gated nor still; its PC may be fetched from: a
multiple of 4 below the limit of segment 0 (R134, R153, R239, R247). -/
def Running (s : State) (f c : Nat) : Prop :=
  s.cState f c = 1 ∧ s.get (Reg.FRM_PWRCTL_GATED f) = 0 ∧ (s.core f c).kread = none ∧ frameStill s f = false ∧
    s.pc f c % 4 = 0 ∧ s.pc f c < s.get (Reg.FRM_SEGs_LIM_LIMIT f 0)

/-- The core runs, and the word that its instruction cache holds at its PC is `w` (R134, R240). -/
def Ready (s : State) (f c w : Nat) : Prop := Running s f c ∧ fetchWord s f c = some w

/-- The outcome of an instruction whose effect is that register `d` holds `v`: register 0 reads 0, the PC advances by 4, and
nothing else changes. -/
def CoreResult (s : State) (f : Fin 64) (c : Fin 4) (d : Fin 32) (v : W64) (o : Host.Outcome State Fault Refusal) : Prop :=
  ∃ t, o = .next t ∧ t.greg f c d = (if d.val = 0 then 0 else v) ∧ t.pc f c = (s.pc f c + 4) % 2 ^ 64 ∧
    SameGregs s t f c d ∧ SameRegs s t [pcKey f c] ∧ SameCores s t ∧ t = { s with regs := t.regs, cores := t.cores }

/-- The outcome of an instruction whose only effect is that the PC becomes `target`. -/
def CoreGoes (s : State) (f : Fin 64) (c : Fin 4) (target : Nat) (o : Host.Outcome State Fault Refusal) : Prop :=
  ∃ t, o = .next t ∧ t.pc f c = target ∧ SameRegs s t [pcKey f c] ∧ t = { s with regs := t.regs }

/-- The target of a branch or jump: PC + 4 × the offset, modulo 2^64. -/
def branchTarget (s : State) (f c : Nat) (ofs : W64) : Nat := (BitVec.ofNat 64 (s.pc f c) + 4 * ofs).toNat

/-- The core address of a load or store: A + sext(IMM). -/
def coreAddr (s : State) (f c a : Nat) (imm : BitVec 16) : Nat := (s.greg f c a + imm.signExtend 64).toNat

/-- A core address is aligned and in the core's data SRAM, or in its Frame's memory (Table 10-1). -/
def inSram (x n : Nat) : Prop := x % n = 0 ∧ x < 0x20000
def inFmem (x n : Nat) : Prop := x % n = 0 ∧ 0x10000000 ≤ x ∧ x < 0x11000000

/-- The outcome of a load into `d` of the value that `ext` makes of the `n` bytes at core address `x`. -/
def LoadResult (s : State) (f : Fin 64) (c : Fin 4) (d : Fin 32) (x n : Nat) (ext : Nat → W64)
    (o : Host.Outcome State Fault Refusal) : Prop :=
  (inSram x n → CoreResult s f c d (ext (ofLE (sgetList 0 (s.core f c).ram x n))) o) ∧
    (inFmem x n → CoreResult s f c d (ext (ofLE (sgetList 0 s.mem (0x0A0000000000 + f.val * 0x1000000 + (x - 0x10000000)) n))) o)

/-- The outcome of a store of the low `n` bytes of `v` at core address `x`: those bytes hold them, every other byte of the
data SRAMs and of memory is as before, the PC advances by 4, and nothing else changes. -/
def StoreResult (s : State) (f : Fin 64) (c : Fin 4) (x n : Nat) (v : W64) (o : Host.Outcome State Fault Refusal) : Prop :=
  (inSram x n → ∃ t, o = .next t ∧ sgetList 0 (t.core f c).ram x n = toLE n v.toNat ∧
    (∀ a, (a < x ∨ x + n ≤ a) → sget 0 (t.core f c).ram a = sget 0 (s.core f c).ram a) ∧
    (∀ (f' : Fin 64) (c' : Fin 4), (f', c') ≠ (f, c) → t.core f' c' = s.core f' c') ∧
    { t.core f c with ram := [] } = { s.core f c with ram := [] } ∧
    t.pc f c = (s.pc f c + 4) % 2 ^ 64 ∧ SameRegs s t [pcKey f c] ∧ t = { s with regs := t.regs, cores := t.cores }) ∧
  (inFmem x n → ∃ t, o = .next t ∧
    sgetList 0 t.mem (0x0A0000000000 + f.val * 0x1000000 + (x - 0x10000000)) n = toLE n v.toNat ∧
    (∀ a, (a < 0x0A0000000000 + f.val * 0x1000000 + (x - 0x10000000) ∨
        0x0A0000000000 + f.val * 0x1000000 + (x - 0x10000000) + n ≤ a) → sget 0 t.mem a = sget 0 s.mem a) ∧
    t.pc f c = (s.pc f c + 4) % 2 ^ 64 ∧ SameRegs s t [pcKey f c] ∧ t = { s with regs := t.regs, mem := t.mem })

/-- The outcome of an instruction that halts its core and ends its task with severity T, cause `cause` of unit 4 (R134). -/
def CoreFaults (s : State) (f : Fin 64) (c : Fin 4) (cause addr : Nat) (o : Host.Outcome State Fault Refusal) : Prop :=
  o = .next (evRefresh (coreFault s f c cause addr))

/-! ## Engine queues (R66, R140) -/

/-- A command word that has executed: it leaves the head of its queue and waits there for its completion; no other queue
changes. -/
def WordExecuted (s t : State) (f : Fin 64) (q : Fin 27) : Prop :=
  t.queue f q = ⟨(s.queue f q).words.drop 1, (s.queue f q).ran ++ (s.queue f q).words.take 1⟩ ∧
    ∀ (f' : Fin 64) (q' : Fin 27), (f', q') ≠ (f, q) → t.queue f' q' = s.queue f' q'

/-! ## Weft records (R278, R295) -/

/-- A record of type `t` is taken at port `p`: its shape; the port up, and not in role 8 (R281); the module not stopped; and, for a request,
no record of the port held back (R295) and room for its answer (R275). -/
def RecordReady (s : State) (p t : Nat) (r : Record) : Prop :=
  r.wfAs t = true ∧ carries s p = true ∧ stopped s = false ∧
    (isRequest t = true → (∀ w ∈ s.withheld, w.port ≠ some p) ∧ answerRoom s r = true)

/-! ## Host commands (R346 to R348) -/

/-- The command `c` with count `k` of ring `n` holds the opcode (and mailbox number) of its row and may start now: ring order, FENCE,
the engine and the mode allow it. -/
def CmdReady (s : State) (n k : Nat) (c : HostCmd) (op sub : Nat) : Prop :=
  cmdOf s n k = some c ∧ leAt c.bytes 0 1 = op ∧ (op = 0x20 → leAt c.bytes 8 1 = sub) ∧ inOrder (s.ring n) c = true ∧
    (engineOp c = true → engineTakes s n = true) ∧ modeRefuses s op sub = false

/-- The command has started and holds its result, to be written out as its completion. -/
def CmdEnds (t : State) (n k : Nat) (c : HostCmd) (status detail : Nat) : Prop :=
  cmdOf t n k = some { c with start := true, result := some (status, detail) }

/-- Memory at `a` holds `d`, and every other byte of memory is as before. -/
def Stored (s t : State) (a : Nat) (d : List Byte) : Prop :=
  sgetList 0 t.mem a d.length = d ∧ ∀ x, (x < a ∨ a + d.length ≤ x) → sget 0 t.mem x = sget 0 s.mem x

end Sys2Proof.Machine
end

