-- ==== Sys2Proof/Certificates/Slice0/Obligations.lean ====
section
/-! DEFINITION. The statements for the provers, from the numbered rules of spec/. What rests on a choice of the model says so and names its
row of the assumption log. -/
open Sys2Proof Sys2Proof.Machine

/-! ## The whole block -/

/-- A step with a command at the front of the queue is `exec` of that command on the state with the rest of the queue. With no
command waiting, a block without standby power or with PERST_N asserted stays as it is, and one in operation lets one tick of its
time source pass (the model's choice, assumption 2). -/
def Obligations.StepsTakeFront : Prop :=
  (∀ (c : Instr) (rest : List Instr) (s : State), s.pending = c :: rest → step s = exec c { s with pending := rest }) ∧
  (∀ s : State, s.pending = [] →
    ((s.standby = false ∨ s.get Reg.STU_PINS_PERST ≠ 0) → step s = .next s) ∧
    (s.standby = true → s.get Reg.STU_PINS_PERST = 0 → ∃ t, step s = .next t ∧ t.source = s.source + 1))

/-- A command whose operands have the shape of its row answers a next state in every state; any other stops with `illFormed`; no
command is refused. -/
def Obligations.CommandsComplete : Prop :=
  ∀ (c : Instr) (s : State),
    (c.wf = true → ∃ t, exec c s = .next t) ∧ (c.wf = false → exec c s = .fault .illFormed) ∧
      (∀ r, exec c s ≠ .refused r)

/-- Every step keeps the block healthy: canonical registers and memory, an error log within its slots with records below the next
SEQ, at most 16 saved sets, and a firmware slot that is not revoked. -/
def Obligations.StepKeepsHealth : Prop :=
  ∀ s t : State, Healthy s → step s = .next t → Healthy t

/-- The block is healthy at reset. At reset every register field reads its reset value, the log and every queue are empty, and
global time is 0. -/
def Obligations.ResetState : Prop :=
  (Healthy State.reset) ∧
  ((∀ r : Ref, State.reset.get r = r.reset) ∧ State.reset.log = [] ∧ State.reset.pending = [] ∧ State.reset.now = 0 ∧
    (∀ f q, State.reset.queue f q = QueueSt.empty) ∧ (∀ f c n, State.reset.greg f c n = 0))

/-- A step takes at most the front command off the queue: it adds none, drops none and reorders none. No step undoes a fuse: the
key hashes, purposes, life cycle and unique value stay, no version floor falls and no revocation goes. -/
def Obligations.StepsKeepOrderAndFuses : Prop :=
  (∀ s t : State, step s = .next t → t.pending = s.pending.tail) ∧
  (∀ s t : State, step s = .next t → Burned s.fuses t.fuses)

/-! ## The instructions of the Frame cores (10) -/

/-- The instructions of Format R that a core fetches: FN selects each, and it writes to D what Table 10-4 says of A and B, and
goes on to the next instruction. The instructions with an immediate: sext(IMM) for ADDI, SLTI and SLTIU, zext(IMM) for ANDI, ORI
and XORI; SHI shifts by IMM[5:0]; INSH replaces 16 bits of D. -/
def Obligations.CoreArithmetic : Prop :=
  (∀ (s : State) (f : Fin 64) (c : Fin 4) (d a b : Fin 32),
    let x := s.greg f c a
    let y := s.greg f c b
    let n := y.toNat % 64
    let does (fn : Nat) (v : W64) (i : Instr) := Ready s f c (encR 1 d a b fn) → CoreResult s f c d v (exec i s)
    does 0 (x + y) (.add f c d a b) ∧
    does 1 (x - y) (.sub f c d a b) ∧
    does 2 (x &&& y) (.and f c d a b) ∧
    does 3 (x ||| y) (.or f c d a b) ∧
    does 4 (x ^^^ y) (.xor f c d a b) ∧
    does 5 (x <<< n) (.sll f c d a b) ∧
    does 6 (x >>> n) (.srl f c d a b) ∧
    does 7 (x.sshiftRight n) (.sra f c d a b) ∧
    does 8 (if x.toInt < y.toInt then 1 else 0) (.slt f c d a b) ∧
    does 9 (if x.toNat < y.toNat then 1 else 0) (.sltu f c d a b) ∧
    does 10 (if x.toInt ≤ y.toInt then x else y) (.min f c d a b) ∧
    does 11 (if x.toInt ≤ y.toInt then y else x) (.max f c d a b) ∧
    does 12 (if x.toNat ≤ y.toNat then x else y) (.minu f c d a b) ∧
    does 13 (if x.toNat ≤ y.toNat then y else x) (.maxu f c d a b)) ∧
  (∀ (s : State) (f : Fin 64) (c : Fin 4) (d a : Fin 32) (imm : BitVec 16) (amt : BitVec 6) (h : Fin 4),
    let x := s.greg f c a
    let y := imm.signExtend 64
    let z := imm.zeroExtend 64
    let does (maj r : Nat) (m : BitVec 16) (v : W64) (i : Instr) := Ready s f c (encI maj d r m) → CoreResult s f c d v (exec i s)
    let shi (kind : Nat) : BitVec 16 := BitVec.ofNat 16 (64 * kind + amt.toNat)
    does 0x02 a imm (x + y) (.addi f c d a imm) ∧
    does 0x03 a imm (x &&& z) (.andi f c d a imm) ∧
    does 0x04 a imm (x ||| z) (.ori f c d a imm) ∧
    does 0x05 a imm (x ^^^ z) (.xori f c d a imm) ∧
    does 0x06 a imm (if x.toInt < y.toInt then 1 else 0) (.slti f c d a imm) ∧
    does 0x07 a imm (if x.toNat < y.toNat then 1 else 0) (.sltiu f c d a imm) ∧
    does 0x08 a (shi 0) (x <<< amt.toNat) (.shi f c d a 0 amt) ∧
    does 0x08 a (shi 1) (x >>> amt.toNat) (.shi f c d a 1 amt) ∧
    does 0x08 a (shi 2) (x.sshiftRight amt.toNat) (.shi f c d a 2 amt) ∧
    ∃ v : W64, does 0x09 h imm v (.insh f c d h imm) ∧
      (∀ i : Nat, i < 64 → v.getLsbD i = (if 16 * h.val ≤ i ∧ i < 16 * h.val + 16 then imm.getLsbD (i - 16 * h.val)
        else (s.greg f c d).getLsbD i)))

/-- Products and quotients: MUL the low 64 bits, MULH and MULHU bits [127:64]; division truncates toward zero, and a zero divisor
gives all ones and the dividend. -/
def Obligations.ProductsAndQuotients : Prop :=
  ∀ (s : State) (f : Fin 64) (c : Fin 4) (d a b : Fin 32),
    let x := s.greg f c a
    let y := s.greg f c b
    let does (fn : Nat) (v : W64) (i : Instr) := Ready s f c (encR 1 d a b fn) → CoreResult s f c d v (exec i s)
    does 16 (BitVec.ofNat 64 (x.toNat * y.toNat)) (.mul f c d a b) ∧
    does 17 (BitVec.ofInt 64 ((x.toInt * y.toInt).fdiv (2 ^ 64))) (.mulh f c d a b) ∧
    does 18 (BitVec.ofNat 64 (x.toNat * y.toNat / 2 ^ 64)) (.mulhu f c d a b) ∧
    does 19 (if y = 0 then BitVec.allOnes 64 else x.sdiv y) (.div f c d a b) ∧
    does 20 (if y = 0 then BitVec.allOnes 64 else x.udiv y) (.divu f c d a b) ∧
    does 21 (if y = 0 then x else x.srem y) (.rem f c d a b) ∧
    does 22 (if y = 0 then x else x.umod y) (.remu f c d a b)

/-- The loads: D holds the bytes at A + sext(IMM), extended as the mnemonic says, from the data SRAM or the Frame memory. The
stores: the low bytes of B at A + sext(IMM), little-endian, and no other byte of any memory. A load or store that is misaligned,
or elsewhere than Table 10-1, halts its core; so does a fetch at a PC that is no multiple of 4, or at or beyond the limit of
segment 0. -/
def Obligations.CoreAddresses : Prop :=
  (∀ (s : State) (f : Fin 64) (c : Fin 4) (d a : Fin 32) (imm : BitVec 16),
    let does (maj n : Nat) (ext : Nat → W64) (i : Instr) := Ready s f c (encI maj d a imm) →
      LoadResult s f c d (coreAddr s f c a imm) n ext (exec i s)
    does 0x10 1 (fun v => (BitVec.ofNat 8 v).signExtend 64) (.lb f c d a imm .ok) ∧
    does 0x11 1 (fun v => BitVec.ofNat 64 v) (.lbu f c d a imm .ok) ∧
    does 0x12 2 (fun v => (BitVec.ofNat 16 v).signExtend 64) (.lh f c d a imm .ok) ∧
    does 0x13 2 (fun v => BitVec.ofNat 64 v) (.lhu f c d a imm .ok) ∧
    does 0x14 4 (fun v => (BitVec.ofNat 32 v).signExtend 64) (.lw f c d a imm .ok) ∧
    does 0x15 4 (fun v => BitVec.ofNat 64 v) (.lwu f c d a imm .ok) ∧
    does 0x16 8 (fun v => BitVec.ofNat 64 v) (.ld f c d a imm .ok)) ∧
  (∀ (s : State) (f : Fin 64) (c : Fin 4) (b a : Fin 32) (imm : BitVec 16),
    let does (maj n : Nat) (i : Instr) := Ready s f c (encI maj b a imm) →
      StoreResult s f c (coreAddr s f c a imm) n (s.greg f c b) (exec i s)
    does 0x18 1 (.sb f c b a imm) ∧ does 0x19 2 (.sh f c b a imm) ∧ does 0x1A 4 (.sw f c b a imm) ∧ does 0x1B 8 (.sd f c b a imm)) ∧
  (∀ (s : State) (f : Fin 64) (c : Fin 4) (d a : Fin 32) (imm : BitVec 16) (ecc : Ecc),
    (let x := coreAddr s f c a imm
     let bad (maj n : Nat) (i : Instr) := Ready s f c (encI maj d a imm) → ¬ inSram x n → ¬ inFmem x n → CoreFaults s f c 1 x (exec i s)
     bad 0x10 1 (.lb f c d a imm ecc) ∧ bad 0x11 1 (.lbu f c d a imm ecc) ∧ bad 0x12 2 (.lh f c d a imm ecc) ∧
     bad 0x13 2 (.lhu f c d a imm ecc) ∧ bad 0x14 4 (.lw f c d a imm ecc) ∧ bad 0x15 4 (.lwu f c d a imm ecc) ∧
     bad 0x16 8 (.ld f c d a imm ecc) ∧ bad 0x18 1 (.sb f c d a imm) ∧ bad 0x19 2 (.sh f c d a imm) ∧
     bad 0x1A 4 (.sw f c d a imm) ∧ bad 0x1B 8 (.sd f c d a imm)) ∧
    (s.cState f c = 1 → s.get (Reg.FRM_PWRCTL_GATED f) = 0 → (s.core f c).kread = none → frameStill s f = false →
      (s.pc f c % 4 ≠ 0 ∨ s.get (Reg.FRM_SEGs_LIM_LIMIT f 0) ≤ s.pc f c) →
        CoreFaults s f c 1 (s.pc f c) (exec (.addi f c d a imm) s) ∧ CoreFaults s f c 1 (s.pc f c) (exec (.halt f c) s)))

/-- A branch goes to PC + 4 × sext(IMM) where its comparison of A and B holds, and to the next instruction otherwise. J and JAL go
to PC + 4 × sext(OFS), JALR to A + sext(IMM), read before D is written; JAL puts PC + 4 into g31, JALR into D. A JALR target that
is no multiple of 4 halts the core. -/
def Obligations.BranchesAndJumps : Prop :=
  (∀ (s : State) (f : Fin 64) (c : Fin 4) (b a : Fin 32) (imm : BitVec 16),
    let x := s.greg f c a
    let y := s.greg f c b
    let t := branchTarget s f c (imm.signExtend 64)
    let n := (s.pc f c + 4) % 2 ^ 64
    let goes (maj target : Nat) (i : Instr) := Ready s f c (encI maj b a imm) → CoreGoes s f c target (exec i s)
    goes 0x20 (if x = y then t else n) (.beq f c b a imm) ∧
    goes 0x21 (if x = y then n else t) (.bne f c b a imm) ∧
    goes 0x22 (if x.toInt < y.toInt then t else n) (.blt f c b a imm) ∧
    goes 0x23 (if x.toInt < y.toInt then n else t) (.bge f c b a imm) ∧
    goes 0x24 (if x.toNat < y.toNat then t else n) (.bltu f c b a imm) ∧
    goes 0x25 (if x.toNat < y.toNat then n else t) (.bgeu f c b a imm)) ∧
  (∀ (s : State) (f : Fin 64) (c : Fin 4) (d a : Fin 32) (imm : BitVec 16) (ofs : BitVec 26),
    (Ready s f c (encJ 0x28 ofs) → CoreGoes s f c (branchTarget s f c (ofs.signExtend 64)) (exec (.j f c ofs) s)) ∧
    (Ready s f c (encJ 0x29 ofs) → ∃ t, exec (.jal f c ofs) s = .next t ∧ t.pc f c = branchTarget s f c (ofs.signExtend 64) ∧
      t.greg f c 31 = BitVec.ofNat 64 (s.pc f c + 4) ∧ SameGregs s t f c 31 ∧ SameRegs s t [pcKey f c] ∧ SameCores s t ∧
      t = { s with regs := t.regs, cores := t.cores }) ∧
    (Ready s f c (encI 0x2A d a imm) →
      (coreAddr s f c a imm % 4 = 0 → ∃ t, exec (.jalr f c d a imm) s = .next t ∧ t.pc f c = coreAddr s f c a imm ∧
        t.greg f c d = (if d.val = 0 then 0 else BitVec.ofNat 64 (s.pc f c + 4)) ∧ SameGregs s t f c d ∧
        SameRegs s t [pcKey f c] ∧ SameCores s t ∧ t = { s with regs := t.regs, cores := t.cores }) ∧
      (coreAddr s f c a imm % 4 ≠ 0 → CoreFaults s f c 1 (coreAddr s f c a imm) (exec (.jalr f c d a imm) s))))

/-- QPUSH puts the command word (B : A) at the end of a queue of the core's task that holds fewer than 64, and counts it in
ISSUED. QPUSH, QWAIT and QCANCEL of a queue that is not the core's task's halt the core, and so does QPUSH to a queue that holds
64 words. -/
def Obligations.QueuePushes : Prop :=
  (∀ (s : State) (f : Fin 64) (c : Fin 4) (q : Fin 27) (a b : Fin 32), Ready s f c (encR 0x30 q a b 0) →
    s.qTask f q ≠ 0 → s.qTask f q = s.cTask f c →
    s.get (Reg.FRM_Qq_ISSUED_COUNT f q) < s.get (Reg.FRM_Qq_DONE_COUNT f q) + 64 →
    ∃ t, exec (.qpush f c q a b) s = .next t ∧
      t.queue f q = { s.queue f q with words := (s.queue f q).words ++ [(s.greg f c a).toNat + 2 ^ 64 * (s.greg f c b).toNat] } ∧
      (∀ (f' : Fin 64) (q' : Fin 27), (f', q') ≠ (f, q) → t.queue f' q' = s.queue f' q') ∧
      Sets s t [(Reg.FRM_Qq_ISSUED_COUNT f q, (s.get (Reg.FRM_Qq_ISSUED_COUNT f q) + 1) % 2 ^ 64),
        (Reg.FRM_COREc_PC_PC f c, (s.pc f c + 4) % 2 ^ 64)] ∧
      (∀ (f' : Fin 64) (n : Fin 9), f' ≠ f → t.spin f' n = s.spin f' n) ∧
      t = { s with regs := t.regs, queues := t.queues, spins := t.spins, active := t.active, wakes := t.wakes, ready := t.ready,
                   msix := t.msix, msixPend := t.msixPend }) ∧
  (∀ (s : State) (f : Fin 64) (c : Fin 4) (q : Fin 27) (j : Fin 16) (a b : Fin 32),
    let push := Ready s f c (encR 0x30 q a b 0)
    ((s.qTask f q = 0 ∨ s.qTask f q ≠ s.cTask f c) →
      (push → CoreFaults s f c 3 q (exec (.qpush f c q a b) s)) ∧
      (Ready s f c (encR 0x31 q a 0 0) → CoreFaults s f c 3 q (exec (.qwait f c q a) s))) ∧
    ((s.qTask f (9 + j) = 0 ∨ s.qTask f (9 + j) ≠ s.cTask f c) → Ready s f c (encR 0x32 j 0 0 0) →
      CoreFaults s f c 3 (9 + j) (exec (.qcancel f c j) s)) ∧
    (s.qTask f q ≠ 0 → s.qTask f q = s.cTask f c →
      s.get (Reg.FRM_Qq_DONE_COUNT f q) + 64 ≤ s.get (Reg.FRM_Qq_ISSUED_COUNT f q) → push →
      CoreFaults s f c 2 q (exec (.qpush f c q a b) s)))

/-- QWAIT of an own queue retires at once where its DONE count is at least A, and otherwise the core waits in STATE 2; KWAIT
likewise for Knot A and the threshold B[31:0], in STATE 3. A core that waits in a Frame that is neither gated nor still runs on at
the next instruction once its condition holds: DONE of its queue, its Knot, or a wake or an event that is deliverable or has been.
A KWAIT or QWAIT whose condition does not hold and that has lasted FRM_KWAIT_TO, held to 1 to 60,000,000 µs, outside a frequency
stop, halts its core; the first is noted in FRM_KSTAT. -/
def Obligations.CoreWaits : Prop :=
  (∀ (s : State) (f : Fin 64) (c : Fin 4) (q : Fin 27) (a b : Fin 32),
    let waits (st on th : Nat) (o : Host.Outcome State Fault Refusal) := ∃ t, o = .next t ∧
      Sets s t [(Reg.FRM_COREc_STATE_STATE f c, st)] ∧
      t.core f c = { s.core f c with waitOn := on, thresh := th, since := s.timeOf f } ∧
      (∀ (f' : Fin 64) (c' : Fin 4), (f', c') ≠ (f, c) → t.core f' c' = s.core f' c') ∧
      t = { s with regs := t.regs, cores := t.cores }
    let n := (s.pc f c + 4) % 2 ^ 64
    let k := (s.greg f c a).toNat
    let th := (s.greg f c b).toNat % 2 ^ 32
    (Ready s f c (encR 0x31 q a 0 0) → s.qTask f q ≠ 0 → s.qTask f q = s.cTask f c →
      (k ≤ s.get (Reg.FRM_Qq_DONE_COUNT f q) → CoreGoes s f c n (exec (.qwait f c q a) s)) ∧
      (s.get (Reg.FRM_Qq_DONE_COUNT f q) < k → waits 2 q k (exec (.qwait f c q a) s))) ∧
    (Ready s f c (encR 0x35 0 a b 0) →
      (k < 16384 →
        (th ≤ s.knot (k / 256) (k % 256) → CoreGoes s f c n (exec (.kwait f c a b) s)) ∧
        (s.knot (k / 256) (k % 256) < th → waits 3 k th (exec (.kwait f c a b) s))) ∧
      (16384 ≤ k → CoreFaults s f c 7 k (exec (.kwait f c a b) s)))) ∧
  (∀ (s : State) (f : Fin 64) (c : Fin 4), s.get (Reg.FRM_PWRCTL_GATED f) = 0 → frameStill s f = false →
    let l := [(Reg.FRM_COREc_STATE_STATE f c, 1), (Reg.FRM_COREc_PC_PC f c, (s.pc f c + 4) % 2 ^ 64)]
    let x := s.core f c
    (s.cState f c = 2 → x.thresh ≤ s.get (Reg.FRM_Qq_DONE_COUNT f x.waitOn) → RegEffect s l (exec (.qwaitRelease f c) s)) ∧
    (s.cState f c = 3 → x.thresh ≤ s.knot (x.waitOn / 256) (x.waitOn % 256) → RegEffect s l (exec (.kwaitRelease f c) s)) ∧
    (s.cState f c = 4 → x.wake = true ∨ sget false s.wakes (4 * f + c) = true ∨ deliverables s (4 * f + c) ≠ [] →
      ∃ t, exec (.sleepWake f c) s = .next t ∧ Sets s t l ∧ t.core f c = { x with wake := false } ∧
        (∀ (f' : Fin 64) (c' : Fin 4), (f', c') ≠ (f, c) → t.core f' c' = s.core f' c') ∧
        t = { s with regs := t.regs, cores := t.cores, wakes := sput false s.wakes (4 * f + c) false })) ∧
  (∀ (s : State) (f : Fin 64) (c : Fin 4),
    let x := s.core f c
    ((s.cState f c = 2 ∧ s.get (Reg.FRM_Qq_DONE_COUNT f x.waitOn) < x.thresh) ∨
      (s.cState f c = 3 ∧ s.knot (x.waitOn / 256) (x.waitOn % 256) < x.thresh)) → freqStopped s = false →
    x.since + max 1 (min 60000000 (s.get (Reg.FRM_KWAIT_TO_TIMEOUT f))) * 1024 ≤ s.timeOf f →
    ∃ u : State, CoreFaults u f c 6 0 (exec (.waitTimeout f c) s) ∧ u.get (Reg.FRM_KSTAT_TMO f) = 1 ∧
      u.get (Reg.FRM_KSTAT_CORE f) = (if s.get (Reg.FRM_KSTAT_TMO f) = 1 then s.get (Reg.FRM_KSTAT_CORE f) else c) ∧
      SameRegs s u [(Reg.FRM_KSTAT_TMO f).key, (Reg.FRM_KSTAT_CORE f).key] ∧ u = { s with regs := u.regs })

/-- SLEEP retires at once, its wake used up, where one is pending, and otherwise the core sleeps in STATE 4; HALT halts it; a WAKE
marks each sleeping core of the Frame and no other. PHASE posts the tag, its hint and the core; an idle Frame's clocks are gated,
and a release condition restarts them. -/
def Obligations.SleepsAndGates : Prop :=
  (∀ (s : State) (f : Fin 64) (c : Fin 4),
    (Ready s f c (encR 0x38 0 0 0 0) →
      ((s.core f c).wake = false → deliverables s (4 * f + c) = [] →
        RegEffect s [(Reg.FRM_COREc_STATE_STATE f c, 4)] (exec (.sleep f c) s)) ∧
      ((s.core f c).wake = true ∨ deliverables s (4 * f + c) ≠ [] →
        ∃ t, exec (.sleep f c) s = .next t ∧ Sets s t [(Reg.FRM_COREc_PC_PC f c, (s.pc f c + 4) % 2 ^ 64)] ∧
          t.core f c = { s.core f c with wake := false })) ∧
    (Ready s f c (encR 0x39 0 0 0 0) →
      RegEffect s [(Reg.FRM_COREc_STATE_STATE f c, 0), (Reg.FRM_COREc_PC_PC f c, (s.pc f c + 4) % 2 ^ 64)] (exec (.halt f c) s)) ∧
    (agentOpen s .studio (0x1000000 + 0x10000 * f) = true → frameStill s f = false → s.ctlIn = [] → ∃ t, exec (.wake f) s = .next t ∧
      (∀ (f' : Fin 64) (c' : Fin 4), t.core f' c' =
        if f' = f ∧ s.cState f' c' = 4 then { s.core f' c' with wake := true } else s.core f' c') ∧
      t = { s with cores := t.cores })) ∧
  (∀ (s : State) (f : Fin 64) (c : Fin 4) (tag : BitVec 8) (hint : Bool),
    let h := if hint then 1 else 0
    (Ready s f c (encI 0x3A 0 0 (BitVec.ofNat 16 (tag.toNat + 256 * h))) → ∃ t, exec (.phase f c tag hint) s = .next t ∧
      Sets s t [(Reg.FRM_PHASE_ID f, tag.toNat), (Reg.FRM_PHASE_HINT f, h), (Reg.FRM_PHASE_CORE f, c),
        (Reg.FRM_COREc_PC_PC f c, (s.pc f c + 4) % 2 ^ 64)] ∧
      t = { s with regs := t.regs, phaseT := t.phaseT }) ∧
    (s.get (Reg.FRM_PWRCTL_GATE_EN f) = 1 → s.get (Reg.FRM_PWRCTL_GATED f) = 0 →
      (∀ c' : Fin 4, s.cState f c' ≠ 1 ∧ coreReleases s f c' = false) → frameIdle s f = true →
      RegEffect s [(Reg.FRM_PWRCTL_GATED f, 1)] (exec (.frameGate f) s)) ∧
    (s.get (Reg.FRM_PWRCTL_GATED f) = 1 → (∃ c' : Fin 4, coreReleases s f c' = true) →
      RegEffect s [(Reg.FRM_PWRCTL_GATED f, 0)] (exec (.frameUngate f) s)))

/-- KADD of an own Knot adds B[31:0], signed, where the sum is in range; KSET sets an own Knot; KREAD reads an own Knot; a host or
Studio write acts as KSET. KADD for another Frame sends a Knot add into the local buffer of the router where nothing waits for it
and it holds fewer than 8 packets, and goes on; KREAD of another Frame sends a request there and waits for the answer; a negative
delta for another Frame, a Knot of another Frame in KSET, and a number of 16,384 or more halt the core. -/
def Obligations.CoreKnots : Prop :=
  (∀ (s : State) (f : Fin 64) (c : Fin 4) (d a b : Fin 32) (k : Fin 256) (v : BitVec 32),
    let n := (s.greg f c a).toNat
    let pcOn := (Reg.FRM_COREc_PC_PC f c, (s.pc f c + 4) % 2 ^ 64)
    (n / 256 = f →
      let x := (s.knot f (n % 256) : Int) + (BitVec.ofNat 32 (s.greg f c b).toNat).toInt
      (Ready s f c (encR 0x33 0 a b 0) → 0 ≤ x → x < 2 ^ 32 →
        RegEffect s [(Reg.FRM_KNOTk_VALUE f (n % 256), x.toNat), pcOn] (exec (.kadd f c a b) s)) ∧
      (Ready s f c (encR 0x34 0 a b 0) →
        RegEffect s [(Reg.FRM_KNOTk_VALUE f (n % 256), (s.greg f c b).toNat % 2 ^ 32), pcOn] (exec (.kset f c a b) s)) ∧
      (Ready s f c (encR 0x36 d a 0 0) → CoreResult s f c d (BitVec.ofNat 64 (s.knot f (n % 256))) (exec (.kread f c d a) s))) ∧
    (agentOpen s .studio (0x1000000 + 0x10000 * f) = true → frameStill s f = false → s.ctlIn = [] →
      RegEffect s [(Reg.FRM_KNOTk_VALUE f k, v.toNat)] (exec (.knotWrite f k v) s))) ∧
  (∀ (s : State) (f : Fin 64) (c : Fin 4) (d a b : Fin 32),
    let n := (s.greg f c a).toNat
    let x := (BitVec.ofNat 32 (s.greg f c b).toNat).toInt
    let add := Ready s f c (encR 0x33 0 a b 0)
    let read := Ready s f c (encR 0x36 d a 0 0)
    let sends (t : State) (op : MeshOp) (who : MeshWho) :=
      t.meshQ f 0 0 = s.meshQ f 0 0 ++ [⟨[.frame (n / 256)], op, who, s.cTask f c, false, s.now⟩] ∧
      (∀ i : Nat, i ≠ 18 * f.val → sget [] t.mesh i = sget [] s.mesh i) ∧ (∀ i, sget [] t.meshOut i = sget [] s.meshOut i)
    (n < 16384 → n / 256 ≠ f → (s.meshQ f 0 0).length < 8 → sget [] s.meshOut (3 * f) = [] →
      (add → 0 ≤ x → ∃ t, exec (.kadd f c a b) s = .next t ∧ sends t (.kadd n x.toNat) .none ∧
        Sets s t [(Reg.FRM_COREc_PC_PC f c, (s.pc f c + 4) % 2 ^ 64)] ∧
        t = { s with regs := t.regs, mesh := t.mesh, meshOut := t.meshOut, active := t.active, wakes := t.wakes, ready := t.ready,
                     msix := t.msix, msixPend := t.msixPend }) ∧
      (read → ∃ t, exec (.kread f c d a) s = .next t ∧ sends t (.kread n) (.core f c) ∧ t.core f c = { s.core f c with kread := some d } ∧
        t = { s with cores := t.cores, mesh := t.mesh, meshOut := t.meshOut })) ∧
    (add → (16384 ≤ n ∨ (n / 256 ≠ f ∧ x < 0)) → CoreFaults s f c 7 n (exec (.kadd f c a b) s)) ∧
    (Ready s f c (encR 0x34 0 a b 0) → (16384 ≤ n ∨ n / 256 ≠ f) → CoreFaults s f c 7 n (exec (.kset f c a b) s)) ∧
    (read → 16384 ≤ n → CoreFaults s f c 7 n (exec (.kread f c d a) s)))

/-- SYSRD reads what Table 10-5 says; an undefined selector halts the core. A fill brings the 256-byte line of sb0 + PC into the
core's instruction cache where it is not there, LPDDR does not hold it back, and it can be read. -/
def Obligations.SystemValues : Prop :=
  (∀ (s : State) (f : Fin 64) (c : Fin 4) (d : Fin 32) (n : Fin 16),
    let word (sel : Fin 32) := Ready s f c (encI 0x3B d 0 (BitVec.ofNat 16 sel))
    let reads (sel : Fin 32) (v : W64) := word sel → CoreResult s f c d v (exec (.sysrd f c d sel) s)
    reads 0 (BitVec.ofNat 64 c) ∧ reads 1 (BitVec.ofNat 64 f) ∧ reads 2 (BitVec.ofNat 64 s.myId) ∧ reads 3 (BitVec.ofNat 64 s.job.rank) ∧
    reads 4 (BitVec.ofNat 64 (s.get Reg.PLY_STEP_STEP)) ∧ reads 5 (BitVec.ofNat 64 (s.cTask f c)) ∧
    reads 6 (BitVec.ofNat 64 (s.timeOf f)) ∧ reads 7 (BitVec.ofNat 64 (s.get (Reg.FRM_CYCLES_COUNT f))) ∧
    reads 9 (BitVec.ofNat 64 s.job.nmod) ∧ reads (Fin.natAdd 16 n) (sget 0 (s.core f c).sb n.val) ∧
    ∀ sel : Fin 32, 10 ≤ sel.val → sel.val < 16 → word sel → CoreFaults s f c 1 (s.pc f c) (exec (.sysrd f c d sel) s)) ∧
  (∀ (s : State) (f : Fin 64) (c : Fin 4), Running s f c →
    let a := fetchAddr s f c / 256 * 256
    (∀ l ∈ (s.core f c).icache, l.1 ≠ a) → memHeld s a 256 false = false → (devRead s a 256).err = none →
    ∃ t, exec (.icacheFill f c .ok) s = .next t ∧ (t.core f c).icache.head? = some (a, (devRead s a 256).data) ∧
      t.pc f c = s.pc f c)

/-- SYSRD selector 8 claims the deliverable source of the highest PRIO (of those, the lowest number) for the core, or reads all
ones where there is none; EVDONE completes a source the core has claimed and counts any other as spurious. A 32-bit read of
INT_HOST_CLAIM claims the deliverable host source of the highest PRIO (of those, the lowest number) or reads all ones, and
INT_HOST_DONE completes a claimed source and counts any other as spurious; MSIX_EN from 0 to 1, and an unmask with a pending
message, send the message that BAR4 holds to the vectors of deliverable sources. BAR4's double words take the host's writes (their
places are the model's, assumption 34). -/
def Obligations.EventsAreClaimed : Prop :=
  (∀ (s : State) (f : Fin 64) (c : Fin 4) (d a : Fin 32), scanon 0 s.regs = true →
    let pcOn := (Reg.FRM_COREc_PC_PC f c, (s.pc f c + 4) % 2 ^ 64)
    (Ready s f c (encI 0x3B d 0 8) →
      (deliverables s (4 * f + c) = [] → ∃ t, exec (.sysrdClaim f c d) s = .next t ∧
        t.greg f c d = (if d.val = 0 then 0 else BitVec.allOnes 64) ∧ Sets s t [pcOn] ∧
        t.active.map (fun x => (x.src, x.target)) = s.active.map (fun x => (x.src, x.target))) ∧
      (∀ x ∈ deliverables s (4 * f + c),
        (∀ y ∈ deliverables s (4 * f + c), srcPrio s y < srcPrio s x ∨ (srcPrio s y = srcPrio s x ∧ x ≤ y)) →
        ∃ t, exec (.sysrdClaim f c d) s = .next t ∧
          t.greg f c d = (if d.val = 0 then 0 else BitVec.ofNat 64 x) ∧ Sets s t [pcOn] ∧
          t.active.map (fun x => (x.src, x.target)) = s.active.map (fun x => (x.src, x.target)) ++ [(x, 4 * f.val + c.val)])) ∧
    let x := (s.greg f c a).toNat % 1024
    (Ready s f c (encR 0x3C 0 a 0 0) →
      ((∃ e ∈ s.active, e.src = x ∧ e.target = 4 * f.val + c.val) → ∃ t, exec (.evdone f c a) s = .next t ∧
        t.pc f c = (s.pc f c + 4) % 2 ^ 64 ∧
        t.active.map (fun x => (x.src, x.target)) = (s.active.filter (fun e => e.src ≠ x)).map (fun x => (x.src, x.target))) ∧
      ((∀ e ∈ s.active, ¬ (e.src = x ∧ e.target = 4 * f.val + c.val)) → ∃ t, exec (.evdone f c a) s = .next t ∧
        Sets s t [(Reg.INT_SPURIOUS_DONE_COUNT, min (s.get Reg.INT_SPURIOUS_DONE_COUNT + 1) (2 ^ 32 - 1)), pcOn] ∧
        OnlyRegs s t ∧
        t.active.map (fun x => (x.src, x.target)) = s.active.map (fun x => (x.src, x.target))))) ∧
  (∀ s : State, scanon 0 s.regs = true →
    let pairs (t : State) := t.active.map (fun x => (x.src, x.target))
    (hostOpen s 0x203000 = true →
      (deliverables s 258 = [] → Answers (.hostClaim 32) s (fun t => t.hostRead = toLE 4 0xFFFFFFFF ∧ pairs t = pairs s ∧ SameRegs s t [])) ∧
      (∀ x ∈ deliverables s 258, (∀ y ∈ deliverables s 258, srcPrio s y < srcPrio s x ∨ (srcPrio s y = srcPrio s x ∧ x ≤ y)) →
        Answers (.hostClaim 32) s (fun t => t.hostRead = toLE 4 x ∧ pairs t = pairs s ++ [(x, 258)] ∧ SameRegs s t [])) ∧
      (∀ v : Fin 64, sget false s.msixPend v = true → s.get Reg.INT_HOSTCFG_MSIX_EN = 1 →
        (∃ x ∈ deliverables s 258, s.get (Reg.INT_SRCs_CFG_VEC x) = v) →
        Answers (.msixUnmask v) s (fun t => ⟨v.val, sget 0 s.msixAddr v, sget 0 s.msixData v⟩ ∈ t.msix ∧ sget true t.msixMask v = false ∧ SameRegs s t []))) ∧
    (hostOpen s 0x203004 = true → ∀ v : BitVec 32,
      let x := v.toNat % 1024
      ((∃ a ∈ s.active, a.src = x ∧ a.target = 258) → Answers (.hostDone v) s (fun t =>
        pairs t = (s.active.filter (fun a => a.src ≠ x)).map (fun a => (a.src, a.target)))) ∧
      ((∀ a ∈ s.active, ¬ (a.src = x ∧ a.target = 258)) → Answers (.hostDone v) s (fun t => pairs t = pairs s ∧ OnlyRegs s t ∧
        Sets s t [(Reg.INT_SPURIOUS_DONE_COUNT, min (s.get Reg.INT_SPURIOUS_DONE_COUNT + 1) (2 ^ 32 - 1))]))) ∧
    (hostOpen s 0x20300C = true → s.get Reg.INT_HOSTCFG_MSIX_EN = 0 → Answers .msixEn s (fun t => Sets s t [(Reg.INT_HOSTCFG_MSIX_EN, 1)] ∧
      ∀ x ∈ deliverables s 258, let v := s.get (Reg.INT_SRCs_CFG_VEC x)
        (sget true s.msixMask v = false → ⟨v, sget 0 s.msixAddr v, sget 0 s.msixData v⟩ ∈ t.msix) ∧ (sget true s.msixMask v = true → sget false t.msixPend v = true))) ∧
    (hostOpen s 0x4000000 = true → ∀ (n : Fin 64) (x : BitVec 32),
      let a := sget 0 s.msixAddr n
      let others (t : State) := SameRegs s t [] ∧ ∀ m : Fin 64, m ≠ n → sget 0 t.msixAddr m = sget 0 s.msixAddr m ∧
        sget 0 t.msixData m = sget 0 s.msixData m ∧ sget true t.msixMask m = sget true s.msixMask m
      Answers (.registerWrite .host (0x4000000 + 16 * n) 32 x.toNat) s (fun t => sget 0 t.msixAddr n = a / 2 ^ 32 * 2 ^ 32 + x.toNat / 4 * 4 ∧ others t) ∧
      Answers (.registerWrite .host (0x4000000 + 16 * n + 4) 32 x.toNat) s (fun t => sget 0 t.msixAddr n = x.toNat * 2 ^ 32 + a % 2 ^ 32 ∧ others t) ∧
      Answers (.registerWrite .host (0x4000000 + 16 * n + 8) 32 x.toNat) s (fun t => sget 0 t.msixData n = x.toNat ∧ others t) ∧
      Answers (.registerWrite .host (0x4000000 + 16 * n + 12) 32 x.toNat) s (fun t => sget true t.msixMask n = (x.toNat % 2 = 1) ∧ others t)))

/-- A word that is no instruction ends the core's task: the core's STATE is 5, every core of the task is halted or faulted, the
task's abort is under way, and the log holds the record with the PC. A word with a reserved code or bit, at the head of a Spindle,
Brush or Easel queue of a task of the loaded job, ends the task: the queue is emptied, the abort is under way, and the log holds
the decode rejection. -/
def Obligations.IllWordsEndTasks : Prop :=
  (∀ (s : State) (f : Fin 64) (c : Fin 4) (w : BitVec 32), Ready s f c w.toNat → encodingOk w.toNat = false →
    s.cTask f c ≠ 0 → s.job.loaded = true → (∀ a ∈ s.aborts, a.task ≠ s.cTask f c) →
    ∃ t, exec (.undefinedEncoding f c w) s = .next t ∧ t.cState f c = 5 ∧
      (∀ (f' : Fin 64) (c' : Fin 4), s.cTask f' c' = s.cTask f c → t.cState f' c' = 0 ∨ t.cState f' c' = 5) ∧
      (∃ a ∈ t.aborts, a.task = s.cTask f c ∧ a.seq = s.nextSeq) ∧
      ∃ r ∈ t.log, r.seq = s.nextSeq ∧ r.sev = 1 ∧ r.unit = 4 ∧ r.cause = 1 ∧ r.index = 4 * f.val + c.val ∧
        r.task = s.cTask f c ∧ r.addr = s.pc f c) ∧
  (∀ (s : State) (f : Fin 64) (w : Nat) (rest : List Nat), frameStill s f = false →
    let ends (q : Fin 27) (unit : Nat) (o : Host.Outcome State Fault Refusal) := ∃ t, o = .next t ∧
      (t.queue f q).words = [] ∧ (∃ a ∈ t.aborts, a.task = s.qTask f q) ∧
      ∃ r ∈ t.log, r.seq = s.nextSeq ∧ r.sev = 1 ∧ r.unit = unit ∧ r.cause = 3 ∧ r.task = s.qTask f q
    let owned (q : Fin 27) := (s.queue f q).words = w :: rest ∧ s.qTask f q ≠ 0 ∧ (∀ a ∈ s.aborts, a.task ≠ s.qTask f q)
    s.job.loaded = true →
    (∀ q : Fin 9, owned (q.castLE (by decide)) → spindleWordOk w = false →
      ends (q.castLE (by decide)) 1 (exec (.sload f q) s) ∧ ends (q.castLE (by decide)) 1 (exec (.spass f q .ok) s) ∧
      ends (q.castLE (by decide)) 1 (exec (.sgang f q) s)) ∧
    (owned 25 → brushWordOk w = false → ends 25 5 (exec (.bop f .ok) s) ∧ ends 25 5 (exec (.bcvt f .ok) s)) ∧
    (owned 26 → easelOk w = false → ends 26 5 (exec (.efwd f .ok) s) ∧ ends 26 5 (exec (.estat f .ok) s)))

/-! ## Spindles (03) -/

/-- SGANG with SIZE 1 or 2 makes a gang of 2 or 4 presented slots that belong to none, the first its leader, and SIZE 0 dissolves
the gang whose leader it addresses. SWCLR sets its pairs of the leader's wide buffer to (0, 0) and no other; where a frozen tile
is resident it clears none, and each member with one counts it. -/
def Obligations.GangsAndClears : Prop :=
  (∀ (s : State) (f : Fin 64) (q : Fin 9) (w : Nat) (u : SpinUnit), frameStill s f = false → spinDecode s f q 0x16 = .go w u →
    (sgSize w = 1 ∨ sgSize w = 2 → wGang w = false → q % 2 ^ sgSize w = 0 →
      (∀ i, i < 2 ^ sgSize w → freeSlot s f (q + i) = true) →
      ∃ t, exec (.sgang f q) s = .next t ∧ WordExecuted s t f (q.castLE (by decide)) ∧
        ∀ i, i < 2 ^ sgSize w →
          t.get (Reg.FRM_SPDn_SHAPE_GANG_SIZE f (physIdx s f (q + i))) = sgSize w ∧
          t.get (Reg.FRM_SPDn_SHAPE_GANG_DEEP f (physIdx s f (q + i))) = sgDeep w ∧
          t.get (Reg.FRM_SPDn_SHAPE_GANG_LEADER f (physIdx s f (q + i))) = (if i = 0 then 1 else 0)) ∧
    (sgSize w = 0 → wGang w = true → (s.queue f q).ran = [] → (s.spin f u.leader).open_ = [] →
      ∃ t, exec (.sgang f q) s = .next t ∧ WordExecuted s t f (q.castLE (by decide)) ∧
        ∀ i, i < u.size → t.get (Reg.FRM_SPDn_SHAPE_GANG_SIZE f (physIdx s f (q + i))) = 0)) ∧
  (∀ (s : State) (f : Fin 64) (q : Fin 9) (w : Nat) (u : SpinUnit), frameStill s f = false → spinDecode s f q 0x15 = .go w u →
    8192 * swWbOfs w + swEnt w ≤ 262144 →
    ∃ t, exec (.swclr f q) s = .next t ∧ WordExecuted s t f (q.castLE (by decide)) ∧
      (frozenUnit s f u = false → SameRegs s t [] ∧
        ∀ a, sget Pair.init (t.spin f u.leader).wb a =
          if 8192 * swWbOfs w ≤ a ∧ a < 8192 * swWbOfs w + swEnt w then Pair.init else sget Pair.init (s.spin f u.leader).wb a) ∧
      (frozenUnit s f u = true → ∀ m : Fin 9,
        (t.spin f m).wb = (s.spin f m).wb ∧
        (u.ms.count m.val = 1 → frozenAt s f m = true → t.get (Reg.FRM_SPDn_FROZENSKIP_COUNT f m) =
          min (s.get (Reg.FRM_SPDn_FROZENSKIP_COUNT f m) + 1) (2 ^ 32 - 1))))

/-- The drains hand their values over in entry order: SDRAIN those of its output block with their retry count, SAT flag and tensor
factor, SWDRAIN those of its wide-buffer pairs, each RNE(s + c), to the Brush, the Easel or a Shuttle queue; CLEAR then zeroes
what was drained. -/
def Obligations.DrainsHandOver : Prop :=
  ∀ (s : State) (f : Fin 64) (q : Fin 9) (w : Nat) (u : SpinUnit), frameStill s f = false →
    (spinDecode s f q 0x14 = .go w u → sdDest w = 0 ∨ sdDest w = 2 → 8192 * swWbOfs w + swEnt w ≤ 262144 → frozenUnit s f u = false →
      let es := (sgetList Pair.init (s.spin f u.leader).wb (8192 * swWbOfs w) (swEnt w)).map (fun p => EElem.word p.val)
      ∃ t, exec (.swdrain f q .ok) s = .next t ∧ WordExecuted s t f (q.castLE (by decide)) ∧ SameRegs s t [] ∧
        (sdDest w = 0 → sget [] t.brushIn f = sget [] s.brushIn f ++ es) ∧
        (sdDest w = 2 → (t.sh f (sdDestQ w)).fromEng = (s.sh f (sdDestQ w)).fromEng ++ es) ∧
        ∀ a, sget Pair.init (t.spin f u.leader).wb a =
          if sdClear w = true ∧ 8192 * swWbOfs w ≤ a ∧ a < 8192 * swWbOfs w + swEnt w then Pair.init
          else sget Pair.init (s.spin f u.leader).wb a) ∧
    ∀ b : BlockRec, spinDecode s f q 0x13 = .go w u → blockAt s f u (spAcc w) = some b → sdDest w ≠ 3 →
      let es := (drainVals s f u (spAcc w) b).map (fun v => (⟨v, b.isInt, b.n, b.sat, b.fac⟩ : EElem))
      ∃ t, exec (.sdrain f q .ok) s = .next t ∧ WordExecuted s t f (q.castLE (by decide)) ∧ SameRegs s t [] ∧
        (sdDest w = 0 → sget [] t.brushIn f = sget [] s.brushIn f ++ es) ∧
        (sdDest w = 1 → (sget [] t.easelIn f).flatten = (sget [] s.easelIn f).flatten ++ es) ∧
        (sdDest w = 2 → (t.sh f (sdDestQ w)).fromEng = (s.sh f (sdDestQ w)).fromEng ++ es) ∧
        (sdClear w = true → ∀ v ∈ drainVals t f u (spAcc w) b, v = 0) ∧
        (sdClear w = false → ∀ m : Fin 9, (t.spin f m).acc = (s.spin f m).acc)

/-- SLOAD with its streams there takes them and makes the tile's record in every member; on an ungrouped Spindle it puts the code
of element (k, n) of an unscaled tile of LAYOUT 0 into its slot of the stationary buffer. -/
def Obligations.LoadPlacesTile : Prop :=
  ∀ (s : State) (f : Fin 64) (q : Fin 9) (w : Nat) (u : SpinUnit), frameStill s f = false → spinDecode s f q 0x10 = .go w u →
    loadCause u w = none →
    let n := (loadOrder w).length
    let vals := (s.sh f (slSrcQ w)).toEng
    let scales := if slScaleQ w = slSrcQ w then vals.drop n else (s.sh f (slScaleQ w)).toEng
    n ≤ vals.length → (∀ e ∈ vals.take n, e.ety = slEty w ∧ e.sty = slSty w) →
    (slSty w ≠ 0 → scaleBytes w ≤ scales.length ∧ ∀ e ∈ scales.take (scaleBytes w), e.ety = 0x0C ∧ e.sty = 0) →
    let ts := if slSty w = 2 then BitVec.ofNat 32 (ofLE ((scales.take 4).map (fun e => BitVec.ofNat 8 e.code))) else 0x3F800000#32
    ∃ t, exec (.sload f q) s = .next t ∧ WordExecuted s t f (q.castLE (by decide)) ∧ SameRegs s t [] ∧
      (∀ i m, u.ms[i]? = some m → u.ms.count m = 1 → sget none (t.spin f m).tiles (wHandle w) = some (loadRec u w i ts)) ∧
      (∀ m : Fin 9, (t.spin f m).acc = (s.spin f m).acc ∧ (t.spin f m).wb = (s.spin f m).wb) ∧
      (slSty w = 0 → (t.sh f (slSrcQ w)).toEng = vals.drop n ∧ (∀ m : Fin 9, (t.spin f m).scl = (s.spin f m).scl) ∧
        ∀ m : Fin 9, u.ms = [m.val] → u.deep = false → slLayout w = 0 →
          ∀ k c, k < slK w → c < slN w → ∀ e, vals[k * slN w + c]? = some e →
            slotGet (t.spin f m).buf (loadRec u w 0 ts) k c = e.code % 2 ^ etyWidth (slEty w))

/-- SPASS on an ungrouped Spindle from a Shuttle queue, with OUT = FILE and one level, whose sums do not overflow: its output
block at ACC holds the ordered sums of the products from the starting values, and its stationary operand and wide buffer stay. -/
def Obligations.PassSums : Prop :=
  ∀ (s : State) (f : Fin 64) (q : Fin 9) (w : Nat) (u : SpinUnit) (m : Fin 9) (tv : TileView) (kr : Nat) (isInt : Bool)
    (cs : List Chunk) (used : Nat), frameStill s f = false → spinDecode s f q 0x11 = .go w u → u.ms = [m.val] →
    passDecode s f w u = .ok tv → passMode s f q w tv.head (if spTrans w then 1 else 0) = .ok kr isInt →
    spSrc w = 2 → spInit w ≠ 2 → spOut w = 0 → spTwo w = false →
    let p := passShape tv w kr isInt
    feedChunks (s.sh f (spSrcQ w)).toEng (p.count false) (spEty w) (spSty w) (needC64 (spEty w) kr) = .ok cs used →
    let start := if spInit w = 0 then List.replicate (p.t * p.m) 0 else blockGet s f u (spAcc w) p.t p.m
    let sums := (passSums s f w p 0 none cs start).1
    (∀ e ∈ sums, e.2 = false) →
    ∃ t, exec (.spass f q .ok) s = .next t ∧ WordExecuted s t f (q.castLE (by decide)) ∧
      blockGet t f u (spAcc w) p.t p.m = sums.map (fun e => e.1) ∧
      (t.spin f m).buf = (s.spin f m).buf ∧ (t.spin f m).scl = (s.spin f m).scl ∧ (t.spin f m).wb = (s.spin f m).wb ∧
      (t.spin f m).tiles = (s.spin f m).tiles ∧ (t.sh f (spSrcQ w)).toEng = (s.sh f (spSrcQ w)).toEng.drop used

/-- In RETRY mode a floating-point SPASS, outside a reduce segment, whose sums overflow is not kept: its word stays at the head of
the queue, its block keeps its values, and a first re-run is due. SCALE_RETRY, its operand there, counts in RETRYCNT; a pass that
overflows no more, or is in its third re-run, is kept; so is a weight pass whose last sub-tile was the one to re-run; a member of
a reduce segment sends its block on again with REDO set. -/
def Obligations.OverflowReruns : Prop :=
  ∀ (s : State) (f : Fin 64) (q : Fin 9) (w : Nat) (tv : TileView) (kr : Nat) (m : Fin 9) (rest : List Nat) (t0 : State)
    (cs : List Chunk) (used : Nat), frameStill s f = false → physOf s f q = some m.val →
    let u := unitAt s f q
    (spinDecode s f q 0x11 = .go w u → passDecode s f w u = .ok tv →
      passMode s f q w tv.head (if spTrans w then 1 else 0) = .ok kr false →
      spSrc w = 2 → spInit w ≠ 2 → spOut w ≠ 1 → retryMode s f = true →
      let p := passShape tv w kr false
      feedChunks (s.sh f (spSrcQ w)).toEng (p.count (spTwo w)) (spEty w) (spSty w) (needC64 (spEty w) kr) = .ok cs used →
      (∃ e ∈ (passSums s f w p 0 none cs (startVals s f w u p)).1, e.2 = true) →
      ∃ t, exec (.spass f q .ok) s = .next t ∧ t.queue f q = s.queue f q ∧
        ((t.spin f m).retry.map (fun r => r.n)) = some 1 ∧
        (spInit w = 0 → ∀ n : Fin 9, (t.spin f n).acc = (s.spin f n).acc) ∧
        (u.ms = [m.val] → blockGet t f u (spAcc w) p.t p.m = blockGet s f u (spAcc w) p.t p.m)) ∧
    (∀ r : RetrySt, (s.spin f m).retry = some r → (s.queue f q).words = w :: rest → tileAt s f u (wHandle w) = some tv →
      let kept (o : Host.Outcome State Fault Refusal) := ∃ t, o = .next t ∧
        t.queue f q = ⟨(t0.queue f q).words.drop 1, (t0.queue f q).ran ++ (t0.queue f q).words.take 1⟩ ∧
        t.get (Reg.FRM_RETRYCNT_COUNT f) = min (t0.get (Reg.FRM_RETRYCNT_COUNT f) + 1) (2 ^ 32 - 1)
      spinMode tv.head.ety tv.head.sty (spEty w) (spSty w) = some (kr, false) →
      (wOp w = 0x11 →
        let p := passShape tv w kr false
        redoOperand s f q w (p.count (spTwo w)) kr (s.sh f (spSrcQ w)).kept (s.sh f (spSrcQ w)).skip r.seq r.n = .ok (t0, cs, used) →
        let own := (passSums (noteRetry t0 f) f w p r.n none cs (startVals (noteRetry t0 f) f w u p)).1.any (fun e => e.2)
        (own = false ∨ 3 ≤ r.n) → kept (exec (.scaleRetry f q .ok) s)) ∧
      (wOp w = 0x12 →
        let p := weightShape tv w kr false
        redoOperand s f q w (weightCount p) kr (s.sh f (spSrcQ w)).kept (s.sh f (spSrcQ w)).skip r.seq r.n = .ok (t0, cs, used) →
        let own := (subSums (noteRetry t0 f) f w p r.n r.u0 (((t0.spin f (physIdx t0 f q)).sel).getD 0) r.sub cs).1.any (fun e => e.2.2.2)
        subTiles p ≤ r.sub + 1 → (own = false ∨ 3 ≤ r.n) → kept (exec (.scaleRetry f q .ok) s))) ∧
    (∀ (o : OpenPass) (z : Nat) (isInt : Bool), (s.spin f m).retry = none → (s.spin f m).open_.find? (fun o => o.due.isSome) = some o →
      let i := ringIdx f q
      let tv := viewOf u o.tile
      reduceRing s i = some z → passMode s f q o.word tv.head (if spTrans o.word then 1 else 0) = .ok kr isInt →
      spInit o.word ≠ 2 → spOut o.word = 1 → o.due ≠ some 0 →
      let p := passShape tv o.word kr isInt
      let n := o.due.getD 1
      redoOperand s f q o.word (p.count false) kr o.items o.skip o.run n = .ok (t0, cs, used) →
      let sums := (passSums (noteRetry t0 f) f o.word p n none cs o.ckpt).1
      ∃ t, exec (.scaleRetry f q .ok) s = .next t ∧
        (t.rport z i).out = (t0.rport z i).out ++ partialBeats (selSid o.sel z) (selPart o.sel z) o.seq true n
          (!isInt && sums.any (fun e => e.2)) (sums.map (fun e => e.1)) ∧
        (t.spin f m).open_ = (t0.spin f m).open_.flatMap (fun x => if x.seq = o.seq then [{ o with n := n, due := none }] else [x]))

/-- A weight pass of an ungrouped Spindle that runs to its end writes only the wide-buffer pairs it names: every accumulator,
stationary operand and tile stays. -/
def Obligations.WeightPassFrame : Prop :=
  ∀ (s : State) (f : Fin 64) (q : Fin 9) (w : Nat) (u : SpinUnit) (tv : TileView) (kr : Nat) (isInt : Bool) (m : Fin 9)
    (cs : List Chunk) (used : Nat), frameStill s f = false → spinDecode s f q 0x12 = .go w u → u.ms = [m.val] → tileAt s f u (wHandle w) = some tv →
    typeCause (spEty w) (spSty w) = none → passMode s f q w tv.head 0 = .ok kr isInt →
    spSrc w = 2 → retryMode s f = false → 8192 * swWbOfs w + swKd w * tv.n ≤ 262144 →
    feedChunks (s.sh f (spSrcQ w)).toEng (weightCount (weightShape tv w kr isInt)) (spEty w) (spSty w) (needC64 (spEty w) kr) =
      .ok cs used →
    ∃ t, exec (.swpass f q .ok) s = .next t ∧ WordExecuted s t f (q.castLE (by decide)) ∧
      (t.spin f m).acc = (s.spin f m).acc ∧ (t.spin f m).buf = (s.spin f m).buf ∧ (t.spin f m).tiles = (s.spin f m).tiles ∧
      ∀ a, (frozenUnit s f u = true ∨ a < 8192 * swWbOfs w ∨ 8192 * swWbOfs w + swKd w * tv.n ≤ a) →
        sget Pair.init (t.spin f m).wb a = sget Pair.init (s.spin f m).wb a

/-- A word that has executed completes when its output has been accepted: its queue's DONE counts it, and its Knot gets 1 where
KNOT_EN is 1. An SXFER completes, the oldest first, once its last item has been delivered and, for an engine, a command has
accepted its last element: DONE counts it, and its Knot gets 1 where KNOT_EN is 1. -/
def Obligations.WordsComplete : Prop :=
  (∀ (s : State) (f : Fin 64) (w : Nat) (rest : List Nat), frameStill s f = false →
    let done (q : Fin 27) (o : Host.Outcome State Fault Refusal) := ∃ t, o = .next t ∧
      t.queue f q = ⟨(s.queue f q).words, rest⟩ ∧
      Sets s t ((Reg.FRM_Qq_DONE_COUNT f q, (s.get (Reg.FRM_Qq_DONE_COUNT f q) + 1) % 2 ^ 64) ::
        (if wKnotEn w then [(Reg.FRM_KNOTk_VALUE f (wKnot w), s.knot f (wKnot w) + 1)] else []))
    (wKnotEn w = true → s.knot f (wKnot w) < 2 ^ 32 - 1) →
    (∀ q : Fin 9, (s.queue f q).ran = w :: rest → wordLanded s f q w = true →
      done (q.castLE (by decide)) (exec (.spindleCmdComplete f q) s)) ∧
    ((s.queue f 25).ran = w :: rest → (∀ j ∈ givesTo 25 w, (s.sh f j).fromEng.length ≤ 16384) → done 25 (exec (.brushCmdComplete f) s)) ∧
    ((s.queue f 26).ran = w :: rest → (∀ j ∈ givesTo 26 w, (s.sh f j).fromEng.length ≤ 16384) → done 26 (exec (.easelCmdComplete f) s))) ∧
  (∀ (s : State) (f : Fin 64) (j : Fin 16) (w : Nat), frameStill s f = false → (wKnotEn w = true → s.knot f (wKnot w) < 2 ^ 32 - 1) →
    let x := s.sh f j
    let done (t : State) : Prop := exec (.sxferComplete f j) s = .next t ∧ (t.sh f j).toEng = x.toEng ∧
      Sets s t ((Reg.FRM_Qq_DONE_COUNT f (9 + j), (s.get (Reg.FRM_Qq_DONE_COUNT f (9 + j)) + 1) % 2 ^ 64) ::
        (if wKnotEn w then [(Reg.FRM_KNOTk_VALUE f (wKnot w), s.knot f (wKnot w) + 1)] else []))
    (x.behind = [] → x.word = some w → wordDelivered s f j w x = true → ∃ t, done t ∧ (t.sh f j).word = none) ∧
    (∀ e r, x.behind = (w, e) :: r → e ≤ accepted s f j → ∃ t, done t ∧ (t.sh f j).word = x.word ∧ (t.sh f j).behind = r))

/-! ## Brush and Easel (05) -/

/-- A Brush command that its decode and addresses accept and whose inputs are there executes, and writes Frame memory in its
output ranges only. BRED stores its reduction in lane order as an FP32 word at Y, or adds it into the pair there; EFWD counts a
row for each row it runs and stores statistics under its own handles only. -/
def Obligations.BrushAndEaselRun : Prop :=
  (∀ (s : State) (f : Fin 64) (w : Nat) (rest : List Nat) (t0 : State) (vs : List (List Val)), frameStill s f = false →
    (s.queue f 25).words = w :: rest →
    brushWordOk w = true → brushAddrBad w (brushArgOf s f w) = false →
    brushInputs s f w (brushArgOf s f w) (brushIns w) = .ok (t0, vs) →
    let runs (o : Host.Outcome State Fault Refusal) := ∃ t, o = .next t ∧ WordExecuted s t f 25 ∧
      (∀ x, (∀ r ∈ brushOutRanges w (brushArgOf s f w), x < r.1 ∨ r.1 + r.2 ≤ x) →
        sget 0 t.mem (fmAddr f x) = sget 0 s.mem (fmAddr f x)) ∧
      (∀ y, (y < fmAddr f 0 ∨ fmAddr f 0x1000000 ≤ y) → sget 0 t.mem y = sget 0 s.mem y)
    (wOp w = 0x20 → runs (exec (.bop f .ok) s)) ∧ (wOp w = 0x21 → runs (exec (.bact f .ok) s)) ∧
    (wOp w = 0x22 → runs (exec (.dact f .ok) s)) ∧ (wOp w = 0x23 → runs (exec (.bcvt f .ok) s)) ∧
    (wOp w = 0x24 → runs (exec (.bred f .ok) s)) ∧ (wOp w = 0x25 → runs (exec (.bopt f .ok) s))) ∧
  (∀ (s : State) (f : Fin 64) (w : Nat) (rest : List Nat), frameStill s f = false →
    (∀ (t0 : State) (v : List Val), (s.queue f 25).words = w :: rest → brushWordOk w = true → wOp w = 0x24 →
      let a := brushArgOf s f w
      brushAddrBad w a = false → brushInputs s f w a [0] = .ok (t0, [v]) → v.length = brCnt w →
      let y := a.outs[0]?.getD 0
      let x := bredValue (brFn w) (v.map f32rnd)
      y ≠ noAddr → ∃ t, exec (.bred f .ok) s = .next t ∧ WordExecuted s t f 25 ∧
        (brAcc w = false → brDst w = 0 → fmBytes t f y 4 = toLE 4 x.toNat) ∧
        (brAcc w = true →
          let p := (⟨BitVec.ofNat 32 (ofLE (fmBytes s f y 4)), BitVec.ofNat 32 (ofLE (fmBytes s f (y + 4) 4))⟩ : Pair).add x
          fmBytes t f y 8 = toLE 4 p.s.toNat ++ toLE 4 p.c.toNat)) ∧
    ((s.queue f 26).words = w :: rest → easelOk w = true → easelAddrBad w (easelArgOf s f w) = false →
      (∃ p, drainRows s f w = .ok p) →
      let runs (o : Host.Outcome State Fault Refusal) (st : Prop) := ∃ t, o = .next t ∧ WordExecuted s t f 26 ∧
        t.get (Reg.FRM_EASEL_ROWCNT_COUNT f) = min (s.get (Reg.FRM_EASEL_ROWCNT_COUNT f) + eaRows w) (2 ^ 32 - 1) ∧
        (∀ y, (y < fmAddr f 0 ∨ fmAddr f 0x1000000 ≤ y) → sget 0 t.mem y = sget 0 s.mem y) ∧
        ∀ (f' : Fin 64) (h : Fin 32768), (st ∨ f' ≠ f ∨ h.val < eaHandle w ∨ eaHandle w + eaRows w ≤ h.val) → statGet t f' h = statGet s f' h
      (wOp w = 0x30 → runs (exec (.efwd f .ok) s) False) ∧ (wOp w = 0x31 → runs (exec (.ebwd f .ok .ok) s) True)))

/-- ESTAT sends its statistics rows as FP32 words to a Shuttle queue, or takes them from the FP32 words of one; EPREAD sends each
pair of a parameter gradient as RNE(s + c), and zeroes the pairs under CLEAR. -/
def Obligations.StatisticsMove : Prop :=
  ∀ (s : State) (f : Fin 64) (w : Nat) (rest : List Nat), frameStill s f = false → (s.queue f 26).words = w :: rest → easelOk w = true →
    (wOp w = 0x32 → esDir w = 0 → ∃ t, exec (.estat f .ok) s = .next t ∧ WordExecuted s t f 26 ∧ SameRegs s t [] ∧
      (t.sh f (esQ w)).fromEng = (s.sh f (esQ w)).fromEng ++ ((List.range (eaRows w)).flatMap (fun r =>
        [.word (statGet s f (eaHandle w + r)).1, .word (statGet s f (eaHandle w + r)).2]))) ∧
    (wOp w = 0x32 → esDir w = 1 → 2 * eaRows w ≤ (s.sh f (esQ w)).toEng.length →
      (∀ e ∈ (s.sh f (esQ w)).toEng.take (2 * eaRows w), e.ety = 1 ∧ e.sty = 0) →
      ∃ t, exec (.estat f .ok) s = .next t ∧ WordExecuted s t f 26 ∧ SameRegs s t [] ∧
        (t.sh f (esQ w)).toEng = (s.sh f (esQ w)).toEng.drop (2 * eaRows w) ∧
        ∀ r a b, r < eaRows w → (s.sh f (esQ w)).toEng[2 * r]? = some a → (s.sh f (esQ w)).toEng[2 * r + 1]? = some b →
          statGet t f (eaHandle w + r) = (BitVec.ofNat 32 a.code, BitVec.ofNat 32 b.code)) ∧
    (wOp w = 0x33 → eaArg w + 8 * epCnt w ≤ 0x1000000 → ∃ t, exec (.epread f .ok) s = .next t ∧ WordExecuted s t f 26 ∧ SameRegs s t [] ∧
      (t.sh f (esQ w)).fromEng = (s.sh f (esQ w)).fromEng ++ ((List.range (epCnt w)).map (fun i =>
        let x (o : Nat) : W32 := f32rnd (etyVal 1 (ofLE (fmBytes s f (eaArg w + 8 * i + o) 4)))
        EElem.word (⟨x 0, x 4⟩ : Pair).val)) ∧
      ∀ x, sget 0 t.mem (fmAddr f x) = if epClear w = true ∧ eaArg w ≤ x ∧ x < eaArg w + 8 * epCnt w then 0
        else sget 0 s.mem (fmAddr f x))

/-! ## The Ring (04) -/

/-- A stage moves its oldest beat only where every destination has room: it goes on to the next stage, where that has room, into
the slot's own port where the port takes it too, and at the tail of a segment it leaves the ring or crosses a flex port; a held
beat stays. A stage without a beat sends one of its slot's own. An uncorrectable beat, a mark where the port has part of a run,
and a beat or notice that a stage has held for 100 µs are segment errors: FRM_RERR of the Frame shows them, and the segment is
emptied. None happens in a frequency stop, and the watchdog waits where a flex link of the segment is in retry. -/
def Obligations.BeatsMoveOrEnd : Prop :=
  (∀ (s : State) (ring : Ring) (i : Fin 512),
    let z := ringNo ring
    let k := ringNext z i
    let runs (t : State) : Prop := exec (.ringBeat ring i .ok) s = .next t
    frameStill s (idxFrame i) = false → (∀ c ∈ (s.rport z i).buf, c.kind ≠ 1) →
    (∀ (b : Beat) (r : List Beat) (p : Option RingPort), s.stage z i = b :: r → flexFed s z i = none → (s.inj z (idxFrame i)).run = [] →
      (p = none ∧ (if b.kind = 1 then takePartialBeat s z i b else takeOperandBeat s z i b) = .pass ∨
        (∃ x, p = some x ∧ b.kind ≠ 1 ∧ takeOperandBeat s z i b = .also x)) →
      (isTail s z i = false → (s.stage z k).length < stageDepth z k →
        ∃ t, runs t ∧ t.stage z i = r ∧ t.stage z k = s.stage z k ++ [{ b with t := s.now }] ∧ t.rport z i = p.getD (s.rport z i) ∧
          (∀ j : Fin 1024, j.val ≠ stageKey z i → j.val ≠ stageKey z k → sget [] t.stages j.val = sget [] s.stages j.val) ∧
          (∀ j : Fin 1024, j.val ≠ stageKey z i → sget RingPort.empty t.rports j.val = sget RingPort.empty s.rports j.val) ∧
          t = { s with stages := t.stages, rports := t.rports, active := t.active, wakes := t.wakes, ready := t.ready,
                       msix := t.msix, msixPend := t.msixPend }) ∧
      (isTail s z i = true → flexOut s z i = none →
        ∃ t, runs t ∧ t.stage z i = r ∧ t.rport z i = p.getD (s.rport z i) ∧
          (∀ j : Fin 1024, j.val ≠ stageKey z i → sget [] t.stages j.val = sget [] s.stages j.val) ∧
          (∀ j : Fin 1024, j.val ≠ stageKey z i → sget RingPort.empty t.rports j.val = sget RingPort.empty s.rports j.val) ∧
          t = { s with stages := t.stages, rports := t.rports, active := t.active, wakes := t.wakes, ready := t.ready,
                       msix := t.msix, msixPend := t.msixPend }) ∧
      (∀ x, isTail s z i = true → flexOut s z i = some x → flexRoom s z x = true →
        ∃ t, runs t ∧ t.stage z i = r ∧ sget 0 t.flexUsed (2 * x + z) = sget 0 s.flexUsed (2 * x + z) + 1 ∧
          ∀ j : Fin 1024, j.val ≠ stageKey z i → sget [] t.stages j.val = sget [] s.stages j.val)) ∧
    (∀ (b : Beat) (r : List Beat), s.stage z i = b :: r → b.kind ≠ 1 → takeOperandBeat s z i b = .hold → (s.rport z i).out = [] →
      ∃ t, runs t ∧ t = { s with active := t.active, wakes := t.wakes, ready := t.ready, msix := t.msix, msixPend := t.msixPend }) ∧
    (∀ (b : Beat) (r : List Beat), s.stage z i = [] → (s.rport z i).out = b :: r → isTail s z i = false →
      (s.stage z k).length < stageDepth z k →
      ∃ t, runs t ∧ (t.rport z i).out = r ∧ t.stage z k = s.stage z k ++ [{ b with t := s.now }] ∧
        ∀ j : Fin 1024, j.val ≠ stageKey z k → sget [] t.stages j.val = sget [] s.stages j.val)) ∧
  (∀ (s : State) (ring : Ring) (i : Fin 512),
    let z := ringNo ring
    let f := idxFrame i
    let ends (bit : Ref) (o : Host.Outcome State Fault Refusal) := ∃ t, o = .next t ∧ t.get bit = 1 ∧
      ∀ m ∈ segment s z i, t.stage z m = [] ∧ t.notice z m = []
    (frameStill s f = false → (∀ c ∈ (s.rport z i).buf, c.kind ≠ 1) →
      (s.stage z i ≠ [] →
        ends (if z = 0 then Reg.FRM_RERR_S_ECC f else Reg.FRM_RERR_Z_ECC f) (exec (.ringBeat ring i .double) s)) ∧
      (∀ (b : Beat) (r : List Beat), s.stage z i = b :: r → b.kind = 2 → takeOperandBeat s z i b = .error →
        ends (if z = 0 then Reg.FRM_RERR_S_PROTO f else Reg.FRM_RERR_Z_PROTO f) (exec (.ringBeat ring i .ok) s))) ∧
    (freqStopped s = false → flexRetry s z i = false → hopHeld s z i = true → s.glazeT = none →
      ends (if z = 0 then Reg.FRM_RERR_S_WDOG f else Reg.FRM_RERR_Z_WDOG f) (exec (.hopWatchdog ring i) s)) ∧
    (freqStopped s = true ∨ flexRetry s z i = true → exec (.hopWatchdog ring i) s = .next s))

/-- A request for a run that the injector keeps is queued for a re-send once; one that reaches a head fed by a flex port crosses
to the peer module. The re-send forms the run again with REDO set and hands it to the injector, which loses no beat of it. A RETRY
notice makes the re-run of a member's open pass due, and a CONFIRM makes the pass final; each then leaves its stage. -/
def Obligations.RunsAndNotices : Prop :=
  (∀ (s : State) (ring : Ring) (f : Fin 64), frameStill s f = false →
    let z := ringNo ring
    (∀ (i m : Nat) (n : Notice) (rest : List Notice),
      (fedHeads s z f).findSome? (fun i => (redoAt s z i).map (fun p => (i, p))) = some (i, m, n, rest) →
      (flexFed s z (segHead s z i) = none → (∃ k ∈ (s.inj z f).kept, k.sid = n.sid ∧ k.part = n.part ∧ k.seq = n.seq) →
        ∃ t, exec (.redoReq ring f) s = .next t ∧ t.notice z m = rest ∧ ⟨n.sid, n.part, n.seq, n.n⟩ ∈ (t.inj z f).redo ∧
          (∀ r ∈ (s.inj z f).redo, r ∈ (t.inj z f).redo) ∧ (t.inj z f).run = (s.inj z f).run) ∧
      (∀ p, flexFed s z (segHead s z i) = some p →
        exec (.redoReq ring f) s = .next (evRefresh (putStream (s.setNotice z m rest) p 2 (toLE 8 (noticeUnit z n)))))) ∧
    (∀ (sl qq : Nat) (r : RedoRec) (rest : List RedoRec) (k : RunRec) (u : State) (bs : List Beat), (s.inj z f).run = [] →
      (s.inj z f).redo = r :: rest → (s.inj z f).kept.find? (fun k => k.sid = r.sid && k.part = r.part && k.seq = r.seq) = some k →
      itemRun s f k.j k.item.word k.item.rd r.seq true r.n .ok ShEcc.none = .ok u bs → injector u z f = some (sl, qq) →
      ∃ t, exec (.redoRun ring f) s = .next t ∧ (t.inj z f).redo = rest ∧ (∀ b ∈ bs, b.redo = true ∧ b.n = r.n) ∧
        ((t.stage z (ringIdx f sl)) ++ (t.inj z f).run).map (fun b => (b.kind, b.sid, b.part, b.seq, b.redo, b.n, b.data)) =
          (u.stage z (ringIdx f sl) ++ bs).map (fun b => (b.kind, b.sid, b.part, b.seq, b.redo, b.n, b.data)))) ∧
  (∀ (s : State) (ring : Ring) (i : Fin 512) (n : Notice) (rest : List Notice) (f q k : Nat) (o : OpenPass),
    let z := ringNo ring
    frameStill s (idxFrame i) = false → portSlot s i = some (f, q, k) →
    (s.spin f k).open_.find? (fun o => o.seq = n.seq && selSid o.sel z = n.sid && selPart o.sel z = n.part) = some o →
    (pickNotice .retry (s.notice z i) = some (n, rest) →
      ∃ t, exec (.retry ring i) s = .next t ∧ { o with due := some n.n } ∈ (t.spin f k).open_ ∧
        (isHead s z i = false → ∃ l, t.notice z (ringPrev z i) = l ++ [{ n with t := s.now }])) ∧
    (pickNotice .confirm (s.notice z i) = some (n, rest) →
      ∃ t, exec (.confirm ring i) s = .next t ∧ (∀ p ∈ (t.spin f k).open_, p.seq ≠ o.seq) ∧
        (t.queue f q).ran = (s.queue f q).ran ++ [o.word] ∧ (t.queue f q).words = (s.queue f q).words ∧
        (isHead s z i = false → ∃ l, t.notice z (ringPrev z i) = l ++ [{ n with t := s.now }])))

/-! ## The Shuttle (07) -/

/-- A legal SXFER at the head of a Shuttle queue that executes none begins to execute, and one for an engine may follow a word
whose items have all been read; its descriptors arrive up to 32 at a time, and the next item, once it passes every check, becomes
active. -/
def Obligations.TransfersBegin : Prop :=
  ∀ (s : State) (f : Fin 64) (j : Fin 16) (w : Nat) (rest : List Nat), frameStill s f = false →
    let x := s.sh f j
    let begins (b : List (Nat × Nat)) : Prop :=
      ∃ t, exec (.sxfer f j) s = .next t ∧ (t.queue f (9 + j)).words = rest ∧ (t.sh f j).word = some w ∧ (t.sh f j).item = 0 ∧
        (t.sh f j).act = none ∧ (t.sh f j).descs = [] ∧ (t.sh f j).toEng = x.toEng ∧ (t.sh f j).behind = b ∧
        t = { s with queues := t.queues, shut := t.shut, active := t.active, wakes := t.wakes, ready := t.ready, msix := t.msix,
                     msixPend := t.msixPend }
    ((s.queue f (9 + j)).words = w :: rest → sxferBad s f w = false →
      (x.word = none → s.get (Reg.FRM_SQj_STATE_CANCEL_BUSY f j) ≠ 1 → begins x.behind) ∧
      (∀ v, x.word = some v → sxDst v = 1 → sxDst w = 1 → wordRead x v = true → begins (x.behind ++ [(v, x.toEng.length)]))) ∧
    (∀ (t0 : State) (m : ByteMap) (resp : Resp) (ecc : Ecc), x.word = some w → x.descs.length ≤ 8 → x.act = none → 0 < (batchOf x w).2 →
      let g := segOf s f (sxDseg w)
      let n := min (batchOf x w).2 ((g.lim - (batchOf x w).1) / 128)
      let x0 := spanOf s [] g (batchOf x w).1 (128 * n)
      0 < n → readSpans s f j [x0] resp ecc = .ok t0 m →
      ∃ t, exec (.descriptorBatch f j resp ecc) s = .next t ∧ n ≤ 32 ∧ (t.sh f j).fetched = (t0.sh f j).fetched + n ∧
        (t.sh f j).descs = (t0.sh f j).descs ++ piecesOf 128 (mapGet m x0.key (128 * n)) n) ∧
    (x.word = some w → x.act = none → x.item < sxItems w → sxPer w ≤ x.descs.length →
      let it := nextItem w x.item x.descs
      itemBad s f j w it = false → itemVersionBad s f w it = false → itemOut s f w it = none →
      ∃ t, exec (.itemDecode f j) s = .next t ∧ (t.sh f j).act = some it ∧ (t.sh f j).pos = 0 ∧
        (t.sh f j).descs = x.descs.drop (sxPer w) ∧ (t.sh f j).word = some w ∧ t = { s with shut := t.shut, verRec := t.verRec })

/-- A response that meets no fault, at a queue that is granted, delivers its elements in stream order: the item's place moves on
by them, and after its last element the next item is due; the item of a ring run ends only when the injector has handed its last
beat on. -/
def Obligations.ResponsesDeliver : Prop :=
  ∀ (s : State) (f : Fin 64) (j : Fin 16) (n : Nat) (resp : Resp) (ecc : Ecc) (part : ShRead) (w : Nat) (it : ItemSt),
    let x := s.sh f j
    let m := stretchLen s f j w it n
    let total := dCount (itemMain w it)
    frameStill s f = false → x.word = some w → x.act = some it →
    (∀ (t0 : State) (k : Nat), 0 < m → (x.asked ≠ [] ∨ granted s f j = true) → runStretch s f j w it m resp ⟨ecc, part⟩ = .ok t0 k →
      let y := t0.sh f j
      ∃ t, exec (.shuttleResponse f j n resp ecc part) s = .next t ∧
        (y.pos + k < total → (t.sh f j).pos = y.pos + k ∧ (t.sh f j).act = y.act ∧ (t.sh f j).item = y.item) ∧
        (total ≤ y.pos + k → y.act.isSome = true → sxDst w < 2 ∨ (t0.inj (sxDst w - 2) f).run = [] →
          (t.sh f j).pos = 0 ∧ (t.sh f j).act = none ∧ (t.sh f j).item = y.item + 1) ∧
        (total ≤ y.pos + k → y.act.isSome = true → 2 ≤ sxDst w → (t0.inj (sxDst w - 2) f).run ≠ [] →
          (t.sh f j).pos = total ∧ (t.sh f j).act = y.act ∧ (t.sh f j).item = y.item) ∧
        (t.sh f j).toEng = y.toEng ∧ (t.sh f j).fromEng = y.fromEng) ∧
    (m = 0 → 2 ≤ sxDst w → x.pos = total → (s.inj (sxDst w - 2) f).run = [] →
      ∃ t, exec (.shuttleResponse f j n resp ecc part) s = .next t ∧ (t.sh f j).act = none ∧ (t.sh f j).item = x.item + 1 ∧
        t = { s with shut := t.shut })

/-- A cancel, by QCANCEL from a core of the queue's task or by its register, discards the queue's words and the word that
executes, sets DONE to ISSUED and CANCELLED to 1; where it starves no engine command, no other queue changes. A fault of a Shuttle
queue is kept in FRM_SQ_FAULT where none is: a word with a reserved bit, cause 1; a read or a timed write without a response for
10 ms outside a frequency stop, cause 8. -/
def Obligations.CancelsAndFaults : Prop :=
  (∀ (s : State) (f : Fin 64) (c : Fin 4) (j : Fin 16),
    let empties (o : Host.Outcome State Fault Refusal) := ∃ t, o = .next t ∧ (t.queue f (9 + j)).words = [] ∧ (t.sh f j).word = none ∧
      (t.sh f j).act = none ∧ (t.sh f j).toEng = [] ∧
      t.get (Reg.FRM_Qq_DONE_COUNT f (9 + j)) = s.get (Reg.FRM_Qq_ISSUED_COUNT f (9 + j)) % 2 ^ 64 ∧
      t.get (Reg.FRM_SQj_STATE_CANCELLED f j) = 1 ∧
      (starvedBy s f j = [] → ∀ (f' : Fin 64) (q' : Fin 27), (f'.val, q'.val) ≠ (f.val, 9 + j.val) → t.queue f' q' = s.queue f' q')
    (agentOpen s .studio (0x1000000 + 0x10000 * f) = true → frameStill s f = false → s.ctlIn = [] → empties (exec (.queueCancel f j) s)) ∧
    (Ready s f c (encR 0x32 j 0 0 0) → s.qTask f (9 + j) ≠ 0 → s.qTask f (9 + j) = s.cTask f c → empties (exec (.qcancel f c j) s))) ∧
  (∀ (s : State) (f : Fin 64) (j : Fin 16) (w : Nat) (rest : List Nat), s.get (Reg.FRM_SQ_FAULT_VALID f) = 0 →
    let faults (cause : Nat) (o : Host.Outcome State Fault Refusal) := ∃ t, o = .next t ∧ t.get (Reg.FRM_SQ_FAULT_VALID f) = 1 ∧
      t.get (Reg.FRM_SQ_FAULT_QUEUE f) = j ∧ t.get (Reg.FRM_SQ_FAULT_CAUSE f) = cause ∧ t.get (Reg.FRM_SQ_FAULTADDR_ADDR f) = 0
    let x := s.sh f j
    let late (t : Nat) : Prop := t + 10 * 1024000 ≤ s.now
    (frameStill s f = false → x.word = none → (s.queue f (9 + j)).words = w :: rest → s.get (Reg.FRM_SQj_STATE_CANCEL_BUSY f j) = 0 →
      sxferBad s f w = true → faults 1 (exec (.sxfer f j) s)) ∧
    (freqStopped s = false → s.get (Reg.FRM_SQj_STATE_CANCEL_BUSY f j) = 0 →
      ((∃ t0, (x.reqT = some t0 ∨ x.batT = some t0) ∧ late t0) ∨ (∃ r ∈ x.asked, late r.t) ∨ (∃ r ∈ x.unacked, r.timed = true ∧ late r.t)) →
      faults 8 (exec (.requestTimeout f j) s)))

/-! ## The Palette and LPDDR (08) -/

/-- A write to a channel whose queue has room puts its bytes into LPDDR and no others, and into the spare while the channel is
repaired, and a whole block is good afterwards; a read of a channel that takes commands, of a good block, replies its bytes and
changes nothing; a block whose four reads all fail their check is uncorrectable. -/
def Obligations.LpddrBlocks : Prop :=
  ∀ (s : State) (a : BitVec 41) (d : List Byte) (errs : List Disturb),
    let x := a.toNat
    let b := 64 * (x / 64)
    x < lpddrSize s →
    (blockWf x d = true → chanFull s (x / 256) = false → (isBad s x = false ∨ (x % 64 = 0 ∧ d.length = 64)) →
      ∃ t, exec (.lpddrWrite a d) s = .next t ∧ sgetList 0 t.mem x d.length = d ∧
        (∀ y, (y < x ∨ x + d.length ≤ y) → sget 0 t.mem y = sget 0 s.mem y) ∧ (x % 64 = 0 → d.length = 64 → isBad t x = false) ∧
        (∀ r, repairOf s (chanOf (x / 256) / 16) = some r → r.lch = chanOf (x / 256) → sgetList 0 t.spare x d.length = d) ∧
        SameRegs s t []) ∧
    (chanPaused s (x / 256) = false → isBad s x = false → readTries (rawBytes s b 64) b errs 4 0 = some (0, rawBytes s b 64) →
      ∃ t, exec (.lpddrRead a errs) s = .next t ∧ sget ⟨0, [], false⟩ t.reply (sliceOf (x / 256)) = ⟨b, rawBytes s b 64, false⟩ ∧
        t.mem = s.mem ∧ t.bad = s.bad ∧ t.log = s.log ∧ SameRegs s t []) ∧
    (chanPaused s (x / 256) = false → (isBad s x = true ∨ readTries (rawBytes s b 64) b errs 4 0 = none) →
      ∃ t, exec (.lpddrRead a errs) s = .next t ∧ isBad t x = true ∧ t.mem = s.mem ∧
        (sget ⟨0, [], false⟩ t.reply (sliceOf (x / 256))).err = true ∧
        t.get (Reg.MEM_CHc_CRCCNT_UNCORR (chanOf (x / 256))) = min (s.get (Reg.MEM_CHc_CRCCNT_UNCORR (chanOf (x / 256))) + 1) (2 ^ 16 - 1))

/-- A read that hits replies the bytes of the line and counts a hit; a write that hits replaces them and marks the line dirty; an
access that misses where an entry is free joins the outstanding misses, or one on its line, and counts a miss; one that writes a
whole line is allocated at once. A line fill ends the oldest miss of its slice that can return; a way that leaves the cache role,
once its dirty lines have room in their channels' queues, is left without a line; and a write of the way roles takes effect unless
a job is loaded. -/
def Obligations.PaletteLines : Prop :=
  (∀ (s : State) (acc : Access),
    let g := acc.addr / 256
    let sl := sliceOf g
    let line (t : State) (w : Nat) := t.lineAt sl (setOf g) w
    let missed (t : State) : Prop := Sets s t [(Reg.MEM_PALf_MISSCNT_COUNT sl, min (s.get (Reg.MEM_PALf_MISSCNT_COUNT sl) + 1) (2 ^ 32 - 1))]
    acc.wf = true → stopped s = false → acc.addr < lpddrSize s → frameStill s sl = false → ∀ (h : sl < 64),
    (∀ w, lookup s g = some w →
      (acc.write = false → ∃ t, exec (.paletteAccess ⟨sl, h⟩ acc .ok) s = .next t ∧
        sget ⟨0, [], false⟩ t.reply sl = ⟨acc.addr, bytesAt (line s w).data (acc.addr % 256) acc.len, false⟩ ∧ t.lines = s.lines ∧
        Sets s t [(Reg.MEM_PALf_HITCNT_COUNT sl, min (s.get (Reg.MEM_PALf_HITCNT_COUNT sl) + 1) (2 ^ 32 - 1))]) ∧
      (acc.write = true → ∃ t, exec (.paletteAccess ⟨sl, h⟩ acc .ok) s = .next t ∧
        line t w = { line s w with dirty := true, data := patch (line s w).data (acc.addr % 256) acc.data } ∧
        (∀ sl' i w', lineKey sl' i w' ≠ lineKey sl (setOf g) w → t.lineAt sl' i w' = s.lineAt sl' i w') ∧ t.mem = s.mem)) ∧
    (lookup s g = none → waysOf s sl .cache ≠ [] → (acc.write = true → acc.data.length < 256) →
      ((sget [] s.misses sl).length < 64 → (∀ m ∈ sget [] s.misses sl, m.gran ≠ g) →
        ∃ t, exec (.paletteAccess ⟨sl, h⟩ acc .ok) s = .next t ∧ sget [] t.misses sl = sget [] s.misses sl ++ [⟨g, [acc]⟩] ∧ missed t) ∧
      ((∃ m ∈ sget [] s.misses sl, m.gran = g) →
        ∃ t, exec (.paletteAccess ⟨sl, h⟩ acc .ok) s = .next t ∧
          sget [] t.misses sl = (sget [] s.misses sl).map (fun m => if m.gran = g then { m with wait := m.wait ++ [acc] } else m) ∧
          missed t)) ∧
    (lookup s g = none → waysOf s sl .cache ≠ [] → acc.write = true → acc.data.length = 256 → dirtyVictim s g = none →
      (∀ m ∈ sget [] s.misses sl, m.gran ≠ g) →
      ∃ t w, exec (.paletteAccess ⟨sl, h⟩ acc .ok) s = .next t ∧ line t w = ⟨true, g, true, acc.data⟩ ∧ t.mem = s.mem ∧ missed t)) ∧
  (∀ (s : State) (sl : Fin 64) (v : BitVec 32),
    (∀ m, frameStill s sl = false → (sget [] s.misses sl).find? (fun m => fillReady s m.gran) = some m → sliceOf m.gran = sl →
      ∃ t, exec (.lineFill sl .ok) s = .next t ∧ sget [] t.misses sl = (sget [] s.misses sl).filter (fun x => x.gran ≠ m.gran)) ∧
    (∀ w, (List.range 16).find? (fun w => bit (sget 0 s.leaving sl) w) = some w → frameStill s sl = false →
      backRoom s (wayLines s sl w) = true →
      ∃ t, exec (.wayRoleChange sl .ok) s = .next t ∧ bit (sget 0 t.leaving sl) w = false ∧
        ∀ i : Fin 16384, (t.lineAt sl i w).valid = false) ∧
    (hostOpen s 0x501000 = true →
      (s.job.loaded = false → ∃ t, exec (.waysWrite sl v) s = .next t ∧ t.get (Reg.MEM_PALf_WAYS_SP sl) = v.toNat % 65536 ∧
        t.get (Reg.MEM_PALf_WAYS_RS sl) = v.toNat / 65536 ∧
        ∀ w : Fin 16, wayRole s sl w = .cache → regRole (v.toNat % 65536) (v.toNat / 65536) w ≠ .cache → wayRole t sl w = .cache) ∧
      (s.job.loaded = true → ∃ t, exec (.waysWrite sl v) s = .next t ∧ t.get (Reg.MEM_PALf_WAYS_SP sl) = s.get (Reg.MEM_PALf_WAYS_SP sl) ∧
        t.get (Reg.MEM_PALf_WAYS_RS sl) = s.get (Reg.MEM_PALf_WAYS_RS sl))))

/-- A maintenance operation starts where none runs, over the registers' range or everything, and sets BUSY; at its end no line it
covers is dirty, and none is left at all but by CLEAN; BUSY falls and DONE rises. -/
def Obligations.CacheMaintenance : Prop :=
  ∀ (s : State) (ranged : Bool),
    let range := if ranged then some (s.get Reg.MEM_PALFL_BASE_ADDR, s.get Reg.MEM_PALFL_LEN_LEN) else none
    let starts (op : Nat) (o : Host.Outcome State Fault Refusal) := ∃ t, o = .next t ∧ t.flush = some ⟨op, range, none⟩ ∧
      Sets s t [(Reg.MEM_PALFL_CTL_OP, op), (Reg.MEM_PALFL_CTL_RANGE, if ranged then 1 else 0), (Reg.MEM_PALFL_CTL_BUSY, 1)] ∧
      t.lines = s.lines ∧ t.mem = s.mem
    (hostOpen s 0x500100 = true → s.flush = none → starts 0 (exec (.paletteClean ranged) s) ∧
      starts 1 (exec (.paletteInvalidate ranged) s) ∧ starts 2 (exec (.paletteCleanInvalidate ranged) s)) ∧
    (∀ x, s.flush = some x → x.host = none → freqStopped s = false →
      (x.op = 1 ∨ backRoom s (s.lines.filter (fun e => flushCovers x e.2)) = true) → ∃ t, exec (.paletteFlushDone .ok) s = .next t ∧ t.flush = none ∧
      t.get Reg.MEM_PALFL_CTL_BUSY = 0 ∧ t.get Reg.MEM_PALFL_CTL_DONE = 1 ∧
      ∀ sl i w, flushCovers x (t.lineAt sl i w) = true → (t.lineAt sl i w).dirty = false ∧ (x.op ≠ 0 → (t.lineAt sl i w).valid = false))

/-- A refresh changes no data; a channel whose interval has passed pauses for retraining where no other does, and resumes after it
with its queue drained. A repair starts with the group's spare where the group repairs none and has it, and is refused otherwise;
the policy starts one when the re-reads reach THRESH, and asks once for one it is refused; it copies granule by granule into the
spare, which an uncorrectable block stops; and the map switch gives the logical channel the spare and what stands there. -/
def Obligations.RetrainAndRepair : Prop :=
  (∀ (s : State) (ch : Fin 128) (bank : Fin 65536),
    (∃ t, exec (.refresh ch bank) s = .next t ∧ t = { s with refreshes := t.refreshes } ∧ sget 0 t.refreshes ch = sget 0 s.refreshes ch + 1) ∧
    ((s.get (Reg.MEM_CHc_MAP_STATE ch) = 0 ∨ s.get (Reg.MEM_CHc_MAP_STATE ch) = 2) →
      sget 0 s.chT ch + min 4096 (max 16 (s.get Reg.MEM_RETRAIN_CFG_INTERVAL)) * 1024000 ≤ s.now →
      (∀ c : Fin 128, s.get (Reg.MEM_CHc_MAP_STATE c) ≠ 1) →
      ∃ t, exec (.channelRetrain ch) s = .next t ∧ Sets s t [(Reg.MEM_CHc_MAP_STATE ch, 1)] ∧ sget 0 t.chT ch = s.now ∧
        t = { s with regs := t.regs, chT := t.chT }) ∧
    (s.get (Reg.MEM_CHc_MAP_STATE ch) = 1 → ∃ t, exec (.retrainingEnd ch) s = .next t ∧
      Sets s t [(Reg.MEM_CHc_MAP_STATE ch, if (repairOf s (ch / 16)).any (fun r => r.lch = ch.val) then 2 else 0)] ∧
      sget 0 t.chanQ ch = 0 ∧ t = { s with regs := t.regs, chanQ := t.chanQ })) ∧
  (∀ (s : State) (ch : Fin 128) (grp : Fin 8),
    let m := ch.val / 16
    let st := s.get (Reg.MEM_CHc_MAP_STATE ch)
    let started (t : State) := t.get (Reg.MEM_GRPm_SPARE_AVAIL m) = 0 ∧ t.get Reg.MEM_REPAIR_STAT_BUSY = 1 ∧ t.get Reg.MEM_REPAIR_STAT_LCH = ch ∧
      t.get Reg.MEM_REPAIR_STAT_PROGRESS = 0 ∧ t.get (Reg.MEM_CHc_MAP_STATE ch) = (if st = 1 then 1 else 2) ∧ repairOf t m = some ⟨ch, 0⟩
    let due := s.get Reg.MEM_REPAIR_POL_AUTO = 1 ∧ repairDue s ch = true ∧ sget false s.autoTry ch = false
    (repairOf s m = none → s.get (Reg.MEM_GRPm_SPARE_AVAIL m) = 1 →
      (hostOpen s 0x503104 = true → Answers (.repairStart ch) s started) ∧
      (due → Answers (.repairAutoStart ch) s (fun t => started t ∧ sget [] t.reread ch = [] ∧ sget false t.autoTry ch = false))) ∧
    ((repairOf s m).isSome →
      (hostOpen s 0x503104 = true → Answers (.repairStart ch) s (fun t => t.get Reg.MEM_REPAIR_STAT_GRPBUSY = 1 ∧ repairOf t m = repairOf s m)) ∧
      (due → Answers (.repairAutoStart ch) s (fun t => t.get Reg.MEM_REPAIR_STAT_GRPBUSY = 1 ∧ sget false t.autoTry ch = true))) ∧
    (repairOf s m = none → s.get (Reg.MEM_GRPm_SPARE_AVAIL m) = 0 →
      (hostOpen s 0x503104 = true → Answers (.repairStart ch) s (fun t => t.get Reg.MEM_REPAIR_STAT_NOSPARE = 1 ∧ repairOf t m = none)) ∧
      (due → Answers (.repairAutoStart ch) s (fun t => t.get Reg.MEM_REPAIR_STAT_NOSPARE = 1 ∧ sget false t.autoTry ch = true))) ∧
    (∀ r : Repair, repairOf s grp = some r → s.get (Reg.MEM_CHc_MAP_STATE r.lch) = 2 →
      let a := 256 * chanGran r.lch r.next
      (firstBad s (blocksOf a 256) = none →
        Answers (.repairCopy grp) s (fun t => repairOf t grp = some ⟨r.lch, r.next + 1⟩ ∧ t.mem = s.mem ∧
          sgetList 0 t.spare a 256 = rawBytes s a 256 ∧
          t.get (Reg.MEM_CHc_MAP_STATE r.lch) = (if r.next + 1 = chanGrans s then 3 else 2))) ∧
      (∀ b, firstBad s (blocksOf a 256) = some b →
        Answers (.repairCopy grp) s (fun t => repairOf t grp = none ∧ t.get Reg.MEM_REPAIR_STAT_FAIL = 1 ∧ stopped t = true))) ∧
    (∀ r : Repair, repairOf s grp = some r → s.get (Reg.MEM_CHc_MAP_STATE r.lch) = 3 →
      Answers (.mapSwitch grp) s (fun t => t.get (Reg.MEM_CHc_MAP_PHYS r.lch) = s.get (Reg.MEM_GRPm_SPARE_PHYS grp) % 256 ∧
        t.get (Reg.MEM_CHc_MAP_STATE r.lch) = 0 ∧ repairOf t grp = none ∧ t.get Reg.MEM_REPAIR_STAT_DONE = 1 ∧
        t.repairLog = s.repairLog ++ [(r.lch, s.get (Reg.MEM_GRPm_SPARE_PHYS grp), true)] ∧
        ∀ a, (ofChan s r.lch a = false → sget 0 t.mem a = sget 0 s.mem a) ∧
          (ofChan s r.lch a = true → isBad t a = false ∧ ((∀ e ∈ s.spare, e.1 ≠ a) → sget 0 t.mem a = 0) ∧
            ∀ v, (a, v) ∈ s.spare → (∀ e ∈ s.spare, e.1 = a → e.2 = v) → sget 0 t.mem a = v))))

/-! ## Clocks and time (09) -/

/-- A GO while no change is under way is held; a held GO for another frequency is accepted 50 µs after the last restart, for a
whole microsecond at least 2 µs ahead; at that time the Frames stop, and 1.5 µs later they run at the new frequency. -/
def Obligations.FrequencyChange : Prop :=
  ∀ (s : State) (mhz : BitVec 12),
    (hostOpen s 0x300004 = true → s.get Reg.CLK_STAT_SAFE ≠ 1 → s.freq = none →
      Answers (.freqGo mhz) s (fun t => t.heldGo = some (min 2250 (max 800 (mhz.toNat / 25 * 25))) ∧
        Sets s t [(Reg.CLK_FREQ_CTL_TGT_MHZ, mhz.toNat)])) ∧
    (∀ m, s.heldGo = some m → s.get Reg.CLK_STAT_SAFE ≠ 1 → s.freq = none → (∀ r, s.restartT = some r → r + 50 * 1024 ≤ s.now) →
      m ≠ s.get Reg.CLK_FREQ_CUR_MHZ →
      Answers .goAccept s (fun t => Sets s t [(Reg.CLK_FREQ_CTL_PENDING, 1)] ∧ t.heldGo = none ∧
        ∃ ta, t.freq = some ⟨m, ta, false, false, false⟩ ∧ ta % 1024 = 0 ∧ s.now + 2048 ≤ ta ∧ ta < s.now + 3072)) ∧
    (∀ x, s.freq = some x → x.stopped = false → x.at_ ≤ s.now →
      Answers .freqStop s (fun t => t.freq = some { x with stopped := true } ∧
        (∀ g : Fin 64, t.get (Reg.CLK_GENg_STAT_LOCKED g) = 0) ∧ t.get Reg.CLK_FREQ_CUR_MHZ = s.get Reg.CLK_FREQ_CUR_MHZ)) ∧
    (∀ x, s.freq = some x → x.stopped = true → x.backup = false → x.restore = false → x.at_ + 1536 ≤ s.now →
      Answers (.freqRestart []) s (fun t => t.freq = none ∧ t.restartT = some s.now ∧
        t.get Reg.CLK_FREQ_CUR_MHZ = x.mhz % 2 ^ 12 ∧ t.get Reg.CLK_FREQ_CTL_PENDING = 0 ∧ t.get Reg.INT_ACK_FCHG = 1 ∧
        t.get Reg.CLK_FCHGCNT_COUNT = min (s.get Reg.CLK_FCHGCNT_COUNT + 1) (2 ^ 32 - 1) ∧
        ∀ g : Fin 64, s.get (Reg.CLK_GENg_STAT_HOLD g) = 0 → t.get (Reg.CLK_GENg_STAT_LOCKED g) = 1))

/-- A generator whose reference in use is lost enters holdover and is counted, and relocks if that reference returns within 1 ms;
after 1 ms the die moves to the backup tree at 800 MHz; RESTORE moves it back once every primary reference has been there for 100
ms. On the backup tree the primary references come and go without an effect on the clocks. -/
def Obligations.References : Prop :=
  ∀ (s : State) (g : Fin 72) (tree : Bool),
    (tree = s.on Reg.CLK_STAT_BACKUP → s.get (Reg.CLK_GENg_STAT_HOLD g) = 0 →
      Answers (.referenceLoss g tree) s (fun t => t.get (Reg.CLK_GENg_STAT_HOLD g) = 1 ∧ t.get (Reg.CLK_GENg_STAT_LOCKED g) = 0 ∧
        t.get (Reg.CLK_GENg_STAT_REFLOSS g) = 1 ∧ t.get Reg.CLK_STAT_HOLDOVER = 1 ∧ (t.gen g).holdT = s.now ∧
        t.get (Reg.CLK_GENg_STAT_LOSSCNT g) = min (s.get (Reg.CLK_GENg_STAT_LOSSCNT g) + 1) 255 ∧ (tree = false → (t.gen g).lost = true))) ∧
    (tree = s.on Reg.CLK_STAT_BACKUP → s.get (Reg.CLK_GENg_STAT_HOLD g) = 1 → s.now < (s.gen g).holdT + 1024000 →
      Answers (.referenceReturn g tree) s (fun t => t.get (Reg.CLK_GENg_STAT_HOLD g) = 0 ∧ t.get (Reg.CLK_GENg_STAT_LOCKED g) = 1)) ∧
    (tree ≠ s.on Reg.CLK_STAT_BACKUP →
      Answers (.referenceLoss g tree) s (fun t => t = { s with gens := t.gens } ∧ (tree = false → (t.gen g).lost = true)) ∧
      Answers (.referenceReturn g tree) s (fun t => t = { s with gens := t.gens } ∧
        (tree = false → (s.gen g).lost = true → (t.gen g).lost = false ∧ (t.gen g).presentT = s.now))) ∧
    (s.get (Reg.CLK_GENg_STAT_HOLD g) = 1 → (s.gen g).holdT + 1024000 ≤ s.now → s.get Reg.CLK_STAT_BACKUP = 0 → freqStopped s = false →
      Answers .holdoverTimeout s (fun t => t.get Reg.CLK_STAT_BACKUP = 1 ∧ t.get Reg.CLK_STAT_SAFE = 1 ∧ t.get Reg.CLK_FREQ_CTL_PENDING = 1 ∧
        ∃ ta, t.freq = some ⟨800, ta, false, true, false⟩)) ∧
    (hostOpen s 0x30000C = true → s.get Reg.CLK_STAT_BACKUP = 1 →
      ((∀ k : Fin 72, (s.gen k).lost = false ∧ (s.gen k).presentT + 100 * 1024000 ≤ s.now) → s.freq = none →
        Answers .restore s (fun t => t.get Reg.CLK_FREQ_CTL_PENDING = 1 ∧ ∃ ta, t.freq = some ⟨800, ta, false, false, true⟩)) ∧
      ((s.gen g).lost = true → Answers .restore s (fun t => t.freq = s.freq ∧ ∃ k, unstableGen s = some k ∧ t.log ≠ [])))

/-- At a beacon a region within 64 ticks of the master spreads its error over 1,024 ticks, one further behind steps to the master,
and one further ahead holds; a region in holdover does nothing. Under SRC 2 an edge of TIME_PPS_IN, not within 0.9 s of the last
one accepted, sets CLK_TERR to the distance of the nearest whole second and corrects the master; TIME_PPS_OUT rises at each whole
second; a stretch suppresses up to MAXSTRETCH edges of a Frame and counts them. A follower asks its parent for the time every
1,024,000 ticks, and runs free while the port towards it is down; a request is answered with its stamps; an answer corrects the
master by ((t2 − t1) − (t4 − t3)) half ticks; a record of a replayed flit does nothing. -/
def Obligations.TimeIsKept : Prop :=
  (∀ (s : State) (g : Fin 72), s.beaconK < s.now / 1024 →
    Answers .beacon s (fun t => t.beaconK = s.now / 1024 ∧ t.master = s.master ∧
      let r := s.region g
      let lim : Int := 64 * 2 ^ 32
      let e : Int := (s.master : Int) - r.cnt
      (s.get (Reg.CLK_GENg_STAT_HOLD g) = 1 → t.region g = r) ∧
      (s.get (Reg.CLK_GENg_STAT_HOLD g) ≠ 1 →
        (-lim ≤ e → e ≤ lim → t.region g = { r with corr := e, spread := 1024, hold := false }) ∧
        (lim < e → (t.region g).cnt = s.master ∧ (t.region g).hold = false) ∧
        (e < -lim → (t.region g).cnt = r.cnt ∧ (t.region g).hold = true)))) ∧
  (∀ (s : State) (f : Fin 64) (edges : Nat),
    (s.get Reg.CLK_TSYNC_SRC = 2 → (∀ p, s.ppsT = some p → p + 921600000 ≤ s.source) →
      let e := secondError s.now
      Answers .ppsInEdge s (fun t => t.ppsT = some s.source ∧ t.get Reg.CLK_TERR_ERR = unsigned 32 e ∧
        (-64 ≤ e → e ≤ 64 → t.masterCorr = e * 2 ^ 32 ∧ t.masterSpread = 1024 ∧ t.master = s.master) ∧
        (64 < e → (t.master : Int) = s.master + e * 2 ^ 32) ∧ (e < -64 → t.master = s.master ∧ (t.masterHold : Int) = -e * 2 ^ 32))) ∧
    (s.ppsOut < s.now / 1024000000 → ∃ t, exec .ppsOut s = .next t ∧ t = { s with ppsOut := s.now / 1024000000, ppsRise := some s.now } ∧ ppsLevel t = true) ∧
    (1 ≤ edges → edges ≤ 4 → (s.region f).skip = 0 → freqStopped s = false → 0 < s.get Reg.PWR_DROOP_CFG_MAXSTRETCH →
      let n := min edges (s.get Reg.PWR_DROOP_CFG_MAXSTRETCH)
      Answers (.clockStretch f edges) s (fun t => (t.region f).skip = n + 1 ∧ sget 0 t.gov.edges f = sget 0 s.gov.edges f + n ∧
        Sets s t [(Reg.FRM_STRETCHCNT_COUNT f, min (s.get (Reg.FRM_STRETCHCNT_COUNT f) + n) (2 ^ 32 - 1))]))) ∧
  (∀ (s : State) (p : Fin 16) (r : Record),
    (parentPort s = some p.val → s.get Reg.CLK_TSYNC_SRC = 1 → s.timeT + 1024000 ≤ s.now →
      (carries s p = true →
        Answers .timeExchange s (fun t => t.timeReq = some (p.val, s.timeOf (64 + p / 4)) ∧ t.timeT = s.now ∧ t.freeRun = false ∧ SameRegs s t [])) ∧
      (carries s p = false → Answers .timeExchange s (fun t => t.freeRun = true ∧ srcLevel t 193 = true ∧ t.timeT = s.now))) ∧
    (RecordReady s p 10 r →
      let u := rxConsume s p r
      let stamp := if (rxChannel s p (recBytes r)).isSome then (s.port p).rxT else s.timeOf (64 + p / 4)
      (r.val = 0 → exec (.time p r false) s = .next (evRefresh (putRecord u p 2
        { typ := 10, len1 := 15, dest := r.src, src := u.myId, addr := 0, val := 1,
          data := toLE 8 stamp ++ toLE 8 (u.timeOf (64 + p / 4)) }))) ∧
      (∀ t1, r.val = 1 → s.timeReq = some (p.val, t1) → r.data.length = 16 →
        let e := ((leAt r.data 0 8 : Int) - t1) - ((stamp : Int) - leAt r.data 8 8)
        Answers (.time p r false) s (fun t => t.timeReq = none ∧
          (-128 ≤ e → e ≤ 128 → t.masterCorr = e * 2 ^ 31 ∧ t.masterSpread = 1024 ∧ t.master = s.master) ∧
          (128 < e → (t.master : Int) = s.master + e * 2 ^ 31))) ∧
      exec (.time p r true) s = .next (evRefresh u)))

/-! ## Errors and the mesh (06, 17) -/

/-- A module-fatal error stops the module once: the Frames', Ply units' and ports' registers are reset, MSTOP is 1, the log tells
the error and the stop, and the flash keeps the records. Two of the commands that raise one: a crossing out of tolerance, and a
packet held for 100 µs. -/
def Obligations.ModuleStops : Prop :=
  ∀ (s : State) (f : Fin 64) (port : Fin 6) (vc : Fin 3) (p : MeshPkt) (rest : List MeshPkt), s.get Reg.STU_ERR_STAT_MSTOP = 0 →
    let stops (unit cause : Nat) (o : Host.Outcome State Fault Refusal) := ∃ t, o = .next t ∧ t.get Reg.STU_ERR_STAT_MSTOP = 1 ∧
      (∃ r ∈ t.log, r.seq = s.nextSeq ∧ r.sev = 3 ∧ r.unit = unit ∧ r.cause = cause ∧ r.index = f) ∧
      (∃ r ∈ t.log, r.sev = 3 ∧ r.unit = 0 ∧ r.cause = 9 ∧ r.d0 = s.nextSeq) ∧ t.errArea ≠ [] ∧
      t.cores = [] ∧ t.queues = [] ∧ t.spins = [] ∧ t.ports = [] ∧ t.shards = [] ∧ t.aborts = [] ∧
      (∀ k : Fin 256, t.get (Reg.FRM_KNOTk_VALUE f k) = 0) ∧ t.get Reg.PLY_STEP_STATE = 0
    stops 6 7 (exec (.phaseError f) s) ∧
    (freqStopped s = false → s.meshQ f port vc = p :: rest → p.t + 100 * 1024 ≤ s.now →
      (waitsRetry s p && p.dsts.any (fun d => d.router = f.val)) = false → stops 6 6 (exec (.meshWatchdog f port) s))

/-- A router hands a Knot add for its own Frame to the Knot, and passes on a packet for other Frames, a copy to every branch,
where each next buffer has room; a payload that proves uncorrectable goes on marked; without room, or without a clock edge, the
packet stays. -/
def Obligations.MeshForwards : Prop :=
  ∀ (s : State) (f : Fin 64) (port : Fin 6) (vc : Fin 3) (ecc mem : Ecc) (p : MeshPkt) (rest : List MeshPkt), s.meshQ f port vc = p :: rest →
    (frameStill s f = false → ∀ k d : Nat, p.dsts = [.frame f] → p.op = .kadd k d → p.who = .none → p.bad = false →
      s.knot (k / 256) (k % 256) + d < 2 ^ 32 →
      Answers (.meshPacket f port vc .ok mem) s (fun t => (∃ l, t.meshQ f port vc = rest ++ l) ∧
        Sets s t [(Reg.FRM_KNOTk_VALUE (k / 256) (k % 256), s.knot (k / 256) (k % 256) + d)])) ∧
    (frameStill s f = false → ecc = .ok ∨ ecc = .double → (∀ d ∈ p.dsts, d.router ≠ f) → branchRoom s f vc p = true →
      Answers (.meshPacket f port vc ecc mem) s (fun t => (∃ l, t.meshQ f port vc = rest ++ l) ∧
        (∀ b ∈ branches f p, t.meshQ b.1 b.2 vc = s.meshQ b.1 b.2 vc ++
          [{ p with dsts := p.dsts.filter (fun d => meshNext f d.router = b), bad := p.bad || ecc = .double, t := s.now }]) ∧
        (ecc = .ok → SameRegs s t []))) ∧
    (ecc ≠ .header → branchRoom s f vc p = false → exec (.meshPacket f port vc ecc mem) s = .next s) ∧
    (frameStill s f = true → exec (.meshPacket f port vc ecc mem) s = .next s)

/-! ## The Weft (11) -/

/-- A flit whose check holds and none of whose codewords has more symbol errors than are corrected advances the port's expected
sequence number and ends a discard, unless it is idle; another is counted, delivers nothing, and starts a discard; a NAK is
repeated 2 µs after the last. Every codeword that ends with the flit is counted, corrected or lost. -/
def Obligations.FlitsInOrder : Prop :=
  ∀ (s : State) (p : Fin 16) (bytes : List Byte) (cws : List Codeword), portUp s p = true → (s.port p).retrain = none →
    (bytes.length = 512 → stopped s = false →
      let x := s.port p
      let good : Prop := leAt bytes 508 4 = flitCrc (bytes.take 508) x.rxSeq s.myId p
      let sound : Prop := ∀ c ∈ cws, c.errs ≤ 15
      let count (r : Ref) (n : Nat) : Ref × Nat := (r, min (s.get r + n) (2 ^ r.width - 1))
      (good → sound → bit (leAt bytes 0 4) 24 = false →
        Answers (.flit p bytes cws) s (fun t => (t.port p).rxSeq = (x.rxSeq + 1) % 4096 ∧ (t.port p).discard = false)) ∧
      (good → sound → bit (leAt bytes 0 4) 24 = true → Answers (.flit p bytes cws) s (fun t => (t.port p).rxSeq = x.rxSeq)) ∧
      ((¬ good ∨ ∃ c ∈ cws, 15 < c.errs) → Answers (.flit p bytes cws) s (fun t =>
        (t.port p).rxSeq = x.rxSeq ∧ (t.port p).rx = x.rx ∧ (t.port p).discard = true ∧ (t.port p).sent.length = 1 ∧
        SameRegs s t ([Reg.LNK_PORTp_FECCNT_COUNT p, Reg.LNK_PORTp_CRCCNT_UNCORR p, Reg.LNK_PORTp_CRCCNT_FAIL p].map (fun r => r.key)) ∧
        ∀ y ∈ [count (Reg.LNK_PORTp_FECCNT_COUNT p) (cws.filter (fun c => c.ends && c.errs ≠ 0 && c.errs ≤ 15)).length,
               count (Reg.LNK_PORTp_CRCCNT_UNCORR p) (cws.filter (fun c => c.ends && 15 < c.errs)).length], t.get y.1 = y.2)) ∧
      (¬ good → Answers (.flit p bytes cws) s (fun t =>
        t.get (Reg.LNK_PORTp_CRCCNT_FAIL p) = (count (Reg.LNK_PORTp_CRCCNT_FAIL p) 1).2))) ∧
    ((s.port p).discard = true → (s.port p).nakT + 2 * 1024 ≤ s.now → Answers (.nakRepeat p) s (fun t => (t.port p).nakT = s.now ∧
      (t.port p).sent.length = 1 ∧ SameRegs s t []))

/-- A port goes down when its retries are exhausted, its signal is lost, or software retrains or disables it: it forgets its
streams and unanswered requests and says so. A lane that fails is marked, and the port retrains on what is left, or goes down with
fewer than 2 lanes; retraining ends on 4 or 2 lanes; a down port with a role comes up when its far end is the right one, on 4
lanes or 2, and says that a cable is wrong when it is another. -/
def Obligations.PortsChange : Prop :=
  (∀ (s : State) (p : Fin 16), portUp s p = true →
    let down (c : Instr) (st : Nat) := Answers c s (fun t => t.get (Reg.LNK_PORTp_STAT_STATE p) = st ∧ (t.port p).reqs = [] ∧
      (t.port p).replay = [] ∧ (t.port p).rx = [] ∧ t.get (Reg.LNK_PORTp_STAT_DOWN_EVT p) = 1 ∧
      ∀ w ∈ t.withheld, w.port ≠ some p.val)
    ((s.port p).replay ≠ [] → (s.port p).ackT + 1024000 ≤ s.now → down (.retryExhausted p) 0) ∧
    down (.lossOfSignal p) 0 ∧
    (hostOpen s 0x601008 = true → down (.disable p) 0 ∧
      down (.retrain p) (if hasPeer s p = true ∧ s.get (Reg.LNK_PORTp_CTL_DISABLE p) = 0 then 1 else 0))) ∧
  (∀ (s : State) (p : Fin 16) (lane : Fin 5) (y : Peer),
    (portUp s p = true → bit (s.get (Reg.LNK_PORTp_STAT_LANE_BAD p)) lane = false → s.get (Reg.LNK_PORTp_STAT_LANE_BAD p) < 32 →
      let n := (goodLanes s p).length
      let wide := s.get (Reg.LNK_PORTp_STAT_STATE p) = 2 ∧ (s.port p).retrain ≠ some 2
      Answers (.laneFail p lane) s (fun t => bit (t.get (Reg.LNK_PORTp_STAT_LANE_BAD p)) lane = true ∧
        (5 ≤ n → wide → (t.port p).retrain = some 4) ∧
        (3 ≤ n → (n < 5 ∨ ¬ wide) → (t.port p).retrain = some 2) ∧
        (3 ≤ n → t.get (Reg.LNK_PORTp_STAT_RETRY p) = 1) ∧ (3 ≤ n → n < 5 → t.get (Reg.LNK_PORTp_STAT_DEGRADE p) = 1) ∧
        (n < 3 → t.get (Reg.LNK_PORTp_STAT_STATE p) = 0))) ∧
    (∀ k, (s.port p).retrain = some k → Answers (.portRetrainDone p) s (fun t =>
      t.get (Reg.LNK_PORTp_STAT_STATE p) = (if k = 4 then 2 else 3) ∧ t.get (Reg.LNK_PORTp_STAT_RETRY p) ≠ 1 ∧ (t.port p).retrain = none)) ∧
    (portUp s p = false → hasPeer s p = true → s.get (Reg.LNK_PORTp_CTL_DISABLE p) = 0 → stopped s = false → portsRetry s = true →
      s.get Reg.STU_PINS_PERST ≠ 1 → (s.get (Reg.LNK_PORTp_STAT_STATE p) = 1 ∨ (s.port p).downT + 100 * 1024000 ≤ s.now) →
      let told := (s.port p).toldErr
      let l := (y.lanes.map (fun i => i.val)).eraseDups
      let k : Nat := if 4 ≤ min l.length y.far then 4 else 2
      let right := peerOk ((s.put (Reg.LNK_PORTp_PEER_MOD p) y.mod).put (Reg.LNK_PORTp_PEER_PORT p) y.port) p y
      (2 ≤ min l.length y.far → right = true → Answers (.portTrainRetry p (some y)) s (fun t =>
        t.get (Reg.LNK_PORTp_STAT_STATE p) = (if k = 4 then 2 else 3) ∧ t.port p = { PortSt.empty with lanes := l.take k } ∧
          (k = 2 → t.get (Reg.LNK_PORTp_STAT_DEGRADE p) = 1) ∧
          t.get (Reg.LNK_PORTp_PEER_MOD p) = y.mod ∧ t.get (Reg.LNK_PORTp_PEER_PORT p) = y.port)) ∧
      (2 ≤ min l.length y.far → right = false → Answers (.portTrainRetry p (some y)) s (fun t =>
        t.get (Reg.LNK_PORTp_STAT_STATE p) = 0 ∧ t.port p = { PortSt.empty with downT := s.now, toldErr := true } ∧
          t.get (Reg.LNK_PORTp_STAT_CABLE_ERR p) = 1 ∧ (told = false → t.get (Reg.LNK_PORTp_STAT_DOWN_EVT p) = 1))) ∧
      (min l.length y.far < 2 → Answers (.portTrainRetry p (some y)) s (fun t =>
        t.get (Reg.LNK_PORTp_STAT_STATE p) = 0 ∧ (t.port p).downT = s.now)) ∧
      Answers (.portTrainRetry p none) s (fun t => t.get (Reg.LNK_PORTp_STAT_STATE p) = 0 ∧ (t.port p).downT = s.now)))

/-- A record for another module of the fabric is passed on along its route where that is up; where it is down a request is refused
and an answer dropped; one for no module of the fabric is malformed; a record whose fields do not fit its row is no command of the
block. A multicast write goes as one packet to every port of its group's mask and, where LOCAL is 1, to the Frame that serves its
address; at a port it leaves on every port of the mask together; where one of those ports is down it is refused. -/
def Obligations.RecordsForward : Prop :=
  (∀ (s : State) (p : Fin 16) (r : Record) (resp : Resp) (ecc : Ecc),
    let u := rxConsume s p r
    let goes (c : Instr) (t : Nat) := RecordReady s p t r → r.dest ≠ s.myId →
      exec c s = .next (evRefresh (if inFabric s r.dest = false then malformed u p r
        else match forward u r with
          | some v => v
          | none => if isRequest r.typ then answerNow u p r (rejectRec u r 2) else u))
    goes (.write p r) 1 ∧ goes (.read p r resp) 2 ∧ goes (.rdata p r) 3 ∧ goes (.ack p r) 4 ∧ goes (.reject p r) 5 ∧
      goes (.acc p r ecc) 6 ∧ goes (.kaddRecord p r) 7 ∧ goes (.snap p r) 9 ∧
      (r.wfAs 1 = false → exec (.write p r) s = .fault .illFormed)) ∧
  (∀ (s : State) (p : Fin 16) (r : Record),
    let g := r.dest % 256
    let u := rxConsume s p r
    let way (t : State) := (t.meshQ (weftFrame p) 5 0 ++ sget [] t.edgeIn p).map (fun x => { x with t := 0 })
    let ports := (mcastPorts s g).map MeshEnd.weft
    (RecordReady s p 8 r → edgeRoom s p = true →
      (mcastUp s g = true → s.get (Reg.LNK_MGRPg_LOCAL g) = 0 → mcastPorts s g ≠ [] →
        Answers (.mcast p r) s (fun t => way t = way s ++ [⟨ports, .send r, .weft p r, 0, false, 0⟩] ∧ t.mem = s.mem)) ∧
      (mcastUp s g = true → s.get (Reg.LNK_MGRPg_LOCAL g) = 1 → frameBase ≤ r.addr → r.addr + r.data.length ≤ frameBase + 0x40000000 →
        Answers (.mcast p r) s (fun t => t.mem = s.mem ∧ (t.port p).inb = (u.port p).inb ++ [⟨r, none, 1, [], none, s.now⟩] ∧
          way t = way s ++ [⟨ports ++ [.frame ((r.addr - frameBase) / 0x1000000)], .send r, .weft p r, 0, false, 0⟩])) ∧
      (mcastUp s g = false → exec (.mcast p r) s = .next (evRefresh (answerNow u p r (rejectRec u r 2))))) ∧
    (∀ (f : Fin 64) (port : Fin 6) (q : Fin 16) (x : MeshPkt) (rest : List MeshPkt) (mem : Ecc),
      s.meshQ f port 0 = x :: rest → frameStill s f = false → weftFrame q = f → x.dsts = [.weft q] → x.op = .send r → r.typ = 8 →
      mcastPorts s g = [q.val] → sget [] s.edgeOut q = [] → portFree s q (mcastVc s q r.src) = true →
      Answers (.meshPacket f port 0 .ok mem) s (fun t => t.port q = (putRecord s q (mcastVc s q r.src) r).port q ∧
        sget [] t.edgeOut q = [] ∧ t.mem = s.mem)))

/-- Requests for this module are served: a WRITE, a READ or a Knot add goes over the mesh to the Frame that serves its address,
and the port keeps the request until it is answered; the Frame stores the bytes of a write, and no others, and answers; a READ of
host memory is answered with the bytes, a SNAP is acknowledged, and a WRITE to no memory is refused. A write of LNK_KADD for this
module adds to its Knot, and one for another sends a Knot add towards it. -/
def Obligations.RequestsServed : Prop :=
  (∀ (s : State) (p : Fin 16) (r : Record), r.dest = s.myId →
    let u := rxConsume s p r
    let n := r.len1 + 1
    let inFrame := frameBase ≤ r.addr ∧ r.addr + n ≤ frameBase + 0x40000000 ∧ r.addr % 256 + n ≤ 256
    let way (t : State) := (t.meshQ (weftFrame p) 5 0 ++ sget [] t.edgeIn p).map (fun x => { x with t := 0 })
    let enters (c : Instr) (f : Nat) (op : MeshOp) := Answers c s (fun t =>
      way t = way s ++ [⟨[.frame f], op, .weft p r, 0, false, 0⟩] ∧
        (t.port p).inb = (u.port p).inb ++ [⟨r, none, 1, [], none, s.now⟩] ∧ t.mem = s.mem)
    (RecordReady s p 1 r →
      (edgeRoom s p = true → inFrame → enters (.write p r) ((r.addr - frameBase) / 0x1000000) (.write r.addr r.data)) ∧
      (edgeRoom s p = true → backed s r.addr r.data.length = false →
        exec (.write p r) s = .next (evRefresh (answerNow u p r (rejectRec u r 1))))) ∧
    (RecordReady s p 2 r → edgeRoom s p = true →
      (∀ resp, inFrame → enters (.read p r resp) ((r.addr - frameBase) / 0x1000000) (.read r.addr n)) ∧
      (hostBase ≤ r.addr → r.addr + n ≤ 2 ^ 48 →
        exec (.read p r .ok) s = .next (evRefresh (answerNow u p r (dataRec u r (sgetList 0 s.mem r.addr n)))) ∧
        exec (.read p r .hostUR) s = .next (evRefresh (answerNow u p r (rejectRec u r 7))))) ∧
    (RecordReady s p 7 r → edgeRoom s p = true → undelivered s r.src = false →
      (r.addr < 16384 → enters (.kaddRecord p r) (r.addr / 256) (.kadd r.addr r.val)) ∧
      (16384 ≤ r.addr → exec (.kaddRecord p r) s = .next (evRefresh (answerNow u p r (rejectRec u r 6))))) ∧
    (RecordReady s p 9 r → exec (.snap p r) s = .next (evRefresh (answerNow u p r (ackRec u r)))) ∧
    (∀ (f : Fin 64) (port : Fin 6) (q : Nat) (x : MeshPkt) (rest : List MeshPkt) (a : Nat) (d : List Byte) (mem : Ecc),
      s.meshQ f port 0 = x :: rest → frameStill s f = false → x.dsts = [.frame f] → x.op = .write a d → x.who = .weft q r → x.bad = false →
      frameBase ≤ a → a + d.length ≤ frameBase + 0x40000000 → d ≠ [] → serveRoom s f x = true →
      Answers (.meshPacket f port 0 .ok mem) s (fun t => sgetList 0 t.mem a d.length = d ∧ SameRegs s t [] ∧
        (∀ y, (y < a ∨ a + d.length ≤ y) → sget 0 t.mem y = sget 0 s.mem y) ∧
        t.meshQ f 0 1 = s.meshQ f 0 1 ++ [⟨[.weft q], .ack a none, .weft q r, x.task, false, s.now⟩]))) ∧
  (∀ (s : State) (v : BitVec 64), hostOpen s 0x600008 = true →
    let m := v.toNat % 2 ^ 16
    let k := v.toNat / 2 ^ 16 % 2 ^ 14
    let d := v.toNat / 2 ^ 32
    (m = s.myId → s.knot (k / 256) (k % 256) + d < 2 ^ 32 →
      RegEffect s [(Reg.FRM_KNOTk_VALUE (k / 256) (k % 256), s.knot (k / 256) (k % 256) + d)] (exec (.lnkKadd v) s)) ∧
    (∀ t, m ≠ s.myId → sendReq s { typ := 7, len1 := 0, dest := m, src := s.myId, addr := k, val := d, data := [] } .knot = .sent t →
      exec (.lnkKadd v) s = .next (evRefresh t)))

/-- Answers reach who asked: RDATA gives a Shuttle queue the bytes it asked for, an ACK of one completes the oldest request to its
module, and a REJECT is kept in LNK_ERRLOG where none is. -/
def Obligations.AnswersReturn : Prop :=
  ∀ (s : State) (p : Fin 16) (r : Record) (x : PendReq) (v : State) (f : Fin 64) (j : Fin 16), r.dest = s.myId →
    let u := rxConsume s p r
    (RecordReady s p 3 r → popReq u (fun x => x.typ = 2 && x.dest = r.src && x.addr = r.addr) = some (x, v) → x.who = .shuttle f j →
      let key := placeKey (some r.src) r.addr
      (∃ a, (v.sh f j).asked.find? (fun a => a.key = key) = some a ∧ a.len = r.len1 + 1) → v.get (Reg.FRM_SQj_STATE_CANCEL_BUSY f j) ≠ 1 →
      Answers (.rdata p r) s (fun t => (t.sh f j).asked = dropReq key (v.sh f j).asked ∧
        sgetList none (t.sh f j).rbuf key r.data.length = r.data.map some)) ∧
    (RecordReady s p 4 r → r.val = 1 → popReq u (fun x => x.dest = r.src && x.typ ≠ 2) = some (x, v) → x.who = .shuttle f j →
      Answers (.ack p r) s (fun t => (t.sh f j).unacked = dropReq (placeKey (some x.dest) x.addr) (v.sh f j).unacked ∧ t.ports = v.ports)) ∧
    (RecordReady s p 5 r → s.get Reg.LNK_ERRLOG_VALID = 0 → popReq u (fun x => x.dest = r.src && x.addr = r.addr) = some (x, v) → x.who = .knot →
      Answers (.reject p r) s (fun t => t.get Reg.LNK_ERRLOG_VALID = 1 ∧ t.get Reg.LNK_ERRLOG_CAUSE = r.val % 256 ∧
        t.get Reg.LNK_ERRLOG_PORT = p ∧ t.get Reg.LNK_ERRLOG_MOD = r.src % 2 ^ 16 ∧ t.ports = v.ports))

/-! ## The Ply units, the step and Glazes (12, 13, 16) -/

/-- A contribution of one piece that is next in rank order of its line, and not its last, is added and counted; a piece of neither
the current attempt nor the next step is counted as stale and changes no memory and no statistics. -/
def Obligations.PiecesAreAdded : Prop :=
  ∀ (s : State) (p : Fin 16) (r : Record) (sh : Shard), RecordReady s p 6 r → r.dest = s.myId →
    let u := openReq s p r 1
    let x := firstPiece r
    shardOf s (accShard r) = some sh → accBad s r = false → r.data.length ≤ 128 → s.withheld = [] →
    ((x.step, x.att) ≠ curAtt s → (x.step, x.att) ≠ nextAtt s → Answers (.acc p r .ok) s (fun t =>
      t.get Reg.PLY_STALECNT_COUNT = min (s.get Reg.PLY_STALECNT_COUNT + 1) (2 ^ 32 - 1) ∧ t.mem = s.mem ∧ t.stats = s.stats ∧ t.held = s.held)) ∧
    (∀ (u1 u2 : State) (hd bs : List Byte), (x.step, x.att) = curAtt s → devRead u (sh.lbase + 8 * x.line) 8 = ⟨u1, hd, none⟩ →
      hdrOf (ofLE hd) = ⟨x.step, x.att, x.rank⟩ → devRead u1 (sh.abase + 256 * x.line) 256 = ⟨u2, bs, none⟩ →
      x.rank + 1 < sh.ranks.length →
      (∀ y ∈ s.held, y.shard ≠ x.shard ∨ y.line ≠ x.line) →
      let w := devWrite (countPiece u2 sh x) (sh.abase + 256 * x.line) (pairBytes (addVals (pairsOf bs) x.vals))
      let w := devWrite w.st (sh.lbase + 8 * x.line) (hdrBytes ⟨x.step, x.att, x.rank + 1⟩)
      Answers (.acc p r .ok) s (fun t => t.mem = w.st.mem ∧ t.lines = w.st.lines ∧ (t.stat sh.sclass 0).pn = (s.stat sh.sclass 0).pn + 1 ∧
        (t.stat sh.sclass 0).s1 = vadd (s.stat sh.sclass 0).s1 (f32val (sumSq x.vals)) ∧ (t.stat sh.sclass 0).ln = (s.stat sh.sclass 0).ln))

/-- Arrival and deadline: a module in RUN whose AK Knot has reached PLY_ATHR has ARRIVED, and one still in RUN at its deadline has
FAILED with LATE. A COMMIT that has come to an arrived module takes it to the next step, and after the job's last step ends the
job; one that has come to a module that has not arrived is used up. -/
def Obligations.StepsCommit : Prop :=
  (∀ s : State, s.get Reg.PLY_STEP_STATE = 1 →
    (s.get Reg.PLY_ATHR_COUNT ≤ stepCount s 0 → Answers .stepArrive s (fun t => t.get Reg.PLY_STEP_STATE = 2 ∧
      t.get Reg.PLY_STEP_STEP = s.get Reg.PLY_STEP_STEP ∧
      (rootId s = s.myId → stepCount s 2 < 2 ^ 32 - 1 → stepCount t 2 = stepCount s 2 + 1))) ∧
    (s.stepSt.runT + min 600000000 (max 1000 (s.get Reg.PLY_STEPCFG_DEADLINE)) * 1024 ≤ s.now →
      Answers .stepDeadline s (fun t => t.get Reg.PLY_STEP_STATE = 3 ∧ t.get Reg.PLY_STAT_LATE = 1 ∧
        t.get Reg.PLY_STEP_STEP = s.get Reg.PLY_STEP_STEP))) ∧
  (∀ s : State, s.stepSt.ccom < stepCount s 5 → s.job.loaded = true →
    let n := s.get Reg.PLY_STEP_STEP
    (s.get Reg.PLY_STEP_STATE = 2 → Answers .commit s (fun t => t.get Reg.PLY_STEP_STEP = (n + 1) % 2 ^ 32 ∧ t.get Reg.PLY_STEP_ATTEMPT = 0 ∧
      t.commits = s.commits + 1 ∧ t.job.last = n ∧ t.stepSt.ccom = s.stepSt.ccom + 1 ∧
      (n = (s.job.first + s.job.nstep - 1) % 2 ^ 32 → t.get Reg.PLY_STEP_STATE = 6 ∧ t.job.loaded = false))) ∧
    (s.get Reg.PLY_STEP_STATE ≠ 2 → ∃ t, exec .commit s = .next t ∧ t = { s with stepSt := { s.stepSt with ccom := s.stepSt.ccom + 1 } }))

/-- A REPLAY takes a module that runs, has arrived or has failed to QUIESCE, with its wide buffers and accumulators clear, or ends
its job where MAXREPLAY is reached; quiet, it is HELD; and a RESUME runs the next attempt with every core of a task at its entry.
-/
def Obligations.StepsReplay : Prop :=
  ∀ s : State,
    (s.stepSt.crep < stepCount s 6 → s.job.loaded = true → 1 ≤ s.get Reg.PLY_STEP_STATE → s.get Reg.PLY_STEP_STATE ≤ 3 →
      (s.get Reg.PLY_STEP_ATTEMPT < s.get Reg.PLY_STEPCFG_MAXREPLAY → Answers .replay s (fun t => t.get Reg.PLY_STEP_STATE = 4 ∧
        t.get Reg.PLY_REPLAYCNT_COUNT = min (s.get Reg.PLY_REPLAYCNT_COUNT + 1) (2 ^ 32 - 1) ∧
        ∀ (f : Fin 64) (n : Fin 9), (t.spin f n).wb = [] ∧ (t.spin f n).acc = [])) ∧
      (s.get Reg.PLY_STEPCFG_MAXREPLAY ≤ s.get Reg.PLY_STEP_ATTEMPT → Answers .replay s (fun t => t.get Reg.PLY_STEP_STATE = 6 ∧
        t.get Reg.PLY_STAT_JOBFAIL = 1 ∧ t.job.loaded = false))) ∧
    (s.get Reg.PLY_STEP_STATE = 4 → s.aborts = [] → s.glazeReq = none → Answers .quiesceDone s (fun t => t.get Reg.PLY_STEP_STATE = 5 ∧
      t.stepSt.heldT = s.now ∧ t.get Reg.STU_GLAZE_CURRENT = s.job.startG % 32)) ∧
    (s.stepSt.cres < stepCount s 7 → s.job.loaded = true → s.get Reg.PLY_STEP_STATE = 5 → s.withheld = [] →
      (∀ sh ∈ s.shards, ∀ k, rankOf sh s.myId ≠ some (k, 0)) → Answers .resume s (fun t => t.get Reg.PLY_STEP_STATE = 1 ∧
        t.stepSt.owed = s.stepSt.owed ∧
        t.get Reg.PLY_STEP_ATTEMPT = (s.get Reg.PLY_STEP_ATTEMPT + 1) % 16 ∧ t.held = [] ∧
        ∀ (f : Fin 64) (c : Fin 4), s.cTask f c ≠ 0 → t.cState f c = 1 ∧ t.pc f c = (s.core f c).entry % 2 ^ 64))

/-- The root takes one decision an attempt: commit when every module has arrived, replay on a failure; it resumes when every
module is quiet, and ends the job when one is not within 100 ms; a module that waits for the root beyond its bound ends the job.
-/
def Obligations.RootDecides : Prop :=
  ∀ s : State,
    let own (i : Nat) (t : State) : Prop :=
      s.job.ranks.count s.myId = 1 → stepCount s i < 2 ^ 32 - 1 → stepCount t i = stepCount s i + 1
    let lost (t : State) : Prop := t.get Reg.PLY_STEP_STATE = 6 ∧ t.get Reg.PLY_STAT_ROOTLOST = 1 ∧ t.job.loaded = false
    (isRoot s = true →
      (s.stepSt.decided = false →
        (s.job.nmod ≤ stepCount s 2 → Answers .rootCommit s (fun t => t.stepSt.decided = true ∧ t.stepSt.crepT = s.stepSt.crepT ∧ own 5 t)) ∧
        (s.get Reg.PLY_STEP_STATE ≤ 3 → stepCount s 2 < s.job.nmod →
          (stepCount s 3 ≠ 0 ∨ s.stepSt.runT + min 600000000 (max 1000 (s.get Reg.PLY_STEPCFG_DEADLINE)) * 1024 + 1024000 ≤ s.now) →
          Answers .rootReplay s (fun t => t.stepSt.decided = true ∧ t.stepSt.crepT = some s.now ∧ own 6 t))) ∧
      (s.stepSt.crepT.isSome → s.job.nmod ≤ stepCount s 4 → stepCount s 7 + s.job.ranks.length < 2 ^ 32 →
        Answers .rootResume s (fun t => t.stepSt.crepT = none ∧
          stepCount t 2 = 0 ∧ stepCount t 3 = 0 ∧ stepCount t 4 = 0 ∧ own 7 t)) ∧
      (∀ c, s.stepSt.crepT = some c → stepCount s 4 < s.job.nmod → c + 100 * 1024000 ≤ s.now → Answers .rdoneTimeout s lost)) ∧
    (s.job.loaded = true → rootSilent s = true → rootQuiet s = true → Answers .rootlost s lost)

/-- A Glaze request of the number due and a defined index sets BUSY and waits for the rings; when they are empty the Glaze comes
into force, every Frame's rings take their shadow registers, and ACK_KNOT gets 1; any other request, and one whose word cannot be
read, is refused. -/
def Obligations.GlazesSwitch : Prop :=
  ∀ (s : State) (ecc : Ecc),
    (s.job.loaded = true → s.job.nextG ≠ 0 → s.glazeReq = none → 1 ≤ s.get Reg.PLY_STEP_STATE → s.get Reg.PLY_STEP_STATE ≤ 3 →
      s.job.nextG ≤ s.knot (s.job.reqK / 256) (s.job.reqK % 256) → freqStopped s = false →
      let w := requestWord s
      let right := w / 2 ^ 32 % 2 ^ 32 = s.job.nextG ∧ w % 2 ^ 32 < s.job.glazes.length ∧ w % 2 ^ 32 < 32
      (right → (ecc = .ok ∨ ecc = .single) → Answers (.glazeRequest ecc) s (fun t =>
        t.get Reg.STU_GLAZE_BUSY = 1 ∧ t.glazeReq = some (w % 2 ^ 32, w) ∧ t.force = s.force)) ∧
      (¬ right ∨ ecc = .double → Answers (.glazeRequest ecc) s (fun t => t.get Reg.STU_GLAZE_BUSY = 0 ∧ t.glazeReq = none ∧ t.job.nextG = 0 ∧
        t.force = s.force))) ∧
    (∀ g w, s.glazeReq = some (g, w) → ringsEmpty s = true → freqStopped s = false → flexDown s = none →
      s.knot (s.job.ackK / 256) (s.job.ackK % 256) < 2 ^ 32 - 1 → Answers .glazeSwitch s (fun t => t.get Reg.STU_GLAZE_CURRENT = g % 32 ∧
        t.get Reg.STU_GLAZE_BUSY = 0 ∧ t.get Reg.STU_GLAZE_COUNT = (s.get Reg.STU_GLAZE_COUNT + 1) % 2 ^ 16 ∧ t.switches = s.switches + 1 ∧
        t.glazeReq = none ∧ (∀ (f : Fin 64) (k : Fin 5), ∀ q ∈ ringFields f k, inForce t q = s.get q)))

/-! ## Power and the host port (14, 15) -/

/-- The governor acts once in 100 µs and the mismatch check in 1 ms once a boot has ended; the limiter in 10 µs and COOL_ID in 1
ms through the boot too: TJ is the hottest reading, f_therm falls by 25 MHz at 105 °C and rises where all are below 100 °C,
THROTTLE tells an effective clock below 0.97 of the class value; HOLD rises by 2 above the cap, to at most 12, and falls by 1
below 0.97 of it; ten bad windows in a row set MODEL_MISMATCH; a changed COOL_ID fixes the cap at 1,600 W; at 125 °C the power
stage is switched off and the module stops; a user cap is held between 800 W and the class cap. -/
def Obligations.PowerIsGoverned : Prop :=
  ∀ s : State,
    (∀ m : Meas, hostOpen s 0x400000 = true → m.wf = true → hasClass s = true → s.gov.govK < s.now / 102400 → Answers (.governorInterval m) s (fun t =>
      t.gov.govK = s.now / 102400 ∧ t.gov.userCap = s.get Reg.PWR_CAP_USER_CAP_W ∧ t.get Reg.PWR_TJ_TJ_C = m.tj.foldl max 0 ∧
      t.gov.fTherm = (if ∃ x ∈ m.tj, 105 ≤ x then max 800 (s.gov.fTherm - 25)
        else if ∀ x ∈ m.tj, x < 100 then min 2250 (s.gov.fTherm + 25) else s.gov.fTherm) ∧
      t.get Reg.PWR_STAT_THROTTLE = (if 100 * s.gov.effSum < 97 * 16 * s.gov.ticks * classMhz s then 1 else 0) ∧
      (stretched s = true → t.gov.fDroop = max 800 (s.get Reg.CLK_FREQ_CUR_MHZ - 25)))) ∧
    (∀ inW dieW : Nat, powered s = true → inW < 65536 → dieW < 65536 → s.gov.fastK < s.now / 10240 → Answers (.fastLimiter inW dieW) s (fun t =>
      let h := s.get Reg.PWR_HOLD_HOLD
      t.gov.fastK = s.now / 10240 ∧ Sets s t [(Reg.PWR_IN_IN_W, inW), (Reg.PWR_IN_DIE_W, dieW),
        (Reg.PWR_HOLD_HOLD, (if hasClass s = false then h else if effCap s < inW then min 12 (h + 2)
          else if 100 * inW < 97 * effCap s then h - 1 else h) % 16)])) ∧
    (∀ estW dieW : Nat, hostOpen s 0x400000 = true → estW < 65536 → dieW < 65536 → s.gov.winK < s.now / 1024000 →
      let bad := 15 * dieW < 100 * ((estW : Int) - dieW).natAbs
      Answers (.modelMismatch estW dieW) s (fun t => t.get Reg.PWR_EST_EST_W = estW ∧ t.gov.winK = s.now / 1024000 ∧
        (¬ bad → t.gov.badWin = 0 ∧ t.get Reg.PWR_STAT_MODEL_MISMATCH = s.get Reg.PWR_STAT_MODEL_MISMATCH) ∧
        (bad → s.gov.badWin < 9 → t.gov.badWin = s.gov.badWin + 1) ∧
        (bad → s.gov.badWin = 9 → s.get Reg.PWR_STAT_MODEL_MISMATCH = 0 →
          t.get Reg.PWR_STAT_MODEL_MISMATCH = 1 ∧ Recorded t 0 12 2 0))) ∧
    (∀ code : BitVec 3, samples s = true → s.gov.coolK < s.now / 1024000 → code.toNat ≠ s.get Reg.PWR_CLASS_COOL_ID →
      Answers (.coolIdSample code) s (fun t => t.get Reg.PWR_CLASS_COOL_ID = code.toNat ∧ t.get Reg.PWR_STAT_COOLCHG = 1 ∧ effCap t = 1600 ∧
        stopped t = true)) ∧
    (∀ (f : Fin 64) (tj : Nat), 125 ≤ tj → tj < 256 → s.get Reg.STU_PINS_PGOOD ≠ 0 → Answers (.thermalTrip f tj) s (fun t => t.get Reg.STU_PINS_PGOOD = 0 ∧
      t.get Reg.STU_PINS_TRIPPED = 1 ∧ t.pwrStage = 3 ∧ t.get Reg.PWR_TJ_TJ_C = tj ∧ t.get Reg.PWR_TJ_FRAME = f ∧ stopped t = true)) ∧
    ∀ w : BitVec 16, hostOpen s 0x400004 = true → RegEffect s [(Reg.PWR_CAP_USER_CAP_W, min (s.get Reg.PWR_CLASS_CAP_W) (max 800 w.toNat))] (exec (.pwrCapUserWrite w) s)

/-- A ring's counts: SQ_TAIL and CQ_HEAD move on by their count's distance, modulo 2^32, where the ring has room, and stop the
ring with ERR otherwise; a fetch brings the entries at SQ_BASE, at most as many as may be fetched; none for 50 ms is an error; EN
1 makes an unlocked ring empty, EN 0 stops fetching; a completion that has waited TIME raises the ring's source. -/
def Obligations.RingsKeepCounts : Prop :=
  ∀ (s : State) (n : Fin 64) (v : BitVec 32),
    let r := s.ring n
    let fails (t : State) := (t.ring n).stopped = true ∧ t.get (Reg.HIF_RINGn_STAT_ERR n) = 1 ∧ Recorded t 0 13 1 n
    (hostOpen s (0x2000000 + 0x1000 * n) = true → ringOn s n = true → r.stopped = false →
      let d := (v.toNat + 2 ^ 32 - r.head % 2 ^ 32) % 2 ^ 32
      (d ≤ ringSize s n → Answers (.sqTail n v) s (fun t => (t.ring n).tail = r.head + d ∧ (t.ring n).head = r.head ∧
        (t.ring n).cmds = r.cmds ∧ SameRegs s t [] ∧ ∀ m : Fin 64, m ≠ n → t.ring m = s.ring m)) ∧
      (ringSize s n < d → Answers (.sqTail n v) s (fun t => fails t ∧ (t.ring n).tail = r.tail))) ∧
    (hostOpen s (0x2000008 + 0x1000 * n) = true →
      let d := (v.toNat + 2 ^ 32 - r.cqHead % 2 ^ 32) % 2 ^ 32
      (d ≤ r.written - r.cqHead → Answers (.cqHead n v) s (fun t => (t.ring n).cqHead = r.cqHead + d ∧ (t.ring n).used = r.used - d ∧
        SameRegs s t [] ∧ ∀ m : Fin 64, m ≠ n → t.ring m = s.ring m)) ∧
      (d ≠ 0 → r.written - r.cqHead < d → Answers (.cqHead n v) s (fun t => fails t ∧ (t.ring n).cqHead = r.cqHead))) ∧
    (∀ cnt : Nat, r.fetchT.isSome = true → 0 < cnt → fetchable s n ≠ 0 →
      let m := min cnt (fetchable s n)
      Answers (.entryFetch n cnt) s (fun t => (t.ring n).head = r.head + m ∧ (t.ring n).used = r.used + m ∧
        (t.ring n).cmds.length = r.cmds.length + m ∧ t.mem = s.mem ∧
        ∀ i, i < m → ∃ c, (t.ring n).cmds[r.cmds.length + i]? = some c ∧ c.k = r.head + i ∧
          c.bytes = sgetList 0 s.mem (hostBase + 64 * s.get (Reg.HIF_RINGn_BASE_ADDR n) + 64 * ((r.head + i) % ringSize s n)) 64)) ∧
    (∀ t0, r.fetchT = some t0 → t0 + 50 * 1024000 ≤ s.now →
      Answers (.fetchTimeout n) s (fun t => fails t ∧ (t.ring n).fetchT = none ∧ (t.ring n).head = r.head)) ∧
    (hostOpen s (0x1010 + 0x40 * n) = true →
      (ringLocked s n = false → Answers (.ringEnable n) s (fun t => t.ring n = HostRing.empty ∧ Sets s t [(Reg.HIF_RINGn_CFG_EN n, 1)])) ∧
      (ringOn s n = true → Answers (.ringDisable n) s (fun t => (t.ring n).fetchT = none ∧ (t.ring n).cmds = r.cmds ∧
        ((t.ring n).closing = true ↔ ∃ c ∈ r.cmds, isJob c = false) ∧ Sets s t [(Reg.HIF_RINGn_CFG_EN n, 0)]))) ∧
    (∀ t0 rest, r.times = t0 :: rest → s.get (Reg.HIF_RINGn_IRQ_TIME n) ≠ 0 → t0 + s.get (Reg.HIF_RINGn_IRQ_TIME n) * 1024 ≤ s.now →
      Answers (.coalesceTimeout n) s (fun t => srcLevel t (128 + n) = true ∧ OnlyRegs s t ∧ SameRegs s t []))

/-- Engine commands: NOP completes; KADD adds to its Knot; FLUSH begins a maintenance operation over its range that will complete
it; COPY from host memory into Frame memory moves its bytes and no others, and completes with the last; a completion is written at
the ring's next entry, or, with NOCQ and OK, only frees its slot; a read of host memory that fails, or has no completion for 8 ms,
ends the COPY with HOSTERR, answers a remote READ with a REJECT, and ends a Shuttle's read as one with Completer Abort. -/
def Obligations.HostCommandsRun : Prop :=
  ∀ (s : State) (n : Fin 64) (k : Nat) (c : HostCmd),
    (CmdReady s n k c 1 0 → Answers (.nop n k) s (fun t => CmdEnds t n k c 0 0 ∧ SameRegs s t [] ∧ t.mem = s.mem)) ∧
    (CmdReady s n k c 3 0 → stopped s = false →
      let g := leAt c.bytes 8 2
      let v := s.knot (g / 256) (g % 256) + leAt c.bytes 0xC 4
      v < 2 ^ 32 → Answers (.hostKadd n k) s (fun t => CmdEnds t n k c 0 0 ∧ Sets s t [(Reg.FRM_KNOTk_VALUE (g / 256) (g % 256), v)])) ∧
    (CmdReady s n k c 4 0 → s.flush = none → Answers (.flush n k) s (fun t => cmdOf t n k = some { c with start := true } ∧
      t.flush = some ⟨leAt c.bytes 8 1, if leAt c.bytes 0x18 8 = 0 then none else some (leAt c.bytes 0x10 8, leAt c.bytes 0x18 8), some (n, k)⟩ ∧
      Sets s t [(Reg.MEM_PALFL_CTL_BUSY, 1)] ∧ t.lines = s.lines ∧ t.mem = s.mem)) ∧
    ((CmdReady s n k c 2 0 ∨ (cmdOf s n k = some c ∧ leAt c.bytes 0 1 = 2 ∧ c.start = true ∧ c.result = none)) →
      ∀ len, c.moved < cpLen c → 0 < len → hostBase ≤ cpSrc c → cpSrc c + cpLen c ≤ 2 ^ 48 → frameBase ≤ cpDst c →
      cpDst c + cpLen c ≤ frameBase + 0x40000000 →
      freqStopped s = false →
      let m := min len (cpLen c - c.moved)
      Answers (.copy n k len .ok .ok) s (fun t => Stored s t (cpDst c + c.moved) (sgetList 0 s.mem (cpSrc c + c.moved) m) ∧ SameRegs s t [] ∧
        (cmdOf t n k).map (fun x => (x.moved, x.result)) = some (c.moved + m, if c.moved + m = cpLen c then some (0, 0) else none)) ∧
      Answers (.copy n k len .late .ok) s (fun t => t.mem = s.mem ∧ SameRegs s t [] ∧
        (cmdOf t n k).map (fun x => (x.moved, x.readT, x.result)) = some (c.moved, some (c.readT.getD s.now), none)) ∧
      ∀ resp, resp = .hostUR ∨ resp = .hostCA → Answers (.copy n k len resp .ok) s (fun t => CmdEnds t n k c 4 (cpSrc c + c.moved) ∧ t.mem = s.mem ∧
        Recorded t 0 13 3 n)) ∧
    (∀ st d, cmdOf s n k = some c → c.result = some (st, d) → mayComplete s c = true →
      let r := s.ring n
      (¬ (bit (leAt c.bytes 1 1) 1 = true ∧ st = 0) → Answers (.hostCommandComplete n k) s (fun t =>
        Stored s t (hostBase + 64 * s.get (Reg.HIF_RINGn_CBASE_ADDR n) + 32 * (r.written % ringSize s n))
          ((c.bytes.drop 4).take 4 ++ toLE 4 r.head ++ toLE 1 st ++ c.bytes.take 1 ++
            toLE 1 (1 - r.written / ringSize s n % 2) ++ List.replicate 5 0 ++ toLE 8 d ++ toLE 8 (s.timeOf 70)) ∧
        (t.ring n).written = r.written + 1 ∧ (t.ring n).used = r.used ∧ cmdOf t n k = none ∧ SameRegs s t [])) ∧
      (bit (leAt c.bytes 1 1) 1 = true → st = 0 → Answers (.hostCommandComplete n k) s (fun t =>
        t.mem = s.mem ∧ (t.ring n).written = r.written ∧ (t.ring n).used = r.used - 1 ∧ cmdOf t n k = none ∧ SameRegs s t []))) ∧
    (∀ t0, cmdOf s n k = some c → leAt c.bytes 0 1 = 2 → c.start = true → c.result = none → c.readT = some t0 → t0 + 8 * 1024000 ≤ s.now →
      Answers (.hostCompletionTimeout (.copy n k)) s (fun t => CmdEnds t n k c 4 (cpSrc c + c.moved) ∧ t.mem = s.mem ∧ Recorded t 0 13 3 n)) ∧
    (∀ (p : Fin 16) (r : Record) (x : InReq), r.wfAs 2 = true →
      (s.port p).inb.find? (fun x => x.req = r && x.ans.isNone && regionOf s r.addr = .host) = some x → x.t + 8 * 1024000 ≤ s.now →
      exec (.hostCompletionTimeout (.remote p r)) s = .next (evRefresh (replyTo s p (fun q => q = r) (rejectRec s r 7)))) ∧
    (∀ (f : Fin 64) (j : Fin 16) (w : Nat) (it : ItemSt) (t0 : Nat), (s.sh f j).word = some w → (s.sh f j).act = some it →
      (s.sh f j).reqT = some t0 → t0 + 8 * 1024000 ≤ s.now → hostItem s f w it = true →
      exec (.hostCompletionTimeout (.shuttle f j)) s = exec (.shuttleResponse f j (dCount (itemMain w it)) .hostCA .ok .data) s)

/-- A JOB_POST whose record, rank map and Skein entries are in order, whose image passes every step of the load, and which finds
no job loaded begins its job: its id, size and rank are held, STEP is its first step and ATTEMPT 0; a second one ends with BUSY.
JOB_CTL ends a loaded job with ABORTED. The end of a task's abort resets the task's Knots and no others, and is recorded. -/
def Obligations.JobsBeginAndEnd : Prop :=
  ∀ (s : State) (n : Fin 64) (k : Nat) (c : HostCmd),
    (CmdReady s n k c 0x10 0 → s.aborts = [] → memoryWaits s = false →
      (∀ at_ resp, s.job.loaded = true → resp ≠ .late → Answers (.jobPost n k at_ resp) s (fun t => CmdEnds t n k c 8 0 ∧ t.job = s.job)) ∧
      (s.job.loaded = false → ∀ (e : List Byte) (rank : Nat) (w : State),
        let b := sgetList 0 s.mem (hostBase + leAt c.bytes 8 8) 128
        let r := jobRec b
        let rd (a l : Nat) := sgetList 0 s.mem (hostBase + a) l
        let ids := (List.range r.nmod).map (fun j => leAt (rd (r.rmap + 8 * j) 2) 0 2)
        let vals := (List.range r.njv).map (fun j => leAt (rd (r.jobval + 8 * j) 8) 0 8)
        let ents := (List.range r.nskein).map (fun i => rd (r.skeins + 32 * i) 32)
        jobRecOk b = true → (∀ j, j < r.nmod → leAt (rd (r.rmap + 8 * j + 2) 6) 0 6 = 0) → (∀ x ∈ ents, leAt x 24 8 = 0) →
        mapOk ids r.q = true → ids.findIdx? (fun m => m = s.myId) = some rank → ents.find? (fun x => leAt x 0 8 = shapeDigest w) = some e →
        w = { setCmd s n { c with start := true } with
                shape := setAt s.shape 4 (BitVec.ofNat 8 (defaultOvf r.nmod)), job := { JobSt.none with id := r.id } } →
        (loadSkein w ⟨rd (leAt e 8 8) (leAt e 16 8), r.nmod, ids, rank, vals, (r.gbase, r.glen), r.hbase⟩).refuse = none →
        Answers (.jobPost n k 4 .ok) s (fun t => t.job.loaded = true ∧ t.job.id = r.id ∧ t.job.nmod = r.nmod ∧ t.job.rank = rank ∧
          t.job.ring = n ∧ t.job.k = k ∧ t.get Reg.PLY_STEP_STEP = r.first ∧ t.get Reg.PLY_STEP_ATTEMPT = 0 ∧
          t.get Reg.PLY_STEPCFG_MAXREPLAY = r.maxr))) ∧
    (CmdReady s n k c 0x11 0 → Answers (.jobCtl n k) s (fun t => CmdEnds t n k c 0 0 ∧ t.job.loaded = false ∧
      (s.job.loaded = true → t.get Reg.PLY_STEP_STATE = 6 ∧
        ∀ x, (s.job.ring, s.job.k) ≠ (n.val, k) → cmdOf s s.job.ring s.job.k = some x → (cmdOf t s.job.ring s.job.k).map (fun y => y.result) =
          some (some (7, 0))))) ∧
    (∀ (task : Fin 16) (a : AbortSt), s.aborts.find? (fun a => a.task = task.val) = some a →
      (cancelsDone s task = true ∨ a.since + 10 * 1024000 ≤ s.timeOf 71) →
      Answers (.taskAbortComplete task) s (fun t => Recorded t 1 0 5 0 ∧ (∀ x ∈ t.aborts, x.task ≠ task.val) ∧
        ∀ (f : Fin 64) (i : Fin 256), t.knot f i = if s.get (Reg.FRM_KCFGk_TASK f i) = task.val then 0 else s.knot f i))

/-- The mailbox: READ_SHAPE writes the shape record, READ_LOG the oldest unread records, which are then read, with 0xFF for SEV
where none is left, SNAPSHOT the sections of its list, to host memory; FW_STAGE puts a bundle that passes its checks into the slot
that did not boot; TELEM starts windows of ARG1 ticks, or stops them; a window's end takes the latched counters and writes its
record, or skips it where the host has consumed too few; a delivered snapshot completes its command. -/
def Obligations.MailboxAnswers : Prop :=
  ∀ (s : State) (n : Fin 64) (k : Nat) (c : HostCmd),
    (s.snap = none →
      (CmdReady s n k c 0x20 1 → Answers (.readShape n k) s (fun t => CmdEnds t n k c 0 0 ∧ Stored s t (hostBase + mbArg c 0) (shapeBytes s) ∧
        SameRegs s t [])) ∧
      (CmdReady s n k c 0x20 3 → Answers (.readLog n k) s (fun t =>
        let l := (s.log.filter (fun r => !r.read)).take (mbArg c 1)
        let d := l.flatMap recordBytes
        CmdEnds t n k c 0 0 ∧ t.log = markRead s.log (mbArg c 1) ∧ sgetList 0 t.mem (hostBase + mbArg c 0) d.length = d ∧
        (∀ i, l.length ≤ i → i < mbArg c 1 → sget 0 t.mem (hostBase + mbArg c 0 + 64 * i + 0x10) = 0xFF) ∧
        ∀ a, (a < hostBase + mbArg c 0 ∨ hostBase + mbArg c 0 + 64 * mbArg c 1 ≤ a) → sget 0 t.mem a = sget 0 s.mem a)) ∧
      (CmdReady s n k c 0x20 2 → memoryWaits s = false → s.job.loaded = true → mbArg c 2 ≠ 0 → ∀ (u : State) (d : List Byte),
        snapStream (setCmd s n { c with start := true }) (s.get Reg.PLY_STEP_STEP) 0
          ((List.range (mbArg c 1)).map (fun i => sgetList 0 s.mem (hostBase + mbArg c 0 + 16 * i) 16)) [] = .part u d →
        Answers (.snapshot n k .ok) s (fun t => Stored u t (hostBase + mbArg c 2) d ∧
          t.snap = some ⟨n, k, s.get Reg.PLY_STEP_STEP, false⟩)) ∧
      (CmdReady s n k c 0x20 4 → mbArg c 1 ≤ slotSize → ∀ l, bundleGo (sgetList 0 s.mem (hostBase + mbArg c 0) (mbArg c 1)) 7 [] = some l → l ≠ [] →
        (∀ x ∈ l, 1 ≤ x.typ ∧ x.typ ≤ 7) →
        let old := match s.boot.slot with | some m => s.flash.slot m | none => Slot.empty
        let tgt := 1 - s.boot.slot.getD 0
        stageFault s.fuses (candidate old l) = none → Answers (.fwStage n k .ok true) s (fun t => CmdEnds t n k c 0 0 ∧
          t.flash.slot tgt = candidate old l ∧ t.flash.slot (1 - tgt) = s.flash.slot (1 - tgt) ∧ t.get Reg.STU_FW_CTL_STAGED = 2)) ∧
      (CmdReady s n k c 0x20 5 →
        (mbArg c 1 = 0 → Answers (.telem n k) s (fun t => CmdEnds t n k c 0 0 ∧ t.telem = none ∧ Sets s t [(Reg.STU_TELEM_STAT_RUN, 0)])) ∧
        (mbArg c 1 ≠ 0 → mbArg c 1 % 1024000 = 0 → mbArg c 1 ≤ 60 * 1024000000 → Answers (.telem n k) s (fun t => CmdEnds t n k c 0 0 ∧
          t.telem.map (fun x => (x.addr, x.period, x.next)) = some (mbArg c 0, mbArg c 1, s.now / mbArg c 1 + 1) ∧
          Sets s t [(Reg.STU_TELEM_STAT_RUN, 1)])))) ∧
    (∀ x, s.telem = some x → x.next * x.period ≤ s.now →
      (x.base = none → Answers .telemWindow s (fun t => t.mem = s.mem ∧
        t.telem.map (fun y => (y.next, y.base, y.seq, y.lost)) = some (x.next + 1, some (closing s x), x.seq, x.lost))) ∧
      (∀ b, x.base = some b →
        let ents := leAt (sgetList 0 s.mem (hostBase + x.addr) 4) 0 4
        let head := leAt (sgetList 0 s.mem (hostBase + (x.addr + 4)) 4) 0 4
        let waits := (x.seq + 2 ^ 32 - head % 2 ^ 32) % 2 ^ 32
        (ents ≤ waits → Answers .telemWindow s (fun t => t.mem = s.mem ∧
          t.telem.map (fun y => (y.next, y.base, y.seq, y.lost)) = some (x.next + 1, some (closing s x), x.seq, x.lost + 1))) ∧
        (waits < ents → Answers .telemWindow s (fun t => Stored s t (hostBase + (x.addr + 1024 + x.seq % ents * 1024)) (windowBytes s x b (x.next - 1)) ∧
          Sets s t [(Reg.STU_TELEM_STAT_WINDOW, (x.next - 1) % 2 ^ 32)] ∧
          t.telem.map (fun y => (y.next, y.seq, y.lost)) = some (x.next + 1, (x.seq + 1) % 2 ^ 32, 0))))) ∧
    (∀ x, s.snap = some x → x.failed = false → snapOut s = false → Answers (.snapshotDelivered true) s (fun t => t.snap = none ∧
      ∀ y, cmdOf s x.ring x.k = some y → cmdOf t x.ring x.k = some { y with result := some (0, 0) }))

/-! ## Registers, resets and boot (01, 15, 16) -/

/-- A write of exactly a register's width at its address gives each of its fields the value its access code says (RW and RWS take
the bits, RWL unless sealed, W1C clears, W1S sets, RO and WO keep), and changes no other field; every register is 32 or 64 bits
wide and aligned; a write of another width, or where no register is, changes nothing, and such a read returns 0. This is said of
the registers whose tables give a write no further effect. A write to a Frame that has no clock edge, or behind one that waits,
waits in the FIFO. -/
def Obligations.RegisterWrites : Prop :=
  ∀ (s : State) (g : Agent) (off width v : Nat), v < 2 ^ width → agentOpen s g off = true →
    (∀ (d : RegDesc) (ix : List Nat), off < 0x2000000 → findReg off = some (d, ix) → width = d.width →
      d.base ∉ [0x8, 0x1000, 0x1008, 0x1010, 0x10000C, 0x200000, 0x203004, 0x20300C, 0x204000, 0x205004, 0x300004, 0x30000C, 0x400004, 0x40000C,
        0x400020, 0x400028, 0x500004, 0x500100, 0x501000, 0x503104, 0x600000, 0x600008, 0x601004, 0x601008, 0x602000, 0x700008, 0x700010,
        0x700014, 0x1008804, 0x100C700, 0x100A104] →
      (s.sealed = false ∨ ∀ fl ∈ d.fields, fl.acc ≠ .rwl) →
      (0x1000000 ≤ off → frameStill s ((off - 0x1000000) / 0x10000) = false ∧ s.ctlIn = []) →
      Answers (.registerWrite g off width v) s (fun t => SameRegs s t (d.fields.map (fun fl => (fl.ref off).key)) ∧ t.mem = s.mem ∧ t.log = s.log ∧
        ∀ fl ∈ d.fields, let r := fl.ref off; let x := v / 2 ^ fl.lo % 2 ^ fl.width
          t.get r = match fl.acc with
            | .rw => x | .rws => x | .rwl => x
            | .w1c => (s.get r ^^^ (s.get r &&& x)) % 2 ^ fl.width
            | .w1s => (s.get r ||| x) % 2 ^ fl.width
            | .ro => s.get r | .wo => s.get r)) ∧
    (∀ (d : RegDesc) (ix : List Nat), 0x1000000 ≤ off → off < 0x1400000 → findReg off = some (d, ix) → width = d.width →
      (frameStill s ((off - 0x1000000) / 0x10000) = true ∨ s.ctlIn ≠ []) → s.ctlIn.length < 16 →
      exec (.registerWrite g off width v) s = .next { s with ctlIn := s.ctlIn ++ [(g, off, v)] }) ∧
    ((∀ (d : RegDesc) (ix : List Nat), findReg off = some (d, ix) → width ≠ d.width) → (0x2000000 ≤ off → width ≠ 32) → exec (.registerWrite g off width v) s = .next s ∧
      readReg s g off width = 0) ∧
    ∀ (d : RegDesc) (ix : List Nat), findReg off = some (d, ix) → (d.width = 32 ∨ d.width = 64) ∧ off % (d.width / 8) = 0

/-- Writes with rows of their own: KWATCH sets both fields, SWSET sets bits, READY_ACK and ACTIVATE set theirs, D3HOT is accepted
without a job, and BAR2 takes a size that is offered: on a 1 TiB variant none above 1 TiB. A read through BAR2 within LPDDR of
blocks that are good returns their bytes, and a write puts its bytes there and no others. -/
def Obligations.HostAccesses : Prop :=
  ∀ s : State,
    (agentOpen s .studio 0x204000 = true → ∀ (w : Fin 256) (v : BitVec 64), RegEffect s
      [(Reg.INT_KWATCHw_THRESH w, v.toNat / 2 ^ 32), (Reg.INT_KWATCHw_KNOT w, v.toNat % 2 ^ 14)] (exec (.kwatch w v) s)) ∧
    (hostOpen s 0x205000 = true → ∀ (r : Fin 8) (v : BitVec 32), RegEffect s
      [(Reg.INT_SWSETr_BITS r, (s.get (Reg.INT_SWSETr_BITS r) ||| v.toNat) % 2 ^ 32)] (exec (.swset r v) s)) ∧
    (hostOpen s 4 = true → RegEffect s [(Reg.HIF_CTL_READY_ACK, 1)] (exec .readyAck s)) ∧
    (hostOpen s 0x10000C = true → s.get Reg.STU_FW_CTL_STAGED = 2 → Answers .activate s (fun t => Sets s t [(Reg.STU_FW_CTL_PENDING, 1)] ∧
      t = { s with regs := t.regs, flash := { s.flash with pend := some (1 - s.boot.slot.getD 0) } })) ∧
    (hostOpen s 0 = true → s.job.loaded = false → exec .d3hot s = .next { s with d3 := true }) ∧
    (hostOpen s 0 = true → ∀ i, i < (if s.fit2T then 12 else 11) → exec (.bar2Resize (2 ^ (30 + i))) s = .next { s with bar2Size := 2 ^ (30 + i) }) ∧
    (s.fit2T = false → ∀ n, 2 ^ 40 < n → exec (.bar2Resize n) s = .next s) ∧
    (∀ ofs n : Nat,
      let a := s.get Reg.HIF_BAR2_BASE_BASE + ofs
      bar2Open s ofs n = true → a + n ≤ lpddrSize s → (∀ x, a ≤ x → x < a + n → isBad s x = false) →
      (∀ x ∈ gransOf a n, chanPaused s x = false) → exec (.bar2Read ofs n) s = .next { s with hostRead := sgetList 0 s.mem a n, hostAbort := false }) ∧
    (∀ (ofs : Nat) (d : List Byte),
      let a := s.get Reg.HIF_BAR2_BASE_BASE + ofs
      bar2Open s ofs d.length = true → a + d.length ≤ lpddrSize s → (∀ x, a ≤ x → x < a + d.length → isBad s x = false) →
      (∀ x ∈ gransOf a d.length, chanFull s x = false) → Answers (.bar2Write ofs d) s (fun t => Stored s t a d ∧ SameRegs s t [] ∧ t.log = s.log))

/-- What resets and the power pins leave: FLR ends the job and resets the rings and the event controller; standby starts with
every register outside STU at its reset value and the fuses and flash kept, and so does PERST_N, which keeps the log, memory and
the seal too; its release clears the seal; global time starts from 0 when PERST_N is released. The stage follows PWR_EN, the rails
and the input, and the module stops where PWR_EN falls or the input fails with PERST_N released; an input that failed before stops it at
the release, and after a fall of PWR_EN it stays stopped where PWR_GOOD is still low. -/
def Obligations.ResetsAndPins : Prop :=
  ∀ (s : State) (slot : BitVec 6),
    let kept (t : State) := t.fuses = s.fuses ∧ t.flash = s.flash ∧ t.repairLog = s.repairLog ∧ t.pending = s.pending ∧
      ∀ r : Ref, (r.key < 64 * 0x100000 ∨ 64 * 0x200000 ≤ r.key) → t.get r = r.reset
    let empty (t : State) := t.cores = [] ∧ t.queues = [] ∧ t.rings = [] ∧ t.ports = [] ∧ t.job.loaded = false ∧ t.now = 0
    (s.standby = false → Answers (.standbyOn slot) s (fun t => kept t ∧ empty t ∧ t.standby = true ∧ t.log = [] ∧ t.get Reg.STU_PINS_SLOT_ID = slot.toNat ∧
      t.get Reg.STU_PINS_PERST = 1)) ∧
    (s.standby = true → Answers .standbyLoss s (fun t => kept t ∧ empty t ∧ t.standby = false ∧ t.log = [] ∧ t.get Reg.STU_PINS_PWREN = 0)) ∧
    (s.get Reg.STU_PINS_PERST = 0 → Answers .perstAssert s (fun t => kept t ∧ empty t ∧ t.get Reg.STU_PINS_PERST = 1 ∧ t.log = s.log ∧ t.mem = s.mem ∧
      t.standby = s.standby ∧ t.pwrStage = s.pwrStage ∧ t.sealed = s.sealed ∧ t.get Reg.STU_BOOT_STAT_SEAL = s.get Reg.STU_BOOT_STAT_SEAL % 2 ∧ t.get Reg.STU_PINS_PGOOD = s.get Reg.STU_PINS_PGOOD % 2)) ∧
    (s.standby = true → s.get Reg.STU_PINS_PERST = 1 → s.pwrStage ≠ 4 → Answers .perstRelease s (fun t => empty t ∧
      t.get Reg.STU_PINS_PERST = 0 ∧ t.get Reg.STU_BOOT_STAT_PHASE = 1 ∧ t.get Reg.STU_BOOT_STAT_MODE = 0 ∧ t.mem = s.mem ∧
      t.sealed = false ∧ t.get Reg.STU_BOOT_STAT_SEAL = 0 ∧
      (s.log.length + (s.errArea.map (fun e => e.1.length)).sum < 4096 → ∀ r ∈ s.log, r ∈ t.log) ∧
      (s.stopHeld = true → s.get Reg.STU_PINS_PGOOD = 0 → stopped t = true ∧ t.stopHeld = true))) ∧
    (s.standby = true → s.get Reg.STU_PINS_PERST = 1 → s.pwrStage = 4 → Answers .perstRelease s (fun t => t.get Reg.STU_PINS_PERST = 0 ∧
      stopped t = true ∧ t.pwrStage = 3)) ∧
    (s.standby = true → s.get Reg.STU_PINS_PWREN = 0 → Answers .pwrEnAssert s (fun t => t.pwrStage = 1 ∧
      Sets s t [(Reg.STU_PINS_PWREN, 1), (Reg.STU_PINS_TRIPPED, 0)])) ∧
    (s.pwrStage = 1 → Answers .railsUp s (fun t => t.pwrStage = 2 ∧ Sets s t [(Reg.STU_PINS_PGOOD, 1)]) ∧
      Answers .railfail s (fun t => t.pwrStage = 3 ∧ Sets s t [(Reg.STU_PINS_RAILFAIL, 1)])) ∧
    (s.get Reg.STU_PINS_PWREN = 1 → Answers .pwrEnDeassert s (fun t => t.pwrStage = 0 ∧ t.get Reg.STU_PINS_PWREN = 0 ∧ t.get Reg.STU_PINS_PGOOD = 0 ∧
      (s.get Reg.STU_PINS_PERST = 0 → stopped t = true ∧ t.stopHeld = true))) ∧
    (s.pwrStage = 1 ∨ s.pwrStage = 2 → Answers .infault s (fun t => t.pwrStage = (if s.get Reg.STU_PINS_PERST = 1 then 4 else 3) ∧ t.get Reg.STU_PINS_INFAULT = 1 ∧ t.get Reg.STU_PINS_PGOOD = 0 ∧
      (s.get Reg.STU_PINS_PERST = 0 → stopped t = true))) ∧
    (hostOpen s 0 = true → Answers .flr s (fun t => t.rings = [] ∧ t.active = [] ∧ t.job.loaded = false ∧ t.flr = some s.now ∧ t.d3 = false ∧ t.mem = s.mem ∧
      (∀ n : Fin 64, t.get (Reg.HIF_RINGn_CFG_EN n) = 0) ∧ ∀ x : Fin 1024, t.get (Reg.INT_SRCs_CFG_PRIO x) = 0))

/-- The phases of a boot: VERIFY goes on with a valid slot, into limited mode with an untested pair that no override accepts and
into recovery mode with no slot; the die tests, the memory and the ports follow, a failure leads to limited mode with its cause;
APPLY seals the Underpainting; READY ends the boot in service and raises the floors; a phase past its limit, or a boot past its
own, ends in limited mode with cause 8. -/
def Obligations.BootPhases : Prop :=
  ∀ s : State,
    let limitedBy (cause : Nat) (t : State) := t.get Reg.STU_BOOT_STAT_MODE = 2 ∧ (s.boot.staged = false → t.get Reg.STU_BOOT_STAT_CAUSE = cause)
    let phase (p : Nat) (t : State) := t.get Reg.STU_BOOT_STAT_PHASE = p ∧ t.boot.phaseT = s.now ∧ t.get Reg.STU_BOOT_STAT_MODE = 0
    (inPhase s 1 = true → overrun s = false → s.flash.pend = none →
      (∀ k, chooseSlot s = some k →
        (untested (s.flash.slot k) = none → Answers .verify s (fun t => phase 2 t ∧ t.boot.slot = some k ∧ t.get Reg.STU_BOOT_STAT_SLOT = k % 2 ∧
          t.boot.meas = measure s.fuses (some (s.flash.slot k)))) ∧
        (∀ i j, untested (s.flash.slot k) = some (i, j) → overridden s = false → Answers .verify s (fun t => limitedBy 1 t ∧
          t.get Reg.STU_BOOT_PAIR_TYPE_I = i ∧ t.get Reg.STU_BOOT_PAIR_TYPE_J = j)) ∧
        (∀ i j, untested (s.flash.slot k) = some (i, j) → overridden s = true → Answers .verify s (fun t => phase 2 t ∧
          t.get Reg.STU_BOOT_PAIR_TYPE_I = i ∧ t.get Reg.STU_BOOT_PAIR_TYPE_J = j))) ∧
      (chooseSlot s = none → Answers .verify s (fun t => t.get Reg.STU_BOOT_STAT_MODE = 3 ∧ t.get Reg.STU_BOOT_STAT_CAUSE = 2))) ∧
    (∀ (gen lanes : Nat) (code : BitVec 3), inPhase s 2 = true → overrun s = false → 5 ≤ gen → gen ≤ 7 → (lanes = 4 ∨ lanes = 8 ∨ lanes = 16) →
      s.get Reg.STU_PINS_PGOOD ≠ 0 → s.get Reg.HIF_LINK_GEN = 0 →
      (∀ c cap mhz, coolClass code.toNat = some (c, cap, mhz) → Answers (.studioStart gen lanes code) s (fun t => phase 3 t ∧
        t.get Reg.HIF_LINK_GEN = gen ∧ t.get Reg.PWR_CLASS_CLASS = c ∧ t.get Reg.PWR_CLASS_CAP_W = cap ∧ (lanes < 16 → t.get Reg.HIF_LINK_WIDTH = lanes))) ∧
      (coolClass code.toNat = none → Answers (.studioStart gen lanes code) s (limitedBy 5))) ∧
    (∀ x : DieTest, inPhase s 3 = true → overrun s = false →
      (x.outside = false → Answers (.dieTest x) s (fun t => phase 4 t ∧ ∀ g : Fin 72, t.get (Reg.CLK_GENg_STAT_LOCKED g) = 1)) ∧
      (x.outside = true → Answers (.dieTest x) s (limitedBy 7))) ∧
    (∀ l : List (Fin 136 × Nat), inPhase s 4 = true → overrun s = false → (∀ p ∈ l, p.2 ≤ 3) →
      let bad := ((l.filter (fun p => p.2 = 3)).map (fun p => p.1.val)).eraseDups
      (twoFailed bad = false → Answers (.lpddrTraining l) s (fun t => phase 5 t ∧ (∀ a, a < lpddrSize s → sget 0 t.mem a = 0) ∧ t.bad = [])) ∧
      (twoFailed bad = true → Answers (.lpddrTraining l) s (limitedBy 6))) ∧
    (∀ seen : List (Fin 16 × Peer), inPhase s 5 = true → overrun s = false → Answers (.weftTraining seen) s (fun t => phase 6 t ∧
      ∀ p : Fin 16, (∀ e ∈ seen, e.1 ≠ p) → portUp s p = false → portUp t p = false)) ∧
    (inPhase s 6 = true → overrun s = false →
      (partsOk s = true → part s 6 2 = s.get Reg.PWR_CLASS_CLASS → part s 6 0 = b2n s.fit2T → mapOk16 s = true →
        Answers .apply s (fun t => phase 7 t ∧ t.sealed = true ∧ t.get Reg.STU_BOOT_STAT_SEAL = 1 ∧
          ∀ c : Fin 128, t.get (Reg.MEM_CHc_MAP_PHYS c) = bootMap s c % 256)) ∧
      (partsOk s = true → part s 6 2 ≠ s.get Reg.PWR_CLASS_CLASS → Answers .apply s (limitedBy 5)) ∧
      (partsOk s = false ∨ (part s 6 2 = s.get Reg.PWR_CLASS_CLASS ∧ (part s 6 0 ≠ b2n s.fit2T ∨ mapOk16 s = false)) →
        Answers .apply s (limitedBy 4))) ∧
    (inPhase s 7 = true → Answers .ready s (fun t => t.get Reg.STU_BOOT_STAT_MODE = 1 ∧ t.get Reg.STU_BOOT_STAT_CAUSE = 0 ∧
      ∀ i : Fin 7, sget 0 t.fuses.svn (i + 1) = max (sget 0 s.fuses.svn (i + 1)) (min 64 ((s.flash.slot (s.boot.slot.getD 0)).img (i + 1)).floor))) ∧
    (inPhase s (s.get Reg.STU_BOOT_STAT_PHASE) = true → overrun s = true → Answers .bootTimeout s (limitedBy 8)) ∧
    (overrun s = true →
      (inPhase s 1 = true → Answers .verify s (limitedBy 8)) ∧
      (∀ (gen lanes : Nat) (code : BitVec 3), inPhase s 2 = true → 5 ≤ gen → gen ≤ 7 → (lanes = 4 ∨ lanes = 8 ∨ lanes = 16) →
        s.get Reg.STU_PINS_PGOOD ≠ 0 → s.get Reg.HIF_LINK_GEN = 0 → Answers (.studioStart gen lanes code) s (limitedBy 8)) ∧
      (∀ x : DieTest, inPhase s 3 = true → Answers (.dieTest x) s (limitedBy 8)) ∧
      (∀ l : List (Fin 136 × Nat), inPhase s 4 = true → (∀ p ∈ l, p.2 ≤ 3) → Answers (.lpddrTraining l) s (limitedBy 8)) ∧
      (∀ seen : List (Fin 16 × Peer), inPhase s 5 = true → Answers (.weftTraining seen) s (limitedBy 8)) ∧
      (inPhase s 6 = true → Answers .apply s (limitedBy 8)))

/-- The SPDM responder answers GET_VERSION with 1.3, then capabilities without sessions, then ECDSA P-384 and SHA-384, and on an
established connection digests, certificate bytes of slot 0, a challenge over the chain's digest and the measurements; any other
request with UnsupportedRequest, and before phase 1 has ended with Busy; the other transport's connection stays. The order of
requests asked for is the model's choice (assumption 57). -/
def Obligations.SpdmResponder : Prop :=
  ∀ (s : State) (tr : Transport), spdmHears s tr = true →
    let x := spdmConn s tr
    let chain := certChain s
    let replies (o : Host.Outcome State Fault Refusal) (st : Nat) (p : SpdmReply → Prop) := ∃ t, o = .next t ∧ (spdmConn t tr).stage = st ∧
      (∃ r, (spdmConn t tr).reply = some r ∧ p r) ∧ (∀ o', o' ≠ tr → spdmConn t o' = spdmConn s o') ∧ SameRegs s t [] ∧ t.boot = s.boot
    (s.boot.done1 = false → replies (exec (.getVersion tr) s) x.stage (· = .busy) ∧ replies (exec (.getDigests tr) s) x.stage (· = .busy)) ∧
    (s.boot.done1 = true →
      replies (exec (.getVersion tr) s) 1 (· = .version 1 3) ∧
      (∀ code : BitVec 8, replies (exec (.spdmUnsupported tr code) s) x.stage (· = .unsupported code.toNat)) ∧
      (x.stage = 1 → replies (exec (.getCapabilities tr) s) 2 (· = .capabilities true true true false)) ∧
      (x.stage = 2 → replies (exec (.negotiateAlgorithms tr) s) 3 (· = .algorithms "TPM_ALG_ECDSA_ECC_NIST_P384" "TPM_ALG_SHA_384")) ∧
      (x.stage = 3 →
        replies (exec (.getDigests tr) s) 3 (· = .digests [(0, sha384 chain)]) ∧
        (∀ ofs len : Nat, ofs < chain.length → replies (exec (.getCertificate tr 0 ofs len) s) 3
          (· = .certificate ((chain.drop ofs).take len) (chain.length - min chain.length (ofs + len)))) ∧
        (∀ nonce : Nat, replies (exec (.challenge tr 0 nonce) s) 3 (fun r => ∃ sig, r = .challengeAuth 0 (sha384 chain) sig)) ∧
        (∀ (i nonce : Nat), 1 ≤ i → i ≤ s.boot.meas.length → i < 10 →
          replies (exec (.getMeasurements tr i false nonce) s) 3 (· = .measurements [(i, s.boot.meas.getD (i - 1) [])] none) ∧
          replies (exec (.getMeasurements tr i true nonce) s) 3 (fun r => ∃ sig, r = .measurements [(i, s.boot.meas.getD (i - 1) [])] (some sig)))))
end

