-- ==== Sys2Proof/Laws/Sparse.lean ====
section
/-! SUPPORT. The laws of sparse data: a read after a write, and that every operation keeps the canonical form. -/
namespace Sys2Proof.Machine

theorem sget_sdel_same {α : Type} (d : α) (m : Sparse α) (k : Nat) : sget d (sdel k m) k = d := by
  induction m with
  | nil => rfl
  | cons p r ih =>
    obtain ⟨k', v⟩ := p
    simp only [sdel]
    split
    · exact ih
    · simp [sget, *]

theorem sget_sdel_other {α : Type} (d : α) (m : Sparse α) {k j : Nat} (h : j ≠ k) :
    sget d (sdel k m) j = sget d m j := by
  induction m with
  | nil => rfl
  | cons p r ih =>
    obtain ⟨k', v⟩ := p
    simp only [sdel]
    by_cases h1 : k' = k
    · subst h1
      have h2 : ¬ k' = j := fun e => h e.symm
      simp [sget, h2, ih]
    · simp [h1, sget, ih]

theorem sget_sins_other {α : Type} (d : α) (m : Sparse α) (v : α) {k j : Nat} (h : j ≠ k) :
    sget d (sins k v m) j = sget d m j := by
  induction m with
  | nil => simp [sins, sget, Ne.symm h]
  | cons p r ih =>
    obtain ⟨k', v'⟩ := p
    simp only [sins]
    split
    · simp [sget, Ne.symm h]
    · simp [sget, ih]

theorem sget_sins_sdel {α : Type} (d : α) (m : Sparse α) (k : Nat) (v : α) :
    sget d (sins k v (sdel k m)) k = v := by
  induction m with
  | nil => simp [sdel, sins, sget]
  | cons p r ih =>
    obtain ⟨k', v'⟩ := p
    simp only [sdel]
    by_cases h1 : k' = k
    · simp [h1, ih]
    · simp only [h1, if_false, sins]
      split
      · simp [sget]
      · simp [sget, h1, ih]

/-- A read after a write to the same key gives the value written. -/
@[simp] theorem sget_sput_same {α : Type} [DecidableEq α] (d : α) (m : Sparse α) (k : Nat) (v : α) :
    sget d (sput d m k v) k = v := by
  unfold sput
  split
  · simp [*, sget_sdel_same]
  · exact sget_sins_sdel d m k v

/-- A write leaves every other key alone. -/
theorem sget_sput_other {α : Type} [DecidableEq α] (d : α) (m : Sparse α) (v : α) {k j : Nat} (h : j ≠ k) :
    sget d (sput d m k v) j = sget d m j := by
  unfold sput
  split
  · exact sget_sdel_other d m h
  · rw [sget_sins_other d _ v h, sget_sdel_other d m h]

/-- The value read at any key after one write. -/
theorem sget_sput {α : Type} [DecidableEq α] (d : α) (m : Sparse α) (v : α) (k j : Nat) :
    sget d (sput d m k v) j = if j = k then v else sget d m j := by
  by_cases h : j = k
  · simp [h]
  · simp [h, sget_sput_other d m v h]

theorem sabove_mono {α : Type} (m : Sparse α) {a b : Nat} (h : a ≤ b) (hb : sabove b m = true) :
    sabove a m = true := by
  induction m with
  | nil => rfl
  | cons p r ih =>
    obtain ⟨k, v⟩ := p
    simp only [sabove, Bool.and_eq_true, decide_eq_true_eq] at *
    exact ⟨by omega, ih hb.2⟩

theorem sabove_sdel {α : Type} (m : Sparse α) (b k : Nat) (h : sabove b m = true) :
    sabove b (sdel k m) = true := by
  induction m with
  | nil => rfl
  | cons p r ih =>
    obtain ⟨k', v⟩ := p
    simp only [sabove, Bool.and_eq_true, decide_eq_true_eq] at h
    simp only [sdel]
    split
    · exact ih h.2
    · simp [sabove, h.1, ih h.2]

theorem sabove_sins {α : Type} (m : Sparse α) (b k : Nat) (v : α) (h : sabove b m = true) (hk : b < k) :
    sabove b (sins k v m) = true := by
  induction m with
  | nil => simp [sins, sabove, hk]
  | cons p r ih =>
    obtain ⟨k', v'⟩ := p
    have h' := h
    simp only [sabove, Bool.and_eq_true, decide_eq_true_eq] at h
    simp only [sins]
    split
    · simp [sabove, hk, h.1, h.2]
    · simp [sabove, h.1, ih h.2]

theorem scanon_sdel {α : Type} [DecidableEq α] (d : α) (m : Sparse α) (k : Nat) (h : scanon d m = true) :
    scanon d (sdel k m) = true := by
  induction m with
  | nil => rfl
  | cons p r ih =>
    obtain ⟨k', v⟩ := p
    simp only [scanon, Bool.and_eq_true] at h
    simp only [sdel]
    split
    · exact ih h.2
    · simp only [scanon, Bool.and_eq_true]
      exact ⟨⟨sabove_sdel r k' k h.1.1, h.1.2⟩, ih h.2⟩

theorem sdel_absent {α : Type} (m : Sparse α) (k : Nat) : ∀ p ∈ sdel k m, p.1 ≠ k := by
  induction m with
  | nil => simp [sdel]
  | cons p r ih =>
    obtain ⟨k', v⟩ := p
    simp only [sdel]
    split
    · exact ih
    · intro q hq
      rcases List.mem_cons.mp hq with rfl | hq
      · assumption
      · exact ih q hq

theorem scanon_sins {α : Type} [DecidableEq α] (d : α) (m : Sparse α) (k : Nat) (v : α)
    (h : scanon d m = true) (ha : ∀ p ∈ m, p.1 ≠ k) (hv : v ≠ d) : scanon d (sins k v m) = true := by
  induction m with
  | nil => simp [sins, scanon, sabove, hv]
  | cons p r ih =>
    obtain ⟨k', v'⟩ := p
    have h0 := h
    simp only [scanon, Bool.and_eq_true] at h
    simp only [sins]
    split
    · rename_i hlt
      have h2 := sabove_mono r (Nat.le_of_lt hlt) h.1.1
      simp [scanon, sabove, hlt, h2, hv] at *
      exact h
    · rename_i hge
      have hne : k' ≠ k := ha (k', v') (by simp)
      simp only [scanon, Bool.and_eq_true]
      refine ⟨⟨sabove_sins r k' k v h.1.1 (by omega), h.1.2⟩, ih h.2 ?_⟩
      exact fun q hq => ha q (by simp [hq])

/-- A write keeps the canonical form. -/
theorem scanon_sput {α : Type} [DecidableEq α] (d : α) (m : Sparse α) (k : Nat) (v : α)
    (h : scanon d m = true) : scanon d (sput d m k v) = true := by
  unfold sput
  split
  · exact scanon_sdel d m k h
  · exact scanon_sins d _ k v (scanon_sdel d m k h) (sdel_absent m k) (by assumption)

/-- A write of several values keeps the canonical form. -/
theorem scanon_sputList {α : Type} [DecidableEq α] (d : α) (vs : List α) :
    ∀ (m : Sparse α) (k : Nat), scanon d m = true → scanon d (sputList d m k vs) = true := by
  induction vs with
  | nil => intro m k h; exact h
  | cons v r ih => intro m k h; exact ih _ _ (scanon_sput d m k v h)

/-- A write of several values leaves every key outside them alone. -/
theorem sget_sputList_other {α : Type} [DecidableEq α] (d : α) (vs : List α) :
    ∀ (m : Sparse α) (k j : Nat), (j < k ∨ k + vs.length ≤ j) →
      sget d (sputList d m k vs) j = sget d m j := by
  induction vs with
  | nil => intro m k j _; rfl
  | cons v r ih =>
    intro m k j h
    simp only [List.length_cons] at h
    simp only [sputList]
    rw [ih _ _ _ (by omega), sget_sput_other d m v (by omega)]

/-- The bytes read back right after a write of several values are those values. -/
theorem sgetList_sputList {α : Type} [DecidableEq α] (d : α) (vs : List α) :
    ∀ (m : Sparse α) (k : Nat), sgetList d (sputList d m k vs) k vs.length = vs := by
  induction vs with
  | nil => intro m k; rfl
  | cons v r ih =>
    intro m k
    simp only [sputList, List.length_cons, sgetList]
    rw [ih, sget_sputList_other d r _ _ _ (by omega)]
    simp

theorem sabove_sclear {α : Type} (m : Sparse α) (b lo len : Nat) (h : sabove b m = true) :
    sabove b (sclear m lo len) = true := by
  induction m with
  | nil => rfl
  | cons p r ih =>
    obtain ⟨k, v⟩ := p
    simp only [sabove, Bool.and_eq_true, decide_eq_true_eq] at h
    simp only [sclear]
    split
    · exact ih h.2
    · simp [sabove, h.1, ih h.2]

/-- Returning a range to the default keeps the canonical form. -/
theorem scanon_sclear {α : Type} [DecidableEq α] (d : α) (m : Sparse α) (lo len : Nat)
    (h : scanon d m = true) : scanon d (sclear m lo len) = true := by
  induction m with
  | nil => rfl
  | cons p r ih =>
    obtain ⟨k, v⟩ := p
    simp only [scanon, Bool.and_eq_true] at h
    simp only [sclear]
    split
    · exact ih h.2
    · simp only [scanon, Bool.and_eq_true]
      exact ⟨⟨sabove_sclear r k lo len h.1.1, h.1.2⟩, ih h.2⟩

/-- Returning a range to the default leaves every key outside it alone. -/
theorem sget_sclear_other {α : Type} (d : α) (m : Sparse α) (lo len j : Nat) (h : j < lo ∨ lo + len ≤ j) :
    sget d (sclear m lo len) j = sget d m j := by
  induction m with
  | nil => rfl
  | cons p r ih =>
    obtain ⟨k, v⟩ := p
    simp only [sclear]
    split
    · have : ¬ k = j := by omega
      simp [sget, this, ih]
    · simp [sget, ih]

theorem sabove_filter {α : Type} (q : Nat × α → Bool) (m : Sparse α) (b : Nat) (h : sabove b m = true) :
    sabove b (m.filter q) = true := by
  induction m with
  | nil => rfl
  | cons p r ih =>
    obtain ⟨k, v⟩ := p
    simp only [sabove, Bool.and_eq_true, decide_eq_true_eq] at h
    rw [List.filter_cons]
    split
    · simp [sabove, h.1, ih h.2]
    · exact ih h.2

theorem scanon_filter {α : Type} [DecidableEq α] (d : α) (q : Nat × α → Bool) (m : Sparse α) (h : scanon d m = true) :
    scanon d (m.filter q) = true := by
  induction m with
  | nil => rfl
  | cons p r ih =>
    obtain ⟨k, v⟩ := p
    simp only [scanon, Bool.and_eq_true] at h
    rw [List.filter_cons]
    split
    · simp only [scanon, Bool.and_eq_true]
      exact ⟨⟨sabove_filter q r k h.1.1, h.1.2⟩, ih h.2⟩
    · exact ih h.2

end Sys2Proof.Machine
end

