-- ==== Sys2Proof/Laws/State.lean ====
section
/-! SUPPORT. What each update of the state leaves as it was: one lemma per field and update, so that no later proof unfolds an
update. -/
namespace Sys2Proof.Machine

/-! ## put -/

@[simp] theorem State.put_mem (s : State) (r : Ref) (v : Nat) : (s.put r v).mem = s.mem := rfl
@[simp] theorem State.put_cores (s : State) (r : Ref) (v : Nat) : (s.put r v).cores = s.cores := rfl
@[simp] theorem State.put_queues (s : State) (r : Ref) (v : Nat) : (s.put r v).queues = s.queues := rfl
@[simp] theorem State.put_bad (s : State) (r : Ref) (v : Nat) : (s.put r v).bad = s.bad := rfl
@[simp] theorem State.put_spBad (s : State) (r : Ref) (v : Nat) : (s.put r v).spBad = s.spBad := rfl
@[simp] theorem State.put_spEpoch (s : State) (r : Ref) (v : Nat) : (s.put r v).spEpoch = s.spEpoch := rfl
@[simp] theorem State.put_lines (s : State) (r : Ref) (v : Nat) : (s.put r v).lines = s.lines := rfl
@[simp] theorem State.put_plru (s : State) (r : Ref) (v : Nat) : (s.put r v).plru = s.plru := rfl
@[simp] theorem State.put_misses (s : State) (r : Ref) (v : Nat) : (s.put r v).misses = s.misses := rfl
@[simp] theorem State.put_reply (s : State) (r : Ref) (v : Nat) : (s.put r v).reply = s.reply := rfl
@[simp] theorem State.put_leaving (s : State) (r : Ref) (v : Nat) : (s.put r v).leaving = s.leaving := rfl
@[simp] theorem State.put_flush (s : State) (r : Ref) (v : Nat) : (s.put r v).flush = s.flush := rfl
@[simp] theorem State.put_chT (s : State) (r : Ref) (v : Nat) : (s.put r v).chT = s.chT := rfl
@[simp] theorem State.put_reread (s : State) (r : Ref) (v : Nat) : (s.put r v).reread = s.reread := rfl
@[simp] theorem State.put_autoTry (s : State) (r : Ref) (v : Nat) : (s.put r v).autoTry = s.autoTry := rfl
@[simp] theorem State.put_chanQ (s : State) (r : Ref) (v : Nat) : (s.put r v).chanQ = s.chanQ := rfl
@[simp] theorem State.put_spare (s : State) (r : Ref) (v : Nat) : (s.put r v).spare = s.spare := rfl
@[simp] theorem State.put_repairs (s : State) (r : Ref) (v : Nat) : (s.put r v).repairs = s.repairs := rfl
@[simp] theorem State.put_refreshes (s : State) (r : Ref) (v : Nat) : (s.put r v).refreshes = s.refreshes := rfl
@[simp] theorem State.put_log (s : State) (r : Ref) (v : Nat) : (s.put r v).log = s.log := rfl
@[simp] theorem State.put_nextSeq (s : State) (r : Ref) (v : Nat) : (s.put r v).nextSeq = s.nextSeq := rfl
@[simp] theorem State.put_aborts (s : State) (r : Ref) (v : Nat) : (s.put r v).aborts = s.aborts := rfl
@[simp] theorem State.put_active (s : State) (r : Ref) (v : Nat) : (s.put r v).active = s.active := rfl
@[simp] theorem State.put_defer (s : State) (r : Ref) (v : Nat) : (s.put r v).defer = s.defer := rfl
@[simp] theorem State.put_wakes (s : State) (r : Ref) (v : Nat) : (s.put r v).wakes = s.wakes := rfl
@[simp] theorem State.put_ready (s : State) (r : Ref) (v : Nat) : (s.put r v).ready = s.ready := rfl
@[simp] theorem State.put_msix (s : State) (r : Ref) (v : Nat) : (s.put r v).msix = s.msix := rfl
@[simp] theorem State.put_msixAddr (s : State) (r : Ref) (v : Nat) : (s.put r v).msixAddr = s.msixAddr := rfl
@[simp] theorem State.put_msixData (s : State) (r : Ref) (v : Nat) : (s.put r v).msixData = s.msixData := rfl
@[simp] theorem State.put_msixMask (s : State) (r : Ref) (v : Nat) : (s.put r v).msixMask = s.msixMask := rfl
@[simp] theorem State.put_msixPend (s : State) (r : Ref) (v : Nat) : (s.put r v).msixPend = s.msixPend := rfl
@[simp] theorem State.put_hostRead (s : State) (r : Ref) (v : Nat) : (s.put r v).hostRead = s.hostRead := rfl
@[simp] theorem State.put_hostAbort (s : State) (r : Ref) (v : Nat) : (s.put r v).hostAbort = s.hostAbort := rfl
@[simp] theorem State.put_master (s : State) (r : Ref) (v : Nat) : (s.put r v).master = s.master := rfl
@[simp] theorem State.put_masterHold (s : State) (r : Ref) (v : Nat) : (s.put r v).masterHold = s.masterHold := rfl
@[simp] theorem State.put_masterCorr (s : State) (r : Ref) (v : Nat) : (s.put r v).masterCorr = s.masterCorr := rfl
@[simp] theorem State.put_masterSpread (s : State) (r : Ref) (v : Nat) : (s.put r v).masterSpread = s.masterSpread := rfl
@[simp] theorem State.put_source (s : State) (r : Ref) (v : Nat) : (s.put r v).source = s.source := rfl
@[simp] theorem State.put_regions (s : State) (r : Ref) (v : Nat) : (s.put r v).regions = s.regions := rfl
@[simp] theorem State.put_freq (s : State) (r : Ref) (v : Nat) : (s.put r v).freq = s.freq := rfl
@[simp] theorem State.put_heldGo (s : State) (r : Ref) (v : Nat) : (s.put r v).heldGo = s.heldGo := rfl
@[simp] theorem State.put_restartT (s : State) (r : Ref) (v : Nat) : (s.put r v).restartT = s.restartT := rfl
@[simp] theorem State.put_gens (s : State) (r : Ref) (v : Nat) : (s.put r v).gens = s.gens := rfl
@[simp] theorem State.put_mesh (s : State) (r : Ref) (v : Nat) : (s.put r v).mesh = s.mesh := rfl
@[simp] theorem State.put_meshOut (s : State) (r : Ref) (v : Nat) : (s.put r v).meshOut = s.meshOut := rfl
@[simp] theorem State.put_edgeIn (s : State) (r : Ref) (v : Nat) : (s.put r v).edgeIn = s.edgeIn := rfl
@[simp] theorem State.put_edgeOut (s : State) (r : Ref) (v : Nat) : (s.put r v).edgeOut = s.edgeOut := rfl
@[simp] theorem State.put_ctlIn (s : State) (r : Ref) (v : Nat) : (s.put r v).ctlIn = s.ctlIn := rfl
@[simp] theorem State.put_grants (s : State) (r : Ref) (v : Nat) : (s.put r v).grants = s.grants := rfl
@[simp] theorem State.put_ppsT (s : State) (r : Ref) (v : Nat) : (s.put r v).ppsT = s.ppsT := rfl
@[simp] theorem State.put_ppsOut (s : State) (r : Ref) (v : Nat) : (s.put r v).ppsOut = s.ppsOut := rfl
@[simp] theorem State.put_ppsRise (s : State) (r : Ref) (v : Nat) : (s.put r v).ppsRise = s.ppsRise := rfl
@[simp] theorem State.put_ports (s : State) (r : Ref) (v : Nat) : (s.put r v).ports = s.ports := rfl
@[simp] theorem State.put_mcasts (s : State) (r : Ref) (v : Nat) : (s.put r v).mcasts = s.mcasts := rfl
@[simp] theorem State.put_timeReq (s : State) (r : Ref) (v : Nat) : (s.put r v).timeReq = s.timeReq := rfl
@[simp] theorem State.put_timeT (s : State) (r : Ref) (v : Nat) : (s.put r v).timeT = s.timeT := rfl
@[simp] theorem State.put_freeRun (s : State) (r : Ref) (v : Nat) : (s.put r v).freeRun = s.freeRun := rfl
@[simp] theorem State.put_shards (s : State) (r : Ref) (v : Nat) : (s.put r v).shards = s.shards := rfl
@[simp] theorem State.put_held (s : State) (r : Ref) (v : Nat) : (s.put r v).held = s.held := rfl
@[simp] theorem State.put_withheld (s : State) (r : Ref) (v : Nat) : (s.put r v).withheld = s.withheld := rfl
@[simp] theorem State.put_stats (s : State) (r : Ref) (v : Nat) : (s.put r v).stats = s.stats := rfl
@[simp] theorem State.put_lineDone (s : State) (r : Ref) (v : Nat) : (s.put r v).lineDone = s.lineDone := rfl
@[simp] theorem State.put_verRec (s : State) (r : Ref) (v : Nat) : (s.put r v).verRec = s.verRec := rfl
@[simp] theorem State.put_stepSt (s : State) (r : Ref) (v : Nat) : (s.put r v).stepSt = s.stepSt := rfl
@[simp] theorem State.put_rings (s : State) (r : Ref) (v : Nat) : (s.put r v).rings = s.rings := rfl
@[simp] theorem State.put_engTurn (s : State) (r : Ref) (v : Nat) : (s.put r v).engTurn = s.engTurn := rfl
@[simp] theorem State.put_bar2Size (s : State) (r : Ref) (v : Nat) : (s.put r v).bar2Size = s.bar2Size := rfl
@[simp] theorem State.put_flr (s : State) (r : Ref) (v : Nat) : (s.put r v).flr = s.flr := rfl
@[simp] theorem State.put_d3 (s : State) (r : Ref) (v : Nat) : (s.put r v).d3 = s.d3 := rfl
@[simp] theorem State.put_sealed (s : State) (r : Ref) (v : Nat) : (s.put r v).sealed = s.sealed := rfl
@[simp] theorem State.put_fresh (s : State) (r : Ref) (v : Nat) : (s.put r v).fresh = s.fresh := rfl
@[simp] theorem State.put_job (s : State) (r : Ref) (v : Nat) : (s.put r v).job = s.job := rfl
@[simp] theorem State.put_fit2T (s : State) (r : Ref) (v : Nat) : (s.put r v).fit2T = s.fit2T := rfl
@[simp] theorem State.put_fitLid (s : State) (r : Ref) (v : Nat) : (s.put r v).fitLid = s.fitLid := rfl
@[simp] theorem State.put_shut (s : State) (r : Ref) (v : Nat) : (s.put r v).shut = s.shut := rfl
@[simp] theorem State.put_stages (s : State) (r : Ref) (v : Nat) : (s.put r v).stages = s.stages := rfl
@[simp] theorem State.put_notices (s : State) (r : Ref) (v : Nat) : (s.put r v).notices = s.notices := rfl
@[simp] theorem State.put_rports (s : State) (r : Ref) (v : Nat) : (s.put r v).rports = s.rports := rfl
@[simp] theorem State.put_injs (s : State) (r : Ref) (v : Nat) : (s.put r v).injs = s.injs := rfl
@[simp] theorem State.put_force (s : State) (r : Ref) (v : Nat) : (s.put r v).force = s.force := rfl
@[simp] theorem State.put_spins (s : State) (r : Ref) (v : Nat) : (s.put r v).spins = s.spins := rfl
@[simp] theorem State.put_brushIn (s : State) (r : Ref) (v : Nat) : (s.put r v).brushIn = s.brushIn := rfl
@[simp] theorem State.put_easelIn (s : State) (r : Ref) (v : Nat) : (s.put r v).easelIn = s.easelIn := rfl
@[simp] theorem State.put_easelStat (s : State) (r : Ref) (v : Nat) : (s.put r v).easelStat = s.easelStat := rfl
@[simp] theorem State.put_lfsr (s : State) (r : Ref) (v : Nat) : (s.put r v).lfsr = s.lfsr := rfl
@[simp] theorem State.put_lfsrKey (s : State) (r : Ref) (v : Nat) : (s.put r v).lfsrKey = s.lfsrKey := rfl
@[simp] theorem State.put_errArea (s : State) (r : Ref) (v : Nat) : (s.put r v).errArea = s.errArea := rfl
@[simp] theorem State.put_phaseT (s : State) (r : Ref) (v : Nat) : (s.put r v).phaseT = s.phaseT := rfl
@[simp] theorem State.put_glazeT (s : State) (r : Ref) (v : Nat) : (s.put r v).glazeT = s.glazeT := rfl
@[simp] theorem State.put_flexUsed (s : State) (r : Ref) (v : Nat) : (s.put r v).flexUsed = s.flexUsed := rfl
@[simp] theorem State.put_repairLog (s : State) (r : Ref) (v : Nat) : (s.put r v).repairLog = s.repairLog := rfl
@[simp] theorem State.put_beaconK (s : State) (r : Ref) (v : Nat) : (s.put r v).beaconK = s.beaconK := rfl
@[simp] theorem State.put_glazeReq (s : State) (r : Ref) (v : Nat) : (s.put r v).glazeReq = s.glazeReq := rfl
@[simp] theorem State.put_commits (s : State) (r : Ref) (v : Nat) : (s.put r v).commits = s.commits := rfl
@[simp] theorem State.put_switches (s : State) (r : Ref) (v : Nat) : (s.put r v).switches = s.switches := rfl
@[simp] theorem State.put_shape (s : State) (r : Ref) (v : Nat) : (s.put r v).shape = s.shape := rfl
@[simp] theorem State.put_snap (s : State) (r : Ref) (v : Nat) : (s.put r v).snap = s.snap := rfl
@[simp] theorem State.put_telem (s : State) (r : Ref) (v : Nat) : (s.put r v).telem = s.telem := rfl
@[simp] theorem State.put_gov (s : State) (r : Ref) (v : Nat) : (s.put r v).gov = s.gov := rfl
@[simp] theorem State.put_fuses (s : State) (r : Ref) (v : Nat) : (s.put r v).fuses = s.fuses := rfl
@[simp] theorem State.put_flash (s : State) (r : Ref) (v : Nat) : (s.put r v).flash = s.flash := rfl
@[simp] theorem State.put_boot (s : State) (r : Ref) (v : Nat) : (s.put r v).boot = s.boot := rfl
@[simp] theorem State.put_spdmVdm (s : State) (r : Ref) (v : Nat) : (s.put r v).spdmVdm = s.spdmVdm := rfl
@[simp] theorem State.put_spdmBus (s : State) (r : Ref) (v : Nat) : (s.put r v).spdmBus = s.spdmBus := rfl
@[simp] theorem State.put_standby (s : State) (r : Ref) (v : Nat) : (s.put r v).standby = s.standby := rfl
@[simp] theorem State.put_pwrStage (s : State) (r : Ref) (v : Nat) : (s.put r v).pwrStage = s.pwrStage := rfl
@[simp] theorem State.put_stopHeld (s : State) (r : Ref) (v : Nat) : (s.put r v).stopHeld = s.stopHeld := rfl
@[simp] theorem State.put_pending (s : State) (r : Ref) (v : Nat) : (s.put r v).pending = s.pending := rfl

/-! ## setCore -/

@[simp] theorem State.setCore_regs (s : State) (f c : Nat) (x : CoreSt) : (s.setCore f c x).regs = s.regs := rfl
@[simp] theorem State.setCore_mem (s : State) (f c : Nat) (x : CoreSt) : (s.setCore f c x).mem = s.mem := rfl
@[simp] theorem State.setCore_queues (s : State) (f c : Nat) (x : CoreSt) : (s.setCore f c x).queues = s.queues := rfl
@[simp] theorem State.setCore_bad (s : State) (f c : Nat) (x : CoreSt) : (s.setCore f c x).bad = s.bad := rfl
@[simp] theorem State.setCore_spBad (s : State) (f c : Nat) (x : CoreSt) : (s.setCore f c x).spBad = s.spBad := rfl
@[simp] theorem State.setCore_spEpoch (s : State) (f c : Nat) (x : CoreSt) : (s.setCore f c x).spEpoch = s.spEpoch := rfl
@[simp] theorem State.setCore_lines (s : State) (f c : Nat) (x : CoreSt) : (s.setCore f c x).lines = s.lines := rfl
@[simp] theorem State.setCore_plru (s : State) (f c : Nat) (x : CoreSt) : (s.setCore f c x).plru = s.plru := rfl
@[simp] theorem State.setCore_misses (s : State) (f c : Nat) (x : CoreSt) : (s.setCore f c x).misses = s.misses := rfl
@[simp] theorem State.setCore_reply (s : State) (f c : Nat) (x : CoreSt) : (s.setCore f c x).reply = s.reply := rfl
@[simp] theorem State.setCore_leaving (s : State) (f c : Nat) (x : CoreSt) : (s.setCore f c x).leaving = s.leaving := rfl
@[simp] theorem State.setCore_flush (s : State) (f c : Nat) (x : CoreSt) : (s.setCore f c x).flush = s.flush := rfl
@[simp] theorem State.setCore_chT (s : State) (f c : Nat) (x : CoreSt) : (s.setCore f c x).chT = s.chT := rfl
@[simp] theorem State.setCore_reread (s : State) (f c : Nat) (x : CoreSt) : (s.setCore f c x).reread = s.reread := rfl
@[simp] theorem State.setCore_autoTry (s : State) (f c : Nat) (x : CoreSt) : (s.setCore f c x).autoTry = s.autoTry := rfl
@[simp] theorem State.setCore_chanQ (s : State) (f c : Nat) (x : CoreSt) : (s.setCore f c x).chanQ = s.chanQ := rfl
@[simp] theorem State.setCore_spare (s : State) (f c : Nat) (x : CoreSt) : (s.setCore f c x).spare = s.spare := rfl
@[simp] theorem State.setCore_repairs (s : State) (f c : Nat) (x : CoreSt) : (s.setCore f c x).repairs = s.repairs := rfl
@[simp] theorem State.setCore_refreshes (s : State) (f c : Nat) (x : CoreSt) : (s.setCore f c x).refreshes = s.refreshes := rfl
@[simp] theorem State.setCore_log (s : State) (f c : Nat) (x : CoreSt) : (s.setCore f c x).log = s.log := rfl
@[simp] theorem State.setCore_nextSeq (s : State) (f c : Nat) (x : CoreSt) : (s.setCore f c x).nextSeq = s.nextSeq := rfl
@[simp] theorem State.setCore_aborts (s : State) (f c : Nat) (x : CoreSt) : (s.setCore f c x).aborts = s.aborts := rfl
@[simp] theorem State.setCore_active (s : State) (f c : Nat) (x : CoreSt) : (s.setCore f c x).active = s.active := rfl
@[simp] theorem State.setCore_defer (s : State) (f c : Nat) (x : CoreSt) : (s.setCore f c x).defer = s.defer := rfl
@[simp] theorem State.setCore_wakes (s : State) (f c : Nat) (x : CoreSt) : (s.setCore f c x).wakes = s.wakes := rfl
@[simp] theorem State.setCore_ready (s : State) (f c : Nat) (x : CoreSt) : (s.setCore f c x).ready = s.ready := rfl
@[simp] theorem State.setCore_msix (s : State) (f c : Nat) (x : CoreSt) : (s.setCore f c x).msix = s.msix := rfl
@[simp] theorem State.setCore_msixAddr (s : State) (f c : Nat) (x : CoreSt) : (s.setCore f c x).msixAddr = s.msixAddr := rfl
@[simp] theorem State.setCore_msixData (s : State) (f c : Nat) (x : CoreSt) : (s.setCore f c x).msixData = s.msixData := rfl
@[simp] theorem State.setCore_msixMask (s : State) (f c : Nat) (x : CoreSt) : (s.setCore f c x).msixMask = s.msixMask := rfl
@[simp] theorem State.setCore_msixPend (s : State) (f c : Nat) (x : CoreSt) : (s.setCore f c x).msixPend = s.msixPend := rfl
@[simp] theorem State.setCore_hostRead (s : State) (f c : Nat) (x : CoreSt) : (s.setCore f c x).hostRead = s.hostRead := rfl
@[simp] theorem State.setCore_hostAbort (s : State) (f c : Nat) (x : CoreSt) : (s.setCore f c x).hostAbort = s.hostAbort := rfl
@[simp] theorem State.setCore_master (s : State) (f c : Nat) (x : CoreSt) : (s.setCore f c x).master = s.master := rfl
@[simp] theorem State.setCore_masterHold (s : State) (f c : Nat) (x : CoreSt) : (s.setCore f c x).masterHold = s.masterHold := rfl
@[simp] theorem State.setCore_masterCorr (s : State) (f c : Nat) (x : CoreSt) : (s.setCore f c x).masterCorr = s.masterCorr := rfl
@[simp] theorem State.setCore_masterSpread (s : State) (f c : Nat) (x : CoreSt) : (s.setCore f c x).masterSpread = s.masterSpread := rfl
@[simp] theorem State.setCore_source (s : State) (f c : Nat) (x : CoreSt) : (s.setCore f c x).source = s.source := rfl
@[simp] theorem State.setCore_regions (s : State) (f c : Nat) (x : CoreSt) : (s.setCore f c x).regions = s.regions := rfl
@[simp] theorem State.setCore_freq (s : State) (f c : Nat) (x : CoreSt) : (s.setCore f c x).freq = s.freq := rfl
@[simp] theorem State.setCore_heldGo (s : State) (f c : Nat) (x : CoreSt) : (s.setCore f c x).heldGo = s.heldGo := rfl
@[simp] theorem State.setCore_restartT (s : State) (f c : Nat) (x : CoreSt) : (s.setCore f c x).restartT = s.restartT := rfl
@[simp] theorem State.setCore_gens (s : State) (f c : Nat) (x : CoreSt) : (s.setCore f c x).gens = s.gens := rfl
@[simp] theorem State.setCore_mesh (s : State) (f c : Nat) (x : CoreSt) : (s.setCore f c x).mesh = s.mesh := rfl
@[simp] theorem State.setCore_meshOut (s : State) (f c : Nat) (x : CoreSt) : (s.setCore f c x).meshOut = s.meshOut := rfl
@[simp] theorem State.setCore_edgeIn (s : State) (f c : Nat) (x : CoreSt) : (s.setCore f c x).edgeIn = s.edgeIn := rfl
@[simp] theorem State.setCore_edgeOut (s : State) (f c : Nat) (x : CoreSt) : (s.setCore f c x).edgeOut = s.edgeOut := rfl
@[simp] theorem State.setCore_ctlIn (s : State) (f c : Nat) (x : CoreSt) : (s.setCore f c x).ctlIn = s.ctlIn := rfl
@[simp] theorem State.setCore_grants (s : State) (f c : Nat) (x : CoreSt) : (s.setCore f c x).grants = s.grants := rfl
@[simp] theorem State.setCore_ppsT (s : State) (f c : Nat) (x : CoreSt) : (s.setCore f c x).ppsT = s.ppsT := rfl
@[simp] theorem State.setCore_ppsOut (s : State) (f c : Nat) (x : CoreSt) : (s.setCore f c x).ppsOut = s.ppsOut := rfl
@[simp] theorem State.setCore_ppsRise (s : State) (f c : Nat) (x : CoreSt) : (s.setCore f c x).ppsRise = s.ppsRise := rfl
@[simp] theorem State.setCore_ports (s : State) (f c : Nat) (x : CoreSt) : (s.setCore f c x).ports = s.ports := rfl
@[simp] theorem State.setCore_mcasts (s : State) (f c : Nat) (x : CoreSt) : (s.setCore f c x).mcasts = s.mcasts := rfl
@[simp] theorem State.setCore_timeReq (s : State) (f c : Nat) (x : CoreSt) : (s.setCore f c x).timeReq = s.timeReq := rfl
@[simp] theorem State.setCore_timeT (s : State) (f c : Nat) (x : CoreSt) : (s.setCore f c x).timeT = s.timeT := rfl
@[simp] theorem State.setCore_freeRun (s : State) (f c : Nat) (x : CoreSt) : (s.setCore f c x).freeRun = s.freeRun := rfl
@[simp] theorem State.setCore_shards (s : State) (f c : Nat) (x : CoreSt) : (s.setCore f c x).shards = s.shards := rfl
@[simp] theorem State.setCore_held (s : State) (f c : Nat) (x : CoreSt) : (s.setCore f c x).held = s.held := rfl
@[simp] theorem State.setCore_withheld (s : State) (f c : Nat) (x : CoreSt) : (s.setCore f c x).withheld = s.withheld := rfl
@[simp] theorem State.setCore_stats (s : State) (f c : Nat) (x : CoreSt) : (s.setCore f c x).stats = s.stats := rfl
@[simp] theorem State.setCore_lineDone (s : State) (f c : Nat) (x : CoreSt) : (s.setCore f c x).lineDone = s.lineDone := rfl
@[simp] theorem State.setCore_verRec (s : State) (f c : Nat) (x : CoreSt) : (s.setCore f c x).verRec = s.verRec := rfl
@[simp] theorem State.setCore_stepSt (s : State) (f c : Nat) (x : CoreSt) : (s.setCore f c x).stepSt = s.stepSt := rfl
@[simp] theorem State.setCore_rings (s : State) (f c : Nat) (x : CoreSt) : (s.setCore f c x).rings = s.rings := rfl
@[simp] theorem State.setCore_engTurn (s : State) (f c : Nat) (x : CoreSt) : (s.setCore f c x).engTurn = s.engTurn := rfl
@[simp] theorem State.setCore_bar2Size (s : State) (f c : Nat) (x : CoreSt) : (s.setCore f c x).bar2Size = s.bar2Size := rfl
@[simp] theorem State.setCore_flr (s : State) (f c : Nat) (x : CoreSt) : (s.setCore f c x).flr = s.flr := rfl
@[simp] theorem State.setCore_d3 (s : State) (f c : Nat) (x : CoreSt) : (s.setCore f c x).d3 = s.d3 := rfl
@[simp] theorem State.setCore_sealed (s : State) (f c : Nat) (x : CoreSt) : (s.setCore f c x).sealed = s.sealed := rfl
@[simp] theorem State.setCore_fresh (s : State) (f c : Nat) (x : CoreSt) : (s.setCore f c x).fresh = s.fresh := rfl
@[simp] theorem State.setCore_job (s : State) (f c : Nat) (x : CoreSt) : (s.setCore f c x).job = s.job := rfl
@[simp] theorem State.setCore_fit2T (s : State) (f c : Nat) (x : CoreSt) : (s.setCore f c x).fit2T = s.fit2T := rfl
@[simp] theorem State.setCore_fitLid (s : State) (f c : Nat) (x : CoreSt) : (s.setCore f c x).fitLid = s.fitLid := rfl
@[simp] theorem State.setCore_shut (s : State) (f c : Nat) (x : CoreSt) : (s.setCore f c x).shut = s.shut := rfl
@[simp] theorem State.setCore_stages (s : State) (f c : Nat) (x : CoreSt) : (s.setCore f c x).stages = s.stages := rfl
@[simp] theorem State.setCore_notices (s : State) (f c : Nat) (x : CoreSt) : (s.setCore f c x).notices = s.notices := rfl
@[simp] theorem State.setCore_rports (s : State) (f c : Nat) (x : CoreSt) : (s.setCore f c x).rports = s.rports := rfl
@[simp] theorem State.setCore_injs (s : State) (f c : Nat) (x : CoreSt) : (s.setCore f c x).injs = s.injs := rfl
@[simp] theorem State.setCore_force (s : State) (f c : Nat) (x : CoreSt) : (s.setCore f c x).force = s.force := rfl
@[simp] theorem State.setCore_spins (s : State) (f c : Nat) (x : CoreSt) : (s.setCore f c x).spins = s.spins := rfl
@[simp] theorem State.setCore_brushIn (s : State) (f c : Nat) (x : CoreSt) : (s.setCore f c x).brushIn = s.brushIn := rfl
@[simp] theorem State.setCore_easelIn (s : State) (f c : Nat) (x : CoreSt) : (s.setCore f c x).easelIn = s.easelIn := rfl
@[simp] theorem State.setCore_easelStat (s : State) (f c : Nat) (x : CoreSt) : (s.setCore f c x).easelStat = s.easelStat := rfl
@[simp] theorem State.setCore_lfsr (s : State) (f c : Nat) (x : CoreSt) : (s.setCore f c x).lfsr = s.lfsr := rfl
@[simp] theorem State.setCore_lfsrKey (s : State) (f c : Nat) (x : CoreSt) : (s.setCore f c x).lfsrKey = s.lfsrKey := rfl
@[simp] theorem State.setCore_errArea (s : State) (f c : Nat) (x : CoreSt) : (s.setCore f c x).errArea = s.errArea := rfl
@[simp] theorem State.setCore_phaseT (s : State) (f c : Nat) (x : CoreSt) : (s.setCore f c x).phaseT = s.phaseT := rfl
@[simp] theorem State.setCore_glazeT (s : State) (f c : Nat) (x : CoreSt) : (s.setCore f c x).glazeT = s.glazeT := rfl
@[simp] theorem State.setCore_flexUsed (s : State) (f c : Nat) (x : CoreSt) : (s.setCore f c x).flexUsed = s.flexUsed := rfl
@[simp] theorem State.setCore_repairLog (s : State) (f c : Nat) (x : CoreSt) : (s.setCore f c x).repairLog = s.repairLog := rfl
@[simp] theorem State.setCore_beaconK (s : State) (f c : Nat) (x : CoreSt) : (s.setCore f c x).beaconK = s.beaconK := rfl
@[simp] theorem State.setCore_glazeReq (s : State) (f c : Nat) (x : CoreSt) : (s.setCore f c x).glazeReq = s.glazeReq := rfl
@[simp] theorem State.setCore_commits (s : State) (f c : Nat) (x : CoreSt) : (s.setCore f c x).commits = s.commits := rfl
@[simp] theorem State.setCore_switches (s : State) (f c : Nat) (x : CoreSt) : (s.setCore f c x).switches = s.switches := rfl
@[simp] theorem State.setCore_shape (s : State) (f c : Nat) (x : CoreSt) : (s.setCore f c x).shape = s.shape := rfl
@[simp] theorem State.setCore_snap (s : State) (f c : Nat) (x : CoreSt) : (s.setCore f c x).snap = s.snap := rfl
@[simp] theorem State.setCore_telem (s : State) (f c : Nat) (x : CoreSt) : (s.setCore f c x).telem = s.telem := rfl
@[simp] theorem State.setCore_gov (s : State) (f c : Nat) (x : CoreSt) : (s.setCore f c x).gov = s.gov := rfl
@[simp] theorem State.setCore_fuses (s : State) (f c : Nat) (x : CoreSt) : (s.setCore f c x).fuses = s.fuses := rfl
@[simp] theorem State.setCore_flash (s : State) (f c : Nat) (x : CoreSt) : (s.setCore f c x).flash = s.flash := rfl
@[simp] theorem State.setCore_boot (s : State) (f c : Nat) (x : CoreSt) : (s.setCore f c x).boot = s.boot := rfl
@[simp] theorem State.setCore_spdmVdm (s : State) (f c : Nat) (x : CoreSt) : (s.setCore f c x).spdmVdm = s.spdmVdm := rfl
@[simp] theorem State.setCore_spdmBus (s : State) (f c : Nat) (x : CoreSt) : (s.setCore f c x).spdmBus = s.spdmBus := rfl
@[simp] theorem State.setCore_standby (s : State) (f c : Nat) (x : CoreSt) : (s.setCore f c x).standby = s.standby := rfl
@[simp] theorem State.setCore_pwrStage (s : State) (f c : Nat) (x : CoreSt) : (s.setCore f c x).pwrStage = s.pwrStage := rfl
@[simp] theorem State.setCore_stopHeld (s : State) (f c : Nat) (x : CoreSt) : (s.setCore f c x).stopHeld = s.stopHeld := rfl
@[simp] theorem State.setCore_pending (s : State) (f c : Nat) (x : CoreSt) : (s.setCore f c x).pending = s.pending := rfl

/-! ## setQueue -/

@[simp] theorem State.setQueue_regs (s : State) (f q : Nat) (x : QueueSt) : (s.setQueue f q x).regs = s.regs := rfl
@[simp] theorem State.setQueue_mem (s : State) (f q : Nat) (x : QueueSt) : (s.setQueue f q x).mem = s.mem := rfl
@[simp] theorem State.setQueue_cores (s : State) (f q : Nat) (x : QueueSt) : (s.setQueue f q x).cores = s.cores := rfl
@[simp] theorem State.setQueue_bad (s : State) (f q : Nat) (x : QueueSt) : (s.setQueue f q x).bad = s.bad := rfl
@[simp] theorem State.setQueue_spBad (s : State) (f q : Nat) (x : QueueSt) : (s.setQueue f q x).spBad = s.spBad := rfl
@[simp] theorem State.setQueue_spEpoch (s : State) (f q : Nat) (x : QueueSt) : (s.setQueue f q x).spEpoch = s.spEpoch := rfl
@[simp] theorem State.setQueue_lines (s : State) (f q : Nat) (x : QueueSt) : (s.setQueue f q x).lines = s.lines := rfl
@[simp] theorem State.setQueue_plru (s : State) (f q : Nat) (x : QueueSt) : (s.setQueue f q x).plru = s.plru := rfl
@[simp] theorem State.setQueue_misses (s : State) (f q : Nat) (x : QueueSt) : (s.setQueue f q x).misses = s.misses := rfl
@[simp] theorem State.setQueue_reply (s : State) (f q : Nat) (x : QueueSt) : (s.setQueue f q x).reply = s.reply := rfl
@[simp] theorem State.setQueue_leaving (s : State) (f q : Nat) (x : QueueSt) : (s.setQueue f q x).leaving = s.leaving := rfl
@[simp] theorem State.setQueue_flush (s : State) (f q : Nat) (x : QueueSt) : (s.setQueue f q x).flush = s.flush := rfl
@[simp] theorem State.setQueue_chT (s : State) (f q : Nat) (x : QueueSt) : (s.setQueue f q x).chT = s.chT := rfl
@[simp] theorem State.setQueue_reread (s : State) (f q : Nat) (x : QueueSt) : (s.setQueue f q x).reread = s.reread := rfl
@[simp] theorem State.setQueue_autoTry (s : State) (f q : Nat) (x : QueueSt) : (s.setQueue f q x).autoTry = s.autoTry := rfl
@[simp] theorem State.setQueue_chanQ (s : State) (f q : Nat) (x : QueueSt) : (s.setQueue f q x).chanQ = s.chanQ := rfl
@[simp] theorem State.setQueue_spare (s : State) (f q : Nat) (x : QueueSt) : (s.setQueue f q x).spare = s.spare := rfl
@[simp] theorem State.setQueue_repairs (s : State) (f q : Nat) (x : QueueSt) : (s.setQueue f q x).repairs = s.repairs := rfl
@[simp] theorem State.setQueue_refreshes (s : State) (f q : Nat) (x : QueueSt) : (s.setQueue f q x).refreshes = s.refreshes := rfl
@[simp] theorem State.setQueue_log (s : State) (f q : Nat) (x : QueueSt) : (s.setQueue f q x).log = s.log := rfl
@[simp] theorem State.setQueue_nextSeq (s : State) (f q : Nat) (x : QueueSt) : (s.setQueue f q x).nextSeq = s.nextSeq := rfl
@[simp] theorem State.setQueue_aborts (s : State) (f q : Nat) (x : QueueSt) : (s.setQueue f q x).aborts = s.aborts := rfl
@[simp] theorem State.setQueue_active (s : State) (f q : Nat) (x : QueueSt) : (s.setQueue f q x).active = s.active := rfl
@[simp] theorem State.setQueue_defer (s : State) (f q : Nat) (x : QueueSt) : (s.setQueue f q x).defer = s.defer := rfl
@[simp] theorem State.setQueue_wakes (s : State) (f q : Nat) (x : QueueSt) : (s.setQueue f q x).wakes = s.wakes := rfl
@[simp] theorem State.setQueue_ready (s : State) (f q : Nat) (x : QueueSt) : (s.setQueue f q x).ready = s.ready := rfl
@[simp] theorem State.setQueue_msix (s : State) (f q : Nat) (x : QueueSt) : (s.setQueue f q x).msix = s.msix := rfl
@[simp] theorem State.setQueue_msixAddr (s : State) (f q : Nat) (x : QueueSt) : (s.setQueue f q x).msixAddr = s.msixAddr := rfl
@[simp] theorem State.setQueue_msixData (s : State) (f q : Nat) (x : QueueSt) : (s.setQueue f q x).msixData = s.msixData := rfl
@[simp] theorem State.setQueue_msixMask (s : State) (f q : Nat) (x : QueueSt) : (s.setQueue f q x).msixMask = s.msixMask := rfl
@[simp] theorem State.setQueue_msixPend (s : State) (f q : Nat) (x : QueueSt) : (s.setQueue f q x).msixPend = s.msixPend := rfl
@[simp] theorem State.setQueue_hostRead (s : State) (f q : Nat) (x : QueueSt) : (s.setQueue f q x).hostRead = s.hostRead := rfl
@[simp] theorem State.setQueue_hostAbort (s : State) (f q : Nat) (x : QueueSt) : (s.setQueue f q x).hostAbort = s.hostAbort := rfl
@[simp] theorem State.setQueue_master (s : State) (f q : Nat) (x : QueueSt) : (s.setQueue f q x).master = s.master := rfl
@[simp] theorem State.setQueue_masterHold (s : State) (f q : Nat) (x : QueueSt) : (s.setQueue f q x).masterHold = s.masterHold := rfl
@[simp] theorem State.setQueue_masterCorr (s : State) (f q : Nat) (x : QueueSt) : (s.setQueue f q x).masterCorr = s.masterCorr := rfl
@[simp] theorem State.setQueue_masterSpread (s : State) (f q : Nat) (x : QueueSt) : (s.setQueue f q x).masterSpread = s.masterSpread := rfl
@[simp] theorem State.setQueue_source (s : State) (f q : Nat) (x : QueueSt) : (s.setQueue f q x).source = s.source := rfl
@[simp] theorem State.setQueue_regions (s : State) (f q : Nat) (x : QueueSt) : (s.setQueue f q x).regions = s.regions := rfl
@[simp] theorem State.setQueue_freq (s : State) (f q : Nat) (x : QueueSt) : (s.setQueue f q x).freq = s.freq := rfl
@[simp] theorem State.setQueue_heldGo (s : State) (f q : Nat) (x : QueueSt) : (s.setQueue f q x).heldGo = s.heldGo := rfl
@[simp] theorem State.setQueue_restartT (s : State) (f q : Nat) (x : QueueSt) : (s.setQueue f q x).restartT = s.restartT := rfl
@[simp] theorem State.setQueue_gens (s : State) (f q : Nat) (x : QueueSt) : (s.setQueue f q x).gens = s.gens := rfl
@[simp] theorem State.setQueue_mesh (s : State) (f q : Nat) (x : QueueSt) : (s.setQueue f q x).mesh = s.mesh := rfl
@[simp] theorem State.setQueue_meshOut (s : State) (f q : Nat) (x : QueueSt) : (s.setQueue f q x).meshOut = s.meshOut := rfl
@[simp] theorem State.setQueue_edgeIn (s : State) (f q : Nat) (x : QueueSt) : (s.setQueue f q x).edgeIn = s.edgeIn := rfl
@[simp] theorem State.setQueue_edgeOut (s : State) (f q : Nat) (x : QueueSt) : (s.setQueue f q x).edgeOut = s.edgeOut := rfl
@[simp] theorem State.setQueue_ctlIn (s : State) (f q : Nat) (x : QueueSt) : (s.setQueue f q x).ctlIn = s.ctlIn := rfl
@[simp] theorem State.setQueue_grants (s : State) (f q : Nat) (x : QueueSt) : (s.setQueue f q x).grants = s.grants := rfl
@[simp] theorem State.setQueue_ppsT (s : State) (f q : Nat) (x : QueueSt) : (s.setQueue f q x).ppsT = s.ppsT := rfl
@[simp] theorem State.setQueue_ppsOut (s : State) (f q : Nat) (x : QueueSt) : (s.setQueue f q x).ppsOut = s.ppsOut := rfl
@[simp] theorem State.setQueue_ppsRise (s : State) (f q : Nat) (x : QueueSt) : (s.setQueue f q x).ppsRise = s.ppsRise := rfl
@[simp] theorem State.setQueue_ports (s : State) (f q : Nat) (x : QueueSt) : (s.setQueue f q x).ports = s.ports := rfl
@[simp] theorem State.setQueue_mcasts (s : State) (f q : Nat) (x : QueueSt) : (s.setQueue f q x).mcasts = s.mcasts := rfl
@[simp] theorem State.setQueue_timeReq (s : State) (f q : Nat) (x : QueueSt) : (s.setQueue f q x).timeReq = s.timeReq := rfl
@[simp] theorem State.setQueue_timeT (s : State) (f q : Nat) (x : QueueSt) : (s.setQueue f q x).timeT = s.timeT := rfl
@[simp] theorem State.setQueue_freeRun (s : State) (f q : Nat) (x : QueueSt) : (s.setQueue f q x).freeRun = s.freeRun := rfl
@[simp] theorem State.setQueue_shards (s : State) (f q : Nat) (x : QueueSt) : (s.setQueue f q x).shards = s.shards := rfl
@[simp] theorem State.setQueue_held (s : State) (f q : Nat) (x : QueueSt) : (s.setQueue f q x).held = s.held := rfl
@[simp] theorem State.setQueue_withheld (s : State) (f q : Nat) (x : QueueSt) : (s.setQueue f q x).withheld = s.withheld := rfl
@[simp] theorem State.setQueue_stats (s : State) (f q : Nat) (x : QueueSt) : (s.setQueue f q x).stats = s.stats := rfl
@[simp] theorem State.setQueue_lineDone (s : State) (f q : Nat) (x : QueueSt) : (s.setQueue f q x).lineDone = s.lineDone := rfl
@[simp] theorem State.setQueue_verRec (s : State) (f q : Nat) (x : QueueSt) : (s.setQueue f q x).verRec = s.verRec := rfl
@[simp] theorem State.setQueue_stepSt (s : State) (f q : Nat) (x : QueueSt) : (s.setQueue f q x).stepSt = s.stepSt := rfl
@[simp] theorem State.setQueue_rings (s : State) (f q : Nat) (x : QueueSt) : (s.setQueue f q x).rings = s.rings := rfl
@[simp] theorem State.setQueue_engTurn (s : State) (f q : Nat) (x : QueueSt) : (s.setQueue f q x).engTurn = s.engTurn := rfl
@[simp] theorem State.setQueue_bar2Size (s : State) (f q : Nat) (x : QueueSt) : (s.setQueue f q x).bar2Size = s.bar2Size := rfl
@[simp] theorem State.setQueue_flr (s : State) (f q : Nat) (x : QueueSt) : (s.setQueue f q x).flr = s.flr := rfl
@[simp] theorem State.setQueue_d3 (s : State) (f q : Nat) (x : QueueSt) : (s.setQueue f q x).d3 = s.d3 := rfl
@[simp] theorem State.setQueue_sealed (s : State) (f q : Nat) (x : QueueSt) : (s.setQueue f q x).sealed = s.sealed := rfl
@[simp] theorem State.setQueue_fresh (s : State) (f q : Nat) (x : QueueSt) : (s.setQueue f q x).fresh = s.fresh := rfl
@[simp] theorem State.setQueue_job (s : State) (f q : Nat) (x : QueueSt) : (s.setQueue f q x).job = s.job := rfl
@[simp] theorem State.setQueue_fit2T (s : State) (f q : Nat) (x : QueueSt) : (s.setQueue f q x).fit2T = s.fit2T := rfl
@[simp] theorem State.setQueue_fitLid (s : State) (f q : Nat) (x : QueueSt) : (s.setQueue f q x).fitLid = s.fitLid := rfl
@[simp] theorem State.setQueue_shut (s : State) (f q : Nat) (x : QueueSt) : (s.setQueue f q x).shut = s.shut := rfl
@[simp] theorem State.setQueue_stages (s : State) (f q : Nat) (x : QueueSt) : (s.setQueue f q x).stages = s.stages := rfl
@[simp] theorem State.setQueue_notices (s : State) (f q : Nat) (x : QueueSt) : (s.setQueue f q x).notices = s.notices := rfl
@[simp] theorem State.setQueue_rports (s : State) (f q : Nat) (x : QueueSt) : (s.setQueue f q x).rports = s.rports := rfl
@[simp] theorem State.setQueue_injs (s : State) (f q : Nat) (x : QueueSt) : (s.setQueue f q x).injs = s.injs := rfl
@[simp] theorem State.setQueue_force (s : State) (f q : Nat) (x : QueueSt) : (s.setQueue f q x).force = s.force := rfl
@[simp] theorem State.setQueue_spins (s : State) (f q : Nat) (x : QueueSt) : (s.setQueue f q x).spins = s.spins := rfl
@[simp] theorem State.setQueue_brushIn (s : State) (f q : Nat) (x : QueueSt) : (s.setQueue f q x).brushIn = s.brushIn := rfl
@[simp] theorem State.setQueue_easelIn (s : State) (f q : Nat) (x : QueueSt) : (s.setQueue f q x).easelIn = s.easelIn := rfl
@[simp] theorem State.setQueue_easelStat (s : State) (f q : Nat) (x : QueueSt) : (s.setQueue f q x).easelStat = s.easelStat := rfl
@[simp] theorem State.setQueue_lfsr (s : State) (f q : Nat) (x : QueueSt) : (s.setQueue f q x).lfsr = s.lfsr := rfl
@[simp] theorem State.setQueue_lfsrKey (s : State) (f q : Nat) (x : QueueSt) : (s.setQueue f q x).lfsrKey = s.lfsrKey := rfl
@[simp] theorem State.setQueue_errArea (s : State) (f q : Nat) (x : QueueSt) : (s.setQueue f q x).errArea = s.errArea := rfl
@[simp] theorem State.setQueue_phaseT (s : State) (f q : Nat) (x : QueueSt) : (s.setQueue f q x).phaseT = s.phaseT := rfl
@[simp] theorem State.setQueue_glazeT (s : State) (f q : Nat) (x : QueueSt) : (s.setQueue f q x).glazeT = s.glazeT := rfl
@[simp] theorem State.setQueue_flexUsed (s : State) (f q : Nat) (x : QueueSt) : (s.setQueue f q x).flexUsed = s.flexUsed := rfl
@[simp] theorem State.setQueue_repairLog (s : State) (f q : Nat) (x : QueueSt) : (s.setQueue f q x).repairLog = s.repairLog := rfl
@[simp] theorem State.setQueue_beaconK (s : State) (f q : Nat) (x : QueueSt) : (s.setQueue f q x).beaconK = s.beaconK := rfl
@[simp] theorem State.setQueue_glazeReq (s : State) (f q : Nat) (x : QueueSt) : (s.setQueue f q x).glazeReq = s.glazeReq := rfl
@[simp] theorem State.setQueue_commits (s : State) (f q : Nat) (x : QueueSt) : (s.setQueue f q x).commits = s.commits := rfl
@[simp] theorem State.setQueue_switches (s : State) (f q : Nat) (x : QueueSt) : (s.setQueue f q x).switches = s.switches := rfl
@[simp] theorem State.setQueue_shape (s : State) (f q : Nat) (x : QueueSt) : (s.setQueue f q x).shape = s.shape := rfl
@[simp] theorem State.setQueue_snap (s : State) (f q : Nat) (x : QueueSt) : (s.setQueue f q x).snap = s.snap := rfl
@[simp] theorem State.setQueue_telem (s : State) (f q : Nat) (x : QueueSt) : (s.setQueue f q x).telem = s.telem := rfl
@[simp] theorem State.setQueue_gov (s : State) (f q : Nat) (x : QueueSt) : (s.setQueue f q x).gov = s.gov := rfl
@[simp] theorem State.setQueue_fuses (s : State) (f q : Nat) (x : QueueSt) : (s.setQueue f q x).fuses = s.fuses := rfl
@[simp] theorem State.setQueue_flash (s : State) (f q : Nat) (x : QueueSt) : (s.setQueue f q x).flash = s.flash := rfl
@[simp] theorem State.setQueue_boot (s : State) (f q : Nat) (x : QueueSt) : (s.setQueue f q x).boot = s.boot := rfl
@[simp] theorem State.setQueue_spdmVdm (s : State) (f q : Nat) (x : QueueSt) : (s.setQueue f q x).spdmVdm = s.spdmVdm := rfl
@[simp] theorem State.setQueue_spdmBus (s : State) (f q : Nat) (x : QueueSt) : (s.setQueue f q x).spdmBus = s.spdmBus := rfl
@[simp] theorem State.setQueue_standby (s : State) (f q : Nat) (x : QueueSt) : (s.setQueue f q x).standby = s.standby := rfl
@[simp] theorem State.setQueue_pwrStage (s : State) (f q : Nat) (x : QueueSt) : (s.setQueue f q x).pwrStage = s.pwrStage := rfl
@[simp] theorem State.setQueue_stopHeld (s : State) (f q : Nat) (x : QueueSt) : (s.setQueue f q x).stopHeld = s.stopHeld := rfl
@[simp] theorem State.setQueue_pending (s : State) (f q : Nat) (x : QueueSt) : (s.setQueue f q x).pending = s.pending := rfl

/-! ## setSh -/

@[simp] theorem State.setSh_regs (s : State) (f j : Nat) (x : ShutSt) : (s.setSh f j x).regs = s.regs := rfl
@[simp] theorem State.setSh_mem (s : State) (f j : Nat) (x : ShutSt) : (s.setSh f j x).mem = s.mem := rfl
@[simp] theorem State.setSh_cores (s : State) (f j : Nat) (x : ShutSt) : (s.setSh f j x).cores = s.cores := rfl
@[simp] theorem State.setSh_queues (s : State) (f j : Nat) (x : ShutSt) : (s.setSh f j x).queues = s.queues := rfl
@[simp] theorem State.setSh_bad (s : State) (f j : Nat) (x : ShutSt) : (s.setSh f j x).bad = s.bad := rfl
@[simp] theorem State.setSh_spBad (s : State) (f j : Nat) (x : ShutSt) : (s.setSh f j x).spBad = s.spBad := rfl
@[simp] theorem State.setSh_spEpoch (s : State) (f j : Nat) (x : ShutSt) : (s.setSh f j x).spEpoch = s.spEpoch := rfl
@[simp] theorem State.setSh_lines (s : State) (f j : Nat) (x : ShutSt) : (s.setSh f j x).lines = s.lines := rfl
@[simp] theorem State.setSh_plru (s : State) (f j : Nat) (x : ShutSt) : (s.setSh f j x).plru = s.plru := rfl
@[simp] theorem State.setSh_misses (s : State) (f j : Nat) (x : ShutSt) : (s.setSh f j x).misses = s.misses := rfl
@[simp] theorem State.setSh_reply (s : State) (f j : Nat) (x : ShutSt) : (s.setSh f j x).reply = s.reply := rfl
@[simp] theorem State.setSh_leaving (s : State) (f j : Nat) (x : ShutSt) : (s.setSh f j x).leaving = s.leaving := rfl
@[simp] theorem State.setSh_flush (s : State) (f j : Nat) (x : ShutSt) : (s.setSh f j x).flush = s.flush := rfl
@[simp] theorem State.setSh_chT (s : State) (f j : Nat) (x : ShutSt) : (s.setSh f j x).chT = s.chT := rfl
@[simp] theorem State.setSh_reread (s : State) (f j : Nat) (x : ShutSt) : (s.setSh f j x).reread = s.reread := rfl
@[simp] theorem State.setSh_autoTry (s : State) (f j : Nat) (x : ShutSt) : (s.setSh f j x).autoTry = s.autoTry := rfl
@[simp] theorem State.setSh_chanQ (s : State) (f j : Nat) (x : ShutSt) : (s.setSh f j x).chanQ = s.chanQ := rfl
@[simp] theorem State.setSh_spare (s : State) (f j : Nat) (x : ShutSt) : (s.setSh f j x).spare = s.spare := rfl
@[simp] theorem State.setSh_repairs (s : State) (f j : Nat) (x : ShutSt) : (s.setSh f j x).repairs = s.repairs := rfl
@[simp] theorem State.setSh_refreshes (s : State) (f j : Nat) (x : ShutSt) : (s.setSh f j x).refreshes = s.refreshes := rfl
@[simp] theorem State.setSh_log (s : State) (f j : Nat) (x : ShutSt) : (s.setSh f j x).log = s.log := rfl
@[simp] theorem State.setSh_nextSeq (s : State) (f j : Nat) (x : ShutSt) : (s.setSh f j x).nextSeq = s.nextSeq := rfl
@[simp] theorem State.setSh_aborts (s : State) (f j : Nat) (x : ShutSt) : (s.setSh f j x).aborts = s.aborts := rfl
@[simp] theorem State.setSh_active (s : State) (f j : Nat) (x : ShutSt) : (s.setSh f j x).active = s.active := rfl
@[simp] theorem State.setSh_defer (s : State) (f j : Nat) (x : ShutSt) : (s.setSh f j x).defer = s.defer := rfl
@[simp] theorem State.setSh_wakes (s : State) (f j : Nat) (x : ShutSt) : (s.setSh f j x).wakes = s.wakes := rfl
@[simp] theorem State.setSh_ready (s : State) (f j : Nat) (x : ShutSt) : (s.setSh f j x).ready = s.ready := rfl
@[simp] theorem State.setSh_msix (s : State) (f j : Nat) (x : ShutSt) : (s.setSh f j x).msix = s.msix := rfl
@[simp] theorem State.setSh_msixAddr (s : State) (f j : Nat) (x : ShutSt) : (s.setSh f j x).msixAddr = s.msixAddr := rfl
@[simp] theorem State.setSh_msixData (s : State) (f j : Nat) (x : ShutSt) : (s.setSh f j x).msixData = s.msixData := rfl
@[simp] theorem State.setSh_msixMask (s : State) (f j : Nat) (x : ShutSt) : (s.setSh f j x).msixMask = s.msixMask := rfl
@[simp] theorem State.setSh_msixPend (s : State) (f j : Nat) (x : ShutSt) : (s.setSh f j x).msixPend = s.msixPend := rfl
@[simp] theorem State.setSh_hostRead (s : State) (f j : Nat) (x : ShutSt) : (s.setSh f j x).hostRead = s.hostRead := rfl
@[simp] theorem State.setSh_hostAbort (s : State) (f j : Nat) (x : ShutSt) : (s.setSh f j x).hostAbort = s.hostAbort := rfl
@[simp] theorem State.setSh_master (s : State) (f j : Nat) (x : ShutSt) : (s.setSh f j x).master = s.master := rfl
@[simp] theorem State.setSh_masterHold (s : State) (f j : Nat) (x : ShutSt) : (s.setSh f j x).masterHold = s.masterHold := rfl
@[simp] theorem State.setSh_masterCorr (s : State) (f j : Nat) (x : ShutSt) : (s.setSh f j x).masterCorr = s.masterCorr := rfl
@[simp] theorem State.setSh_masterSpread (s : State) (f j : Nat) (x : ShutSt) : (s.setSh f j x).masterSpread = s.masterSpread := rfl
@[simp] theorem State.setSh_source (s : State) (f j : Nat) (x : ShutSt) : (s.setSh f j x).source = s.source := rfl
@[simp] theorem State.setSh_regions (s : State) (f j : Nat) (x : ShutSt) : (s.setSh f j x).regions = s.regions := rfl
@[simp] theorem State.setSh_freq (s : State) (f j : Nat) (x : ShutSt) : (s.setSh f j x).freq = s.freq := rfl
@[simp] theorem State.setSh_heldGo (s : State) (f j : Nat) (x : ShutSt) : (s.setSh f j x).heldGo = s.heldGo := rfl
@[simp] theorem State.setSh_restartT (s : State) (f j : Nat) (x : ShutSt) : (s.setSh f j x).restartT = s.restartT := rfl
@[simp] theorem State.setSh_gens (s : State) (f j : Nat) (x : ShutSt) : (s.setSh f j x).gens = s.gens := rfl
@[simp] theorem State.setSh_mesh (s : State) (f j : Nat) (x : ShutSt) : (s.setSh f j x).mesh = s.mesh := rfl
@[simp] theorem State.setSh_meshOut (s : State) (f j : Nat) (x : ShutSt) : (s.setSh f j x).meshOut = s.meshOut := rfl
@[simp] theorem State.setSh_edgeIn (s : State) (f j : Nat) (x : ShutSt) : (s.setSh f j x).edgeIn = s.edgeIn := rfl
@[simp] theorem State.setSh_edgeOut (s : State) (f j : Nat) (x : ShutSt) : (s.setSh f j x).edgeOut = s.edgeOut := rfl
@[simp] theorem State.setSh_ctlIn (s : State) (f j : Nat) (x : ShutSt) : (s.setSh f j x).ctlIn = s.ctlIn := rfl
@[simp] theorem State.setSh_grants (s : State) (f j : Nat) (x : ShutSt) : (s.setSh f j x).grants = s.grants := rfl
@[simp] theorem State.setSh_ppsT (s : State) (f j : Nat) (x : ShutSt) : (s.setSh f j x).ppsT = s.ppsT := rfl
@[simp] theorem State.setSh_ppsOut (s : State) (f j : Nat) (x : ShutSt) : (s.setSh f j x).ppsOut = s.ppsOut := rfl
@[simp] theorem State.setSh_ppsRise (s : State) (f j : Nat) (x : ShutSt) : (s.setSh f j x).ppsRise = s.ppsRise := rfl
@[simp] theorem State.setSh_ports (s : State) (f j : Nat) (x : ShutSt) : (s.setSh f j x).ports = s.ports := rfl
@[simp] theorem State.setSh_mcasts (s : State) (f j : Nat) (x : ShutSt) : (s.setSh f j x).mcasts = s.mcasts := rfl
@[simp] theorem State.setSh_timeReq (s : State) (f j : Nat) (x : ShutSt) : (s.setSh f j x).timeReq = s.timeReq := rfl
@[simp] theorem State.setSh_timeT (s : State) (f j : Nat) (x : ShutSt) : (s.setSh f j x).timeT = s.timeT := rfl
@[simp] theorem State.setSh_freeRun (s : State) (f j : Nat) (x : ShutSt) : (s.setSh f j x).freeRun = s.freeRun := rfl
@[simp] theorem State.setSh_shards (s : State) (f j : Nat) (x : ShutSt) : (s.setSh f j x).shards = s.shards := rfl
@[simp] theorem State.setSh_held (s : State) (f j : Nat) (x : ShutSt) : (s.setSh f j x).held = s.held := rfl
@[simp] theorem State.setSh_withheld (s : State) (f j : Nat) (x : ShutSt) : (s.setSh f j x).withheld = s.withheld := rfl
@[simp] theorem State.setSh_stats (s : State) (f j : Nat) (x : ShutSt) : (s.setSh f j x).stats = s.stats := rfl
@[simp] theorem State.setSh_lineDone (s : State) (f j : Nat) (x : ShutSt) : (s.setSh f j x).lineDone = s.lineDone := rfl
@[simp] theorem State.setSh_verRec (s : State) (f j : Nat) (x : ShutSt) : (s.setSh f j x).verRec = s.verRec := rfl
@[simp] theorem State.setSh_stepSt (s : State) (f j : Nat) (x : ShutSt) : (s.setSh f j x).stepSt = s.stepSt := rfl
@[simp] theorem State.setSh_rings (s : State) (f j : Nat) (x : ShutSt) : (s.setSh f j x).rings = s.rings := rfl
@[simp] theorem State.setSh_engTurn (s : State) (f j : Nat) (x : ShutSt) : (s.setSh f j x).engTurn = s.engTurn := rfl
@[simp] theorem State.setSh_bar2Size (s : State) (f j : Nat) (x : ShutSt) : (s.setSh f j x).bar2Size = s.bar2Size := rfl
@[simp] theorem State.setSh_flr (s : State) (f j : Nat) (x : ShutSt) : (s.setSh f j x).flr = s.flr := rfl
@[simp] theorem State.setSh_d3 (s : State) (f j : Nat) (x : ShutSt) : (s.setSh f j x).d3 = s.d3 := rfl
@[simp] theorem State.setSh_sealed (s : State) (f j : Nat) (x : ShutSt) : (s.setSh f j x).sealed = s.sealed := rfl
@[simp] theorem State.setSh_fresh (s : State) (f j : Nat) (x : ShutSt) : (s.setSh f j x).fresh = s.fresh := rfl
@[simp] theorem State.setSh_job (s : State) (f j : Nat) (x : ShutSt) : (s.setSh f j x).job = s.job := rfl
@[simp] theorem State.setSh_fit2T (s : State) (f j : Nat) (x : ShutSt) : (s.setSh f j x).fit2T = s.fit2T := rfl
@[simp] theorem State.setSh_fitLid (s : State) (f j : Nat) (x : ShutSt) : (s.setSh f j x).fitLid = s.fitLid := rfl
@[simp] theorem State.setSh_stages (s : State) (f j : Nat) (x : ShutSt) : (s.setSh f j x).stages = s.stages := rfl
@[simp] theorem State.setSh_notices (s : State) (f j : Nat) (x : ShutSt) : (s.setSh f j x).notices = s.notices := rfl
@[simp] theorem State.setSh_rports (s : State) (f j : Nat) (x : ShutSt) : (s.setSh f j x).rports = s.rports := rfl
@[simp] theorem State.setSh_injs (s : State) (f j : Nat) (x : ShutSt) : (s.setSh f j x).injs = s.injs := rfl
@[simp] theorem State.setSh_force (s : State) (f j : Nat) (x : ShutSt) : (s.setSh f j x).force = s.force := rfl
@[simp] theorem State.setSh_spins (s : State) (f j : Nat) (x : ShutSt) : (s.setSh f j x).spins = s.spins := rfl
@[simp] theorem State.setSh_brushIn (s : State) (f j : Nat) (x : ShutSt) : (s.setSh f j x).brushIn = s.brushIn := rfl
@[simp] theorem State.setSh_easelIn (s : State) (f j : Nat) (x : ShutSt) : (s.setSh f j x).easelIn = s.easelIn := rfl
@[simp] theorem State.setSh_easelStat (s : State) (f j : Nat) (x : ShutSt) : (s.setSh f j x).easelStat = s.easelStat := rfl
@[simp] theorem State.setSh_lfsr (s : State) (f j : Nat) (x : ShutSt) : (s.setSh f j x).lfsr = s.lfsr := rfl
@[simp] theorem State.setSh_lfsrKey (s : State) (f j : Nat) (x : ShutSt) : (s.setSh f j x).lfsrKey = s.lfsrKey := rfl
@[simp] theorem State.setSh_errArea (s : State) (f j : Nat) (x : ShutSt) : (s.setSh f j x).errArea = s.errArea := rfl
@[simp] theorem State.setSh_phaseT (s : State) (f j : Nat) (x : ShutSt) : (s.setSh f j x).phaseT = s.phaseT := rfl
@[simp] theorem State.setSh_glazeT (s : State) (f j : Nat) (x : ShutSt) : (s.setSh f j x).glazeT = s.glazeT := rfl
@[simp] theorem State.setSh_flexUsed (s : State) (f j : Nat) (x : ShutSt) : (s.setSh f j x).flexUsed = s.flexUsed := rfl
@[simp] theorem State.setSh_repairLog (s : State) (f j : Nat) (x : ShutSt) : (s.setSh f j x).repairLog = s.repairLog := rfl
@[simp] theorem State.setSh_beaconK (s : State) (f j : Nat) (x : ShutSt) : (s.setSh f j x).beaconK = s.beaconK := rfl
@[simp] theorem State.setSh_glazeReq (s : State) (f j : Nat) (x : ShutSt) : (s.setSh f j x).glazeReq = s.glazeReq := rfl
@[simp] theorem State.setSh_commits (s : State) (f j : Nat) (x : ShutSt) : (s.setSh f j x).commits = s.commits := rfl
@[simp] theorem State.setSh_switches (s : State) (f j : Nat) (x : ShutSt) : (s.setSh f j x).switches = s.switches := rfl
@[simp] theorem State.setSh_shape (s : State) (f j : Nat) (x : ShutSt) : (s.setSh f j x).shape = s.shape := rfl
@[simp] theorem State.setSh_snap (s : State) (f j : Nat) (x : ShutSt) : (s.setSh f j x).snap = s.snap := rfl
@[simp] theorem State.setSh_telem (s : State) (f j : Nat) (x : ShutSt) : (s.setSh f j x).telem = s.telem := rfl
@[simp] theorem State.setSh_gov (s : State) (f j : Nat) (x : ShutSt) : (s.setSh f j x).gov = s.gov := rfl
@[simp] theorem State.setSh_fuses (s : State) (f j : Nat) (x : ShutSt) : (s.setSh f j x).fuses = s.fuses := rfl
@[simp] theorem State.setSh_flash (s : State) (f j : Nat) (x : ShutSt) : (s.setSh f j x).flash = s.flash := rfl
@[simp] theorem State.setSh_boot (s : State) (f j : Nat) (x : ShutSt) : (s.setSh f j x).boot = s.boot := rfl
@[simp] theorem State.setSh_spdmVdm (s : State) (f j : Nat) (x : ShutSt) : (s.setSh f j x).spdmVdm = s.spdmVdm := rfl
@[simp] theorem State.setSh_spdmBus (s : State) (f j : Nat) (x : ShutSt) : (s.setSh f j x).spdmBus = s.spdmBus := rfl
@[simp] theorem State.setSh_standby (s : State) (f j : Nat) (x : ShutSt) : (s.setSh f j x).standby = s.standby := rfl
@[simp] theorem State.setSh_pwrStage (s : State) (f j : Nat) (x : ShutSt) : (s.setSh f j x).pwrStage = s.pwrStage := rfl
@[simp] theorem State.setSh_stopHeld (s : State) (f j : Nat) (x : ShutSt) : (s.setSh f j x).stopHeld = s.stopHeld := rfl
@[simp] theorem State.setSh_pending (s : State) (f j : Nat) (x : ShutSt) : (s.setSh f j x).pending = s.pending := rfl

/-! ## setSpin -/

@[simp] theorem State.setSpin_regs (s : State) (f n : Nat) (x : SpinSt) : (s.setSpin f n x).regs = s.regs := rfl
@[simp] theorem State.setSpin_mem (s : State) (f n : Nat) (x : SpinSt) : (s.setSpin f n x).mem = s.mem := rfl
@[simp] theorem State.setSpin_cores (s : State) (f n : Nat) (x : SpinSt) : (s.setSpin f n x).cores = s.cores := rfl
@[simp] theorem State.setSpin_queues (s : State) (f n : Nat) (x : SpinSt) : (s.setSpin f n x).queues = s.queues := rfl
@[simp] theorem State.setSpin_bad (s : State) (f n : Nat) (x : SpinSt) : (s.setSpin f n x).bad = s.bad := rfl
@[simp] theorem State.setSpin_spBad (s : State) (f n : Nat) (x : SpinSt) : (s.setSpin f n x).spBad = s.spBad := rfl
@[simp] theorem State.setSpin_spEpoch (s : State) (f n : Nat) (x : SpinSt) : (s.setSpin f n x).spEpoch = s.spEpoch := rfl
@[simp] theorem State.setSpin_lines (s : State) (f n : Nat) (x : SpinSt) : (s.setSpin f n x).lines = s.lines := rfl
@[simp] theorem State.setSpin_plru (s : State) (f n : Nat) (x : SpinSt) : (s.setSpin f n x).plru = s.plru := rfl
@[simp] theorem State.setSpin_misses (s : State) (f n : Nat) (x : SpinSt) : (s.setSpin f n x).misses = s.misses := rfl
@[simp] theorem State.setSpin_reply (s : State) (f n : Nat) (x : SpinSt) : (s.setSpin f n x).reply = s.reply := rfl
@[simp] theorem State.setSpin_leaving (s : State) (f n : Nat) (x : SpinSt) : (s.setSpin f n x).leaving = s.leaving := rfl
@[simp] theorem State.setSpin_flush (s : State) (f n : Nat) (x : SpinSt) : (s.setSpin f n x).flush = s.flush := rfl
@[simp] theorem State.setSpin_chT (s : State) (f n : Nat) (x : SpinSt) : (s.setSpin f n x).chT = s.chT := rfl
@[simp] theorem State.setSpin_reread (s : State) (f n : Nat) (x : SpinSt) : (s.setSpin f n x).reread = s.reread := rfl
@[simp] theorem State.setSpin_autoTry (s : State) (f n : Nat) (x : SpinSt) : (s.setSpin f n x).autoTry = s.autoTry := rfl
@[simp] theorem State.setSpin_chanQ (s : State) (f n : Nat) (x : SpinSt) : (s.setSpin f n x).chanQ = s.chanQ := rfl
@[simp] theorem State.setSpin_spare (s : State) (f n : Nat) (x : SpinSt) : (s.setSpin f n x).spare = s.spare := rfl
@[simp] theorem State.setSpin_repairs (s : State) (f n : Nat) (x : SpinSt) : (s.setSpin f n x).repairs = s.repairs := rfl
@[simp] theorem State.setSpin_refreshes (s : State) (f n : Nat) (x : SpinSt) : (s.setSpin f n x).refreshes = s.refreshes := rfl
@[simp] theorem State.setSpin_log (s : State) (f n : Nat) (x : SpinSt) : (s.setSpin f n x).log = s.log := rfl
@[simp] theorem State.setSpin_nextSeq (s : State) (f n : Nat) (x : SpinSt) : (s.setSpin f n x).nextSeq = s.nextSeq := rfl
@[simp] theorem State.setSpin_aborts (s : State) (f n : Nat) (x : SpinSt) : (s.setSpin f n x).aborts = s.aborts := rfl
@[simp] theorem State.setSpin_active (s : State) (f n : Nat) (x : SpinSt) : (s.setSpin f n x).active = s.active := rfl
@[simp] theorem State.setSpin_defer (s : State) (f n : Nat) (x : SpinSt) : (s.setSpin f n x).defer = s.defer := rfl
@[simp] theorem State.setSpin_wakes (s : State) (f n : Nat) (x : SpinSt) : (s.setSpin f n x).wakes = s.wakes := rfl
@[simp] theorem State.setSpin_ready (s : State) (f n : Nat) (x : SpinSt) : (s.setSpin f n x).ready = s.ready := rfl
@[simp] theorem State.setSpin_msix (s : State) (f n : Nat) (x : SpinSt) : (s.setSpin f n x).msix = s.msix := rfl
@[simp] theorem State.setSpin_msixAddr (s : State) (f n : Nat) (x : SpinSt) : (s.setSpin f n x).msixAddr = s.msixAddr := rfl
@[simp] theorem State.setSpin_msixData (s : State) (f n : Nat) (x : SpinSt) : (s.setSpin f n x).msixData = s.msixData := rfl
@[simp] theorem State.setSpin_msixMask (s : State) (f n : Nat) (x : SpinSt) : (s.setSpin f n x).msixMask = s.msixMask := rfl
@[simp] theorem State.setSpin_msixPend (s : State) (f n : Nat) (x : SpinSt) : (s.setSpin f n x).msixPend = s.msixPend := rfl
@[simp] theorem State.setSpin_hostRead (s : State) (f n : Nat) (x : SpinSt) : (s.setSpin f n x).hostRead = s.hostRead := rfl
@[simp] theorem State.setSpin_hostAbort (s : State) (f n : Nat) (x : SpinSt) : (s.setSpin f n x).hostAbort = s.hostAbort := rfl
@[simp] theorem State.setSpin_master (s : State) (f n : Nat) (x : SpinSt) : (s.setSpin f n x).master = s.master := rfl
@[simp] theorem State.setSpin_masterHold (s : State) (f n : Nat) (x : SpinSt) : (s.setSpin f n x).masterHold = s.masterHold := rfl
@[simp] theorem State.setSpin_masterCorr (s : State) (f n : Nat) (x : SpinSt) : (s.setSpin f n x).masterCorr = s.masterCorr := rfl
@[simp] theorem State.setSpin_masterSpread (s : State) (f n : Nat) (x : SpinSt) : (s.setSpin f n x).masterSpread = s.masterSpread := rfl
@[simp] theorem State.setSpin_source (s : State) (f n : Nat) (x : SpinSt) : (s.setSpin f n x).source = s.source := rfl
@[simp] theorem State.setSpin_regions (s : State) (f n : Nat) (x : SpinSt) : (s.setSpin f n x).regions = s.regions := rfl
@[simp] theorem State.setSpin_freq (s : State) (f n : Nat) (x : SpinSt) : (s.setSpin f n x).freq = s.freq := rfl
@[simp] theorem State.setSpin_heldGo (s : State) (f n : Nat) (x : SpinSt) : (s.setSpin f n x).heldGo = s.heldGo := rfl
@[simp] theorem State.setSpin_restartT (s : State) (f n : Nat) (x : SpinSt) : (s.setSpin f n x).restartT = s.restartT := rfl
@[simp] theorem State.setSpin_gens (s : State) (f n : Nat) (x : SpinSt) : (s.setSpin f n x).gens = s.gens := rfl
@[simp] theorem State.setSpin_mesh (s : State) (f n : Nat) (x : SpinSt) : (s.setSpin f n x).mesh = s.mesh := rfl
@[simp] theorem State.setSpin_meshOut (s : State) (f n : Nat) (x : SpinSt) : (s.setSpin f n x).meshOut = s.meshOut := rfl
@[simp] theorem State.setSpin_edgeIn (s : State) (f n : Nat) (x : SpinSt) : (s.setSpin f n x).edgeIn = s.edgeIn := rfl
@[simp] theorem State.setSpin_edgeOut (s : State) (f n : Nat) (x : SpinSt) : (s.setSpin f n x).edgeOut = s.edgeOut := rfl
@[simp] theorem State.setSpin_ctlIn (s : State) (f n : Nat) (x : SpinSt) : (s.setSpin f n x).ctlIn = s.ctlIn := rfl
@[simp] theorem State.setSpin_grants (s : State) (f n : Nat) (x : SpinSt) : (s.setSpin f n x).grants = s.grants := rfl
@[simp] theorem State.setSpin_ppsT (s : State) (f n : Nat) (x : SpinSt) : (s.setSpin f n x).ppsT = s.ppsT := rfl
@[simp] theorem State.setSpin_ppsOut (s : State) (f n : Nat) (x : SpinSt) : (s.setSpin f n x).ppsOut = s.ppsOut := rfl
@[simp] theorem State.setSpin_ppsRise (s : State) (f n : Nat) (x : SpinSt) : (s.setSpin f n x).ppsRise = s.ppsRise := rfl
@[simp] theorem State.setSpin_ports (s : State) (f n : Nat) (x : SpinSt) : (s.setSpin f n x).ports = s.ports := rfl
@[simp] theorem State.setSpin_mcasts (s : State) (f n : Nat) (x : SpinSt) : (s.setSpin f n x).mcasts = s.mcasts := rfl
@[simp] theorem State.setSpin_timeReq (s : State) (f n : Nat) (x : SpinSt) : (s.setSpin f n x).timeReq = s.timeReq := rfl
@[simp] theorem State.setSpin_timeT (s : State) (f n : Nat) (x : SpinSt) : (s.setSpin f n x).timeT = s.timeT := rfl
@[simp] theorem State.setSpin_freeRun (s : State) (f n : Nat) (x : SpinSt) : (s.setSpin f n x).freeRun = s.freeRun := rfl
@[simp] theorem State.setSpin_shards (s : State) (f n : Nat) (x : SpinSt) : (s.setSpin f n x).shards = s.shards := rfl
@[simp] theorem State.setSpin_held (s : State) (f n : Nat) (x : SpinSt) : (s.setSpin f n x).held = s.held := rfl
@[simp] theorem State.setSpin_withheld (s : State) (f n : Nat) (x : SpinSt) : (s.setSpin f n x).withheld = s.withheld := rfl
@[simp] theorem State.setSpin_stats (s : State) (f n : Nat) (x : SpinSt) : (s.setSpin f n x).stats = s.stats := rfl
@[simp] theorem State.setSpin_lineDone (s : State) (f n : Nat) (x : SpinSt) : (s.setSpin f n x).lineDone = s.lineDone := rfl
@[simp] theorem State.setSpin_verRec (s : State) (f n : Nat) (x : SpinSt) : (s.setSpin f n x).verRec = s.verRec := rfl
@[simp] theorem State.setSpin_stepSt (s : State) (f n : Nat) (x : SpinSt) : (s.setSpin f n x).stepSt = s.stepSt := rfl
@[simp] theorem State.setSpin_rings (s : State) (f n : Nat) (x : SpinSt) : (s.setSpin f n x).rings = s.rings := rfl
@[simp] theorem State.setSpin_engTurn (s : State) (f n : Nat) (x : SpinSt) : (s.setSpin f n x).engTurn = s.engTurn := rfl
@[simp] theorem State.setSpin_bar2Size (s : State) (f n : Nat) (x : SpinSt) : (s.setSpin f n x).bar2Size = s.bar2Size := rfl
@[simp] theorem State.setSpin_flr (s : State) (f n : Nat) (x : SpinSt) : (s.setSpin f n x).flr = s.flr := rfl
@[simp] theorem State.setSpin_d3 (s : State) (f n : Nat) (x : SpinSt) : (s.setSpin f n x).d3 = s.d3 := rfl
@[simp] theorem State.setSpin_sealed (s : State) (f n : Nat) (x : SpinSt) : (s.setSpin f n x).sealed = s.sealed := rfl
@[simp] theorem State.setSpin_fresh (s : State) (f n : Nat) (x : SpinSt) : (s.setSpin f n x).fresh = s.fresh := rfl
@[simp] theorem State.setSpin_job (s : State) (f n : Nat) (x : SpinSt) : (s.setSpin f n x).job = s.job := rfl
@[simp] theorem State.setSpin_fit2T (s : State) (f n : Nat) (x : SpinSt) : (s.setSpin f n x).fit2T = s.fit2T := rfl
@[simp] theorem State.setSpin_fitLid (s : State) (f n : Nat) (x : SpinSt) : (s.setSpin f n x).fitLid = s.fitLid := rfl
@[simp] theorem State.setSpin_shut (s : State) (f n : Nat) (x : SpinSt) : (s.setSpin f n x).shut = s.shut := rfl
@[simp] theorem State.setSpin_stages (s : State) (f n : Nat) (x : SpinSt) : (s.setSpin f n x).stages = s.stages := rfl
@[simp] theorem State.setSpin_notices (s : State) (f n : Nat) (x : SpinSt) : (s.setSpin f n x).notices = s.notices := rfl
@[simp] theorem State.setSpin_rports (s : State) (f n : Nat) (x : SpinSt) : (s.setSpin f n x).rports = s.rports := rfl
@[simp] theorem State.setSpin_injs (s : State) (f n : Nat) (x : SpinSt) : (s.setSpin f n x).injs = s.injs := rfl
@[simp] theorem State.setSpin_force (s : State) (f n : Nat) (x : SpinSt) : (s.setSpin f n x).force = s.force := rfl
@[simp] theorem State.setSpin_brushIn (s : State) (f n : Nat) (x : SpinSt) : (s.setSpin f n x).brushIn = s.brushIn := rfl
@[simp] theorem State.setSpin_easelIn (s : State) (f n : Nat) (x : SpinSt) : (s.setSpin f n x).easelIn = s.easelIn := rfl
@[simp] theorem State.setSpin_easelStat (s : State) (f n : Nat) (x : SpinSt) : (s.setSpin f n x).easelStat = s.easelStat := rfl
@[simp] theorem State.setSpin_lfsr (s : State) (f n : Nat) (x : SpinSt) : (s.setSpin f n x).lfsr = s.lfsr := rfl
@[simp] theorem State.setSpin_lfsrKey (s : State) (f n : Nat) (x : SpinSt) : (s.setSpin f n x).lfsrKey = s.lfsrKey := rfl
@[simp] theorem State.setSpin_errArea (s : State) (f n : Nat) (x : SpinSt) : (s.setSpin f n x).errArea = s.errArea := rfl
@[simp] theorem State.setSpin_phaseT (s : State) (f n : Nat) (x : SpinSt) : (s.setSpin f n x).phaseT = s.phaseT := rfl
@[simp] theorem State.setSpin_glazeT (s : State) (f n : Nat) (x : SpinSt) : (s.setSpin f n x).glazeT = s.glazeT := rfl
@[simp] theorem State.setSpin_flexUsed (s : State) (f n : Nat) (x : SpinSt) : (s.setSpin f n x).flexUsed = s.flexUsed := rfl
@[simp] theorem State.setSpin_repairLog (s : State) (f n : Nat) (x : SpinSt) : (s.setSpin f n x).repairLog = s.repairLog := rfl
@[simp] theorem State.setSpin_beaconK (s : State) (f n : Nat) (x : SpinSt) : (s.setSpin f n x).beaconK = s.beaconK := rfl
@[simp] theorem State.setSpin_glazeReq (s : State) (f n : Nat) (x : SpinSt) : (s.setSpin f n x).glazeReq = s.glazeReq := rfl
@[simp] theorem State.setSpin_commits (s : State) (f n : Nat) (x : SpinSt) : (s.setSpin f n x).commits = s.commits := rfl
@[simp] theorem State.setSpin_switches (s : State) (f n : Nat) (x : SpinSt) : (s.setSpin f n x).switches = s.switches := rfl
@[simp] theorem State.setSpin_shape (s : State) (f n : Nat) (x : SpinSt) : (s.setSpin f n x).shape = s.shape := rfl
@[simp] theorem State.setSpin_snap (s : State) (f n : Nat) (x : SpinSt) : (s.setSpin f n x).snap = s.snap := rfl
@[simp] theorem State.setSpin_telem (s : State) (f n : Nat) (x : SpinSt) : (s.setSpin f n x).telem = s.telem := rfl
@[simp] theorem State.setSpin_gov (s : State) (f n : Nat) (x : SpinSt) : (s.setSpin f n x).gov = s.gov := rfl
@[simp] theorem State.setSpin_fuses (s : State) (f n : Nat) (x : SpinSt) : (s.setSpin f n x).fuses = s.fuses := rfl
@[simp] theorem State.setSpin_flash (s : State) (f n : Nat) (x : SpinSt) : (s.setSpin f n x).flash = s.flash := rfl
@[simp] theorem State.setSpin_boot (s : State) (f n : Nat) (x : SpinSt) : (s.setSpin f n x).boot = s.boot := rfl
@[simp] theorem State.setSpin_spdmVdm (s : State) (f n : Nat) (x : SpinSt) : (s.setSpin f n x).spdmVdm = s.spdmVdm := rfl
@[simp] theorem State.setSpin_spdmBus (s : State) (f n : Nat) (x : SpinSt) : (s.setSpin f n x).spdmBus = s.spdmBus := rfl
@[simp] theorem State.setSpin_standby (s : State) (f n : Nat) (x : SpinSt) : (s.setSpin f n x).standby = s.standby := rfl
@[simp] theorem State.setSpin_pwrStage (s : State) (f n : Nat) (x : SpinSt) : (s.setSpin f n x).pwrStage = s.pwrStage := rfl
@[simp] theorem State.setSpin_stopHeld (s : State) (f n : Nat) (x : SpinSt) : (s.setSpin f n x).stopHeld = s.stopHeld := rfl
@[simp] theorem State.setSpin_pending (s : State) (f n : Nat) (x : SpinSt) : (s.setSpin f n x).pending = s.pending := rfl

/-! ## setRing -/

@[simp] theorem State.setRing_regs (s : State) (n : Nat) (x : HostRing) : (s.setRing n x).regs = s.regs := rfl
@[simp] theorem State.setRing_mem (s : State) (n : Nat) (x : HostRing) : (s.setRing n x).mem = s.mem := rfl
@[simp] theorem State.setRing_cores (s : State) (n : Nat) (x : HostRing) : (s.setRing n x).cores = s.cores := rfl
@[simp] theorem State.setRing_queues (s : State) (n : Nat) (x : HostRing) : (s.setRing n x).queues = s.queues := rfl
@[simp] theorem State.setRing_bad (s : State) (n : Nat) (x : HostRing) : (s.setRing n x).bad = s.bad := rfl
@[simp] theorem State.setRing_spBad (s : State) (n : Nat) (x : HostRing) : (s.setRing n x).spBad = s.spBad := rfl
@[simp] theorem State.setRing_spEpoch (s : State) (n : Nat) (x : HostRing) : (s.setRing n x).spEpoch = s.spEpoch := rfl
@[simp] theorem State.setRing_lines (s : State) (n : Nat) (x : HostRing) : (s.setRing n x).lines = s.lines := rfl
@[simp] theorem State.setRing_plru (s : State) (n : Nat) (x : HostRing) : (s.setRing n x).plru = s.plru := rfl
@[simp] theorem State.setRing_misses (s : State) (n : Nat) (x : HostRing) : (s.setRing n x).misses = s.misses := rfl
@[simp] theorem State.setRing_reply (s : State) (n : Nat) (x : HostRing) : (s.setRing n x).reply = s.reply := rfl
@[simp] theorem State.setRing_leaving (s : State) (n : Nat) (x : HostRing) : (s.setRing n x).leaving = s.leaving := rfl
@[simp] theorem State.setRing_flush (s : State) (n : Nat) (x : HostRing) : (s.setRing n x).flush = s.flush := rfl
@[simp] theorem State.setRing_chT (s : State) (n : Nat) (x : HostRing) : (s.setRing n x).chT = s.chT := rfl
@[simp] theorem State.setRing_reread (s : State) (n : Nat) (x : HostRing) : (s.setRing n x).reread = s.reread := rfl
@[simp] theorem State.setRing_autoTry (s : State) (n : Nat) (x : HostRing) : (s.setRing n x).autoTry = s.autoTry := rfl
@[simp] theorem State.setRing_chanQ (s : State) (n : Nat) (x : HostRing) : (s.setRing n x).chanQ = s.chanQ := rfl
@[simp] theorem State.setRing_spare (s : State) (n : Nat) (x : HostRing) : (s.setRing n x).spare = s.spare := rfl
@[simp] theorem State.setRing_repairs (s : State) (n : Nat) (x : HostRing) : (s.setRing n x).repairs = s.repairs := rfl
@[simp] theorem State.setRing_refreshes (s : State) (n : Nat) (x : HostRing) : (s.setRing n x).refreshes = s.refreshes := rfl
@[simp] theorem State.setRing_log (s : State) (n : Nat) (x : HostRing) : (s.setRing n x).log = s.log := rfl
@[simp] theorem State.setRing_nextSeq (s : State) (n : Nat) (x : HostRing) : (s.setRing n x).nextSeq = s.nextSeq := rfl
@[simp] theorem State.setRing_aborts (s : State) (n : Nat) (x : HostRing) : (s.setRing n x).aborts = s.aborts := rfl
@[simp] theorem State.setRing_active (s : State) (n : Nat) (x : HostRing) : (s.setRing n x).active = s.active := rfl
@[simp] theorem State.setRing_defer (s : State) (n : Nat) (x : HostRing) : (s.setRing n x).defer = s.defer := rfl
@[simp] theorem State.setRing_wakes (s : State) (n : Nat) (x : HostRing) : (s.setRing n x).wakes = s.wakes := rfl
@[simp] theorem State.setRing_ready (s : State) (n : Nat) (x : HostRing) : (s.setRing n x).ready = s.ready := rfl
@[simp] theorem State.setRing_msix (s : State) (n : Nat) (x : HostRing) : (s.setRing n x).msix = s.msix := rfl
@[simp] theorem State.setRing_msixAddr (s : State) (n : Nat) (x : HostRing) : (s.setRing n x).msixAddr = s.msixAddr := rfl
@[simp] theorem State.setRing_msixData (s : State) (n : Nat) (x : HostRing) : (s.setRing n x).msixData = s.msixData := rfl
@[simp] theorem State.setRing_msixMask (s : State) (n : Nat) (x : HostRing) : (s.setRing n x).msixMask = s.msixMask := rfl
@[simp] theorem State.setRing_msixPend (s : State) (n : Nat) (x : HostRing) : (s.setRing n x).msixPend = s.msixPend := rfl
@[simp] theorem State.setRing_hostRead (s : State) (n : Nat) (x : HostRing) : (s.setRing n x).hostRead = s.hostRead := rfl
@[simp] theorem State.setRing_hostAbort (s : State) (n : Nat) (x : HostRing) : (s.setRing n x).hostAbort = s.hostAbort := rfl
@[simp] theorem State.setRing_master (s : State) (n : Nat) (x : HostRing) : (s.setRing n x).master = s.master := rfl
@[simp] theorem State.setRing_masterHold (s : State) (n : Nat) (x : HostRing) : (s.setRing n x).masterHold = s.masterHold := rfl
@[simp] theorem State.setRing_masterCorr (s : State) (n : Nat) (x : HostRing) : (s.setRing n x).masterCorr = s.masterCorr := rfl
@[simp] theorem State.setRing_masterSpread (s : State) (n : Nat) (x : HostRing) : (s.setRing n x).masterSpread = s.masterSpread := rfl
@[simp] theorem State.setRing_source (s : State) (n : Nat) (x : HostRing) : (s.setRing n x).source = s.source := rfl
@[simp] theorem State.setRing_regions (s : State) (n : Nat) (x : HostRing) : (s.setRing n x).regions = s.regions := rfl
@[simp] theorem State.setRing_freq (s : State) (n : Nat) (x : HostRing) : (s.setRing n x).freq = s.freq := rfl
@[simp] theorem State.setRing_heldGo (s : State) (n : Nat) (x : HostRing) : (s.setRing n x).heldGo = s.heldGo := rfl
@[simp] theorem State.setRing_restartT (s : State) (n : Nat) (x : HostRing) : (s.setRing n x).restartT = s.restartT := rfl
@[simp] theorem State.setRing_gens (s : State) (n : Nat) (x : HostRing) : (s.setRing n x).gens = s.gens := rfl
@[simp] theorem State.setRing_mesh (s : State) (n : Nat) (x : HostRing) : (s.setRing n x).mesh = s.mesh := rfl
@[simp] theorem State.setRing_meshOut (s : State) (n : Nat) (x : HostRing) : (s.setRing n x).meshOut = s.meshOut := rfl
@[simp] theorem State.setRing_edgeIn (s : State) (n : Nat) (x : HostRing) : (s.setRing n x).edgeIn = s.edgeIn := rfl
@[simp] theorem State.setRing_edgeOut (s : State) (n : Nat) (x : HostRing) : (s.setRing n x).edgeOut = s.edgeOut := rfl
@[simp] theorem State.setRing_ctlIn (s : State) (n : Nat) (x : HostRing) : (s.setRing n x).ctlIn = s.ctlIn := rfl
@[simp] theorem State.setRing_grants (s : State) (n : Nat) (x : HostRing) : (s.setRing n x).grants = s.grants := rfl
@[simp] theorem State.setRing_ppsT (s : State) (n : Nat) (x : HostRing) : (s.setRing n x).ppsT = s.ppsT := rfl
@[simp] theorem State.setRing_ppsOut (s : State) (n : Nat) (x : HostRing) : (s.setRing n x).ppsOut = s.ppsOut := rfl
@[simp] theorem State.setRing_ppsRise (s : State) (n : Nat) (x : HostRing) : (s.setRing n x).ppsRise = s.ppsRise := rfl
@[simp] theorem State.setRing_ports (s : State) (n : Nat) (x : HostRing) : (s.setRing n x).ports = s.ports := rfl
@[simp] theorem State.setRing_mcasts (s : State) (n : Nat) (x : HostRing) : (s.setRing n x).mcasts = s.mcasts := rfl
@[simp] theorem State.setRing_timeReq (s : State) (n : Nat) (x : HostRing) : (s.setRing n x).timeReq = s.timeReq := rfl
@[simp] theorem State.setRing_timeT (s : State) (n : Nat) (x : HostRing) : (s.setRing n x).timeT = s.timeT := rfl
@[simp] theorem State.setRing_freeRun (s : State) (n : Nat) (x : HostRing) : (s.setRing n x).freeRun = s.freeRun := rfl
@[simp] theorem State.setRing_shards (s : State) (n : Nat) (x : HostRing) : (s.setRing n x).shards = s.shards := rfl
@[simp] theorem State.setRing_held (s : State) (n : Nat) (x : HostRing) : (s.setRing n x).held = s.held := rfl
@[simp] theorem State.setRing_withheld (s : State) (n : Nat) (x : HostRing) : (s.setRing n x).withheld = s.withheld := rfl
@[simp] theorem State.setRing_stats (s : State) (n : Nat) (x : HostRing) : (s.setRing n x).stats = s.stats := rfl
@[simp] theorem State.setRing_lineDone (s : State) (n : Nat) (x : HostRing) : (s.setRing n x).lineDone = s.lineDone := rfl
@[simp] theorem State.setRing_verRec (s : State) (n : Nat) (x : HostRing) : (s.setRing n x).verRec = s.verRec := rfl
@[simp] theorem State.setRing_stepSt (s : State) (n : Nat) (x : HostRing) : (s.setRing n x).stepSt = s.stepSt := rfl
@[simp] theorem State.setRing_engTurn (s : State) (n : Nat) (x : HostRing) : (s.setRing n x).engTurn = s.engTurn := rfl
@[simp] theorem State.setRing_bar2Size (s : State) (n : Nat) (x : HostRing) : (s.setRing n x).bar2Size = s.bar2Size := rfl
@[simp] theorem State.setRing_flr (s : State) (n : Nat) (x : HostRing) : (s.setRing n x).flr = s.flr := rfl
@[simp] theorem State.setRing_d3 (s : State) (n : Nat) (x : HostRing) : (s.setRing n x).d3 = s.d3 := rfl
@[simp] theorem State.setRing_sealed (s : State) (n : Nat) (x : HostRing) : (s.setRing n x).sealed = s.sealed := rfl
@[simp] theorem State.setRing_fresh (s : State) (n : Nat) (x : HostRing) : (s.setRing n x).fresh = s.fresh := rfl
@[simp] theorem State.setRing_job (s : State) (n : Nat) (x : HostRing) : (s.setRing n x).job = s.job := rfl
@[simp] theorem State.setRing_fit2T (s : State) (n : Nat) (x : HostRing) : (s.setRing n x).fit2T = s.fit2T := rfl
@[simp] theorem State.setRing_fitLid (s : State) (n : Nat) (x : HostRing) : (s.setRing n x).fitLid = s.fitLid := rfl
@[simp] theorem State.setRing_shut (s : State) (n : Nat) (x : HostRing) : (s.setRing n x).shut = s.shut := rfl
@[simp] theorem State.setRing_stages (s : State) (n : Nat) (x : HostRing) : (s.setRing n x).stages = s.stages := rfl
@[simp] theorem State.setRing_notices (s : State) (n : Nat) (x : HostRing) : (s.setRing n x).notices = s.notices := rfl
@[simp] theorem State.setRing_rports (s : State) (n : Nat) (x : HostRing) : (s.setRing n x).rports = s.rports := rfl
@[simp] theorem State.setRing_injs (s : State) (n : Nat) (x : HostRing) : (s.setRing n x).injs = s.injs := rfl
@[simp] theorem State.setRing_force (s : State) (n : Nat) (x : HostRing) : (s.setRing n x).force = s.force := rfl
@[simp] theorem State.setRing_spins (s : State) (n : Nat) (x : HostRing) : (s.setRing n x).spins = s.spins := rfl
@[simp] theorem State.setRing_brushIn (s : State) (n : Nat) (x : HostRing) : (s.setRing n x).brushIn = s.brushIn := rfl
@[simp] theorem State.setRing_easelIn (s : State) (n : Nat) (x : HostRing) : (s.setRing n x).easelIn = s.easelIn := rfl
@[simp] theorem State.setRing_easelStat (s : State) (n : Nat) (x : HostRing) : (s.setRing n x).easelStat = s.easelStat := rfl
@[simp] theorem State.setRing_lfsr (s : State) (n : Nat) (x : HostRing) : (s.setRing n x).lfsr = s.lfsr := rfl
@[simp] theorem State.setRing_lfsrKey (s : State) (n : Nat) (x : HostRing) : (s.setRing n x).lfsrKey = s.lfsrKey := rfl
@[simp] theorem State.setRing_errArea (s : State) (n : Nat) (x : HostRing) : (s.setRing n x).errArea = s.errArea := rfl
@[simp] theorem State.setRing_phaseT (s : State) (n : Nat) (x : HostRing) : (s.setRing n x).phaseT = s.phaseT := rfl
@[simp] theorem State.setRing_glazeT (s : State) (n : Nat) (x : HostRing) : (s.setRing n x).glazeT = s.glazeT := rfl
@[simp] theorem State.setRing_flexUsed (s : State) (n : Nat) (x : HostRing) : (s.setRing n x).flexUsed = s.flexUsed := rfl
@[simp] theorem State.setRing_repairLog (s : State) (n : Nat) (x : HostRing) : (s.setRing n x).repairLog = s.repairLog := rfl
@[simp] theorem State.setRing_beaconK (s : State) (n : Nat) (x : HostRing) : (s.setRing n x).beaconK = s.beaconK := rfl
@[simp] theorem State.setRing_glazeReq (s : State) (n : Nat) (x : HostRing) : (s.setRing n x).glazeReq = s.glazeReq := rfl
@[simp] theorem State.setRing_commits (s : State) (n : Nat) (x : HostRing) : (s.setRing n x).commits = s.commits := rfl
@[simp] theorem State.setRing_switches (s : State) (n : Nat) (x : HostRing) : (s.setRing n x).switches = s.switches := rfl
@[simp] theorem State.setRing_shape (s : State) (n : Nat) (x : HostRing) : (s.setRing n x).shape = s.shape := rfl
@[simp] theorem State.setRing_snap (s : State) (n : Nat) (x : HostRing) : (s.setRing n x).snap = s.snap := rfl
@[simp] theorem State.setRing_telem (s : State) (n : Nat) (x : HostRing) : (s.setRing n x).telem = s.telem := rfl
@[simp] theorem State.setRing_gov (s : State) (n : Nat) (x : HostRing) : (s.setRing n x).gov = s.gov := rfl
@[simp] theorem State.setRing_fuses (s : State) (n : Nat) (x : HostRing) : (s.setRing n x).fuses = s.fuses := rfl
@[simp] theorem State.setRing_flash (s : State) (n : Nat) (x : HostRing) : (s.setRing n x).flash = s.flash := rfl
@[simp] theorem State.setRing_boot (s : State) (n : Nat) (x : HostRing) : (s.setRing n x).boot = s.boot := rfl
@[simp] theorem State.setRing_spdmVdm (s : State) (n : Nat) (x : HostRing) : (s.setRing n x).spdmVdm = s.spdmVdm := rfl
@[simp] theorem State.setRing_spdmBus (s : State) (n : Nat) (x : HostRing) : (s.setRing n x).spdmBus = s.spdmBus := rfl
@[simp] theorem State.setRing_standby (s : State) (n : Nat) (x : HostRing) : (s.setRing n x).standby = s.standby := rfl
@[simp] theorem State.setRing_pwrStage (s : State) (n : Nat) (x : HostRing) : (s.setRing n x).pwrStage = s.pwrStage := rfl
@[simp] theorem State.setRing_stopHeld (s : State) (n : Nat) (x : HostRing) : (s.setRing n x).stopHeld = s.stopHeld := rfl
@[simp] theorem State.setRing_pending (s : State) (n : Nat) (x : HostRing) : (s.setRing n x).pending = s.pending := rfl

/-! ## The event controller -/

/-- A message changes only the sent and the pending ones. -/
theorem sendMsix_eq (s : State) (v : Nat) :
    sendMsix s v = { s with msix := (sendMsix s v).msix, msixPend := (sendMsix s v).msixPend } := by
  unfold sendMsix
  split <;> rfl

theorem sendMsixs_eq (g : State → Nat → Nat) (l : List Nat) : ∀ (s : State),
    ∃ m p, l.foldl (fun s x => sendMsix s (g s x)) s = { s with msix := m, msixPend := p } := by
  induction l with
  | nil => intro s; exact ⟨s.msix, s.msixPend, rfl⟩
  | cons x r ih =>
    intro s
    obtain ⟨m, p, h⟩ := ih (sendMsix s (g s x))
    rw [List.foldl_cons, h, sendMsix_eq]
    exact ⟨m, p, rfl⟩

theorem latchWakes_eq (s : State) : ∃ w, latchWakes s = { s with wakes := w } := by
  unfold latchWakes
  generalize prioSources s = l
  induction l generalizing s with
  | nil => exact ⟨s.wakes, rfl⟩
  | cons x r ih =>
    rw [List.foldl_cons]
    dsimp only
    split
    · obtain ⟨w, h⟩ := ih { s with wakes := sput false s.wakes (srcTarget s x) true }
      rw [h]
      exact ⟨w, rfl⟩
    · exact ih s

/-- Bringing the event controller up to date changes nothing but its own memory. -/
theorem evRefresh_eq (s : State) :
    ∃ a w r m p, evRefresh s = { s with active := a, wakes := w, ready := r, msix := m, msixPend := p } := by
  unfold evRefresh
  extract_lets act t now u
  have h : ∃ m p, u = { t with msix := m, msixPend := p } := by
    simp only [u]
    split
    · exact sendMsixs_eq (fun s x => s.get (Reg.INT_SRCs_CFG_VEC x)) _ t
    · exact ⟨_, _, rfl⟩
  obtain ⟨m, p, h⟩ := h
  obtain ⟨w, h2⟩ := latchWakes_eq { s with active := act }
  rw [h]
  simp only [t, h2]
  exact ⟨_, _, _, _, _, rfl⟩

@[simp] theorem evRefresh_regs (s : State) : (evRefresh s).regs = s.regs := by
  obtain ⟨_, _, _, _, _, h⟩ := evRefresh_eq s; rw [h]
@[simp] theorem evRefresh_mem (s : State) : (evRefresh s).mem = s.mem := by
  obtain ⟨_, _, _, _, _, h⟩ := evRefresh_eq s; rw [h]
@[simp] theorem evRefresh_cores (s : State) : (evRefresh s).cores = s.cores := by
  obtain ⟨_, _, _, _, _, h⟩ := evRefresh_eq s; rw [h]
@[simp] theorem evRefresh_queues (s : State) : (evRefresh s).queues = s.queues := by
  obtain ⟨_, _, _, _, _, h⟩ := evRefresh_eq s; rw [h]
@[simp] theorem evRefresh_bad (s : State) : (evRefresh s).bad = s.bad := by
  obtain ⟨_, _, _, _, _, h⟩ := evRefresh_eq s; rw [h]
@[simp] theorem evRefresh_spBad (s : State) : (evRefresh s).spBad = s.spBad := by
  obtain ⟨_, _, _, _, _, h⟩ := evRefresh_eq s; rw [h]
@[simp] theorem evRefresh_spEpoch (s : State) : (evRefresh s).spEpoch = s.spEpoch := by
  obtain ⟨_, _, _, _, _, h⟩ := evRefresh_eq s; rw [h]
@[simp] theorem evRefresh_lines (s : State) : (evRefresh s).lines = s.lines := by
  obtain ⟨_, _, _, _, _, h⟩ := evRefresh_eq s; rw [h]
@[simp] theorem evRefresh_plru (s : State) : (evRefresh s).plru = s.plru := by
  obtain ⟨_, _, _, _, _, h⟩ := evRefresh_eq s; rw [h]
@[simp] theorem evRefresh_misses (s : State) : (evRefresh s).misses = s.misses := by
  obtain ⟨_, _, _, _, _, h⟩ := evRefresh_eq s; rw [h]
@[simp] theorem evRefresh_reply (s : State) : (evRefresh s).reply = s.reply := by
  obtain ⟨_, _, _, _, _, h⟩ := evRefresh_eq s; rw [h]
@[simp] theorem evRefresh_leaving (s : State) : (evRefresh s).leaving = s.leaving := by
  obtain ⟨_, _, _, _, _, h⟩ := evRefresh_eq s; rw [h]
@[simp] theorem evRefresh_flush (s : State) : (evRefresh s).flush = s.flush := by
  obtain ⟨_, _, _, _, _, h⟩ := evRefresh_eq s; rw [h]
@[simp] theorem evRefresh_chT (s : State) : (evRefresh s).chT = s.chT := by
  obtain ⟨_, _, _, _, _, h⟩ := evRefresh_eq s; rw [h]
@[simp] theorem evRefresh_reread (s : State) : (evRefresh s).reread = s.reread := by
  obtain ⟨_, _, _, _, _, h⟩ := evRefresh_eq s; rw [h]
@[simp] theorem evRefresh_autoTry (s : State) : (evRefresh s).autoTry = s.autoTry := by
  obtain ⟨_, _, _, _, _, h⟩ := evRefresh_eq s; rw [h]
@[simp] theorem evRefresh_chanQ (s : State) : (evRefresh s).chanQ = s.chanQ := by
  obtain ⟨_, _, _, _, _, h⟩ := evRefresh_eq s; rw [h]
@[simp] theorem evRefresh_spare (s : State) : (evRefresh s).spare = s.spare := by
  obtain ⟨_, _, _, _, _, h⟩ := evRefresh_eq s; rw [h]
@[simp] theorem evRefresh_repairs (s : State) : (evRefresh s).repairs = s.repairs := by
  obtain ⟨_, _, _, _, _, h⟩ := evRefresh_eq s; rw [h]
@[simp] theorem evRefresh_refreshes (s : State) : (evRefresh s).refreshes = s.refreshes := by
  obtain ⟨_, _, _, _, _, h⟩ := evRefresh_eq s; rw [h]
@[simp] theorem evRefresh_log (s : State) : (evRefresh s).log = s.log := by
  obtain ⟨_, _, _, _, _, h⟩ := evRefresh_eq s; rw [h]
@[simp] theorem evRefresh_nextSeq (s : State) : (evRefresh s).nextSeq = s.nextSeq := by
  obtain ⟨_, _, _, _, _, h⟩ := evRefresh_eq s; rw [h]
@[simp] theorem evRefresh_aborts (s : State) : (evRefresh s).aborts = s.aborts := by
  obtain ⟨_, _, _, _, _, h⟩ := evRefresh_eq s; rw [h]
@[simp] theorem evRefresh_defer (s : State) : (evRefresh s).defer = s.defer := by
  obtain ⟨_, _, _, _, _, h⟩ := evRefresh_eq s; rw [h]
@[simp] theorem evRefresh_msixAddr (s : State) : (evRefresh s).msixAddr = s.msixAddr := by
  obtain ⟨_, _, _, _, _, h⟩ := evRefresh_eq s; rw [h]
@[simp] theorem evRefresh_msixData (s : State) : (evRefresh s).msixData = s.msixData := by
  obtain ⟨_, _, _, _, _, h⟩ := evRefresh_eq s; rw [h]
@[simp] theorem evRefresh_msixMask (s : State) : (evRefresh s).msixMask = s.msixMask := by
  obtain ⟨_, _, _, _, _, h⟩ := evRefresh_eq s; rw [h]
@[simp] theorem evRefresh_hostRead (s : State) : (evRefresh s).hostRead = s.hostRead := by
  obtain ⟨_, _, _, _, _, h⟩ := evRefresh_eq s; rw [h]
@[simp] theorem evRefresh_hostAbort (s : State) : (evRefresh s).hostAbort = s.hostAbort := by
  obtain ⟨_, _, _, _, _, h⟩ := evRefresh_eq s; rw [h]
@[simp] theorem evRefresh_master (s : State) : (evRefresh s).master = s.master := by
  obtain ⟨_, _, _, _, _, h⟩ := evRefresh_eq s; rw [h]
@[simp] theorem evRefresh_masterHold (s : State) : (evRefresh s).masterHold = s.masterHold := by
  obtain ⟨_, _, _, _, _, h⟩ := evRefresh_eq s; rw [h]
@[simp] theorem evRefresh_masterCorr (s : State) : (evRefresh s).masterCorr = s.masterCorr := by
  obtain ⟨_, _, _, _, _, h⟩ := evRefresh_eq s; rw [h]
@[simp] theorem evRefresh_masterSpread (s : State) : (evRefresh s).masterSpread = s.masterSpread := by
  obtain ⟨_, _, _, _, _, h⟩ := evRefresh_eq s; rw [h]
@[simp] theorem evRefresh_source (s : State) : (evRefresh s).source = s.source := by
  obtain ⟨_, _, _, _, _, h⟩ := evRefresh_eq s; rw [h]
@[simp] theorem evRefresh_regions (s : State) : (evRefresh s).regions = s.regions := by
  obtain ⟨_, _, _, _, _, h⟩ := evRefresh_eq s; rw [h]
@[simp] theorem evRefresh_freq (s : State) : (evRefresh s).freq = s.freq := by
  obtain ⟨_, _, _, _, _, h⟩ := evRefresh_eq s; rw [h]
@[simp] theorem evRefresh_heldGo (s : State) : (evRefresh s).heldGo = s.heldGo := by
  obtain ⟨_, _, _, _, _, h⟩ := evRefresh_eq s; rw [h]
@[simp] theorem evRefresh_restartT (s : State) : (evRefresh s).restartT = s.restartT := by
  obtain ⟨_, _, _, _, _, h⟩ := evRefresh_eq s; rw [h]
@[simp] theorem evRefresh_gens (s : State) : (evRefresh s).gens = s.gens := by
  obtain ⟨_, _, _, _, _, h⟩ := evRefresh_eq s; rw [h]
@[simp] theorem evRefresh_mesh (s : State) : (evRefresh s).mesh = s.mesh := by
  obtain ⟨_, _, _, _, _, h⟩ := evRefresh_eq s; rw [h]
@[simp] theorem evRefresh_meshOut (s : State) : (evRefresh s).meshOut = s.meshOut := by
  obtain ⟨_, _, _, _, _, h⟩ := evRefresh_eq s; rw [h]
@[simp] theorem evRefresh_edgeIn (s : State) : (evRefresh s).edgeIn = s.edgeIn := by
  obtain ⟨_, _, _, _, _, h⟩ := evRefresh_eq s; rw [h]
@[simp] theorem evRefresh_edgeOut (s : State) : (evRefresh s).edgeOut = s.edgeOut := by
  obtain ⟨_, _, _, _, _, h⟩ := evRefresh_eq s; rw [h]
@[simp] theorem evRefresh_ctlIn (s : State) : (evRefresh s).ctlIn = s.ctlIn := by
  obtain ⟨_, _, _, _, _, h⟩ := evRefresh_eq s; rw [h]
@[simp] theorem evRefresh_grants (s : State) : (evRefresh s).grants = s.grants := by
  obtain ⟨_, _, _, _, _, h⟩ := evRefresh_eq s; rw [h]
@[simp] theorem evRefresh_ppsT (s : State) : (evRefresh s).ppsT = s.ppsT := by
  obtain ⟨_, _, _, _, _, h⟩ := evRefresh_eq s; rw [h]
@[simp] theorem evRefresh_ppsOut (s : State) : (evRefresh s).ppsOut = s.ppsOut := by
  obtain ⟨_, _, _, _, _, h⟩ := evRefresh_eq s; rw [h]
@[simp] theorem evRefresh_ppsRise (s : State) : (evRefresh s).ppsRise = s.ppsRise := by
  obtain ⟨_, _, _, _, _, h⟩ := evRefresh_eq s; rw [h]
@[simp] theorem evRefresh_ports (s : State) : (evRefresh s).ports = s.ports := by
  obtain ⟨_, _, _, _, _, h⟩ := evRefresh_eq s; rw [h]
@[simp] theorem evRefresh_mcasts (s : State) : (evRefresh s).mcasts = s.mcasts := by
  obtain ⟨_, _, _, _, _, h⟩ := evRefresh_eq s; rw [h]
@[simp] theorem evRefresh_timeReq (s : State) : (evRefresh s).timeReq = s.timeReq := by
  obtain ⟨_, _, _, _, _, h⟩ := evRefresh_eq s; rw [h]
@[simp] theorem evRefresh_timeT (s : State) : (evRefresh s).timeT = s.timeT := by
  obtain ⟨_, _, _, _, _, h⟩ := evRefresh_eq s; rw [h]
@[simp] theorem evRefresh_freeRun (s : State) : (evRefresh s).freeRun = s.freeRun := by
  obtain ⟨_, _, _, _, _, h⟩ := evRefresh_eq s; rw [h]
@[simp] theorem evRefresh_shards (s : State) : (evRefresh s).shards = s.shards := by
  obtain ⟨_, _, _, _, _, h⟩ := evRefresh_eq s; rw [h]
@[simp] theorem evRefresh_held (s : State) : (evRefresh s).held = s.held := by
  obtain ⟨_, _, _, _, _, h⟩ := evRefresh_eq s; rw [h]
@[simp] theorem evRefresh_withheld (s : State) : (evRefresh s).withheld = s.withheld := by
  obtain ⟨_, _, _, _, _, h⟩ := evRefresh_eq s; rw [h]
@[simp] theorem evRefresh_stats (s : State) : (evRefresh s).stats = s.stats := by
  obtain ⟨_, _, _, _, _, h⟩ := evRefresh_eq s; rw [h]
@[simp] theorem evRefresh_lineDone (s : State) : (evRefresh s).lineDone = s.lineDone := by
  obtain ⟨_, _, _, _, _, h⟩ := evRefresh_eq s; rw [h]
@[simp] theorem evRefresh_verRec (s : State) : (evRefresh s).verRec = s.verRec := by
  obtain ⟨_, _, _, _, _, h⟩ := evRefresh_eq s; rw [h]
@[simp] theorem evRefresh_stepSt (s : State) : (evRefresh s).stepSt = s.stepSt := by
  obtain ⟨_, _, _, _, _, h⟩ := evRefresh_eq s; rw [h]
@[simp] theorem evRefresh_rings (s : State) : (evRefresh s).rings = s.rings := by
  obtain ⟨_, _, _, _, _, h⟩ := evRefresh_eq s; rw [h]
@[simp] theorem evRefresh_engTurn (s : State) : (evRefresh s).engTurn = s.engTurn := by
  obtain ⟨_, _, _, _, _, h⟩ := evRefresh_eq s; rw [h]
@[simp] theorem evRefresh_bar2Size (s : State) : (evRefresh s).bar2Size = s.bar2Size := by
  obtain ⟨_, _, _, _, _, h⟩ := evRefresh_eq s; rw [h]
@[simp] theorem evRefresh_flr (s : State) : (evRefresh s).flr = s.flr := by
  obtain ⟨_, _, _, _, _, h⟩ := evRefresh_eq s; rw [h]
@[simp] theorem evRefresh_d3 (s : State) : (evRefresh s).d3 = s.d3 := by
  obtain ⟨_, _, _, _, _, h⟩ := evRefresh_eq s; rw [h]
@[simp] theorem evRefresh_sealed (s : State) : (evRefresh s).sealed = s.sealed := by
  obtain ⟨_, _, _, _, _, h⟩ := evRefresh_eq s; rw [h]
@[simp] theorem evRefresh_fresh (s : State) : (evRefresh s).fresh = s.fresh := by
  obtain ⟨_, _, _, _, _, h⟩ := evRefresh_eq s; rw [h]
@[simp] theorem evRefresh_job (s : State) : (evRefresh s).job = s.job := by
  obtain ⟨_, _, _, _, _, h⟩ := evRefresh_eq s; rw [h]
@[simp] theorem evRefresh_fit2T (s : State) : (evRefresh s).fit2T = s.fit2T := by
  obtain ⟨_, _, _, _, _, h⟩ := evRefresh_eq s; rw [h]
@[simp] theorem evRefresh_fitLid (s : State) : (evRefresh s).fitLid = s.fitLid := by
  obtain ⟨_, _, _, _, _, h⟩ := evRefresh_eq s; rw [h]
@[simp] theorem evRefresh_shut (s : State) : (evRefresh s).shut = s.shut := by
  obtain ⟨_, _, _, _, _, h⟩ := evRefresh_eq s; rw [h]
@[simp] theorem evRefresh_stages (s : State) : (evRefresh s).stages = s.stages := by
  obtain ⟨_, _, _, _, _, h⟩ := evRefresh_eq s; rw [h]
@[simp] theorem evRefresh_notices (s : State) : (evRefresh s).notices = s.notices := by
  obtain ⟨_, _, _, _, _, h⟩ := evRefresh_eq s; rw [h]
@[simp] theorem evRefresh_rports (s : State) : (evRefresh s).rports = s.rports := by
  obtain ⟨_, _, _, _, _, h⟩ := evRefresh_eq s; rw [h]
@[simp] theorem evRefresh_injs (s : State) : (evRefresh s).injs = s.injs := by
  obtain ⟨_, _, _, _, _, h⟩ := evRefresh_eq s; rw [h]
@[simp] theorem evRefresh_force (s : State) : (evRefresh s).force = s.force := by
  obtain ⟨_, _, _, _, _, h⟩ := evRefresh_eq s; rw [h]
@[simp] theorem evRefresh_spins (s : State) : (evRefresh s).spins = s.spins := by
  obtain ⟨_, _, _, _, _, h⟩ := evRefresh_eq s; rw [h]
@[simp] theorem evRefresh_brushIn (s : State) : (evRefresh s).brushIn = s.brushIn := by
  obtain ⟨_, _, _, _, _, h⟩ := evRefresh_eq s; rw [h]
@[simp] theorem evRefresh_easelIn (s : State) : (evRefresh s).easelIn = s.easelIn := by
  obtain ⟨_, _, _, _, _, h⟩ := evRefresh_eq s; rw [h]
@[simp] theorem evRefresh_easelStat (s : State) : (evRefresh s).easelStat = s.easelStat := by
  obtain ⟨_, _, _, _, _, h⟩ := evRefresh_eq s; rw [h]
@[simp] theorem evRefresh_lfsr (s : State) : (evRefresh s).lfsr = s.lfsr := by
  obtain ⟨_, _, _, _, _, h⟩ := evRefresh_eq s; rw [h]
@[simp] theorem evRefresh_lfsrKey (s : State) : (evRefresh s).lfsrKey = s.lfsrKey := by
  obtain ⟨_, _, _, _, _, h⟩ := evRefresh_eq s; rw [h]
@[simp] theorem evRefresh_errArea (s : State) : (evRefresh s).errArea = s.errArea := by
  obtain ⟨_, _, _, _, _, h⟩ := evRefresh_eq s; rw [h]
@[simp] theorem evRefresh_phaseT (s : State) : (evRefresh s).phaseT = s.phaseT := by
  obtain ⟨_, _, _, _, _, h⟩ := evRefresh_eq s; rw [h]
@[simp] theorem evRefresh_glazeT (s : State) : (evRefresh s).glazeT = s.glazeT := by
  obtain ⟨_, _, _, _, _, h⟩ := evRefresh_eq s; rw [h]
@[simp] theorem evRefresh_flexUsed (s : State) : (evRefresh s).flexUsed = s.flexUsed := by
  obtain ⟨_, _, _, _, _, h⟩ := evRefresh_eq s; rw [h]
@[simp] theorem evRefresh_repairLog (s : State) : (evRefresh s).repairLog = s.repairLog := by
  obtain ⟨_, _, _, _, _, h⟩ := evRefresh_eq s; rw [h]
@[simp] theorem evRefresh_beaconK (s : State) : (evRefresh s).beaconK = s.beaconK := by
  obtain ⟨_, _, _, _, _, h⟩ := evRefresh_eq s; rw [h]
@[simp] theorem evRefresh_glazeReq (s : State) : (evRefresh s).glazeReq = s.glazeReq := by
  obtain ⟨_, _, _, _, _, h⟩ := evRefresh_eq s; rw [h]
@[simp] theorem evRefresh_commits (s : State) : (evRefresh s).commits = s.commits := by
  obtain ⟨_, _, _, _, _, h⟩ := evRefresh_eq s; rw [h]
@[simp] theorem evRefresh_switches (s : State) : (evRefresh s).switches = s.switches := by
  obtain ⟨_, _, _, _, _, h⟩ := evRefresh_eq s; rw [h]
@[simp] theorem evRefresh_shape (s : State) : (evRefresh s).shape = s.shape := by
  obtain ⟨_, _, _, _, _, h⟩ := evRefresh_eq s; rw [h]
@[simp] theorem evRefresh_snap (s : State) : (evRefresh s).snap = s.snap := by
  obtain ⟨_, _, _, _, _, h⟩ := evRefresh_eq s; rw [h]
@[simp] theorem evRefresh_telem (s : State) : (evRefresh s).telem = s.telem := by
  obtain ⟨_, _, _, _, _, h⟩ := evRefresh_eq s; rw [h]
@[simp] theorem evRefresh_gov (s : State) : (evRefresh s).gov = s.gov := by
  obtain ⟨_, _, _, _, _, h⟩ := evRefresh_eq s; rw [h]
@[simp] theorem evRefresh_fuses (s : State) : (evRefresh s).fuses = s.fuses := by
  obtain ⟨_, _, _, _, _, h⟩ := evRefresh_eq s; rw [h]
@[simp] theorem evRefresh_flash (s : State) : (evRefresh s).flash = s.flash := by
  obtain ⟨_, _, _, _, _, h⟩ := evRefresh_eq s; rw [h]
@[simp] theorem evRefresh_boot (s : State) : (evRefresh s).boot = s.boot := by
  obtain ⟨_, _, _, _, _, h⟩ := evRefresh_eq s; rw [h]
@[simp] theorem evRefresh_spdmVdm (s : State) : (evRefresh s).spdmVdm = s.spdmVdm := by
  obtain ⟨_, _, _, _, _, h⟩ := evRefresh_eq s; rw [h]
@[simp] theorem evRefresh_spdmBus (s : State) : (evRefresh s).spdmBus = s.spdmBus := by
  obtain ⟨_, _, _, _, _, h⟩ := evRefresh_eq s; rw [h]
@[simp] theorem evRefresh_standby (s : State) : (evRefresh s).standby = s.standby := by
  obtain ⟨_, _, _, _, _, h⟩ := evRefresh_eq s; rw [h]
@[simp] theorem evRefresh_pwrStage (s : State) : (evRefresh s).pwrStage = s.pwrStage := by
  obtain ⟨_, _, _, _, _, h⟩ := evRefresh_eq s; rw [h]
@[simp] theorem evRefresh_stopHeld (s : State) : (evRefresh s).stopHeld = s.stopHeld := by
  obtain ⟨_, _, _, _, _, h⟩ := evRefresh_eq s; rw [h]
@[simp] theorem evRefresh_pending (s : State) : (evRefresh s).pending = s.pending := by
  obtain ⟨_, _, _, _, _, h⟩ := evRefresh_eq s; rw [h]

end Sys2Proof.Machine
end

