-- ==== Sys2Proof/Laws/Ops.lean ====
section
/-! SUPPORT. What the named operations on registers, cores and queues do, each said once. -/
namespace Sys2Proof.Machine

/-! ## Registers -/

/-- A register field reads what was written to it, cut to its width. -/
@[simp] theorem State.get_put_same (s : State) (r : Ref) (v : Nat) : (s.put r v).get r = v % 2 ^ r.width := by
  unfold State.get State.put
  simp only [sget_sput_same]
  rw [Nat.xor_assoc, Nat.xor_self, Nat.xor_zero]

/-- A register write leaves every other field alone. -/
theorem State.get_put_other (s : State) (r q : Ref) (v : Nat) (h : q.key ≠ r.key) : (s.put r v).get q = s.get q := by
  unfold State.get State.put
  simp only [sget_sput_other 0 s.regs _ h]

@[simp] theorem State.get_setCore (s : State) (f c : Nat) (x : CoreSt) (r : Ref) : (s.setCore f c x).get r = s.get r := rfl
@[simp] theorem State.get_setQueue (s : State) (f q : Nat) (x : QueueSt) (r : Ref) : (s.setQueue f q x).get r = s.get r := rfl
@[simp] theorem State.get_setSh (s : State) (f j : Nat) (x : ShutSt) (r : Ref) : (s.setSh f j x).get r = s.get r := rfl
@[simp] theorem State.get_setSpin (s : State) (f n : Nat) (x : SpinSt) (r : Ref) : (s.setSpin f n x).get r = s.get r := rfl
@[simp] theorem State.get_setRing (s : State) (n : Nat) (x : HostRing) (r : Ref) : (s.setRing n x).get r = s.get r := rfl
@[simp] theorem State.get_evRefresh (s : State) (r : Ref) : (evRefresh s).get r = s.get r := by
  unfold State.get; rw [evRefresh_regs]

/-! ## Cores -/

@[simp] theorem State.core_put (s : State) (r : Ref) (v f c : Nat) : (s.put r v).core f c = s.core f c := rfl
@[simp] theorem State.core_setCore_same (s : State) (f c : Nat) (x : CoreSt) : (s.setCore f c x).core f c = x := by
  simp [State.core, State.setCore]
theorem State.core_setCore_other (s : State) (f c f' c' : Nat) (x : CoreSt) (h : coreKey f' c' ≠ coreKey f c) :
    (s.setCore f c x).core f' c' = s.core f' c' := by
  simp only [State.core, State.setCore]
  exact sget_sput_other _ _ _ h
@[simp] theorem State.core_evRefresh (s : State) (f c : Nat) : (evRefresh s).core f c = s.core f c := by
  unfold State.core; rw [evRefresh_cores]

/-- General register 0 reads 0, whatever is written to it. -/
@[simp] theorem State.greg_zero (s : State) (f c : Nat) : s.greg f c 0 = 0 := rfl
@[simp] theorem State.setGreg_zero (s : State) (f c : Nat) (v : W64) : s.setGreg f c 0 v = s := rfl
@[simp] theorem State.greg_put (s : State) (r : Ref) (v f c n : Nat) : (s.put r v).greg f c n = s.greg f c n := rfl
@[simp] theorem State.greg_evRefresh (s : State) (f c n : Nat) : (evRefresh s).greg f c n = s.greg f c n := by
  unfold State.greg; rw [State.core_evRefresh]

/-- What a general register reads after a write to register `d`. -/
theorem State.greg_setGreg (s : State) (f c d n : Nat) (v : W64) :
    (s.setGreg f c d v).greg f c n = if d ≠ 0 ∧ n = d then v else s.greg f c n := by
  unfold State.setGreg
  by_cases hd : d = 0
  · simp [hd]
  · simp only [hd, if_false]
    unfold State.greg
    by_cases hn : n = 0
    · have : ¬ n = d := fun e => hd (e ▸ hn)
      simp [hn, Ne.symm hd]
    · simp only [hn, if_false, State.core_setCore_same, sget_sput]
      by_cases e : n = d
      · simp [e, hd]
      · simp [e]

/-- Another core's registers stay. -/
theorem State.greg_setGreg_core (s : State) (f c d f' c' n : Nat) (v : W64) (h : coreKey f' c' ≠ coreKey f c) :
    (s.setGreg f c d v).greg f' c' n = s.greg f' c' n := by
  unfold State.setGreg
  split
  · rfl
  · unfold State.greg
    rw [State.core_setCore_other _ _ _ _ _ _ h]

@[simp] theorem State.get_setGreg (s : State) (f c d : Nat) (v : W64) (r : Ref) : (s.setGreg f c d v).get r = s.get r := by
  unfold State.setGreg
  split <;> rfl

/-- A write of a general register changes nothing but its core. -/
theorem State.setGreg_eq (s : State) (f c d : Nat) (v : W64) :
    s.setGreg f c d v = { s with cores := (s.setGreg f c d v).cores } := by
  unfold State.setGreg
  split <;> rfl

/-- A core that runs and may fetch does what it is to do. -/
theorem coreRun_run {s : State} {f c : Nat} {op : Host.Outcome State Fault Refusal} (h : running s f c = true)
    (hf : fetchOk s f c = true) : coreRun s f c op = op := by
  simp [coreRun, h, hf]

/-- An instruction that a running core fetches has its effect. -/
theorem coreStep_run {s : State} {f c w : Nat} {op : Host.Outcome State Fault Refusal} (h : running s f c = true)
    (hf : fetchOk s f c = true) (hw : fetchWord s f c = some w) : coreStep s f c w op = op := by
  rw [coreStep, coreRun_run h hf, if_pos hw]

/-- The program counter after an instruction that goes on to the next one. -/
theorem advance_pc (s : State) (f c : Nat) : (advance s f c).pc f c = (s.pc f c + 4) % 18446744073709551616 := by
  unfold advance State.setPc State.pc
  exact State.get_put_same _ _ _

@[simp] theorem advance_greg (s : State) (f c f' c' n : Nat) : (advance s f c).greg f' c' n = s.greg f' c' n := rfl

theorem advance_eq (s : State) (f c : Nat) : advance s f c = { s with regs := (advance s f c).regs } := rfl

/-! ## Queues -/

@[simp] theorem State.queue_put (s : State) (r : Ref) (v f q : Nat) : (s.put r v).queue f q = s.queue f q := rfl
@[simp] theorem State.queue_setQueue_same (s : State) (f q : Nat) (x : QueueSt) : (s.setQueue f q x).queue f q = x := by
  simp [State.queue, State.setQueue]
@[simp] theorem State.queue_evRefresh (s : State) (f q : Nat) : (evRefresh s).queue f q = s.queue f q := by
  unfold State.queue; rw [evRefresh_queues]

end Sys2Proof.Machine
end

