-- ==== Sys2Proof/Laws/Core.lean ====
section
/-! SUPPORT. What the shared operations of the Frame cores do, each said once: the write of a result, a load, a store, a branch. -/
namespace Sys2Proof.Machine

theorem Running.run {s : State} {f c : Nat} (h : Running s f c) : running s f c = true ∧ fetchOk s f c = true := by
  obtain ⟨a, b, k, i, d, e⟩ := h
  simp [running, fetchOk, a, b, k, i, d, e]

/-- A running core does what it is to do. -/
theorem coreRun_ready {s : State} {f c : Nat} {op : Host.Outcome State Fault Refusal} (h : Running s f c) :
    coreRun s f c op = op := coreRun_run h.run.1 h.run.2

/-- The instruction that a ready core fetches has its effect. -/
theorem coreStep_ready {s : State} {f c w : Nat} {op : Host.Outcome State Fault Refusal} (h : Ready s f c w) :
    coreStep s f c w op = op := coreStep_run h.1.run.1 h.1.run.2 h.2

theorem coreKey_inj {f f' : Fin 64} {c c' : Fin 4} (h : coreKey f' c' = coreKey f c) : f' = f ∧ c' = c := by
  unfold coreKey at h
  constructor <;> (apply Fin.ext; omega)

theorem coreKey_ne {f f' : Fin 64} {c c' : Fin 4} (h : (f', c') ≠ (f, c)) : coreKey f' c' ≠ coreKey f c := by
  intro e
  obtain ⟨a, b⟩ := coreKey_inj e
  exact h (by rw [a, b])

theorem setGreg_sameGregs (s : State) (f : Fin 64) (c : Fin 4) (d : Fin 32) (v : W64) :
    SameGregs s (s.setGreg f c d v) f c d := by
  intro f' c' n h
  by_cases e : (f', c') = (f, c)
  · injection e with e1 e2
    subst e1 e2
    rw [State.greg_setGreg]
    have : ¬ (d.val ≠ 0 ∧ n.val = d.val) := by
      intro k
      exact h (by rw [Fin.ext k.2])
    rw [if_neg this]
  · exact State.greg_setGreg_core _ _ _ _ _ _ _ _ (coreKey_ne e)

theorem setGreg_sameCores (s : State) (f : Fin 64) (c : Fin 4) (d : Nat) (v : W64) : SameCores s (s.setGreg f c d v) := by
  intro f' c'
  unfold State.setGreg
  split
  · rfl
  · by_cases e : (f', c') = (f, c)
    · injection e with e1 e2
      subst e1 e2
      rw [State.core_setCore_same]
    · rw [State.core_setCore_other _ _ _ _ _ _ (coreKey_ne e)]

theorem put_sameRegs (s : State) (r : Ref) (v : Nat) : SameRegs s (s.put r v) [r.key] :=
  fun q h => State.get_put_other s r q v (by simpa using h)

/-- The write of a result: everything it does. -/
theorem result_advance (s : State) (f : Fin 64) (c : Fin 4) (d : Fin 32) (v : W64) :
    CoreResult s f c d v (.next (advance (s.setGreg f c d v) f c)) := by
  refine ⟨_, rfl, ?_, ?_, ?_, ?_, ?_, ?_⟩
  · rw [advance_greg, State.greg_setGreg]
    by_cases h : d.val = 0
    · simp [h]
    · simp [h]
  · rw [advance_pc]
    simp only [State.pc, State.get_setGreg] <;> rfl
  · intro f' c' n h
    rw [advance_greg]
    exact setGreg_sameGregs s f c d v f' c' n h
  · intro r h
    have := put_sameRegs (s.setGreg f c d v) (Reg.FRM_COREc_PC_PC f c) ((s.setGreg f c d v).pc f c + 4) r h
    exact this.trans (State.get_setGreg _ _ _ _ _ _)
  · intro f' c'
    exact setGreg_sameCores s f c d v f' c'
  · rw [advance_eq, State.setGreg_eq]

/-- An instruction that writes a register: everything it does. -/
theorem writeOp_result {s : State} {f : Fin 64} {c : Fin 4} {w : Nat} (d : Fin 32) (v : W64) (h : Ready s f c w) :
    CoreResult s f c d v (writeOp f c w d v s) := by
  unfold writeOp
  rw [coreStep_ready h]
  exact result_advance s f c d v

theorem setPc_goes (s : State) (f : Fin 64) (c : Fin 4) (x : Nat) (hx : x < 2 ^ 64) :
    CoreGoes s f c x (.next (s.setPc f c x)) :=
  ⟨_, rfl, (State.get_put_same _ _ _).trans (Nat.mod_eq_of_lt hx), put_sameRegs _ _ _, rfl⟩

theorem advance_goes (s : State) (f : Fin 64) (c : Fin 4) :
    CoreGoes s f c ((s.pc f c + 4) % 2 ^ 64) (.next (advance s f c)) :=
  ⟨_, rfl, advance_pc s f c, put_sameRegs _ _ _, rfl⟩

/-- A branch: everything it does. -/
theorem branchOp_goes {s : State} {f : Fin 64} {c : Fin 4} (maj : Nat) (x a : Fin 32) (imm : BitVec 16) (b : Bool)
    (h : Ready s f c (encI maj x a imm)) :
    CoreGoes s f c (if b then branchTarget s f c (imm.signExtend 64) else (s.pc f c + 4) % 2 ^ 64)
      (branchOp maj f c x a imm b s) := by
  unfold branchOp
  rw [coreStep_ready h]
  cases b with
  | true => exact setPc_goes s f c _ (BitVec.isLt _)
  | false => exact advance_goes s f c

theorem placeOf_sram {a : W64} {n : Nat} (h : inSram a.toNat n) : placeOf a n = .sram a.toNat := by
  simp [placeOf, h.1, h.2]

theorem placeOf_fmem {a : W64} {n : Nat} (h : inFmem a.toNat n) : placeOf a n = .fmem (a.toNat - 0x10000000) := by
  obtain ⟨h1, h2, h3⟩ := h
  have h4 : ¬ a.toNat < 0x20000 := by omega
  simp [placeOf, h1, h2, h3, h4]

/-- A load that no disturbance meets: everything it does. -/
theorem loadOp_result {s : State} {f : Fin 64} {c : Fin 4} (maj : Nat) (d a : Fin 32) (imm : BitVec 16) (n : Nat)
    (ext : Nat → W64) (h : Ready s f c (encI maj d a imm)) :
    LoadResult s f c d (coreAddr s f c a imm) n ext (loadOp maj f c d a imm n ext .ok s) := by
  unfold loadOp
  rw [coreStep_ready h]
  constructor
  · intro hs
    rw [show effAddr s f c a imm = s.greg f c a + imm.signExtend 64 from rfl, placeOf_sram hs]
    exact result_advance _ _ _ _ _
  · intro hs
    rw [show effAddr s f c a imm = s.greg f c a + imm.signExtend 64 from rfl, placeOf_fmem hs]
    exact result_advance _ _ _ _ _

theorem toLE_length (n x : Nat) : (toLE n x).length = n := by
  induction n generalizing x with
  | zero => rfl
  | succ n ih => simp [toLE, ih]

/-- A store: everything it does. -/
theorem storeOp_result {s : State} {f : Fin 64} {c : Fin 4} (maj : Nat) (b a : Fin 32) (imm : BitVec 16) (n : Nat)
    (h : Ready s f c (encI maj b a imm)) :
    StoreResult s f c (coreAddr s f c a imm) n (s.greg f c b) (storeOp maj f c b a imm n s) := by
  unfold storeOp
  rw [coreStep_ready h]
  have e : effAddr s f c a imm = s.greg f c a + imm.signExtend 64 := rfl
  constructor
  · intro hs
    rw [e, placeOf_sram hs]
    have hc : (advance (storeAt s f c (.sram (coreAddr s f c a imm)) (toLE n (s.greg f c b).toNat)) f c).core f c =
        { s.core f c with ram := sputList 0 (s.core f c).ram (coreAddr s f c a imm) (toLE n (s.greg f c b).toNat) } :=
      State.core_setCore_same _ _ _ _
    refine ⟨_, rfl, ?_, ?_, ?_, ?_, ?_, ?_, ?_⟩
    · have := sgetList_sputList (0 : Byte) (toLE n (s.greg f c b).toNat) (s.core f c).ram (coreAddr s f c a imm)
      rw [toLE_length] at this
      exact (congrArg (fun y => sgetList 0 y.ram (coreAddr s f c a imm) n) hc).trans this
    · intro x hx
      have := sget_sputList_other (0 : Byte) (toLE n (s.greg f c b).toNat) (s.core f c).ram (coreAddr s f c a imm) x
        (by rw [toLE_length]; exact hx)
      exact (congrArg (fun y => sget 0 y.ram x) hc).trans this
    · intro f' c' hne
      exact State.core_setCore_other _ _ _ _ _ _ (coreKey_ne hne)
    · exact congrArg (fun y => { y with ram := [] }) hc
    · exact advance_pc _ _ _
    · exact put_sameRegs _ _ _
    · rfl
  · intro hs
    rw [e, placeOf_fmem hs]
    refine ⟨_, rfl, ?_, ?_, ?_, ?_, ?_⟩
    · have := sgetList_sputList (0 : Byte) (toLE n (s.greg f c b).toNat) s.mem
        (fmAddr f (coreAddr s f c a imm - 0x10000000))
      rw [toLE_length] at this
      exact this
    · intro x hx
      exact sget_sputList_other (0 : Byte) (toLE n (s.greg f c b).toNat) s.mem
        (fmAddr f (coreAddr s f c a imm - 0x10000000)) x (by rw [toLE_length]; exact hx)
    · exact advance_pc _ _ _
    · exact put_sameRegs _ _ _
    · rfl

end Sys2Proof.Machine
end

