-- ==== Sys2Proof/Laws/Keep.lean ====
section
/-! SUPPORT. The relation between a state and a later one that every operation of the block respects, and the rules by which
it is carried through the operations. -/
namespace Sys2Proof.Machine

/-- What the relation looks at. -/
structure View where
  pending : List Instr
  fuses   : Fuses
  regs    : Sparse Nat
  mem     : Sparse Byte
  log     : List ErrRec
  nextSeq : Nat
  errArea : List (List ErrRec × Bool)

abbrev view (s : State) : View := ⟨s.pending, s.fuses, s.regs, s.mem, s.log, s.nextSeq, s.errArea⟩

/-- The health of the viewed fields. -/
def View.ok (v : View) : Prop :=
  scanon 0 v.regs = true ∧ scanon 0 v.mem = true ∧ v.log.length ≤ logSlots ∧ (∀ r ∈ v.log, r.seq < v.nextSeq) ∧
    v.errArea.length ≤ 16 ∧ v.fuses.bootable = true

/-- From `v` on to `w`: the waiting commands stay, fuses are only burned, and health is kept. -/
def View.to (v w : View) : Prop := w.pending = v.pending ∧ Burned v.fuses w.fuses ∧ (v.ok → w.ok)

/-- From `s` on to `t`. -/
def Keep (s t : State) : Prop := (view s).to (view t)

theorem Burned.refl (a : Fuses) : Burned a a := ⟨rfl, rfl, rfl, rfl, fun _ => Nat.le_refl _, fun _ h => h⟩

theorem Burned.trans {a b c : Fuses} (h : Burned a b) (k : Burned b c) : Burned a c :=
  ⟨k.1.trans h.1, k.2.1.trans h.2.1, k.2.2.1.trans h.2.2.1, k.2.2.2.1.trans h.2.2.2.1,
    fun i => Nat.le_trans (h.2.2.2.2.1 i) (k.2.2.2.2.1 i), fun i x => k.2.2.2.2.2 i (h.2.2.2.2.2 i x)⟩

theorem Keep.refl (s : State) : Keep s s := ⟨rfl, Burned.refl _, id⟩

theorem Keep.trans {s t u : State} (h : Keep s t) (k : Keep t u) : Keep s u :=
  ⟨k.1.trans h.1, h.2.1.trans k.2.1, fun x => k.2.2 (h.2.2 x)⟩

/-- A change outside the viewed fields. -/
theorem Keep.same {s t u : State} (h : Keep s t) (e : view u = view t) : Keep s u := by
  unfold Keep at *; rw [e]; exact h

/-- New registers in canonical form. -/
theorem Keep.regs {s t : State} (h : Keep s t) (r : Sparse Nat) (hr : scanon 0 t.regs = true → scanon 0 r = true) :
    Keep s { t with regs := r } :=
  h.trans ⟨rfl, Burned.refl _, fun x => ⟨hr x.1, x.2⟩⟩

/-- New memory in canonical form. -/
theorem Keep.mem {s t : State} (h : Keep s t) (m : Sparse Byte) (hm : scanon 0 t.mem = true → scanon 0 m = true) :
    Keep s { t with mem := m } :=
  h.trans ⟨rfl, Burned.refl _, fun x => ⟨x.1, hm x.2.1, x.2.2⟩⟩

theorem Keep.foldl {α : Type} {s : State} (g : State → α → State) (l : List α) :
    ∀ (t : State), Keep s t → (∀ u x, Keep s u → Keep s (g u x)) → Keep s (l.foldl g t) := by
  induction l with
  | nil => intro t h _; exact h
  | cons x r ih => intro t h k; exact ih _ (k t x h) k

theorem Keep.ofMk {s : State} {v_pending v_fuses v_regs v_mem v_log v_nextSeq v_errArea a2 a3 a4 a5 a6 a7 a8 a9 a10 a11 a12 a13 a14 a15 a16 a17 a18 a19 a22 a23 a24 a25 a26 a27 a28 a29 a30 a31 a32 a33 a34 a35 a36 a37 a38 a39 a40 a41 a42 a43 a44 a45 a46 a47 a48 a49 a50 a51 a52 a53 a54 a55 a56 a57 a58 a59 a60 a61 a62 a63 a64 a65 a66 a67 a68 a69 a70 a71 a72 a73 a74 a75 a76 a77 a78 a79 a80 a81 a82 a83 a84 a85 a86 a88 a89 a90 a91 a92 a93 a94 a95 a96 a97 a98 a99 a101 a102 a103 a104 a105 a106 a107}
    (h : (view s).to ⟨v_pending, v_fuses, v_regs, v_mem, v_log, v_nextSeq, v_errArea⟩) :
    Keep s (State.mk v_regs v_mem a2 a3 a4 a5 a6 a7 a8 a9 a10 a11 a12 a13 a14 a15 a16 a17 a18 a19 v_log v_nextSeq a22 a23 a24 a25 a26 a27 a28 a29 a30 a31 a32 a33 a34 a35 a36 a37 a38 a39 a40 a41 a42 a43 a44 a45 a46 a47 a48 a49 a50 a51 a52 a53 a54 a55 a56 a57 a58 a59 a60 a61 a62 a63 a64 a65 a66 a67 a68 a69 a70 a71 a72 a73 a74 a75 a76 a77 a78 a79 a80 a81 a82 a83 a84 a85 a86 v_errArea a88 a89 a90 a91 a92 a93 a94 a95 a96 a97 a98 a99 v_fuses a101 a102 a103 a104 a105 a106 a107 v_pending) := h

theorem Keep.fold {s t : State} (h : Keep s t) :
    (view s).to ⟨t.pending, t.fuses, t.regs, t.mem, t.log, t.nextSeq, t.errArea⟩ := h

theorem Keep.ite {s a b : State} {c : Prop} {_ : Decidable c} (ha : Keep s a) (hb : Keep s b) :
    Keep s (if c then a else b) := by
  split <;> assumption

/-! ## Results that carry a state -/

/-- The relation to the state of a pair. -/
def Keep1 {β : Type} (s : State) (p : State × β) : Prop := Keep s p.1

theorem Keep1.mk {β : Type} {s t : State} {b : β} (h : Keep s t) : Keep1 s (t, b) := h
theorem Keep1.elim {β : Type} {s t : State} {b : β} {p : State × β} (e : p = (t, b)) (h : Keep1 s p) : Keep s t := by
  rw [e] at h; exact h
theorem Keep1.elimM {β : Type} {s t : State} {b : β} (h : Keep1 s (t, b)) : Keep s t := h
theorem Keep1.proj {β : Type} {s : State} {p : State × β} (h : Keep1 s p) : Keep s p.1 := h

theorem Keep1.foldl {α β : Type} {s : State} (g : State × β → α → State × β) (l : List α) :
    ∀ (p : State × β), Keep1 s p → (∀ p x, Keep1 s p → Keep1 s (g p x)) → Keep1 s (l.foldl g p) := by
  induction l with
  | nil => intro t h _; exact h
  | cons x r ih => intro t h k; exact ih _ (k t x h) k

theorem Keep1.foldl_st {α β : Type} {s : State} (g : State × β → α → State × β) (l : List α)
    (p : State × β) (h : Keep1 s p) (k : ∀ p x, Keep1 s p → Keep1 s (g p x)) : Keep s (l.foldl g p).1 :=
  Keep1.foldl g l p h k

/-- The relation to the state that comes second in a pair. -/
def KeepP2 {β : Type} (s : State) (p : β × State) : Prop := Keep s p.2
theorem KeepP2.mk {β : Type} {s t : State} {b : β} (h : Keep s t) : KeepP2 s (b, t) := h
theorem KeepP2.elim {β : Type} {s t : State} {b : β} {p : β × State} (e : p = (b, t)) (h : KeepP2 s p) : Keep s t := by
  rw [e] at h; exact h
theorem KeepP2.elimM {β : Type} {s t : State} {b : β} (h : KeepP2 s (b, t)) : Keep s t := h

/-- The relation to the state of a memory access's result. -/
def KeepMem (s : State) (r : MemRes) : Prop := Keep s r.st
theorem KeepMem.mk {s t : State} {d : List Byte} {e : Option Nat} (h : Keep s t) : KeepMem s ⟨t, d, e⟩ := h
theorem KeepMem.proj {s : State} {r : MemRes} (h : KeepMem s r) : Keep s r.st := h

/-- The relation to the state of a load's result. -/
def KeepLoad (s : State) (r : LoadRes) : Prop := Keep s r.st
theorem KeepLoad.mk {s t : State} {e : Option Nat} (h : Keep s t) : KeepLoad s ⟨t, e⟩ := h
theorem KeepLoad.proj {s : State} {r : LoadRes} (h : KeepLoad s r) : Keep s r.st := h

/-- The relation to the states in `Option State`. -/
def KeepO (s0 : State) (o : Option State) : Prop :=
  match o with
  | .some s => Keep s0 s
  | .none => True
theorem KeepO.some {s0 : State} {s : State}  (h : Keep s0 s) : KeepO s0 (.some s : Option State) := h
theorem KeepO.un_some {s0 : State} {s : State}  (h : KeepO s0 (.some s : Option State)) : Keep s0 s := h
theorem KeepO.of_some {s0 : State} {s : State}  {o : Option State} (e : o = .some s) (h : KeepO s0 o) : Keep s0 s := by
  rw [e] at h; exact h
theorem KeepO.none {s0 : State}  : KeepO s0 (.none  : Option State) := trivial

/-- The relation to the states in `Host.Outcome State Fault Refusal`. -/
def KeepN (s0 : State) (o : Host.Outcome State Fault Refusal) : Prop :=
  match o with
  | .next s => Keep s0 s
  | .fault _ => True
  | .refused _ => True
theorem KeepN.next {s0 : State} {s : State}  (h : Keep s0 s) : KeepN s0 (.next s : Host.Outcome State Fault Refusal) := h
theorem KeepN.un_next {s0 : State} {s : State}  (h : KeepN s0 (.next s : Host.Outcome State Fault Refusal)) : Keep s0 s := h
theorem KeepN.of_next {s0 : State} {s : State}  {o : Host.Outcome State Fault Refusal} (e : o = .next s) (h : KeepN s0 o) : Keep s0 s := by
  rw [e] at h; exact h
theorem KeepN.fault {s0 : State} {x0} : KeepN s0 (.fault x0 : Host.Outcome State Fault Refusal) := trivial
theorem KeepN.refused {s0 : State} {x0} : KeepN s0 (.refused x0 : Host.Outcome State Fault Refusal) := trivial

/-- The relation to the states in `EngOut`. -/
def KeepEng (s0 : State) (o : EngOut) : Prop :=
  match o with
  | .done s => Keep s0 s
  | .wait => True
  | .bad _ => True
theorem KeepEng.done {s0 : State} {s : State}  (h : Keep s0 s) : KeepEng s0 (.done s : EngOut) := h
theorem KeepEng.un_done {s0 : State} {s : State}  (h : KeepEng s0 (.done s : EngOut)) : Keep s0 s := h
theorem KeepEng.of_done {s0 : State} {s : State}  {o : EngOut} (e : o = .done s) (h : KeepEng s0 o) : Keep s0 s := by
  rw [e] at h; exact h
theorem KeepEng.wait {s0 : State}  : KeepEng s0 (.wait  : EngOut) := trivial
theorem KeepEng.bad {s0 : State} {x0} : KeepEng s0 (.bad x0 : EngOut) := trivial

/-- The relation to the states in `SnapPart`. -/
def KeepSnap (s0 : State) (o : SnapPart) : Prop :=
  match o with
  | .part s _ => Keep s0 s
  | .bad => True
  | .err _ => True
theorem KeepSnap.part {s0 : State} {s : State} {d} (h : Keep s0 s) : KeepSnap s0 (.part s d : SnapPart) := h
theorem KeepSnap.un_part {s0 : State} {s : State} {d} (h : KeepSnap s0 (.part s d : SnapPart)) : Keep s0 s := h
theorem KeepSnap.of_part {s0 : State} {s : State} {d} {o : SnapPart} (e : o = .part s d) (h : KeepSnap s0 o) : Keep s0 s := by
  rw [e] at h; exact h
theorem KeepSnap.bad {s0 : State}  : KeepSnap s0 (.bad  : SnapPart) := trivial
theorem KeepSnap.err {s0 : State} {x0} : KeepSnap s0 (.err x0 : SnapPart) := trivial

/-- The relation to the states in `PieceRes`. -/
def KeepPiece (s0 : State) (o : PieceRes) : Prop :=
  match o with
  | .done s => Keep s0 s
  | .noSlot => True
theorem KeepPiece.done {s0 : State} {s : State}  (h : Keep s0 s) : KeepPiece s0 (.done s : PieceRes) := h
theorem KeepPiece.un_done {s0 : State} {s : State}  (h : KeepPiece s0 (.done s : PieceRes)) : Keep s0 s := h
theorem KeepPiece.of_done {s0 : State} {s : State}  {o : PieceRes} (e : o = .done s) (h : KeepPiece s0 o) : Keep s0 s := by
  rw [e] at h; exact h
theorem KeepPiece.noSlot {s0 : State}  : KeepPiece s0 (.noSlot  : PieceRes) := trivial

/-- The relation to the states in `ShRes α`. -/
def KeepSh {α : Type} (s0 : State) (o : ShRes α) : Prop :=
  match o with
  | .ok s _ => Keep s0 s
  | .bad s _ _ => Keep s0 s
  | .wait s => Keep s0 s
theorem KeepSh.ok {α : Type} {s0 : State} {s : State} {v} (h : Keep s0 s) : KeepSh s0 (.ok s v : ShRes α) := h
theorem KeepSh.un_ok {α : Type} {s0 : State} {s : State} {v} (h : KeepSh s0 (.ok s v : ShRes α)) : Keep s0 s := h
theorem KeepSh.of_ok {α : Type} {s0 : State} {s : State} {v} {o : ShRes α} (e : o = .ok s v) (h : KeepSh s0 o) : Keep s0 s := by
  rw [e] at h; exact h
theorem KeepSh.bad {α : Type} {s0 : State} {s : State} {c} {a} (h : Keep s0 s) : KeepSh s0 (.bad s c a : ShRes α) := h
theorem KeepSh.un_bad {α : Type} {s0 : State} {s : State} {c} {a} (h : KeepSh s0 (.bad s c a : ShRes α)) : Keep s0 s := h
theorem KeepSh.of_bad {α : Type} {s0 : State} {s : State} {c} {a} {o : ShRes α} (e : o = .bad s c a) (h : KeepSh s0 o) : Keep s0 s := by
  rw [e] at h; exact h
theorem KeepSh.wait {α : Type} {s0 : State} {s : State}  (h : Keep s0 s) : KeepSh s0 (.wait s : ShRes α) := h
theorem KeepSh.un_wait {α : Type} {s0 : State} {s : State}  (h : KeepSh s0 (.wait s : ShRes α)) : Keep s0 s := h
theorem KeepSh.of_wait {α : Type} {s0 : State} {s : State}  {o : ShRes α} (e : o = .wait s) (h : KeepSh s0 o) : Keep s0 s := by
  rw [e] at h; exact h

/-- The relation to the states in `SpinOut`. -/
def KeepSpin (s0 : State) (o : SpinOut) : Prop :=
  match o with
  | .wait s => Keep s0 s
  | .bad s _ => Keep s0 s
  | .seg s _ _ => Keep s0 s
  | .fault s _ _ _ => Keep s0 s
  | .done s => Keep s0 s
theorem KeepSpin.wait {s0 : State} {s : State}  (h : Keep s0 s) : KeepSpin s0 (.wait s : SpinOut) := h
theorem KeepSpin.un_wait {s0 : State} {s : State}  (h : KeepSpin s0 (.wait s : SpinOut)) : Keep s0 s := h
theorem KeepSpin.of_wait {s0 : State} {s : State}  {o : SpinOut} (e : o = .wait s) (h : KeepSpin s0 o) : Keep s0 s := by
  rw [e] at h; exact h
theorem KeepSpin.bad {s0 : State} {s : State} {c} (h : Keep s0 s) : KeepSpin s0 (.bad s c : SpinOut) := h
theorem KeepSpin.un_bad {s0 : State} {s : State} {c} (h : KeepSpin s0 (.bad s c : SpinOut)) : Keep s0 s := h
theorem KeepSpin.of_bad {s0 : State} {s : State} {c} {o : SpinOut} (e : o = .bad s c) (h : KeepSpin s0 o) : Keep s0 s := by
  rw [e] at h; exact h
theorem KeepSpin.seg {s0 : State} {s : State} {z} {n} (h : Keep s0 s) : KeepSpin s0 (.seg s z n : SpinOut) := h
theorem KeepSpin.un_seg {s0 : State} {s : State} {z} {n} (h : KeepSpin s0 (.seg s z n : SpinOut)) : Keep s0 s := h
theorem KeepSpin.of_seg {s0 : State} {s : State} {z} {n} {o : SpinOut} (e : o = .seg s z n) (h : KeepSpin s0 o) : Keep s0 s := by
  rw [e] at h; exact h
theorem KeepSpin.fault {s0 : State} {s : State} {j} {c} {a} (h : Keep s0 s) : KeepSpin s0 (.fault s j c a : SpinOut) := h
theorem KeepSpin.un_fault {s0 : State} {s : State} {j} {c} {a} (h : KeepSpin s0 (.fault s j c a : SpinOut)) : Keep s0 s := h
theorem KeepSpin.of_fault {s0 : State} {s : State} {j} {c} {a} {o : SpinOut} (e : o = .fault s j c a) (h : KeepSpin s0 o) : Keep s0 s := by
  rw [e] at h; exact h
theorem KeepSpin.done {s0 : State} {s : State}  (h : Keep s0 s) : KeepSpin s0 (.done s : SpinOut) := h
theorem KeepSpin.un_done {s0 : State} {s : State}  (h : KeepSpin s0 (.done s : SpinOut)) : Keep s0 s := h
theorem KeepSpin.of_done {s0 : State} {s : State}  {o : SpinOut} (e : o = .done s) (h : KeepSpin s0 o) : Keep s0 s := by
  rw [e] at h; exact h

/-- The relation to the states in `Operand`. -/
def KeepOperand (s0 : State) (o : Operand) : Prop :=
  match o with
  | .ok s _ _ _ _ => Keep s0 s
  | .wait s => Keep s0 s
  | .bad _ => True
  | .seg _ _ => True
theorem KeepOperand.ok {s0 : State} {s : State} {x} {y} {z} {w} (h : Keep s0 s) : KeepOperand s0 (.ok s x y z w : Operand) := h
theorem KeepOperand.un_ok {s0 : State} {s : State} {x} {y} {z} {w} (h : KeepOperand s0 (.ok s x y z w : Operand)) : Keep s0 s := h
theorem KeepOperand.of_ok {s0 : State} {s : State} {x} {y} {z} {w} {o : Operand} (e : o = .ok s x y z w) (h : KeepOperand s0 o) : Keep s0 s := by
  rw [e] at h; exact h
theorem KeepOperand.wait {s0 : State} {s : State}  (h : Keep s0 s) : KeepOperand s0 (.wait s : Operand) := h
theorem KeepOperand.un_wait {s0 : State} {s : State}  (h : KeepOperand s0 (.wait s : Operand)) : Keep s0 s := h
theorem KeepOperand.of_wait {s0 : State} {s : State}  {o : Operand} (e : o = .wait s) (h : KeepOperand s0 o) : Keep s0 s := by
  rw [e] at h; exact h
theorem KeepOperand.bad {s0 : State} {x0} : KeepOperand s0 (.bad x0 : Operand) := trivial
theorem KeepOperand.seg {s0 : State} {x0} {x1} : KeepOperand s0 (.seg x0 x1 : Operand) := trivial

/-- The relation to the states in `Landing`. -/
def KeepLand (s0 : State) (o : Landing) : Prop :=
  match o with
  | .done s => Keep s0 s
  | .wait => True
  | .proto => True
  | .over => True
theorem KeepLand.done {s0 : State} {s : State}  (h : Keep s0 s) : KeepLand s0 (.done s : Landing) := h
theorem KeepLand.un_done {s0 : State} {s : State}  (h : KeepLand s0 (.done s : Landing)) : Keep s0 s := h
theorem KeepLand.of_done {s0 : State} {s : State}  {o : Landing} (e : o = .done s) (h : KeepLand s0 o) : Keep s0 s := by
  rw [e] at h; exact h
theorem KeepLand.wait {s0 : State}  : KeepLand s0 (.wait  : Landing) := trivial
theorem KeepLand.proto {s0 : State}  : KeepLand s0 (.proto  : Landing) := trivial
theorem KeepLand.over {s0 : State}  : KeepLand s0 (.over  : Landing) := trivial

/-- The relation to the states in `SendRes`. -/
def KeepSend (s0 : State) (o : SendRes) : Prop :=
  match o with
  | .sent s => Keep s0 s
  | .refused _ => True
theorem KeepSend.sent {s0 : State} {s : State}  (h : Keep s0 s) : KeepSend s0 (.sent s : SendRes) := h
theorem KeepSend.un_sent {s0 : State} {s : State}  (h : KeepSend s0 (.sent s : SendRes)) : Keep s0 s := h
theorem KeepSend.of_sent {s0 : State} {s : State}  {o : SendRes} (e : o = .sent s) (h : KeepSend s0 o) : Keep s0 s := by
  rw [e] at h; exact h
theorem KeepSend.refused {s0 : State} {x0} : KeepSend s0 (.refused x0 : SendRes) := trivial

/-- The relation to the states in `Option (PendReq × State`. -/
def KeepReq (s0 : State) (o : Option (PendReq × State)) : Prop :=
  match o with
  | .some p => KeepP2 s0 p
  | .none => True
theorem KeepReq.some {s0 : State} {p : PendReq × State}  (h : KeepP2 s0 p) : KeepReq s0 (.some p : Option (PendReq × State)) := h
theorem KeepReq.un_some {s0 : State} {p : PendReq × State}  (h : KeepReq s0 (.some p : Option (PendReq × State))) : KeepP2 s0 p := h
theorem KeepReq.of_some {s0 : State} {p : PendReq × State}  {o : Option (PendReq × State)} (e : o = .some p) (h : KeepReq s0 o) : KeepP2 s0 p := by
  rw [e] at h; exact h
theorem KeepReq.none {s0 : State}  : KeepReq s0 (.none  : Option (PendReq × State)) := trivial

/-- The relation to the states in `Except EngOut (State × β`. -/
def KeepEE {β : Type} (s0 : State) (o : Except EngOut (State × β)) : Prop :=
  match o with
  | .ok p => Keep1 s0 p
  | .error e => KeepEng s0 e
theorem KeepEE.ok {β : Type} {s0 : State} {p : State × β}  (h : Keep1 s0 p) : KeepEE s0 (.ok p : Except EngOut (State × β)) := h
theorem KeepEE.un_ok {β : Type} {s0 : State} {p : State × β}  (h : KeepEE s0 (.ok p : Except EngOut (State × β))) : Keep1 s0 p := h
theorem KeepEE.of_ok {β : Type} {s0 : State} {p : State × β}  {o : Except EngOut (State × β)} (e : o = .ok p) (h : KeepEE s0 o) : Keep1 s0 p := by
  rw [e] at h; exact h
theorem KeepEE.error {β : Type} {s0 : State} {e : EngOut}  (h : KeepEng s0 e) : KeepEE s0 (.error e : Except EngOut (State × β)) := h
theorem KeepEE.un_error {β : Type} {s0 : State} {e : EngOut}  (h : KeepEE s0 (.error e : Except EngOut (State × β))) : KeepEng s0 e := h
theorem KeepEE.of_error {β : Type} {s0 : State} {x : EngOut}  {o : Except EngOut (State × β)} (e : o = .error x) (h : KeepEE s0 o) : KeepEng s0 x := by
  rw [e] at h; exact h

/-- The relation to the states in `Except SpinOut (State × β`. -/
def KeepES {β : Type} (s0 : State) (o : Except SpinOut (State × β)) : Prop :=
  match o with
  | .ok p => Keep1 s0 p
  | .error e => KeepSpin s0 e
theorem KeepES.ok {β : Type} {s0 : State} {p : State × β}  (h : Keep1 s0 p) : KeepES s0 (.ok p : Except SpinOut (State × β)) := h
theorem KeepES.un_ok {β : Type} {s0 : State} {p : State × β}  (h : KeepES s0 (.ok p : Except SpinOut (State × β))) : Keep1 s0 p := h
theorem KeepES.of_ok {β : Type} {s0 : State} {p : State × β}  {o : Except SpinOut (State × β)} (e : o = .ok p) (h : KeepES s0 o) : Keep1 s0 p := by
  rw [e] at h; exact h
theorem KeepES.error {β : Type} {s0 : State} {e : SpinOut}  (h : KeepSpin s0 e) : KeepES s0 (.error e : Except SpinOut (State × β)) := h
theorem KeepES.un_error {β : Type} {s0 : State} {e : SpinOut}  (h : KeepES s0 (.error e : Except SpinOut (State × β))) : KeepSpin s0 e := h
theorem KeepES.of_error {β : Type} {s0 : State} {x : SpinOut}  {o : Except SpinOut (State × β)} (e : o = .error x) (h : KeepES s0 o) : KeepSpin s0 x := by
  rw [e] at h; exact h

theorem KeepO.getD {s t : State} {o : Option State} (h : KeepO s o) (k : Keep s t) : Keep s (o.getD t) := by
  cases o with
  | none => exact k
  | some u => exact h

theorem KeepO.map {s : State} {o : Option State} {g : State → State} (h : KeepO s o)
    (k : ∀ t, Keep s t → Keep s (g t)) : KeepO s (o.map g) := by
  cases o with
  | none => trivial
  | some t => exact k t h

theorem KeepEE.ok_pair {β : Type} {sB s : State} {b : β} {o : Except EngOut (State × β)} (e : o = .ok (s, b))
    (h : KeepEE sB o) : Keep sB s := by
  rw [e] at h; exact h
theorem KeepES.ok_pair {β : Type} {sB s : State} {b : β} {o : Except SpinOut (State × β)} (e : o = .ok (s, b))
    (h : KeepES sB o) : Keep sB s := by
  rw [e] at h; exact h

theorem KeepReq.pair {sB s : State} {b : PendReq} {o : Option (PendReq × State)} (e : o = .some (b, s))
    (h : KeepReq sB o) : Keep sB s := by
  rw [e] at h; exact h
theorem KeepReq.unpair {sB s : State} {b : PendReq} (h : KeepReq sB (.some (b, s))) : Keep sB s := h
theorem KeepReq.or {sB : State} {a b : Option (PendReq × State)} (ha : KeepReq sB a) (hb : KeepReq sB b) :
    KeepReq sB (a.or b) := by
  cases a with
  | none => exact hb
  | some x => exact ha

/-! ## Conditionals -/

theorem Keep1.ite {β : Type} {s : State} {a b : State × β} {c : Prop} {_ : Decidable c} (ha : Keep1 s a) (hb : Keep1 s b) :
    Keep1 s (if c then a else b) := by
  split <;> assumption
theorem KeepMem.ite {s : State} {a b : MemRes} {c : Prop} {_ : Decidable c} (ha : KeepMem s a) (hb : KeepMem s b) :
    KeepMem s (if c then a else b) := by
  split <;> assumption
theorem KeepO.ite {s : State} {a b : Option State} {c : Prop} {_ : Decidable c} (ha : KeepO s a) (hb : KeepO s b) :
    KeepO s (if c then a else b) := by
  split <;> assumption
theorem KeepN.ite {s : State} {a b : Host.Outcome State Fault Refusal} {c : Prop} {_ : Decidable c} (ha : KeepN s a) (hb : KeepN s b) :
    KeepN s (if c then a else b) := by
  split <;> assumption
theorem KeepEng.ite {s : State} {a b : EngOut} {c : Prop} {_ : Decidable c} (ha : KeepEng s a) (hb : KeepEng s b) :
    KeepEng s (if c then a else b) := by
  split <;> assumption
theorem KeepSnap.ite {s : State} {a b : SnapPart} {c : Prop} {_ : Decidable c} (ha : KeepSnap s a) (hb : KeepSnap s b) :
    KeepSnap s (if c then a else b) := by
  split <;> assumption
theorem KeepPiece.ite {s : State} {a b : PieceRes} {c : Prop} {_ : Decidable c} (ha : KeepPiece s a) (hb : KeepPiece s b) :
    KeepPiece s (if c then a else b) := by
  split <;> assumption
theorem KeepSh.ite {α : Type} {s : State} {a b : ShRes α} {c : Prop} {_ : Decidable c} (ha : KeepSh s a) (hb : KeepSh s b) :
    KeepSh s (if c then a else b) := by
  split <;> assumption
theorem KeepSpin.ite {s : State} {a b : SpinOut} {c : Prop} {_ : Decidable c} (ha : KeepSpin s a) (hb : KeepSpin s b) :
    KeepSpin s (if c then a else b) := by
  split <;> assumption
theorem KeepOperand.ite {s : State} {a b : Operand} {c : Prop} {_ : Decidable c} (ha : KeepOperand s a) (hb : KeepOperand s b) :
    KeepOperand s (if c then a else b) := by
  split <;> assumption
theorem KeepSend.ite {s : State} {a b : SendRes} {c : Prop} {_ : Decidable c} (ha : KeepSend s a) (hb : KeepSend s b) :
    KeepSend s (if c then a else b) := by
  split <;> assumption
theorem KeepEE.ite {β : Type} {s : State} {a b : Except EngOut (State × β)} {c : Prop} {_ : Decidable c} (ha : KeepEE s a) (hb : KeepEE s b) :
    KeepEE s (if c then a else b) := by
  split <;> assumption
theorem KeepES.ite {β : Type} {s : State} {a b : Except SpinOut (State × β)} {c : Prop} {_ : Decidable c} (ha : KeepES s a) (hb : KeepES s b) :
    KeepES s (if c then a else b) := by
  split <;> assumption
theorem KeepLand.ite {s : State} {a b : Landing} {c : Prop} {_ : Decidable c} (ha : KeepLand s a) (hb : KeepLand s b) :
    KeepLand s (if c then a else b) := by
  split <;> assumption
theorem KeepLoad.ite {s : State} {a b : LoadRes} {c : Prop} {_ : Decidable c} (ha : KeepLoad s a) (hb : KeepLoad s b) :
    KeepLoad s (if c then a else b) := by
  split <;> assumption

end Sys2Proof.Machine
end

