-- ==== Sys2Proof/Laws/KeepOps.lean ====
section
/-! SUPPORT. The operations on registers, the error log, memory and the Weft transmitters keep the relation. -/
namespace Sys2Proof.Machine

/-- A register write keeps the registers canonical. -/
theorem State.put_keep {s0 s : State} {r : Ref} {v : Nat} (hs : Keep s0 s) : Keep s0 (s.put r v) :=
  hs.regs _ (scanon_sput 0 _ _ _)

theorem State.bump_keep {sB : State} {s : State} {r : Ref} {n : Nat}
    (hs : Keep sB s) : Keep sB (State.bump s r n) := by
  unfold State.bump
  repeat' first
    | with_reducible assumption
    | with_reducible apply State.put_keep

theorem noteMhz_keep {sB : State} {s : State}
    (hs : Keep sB s) : Keep sB (noteMhz s) := by
  unfold noteMhz
  repeat' first
    | with_reducible assumption
    | intro _
    | (extract_lets +onlyGivenNames x
       first
         | (refine (fun (hx : Keep sB x) => ?_) ?_; clear_value x; rotate_left; subst x)
         | (have := fun a => x a; clear this; subst x)
         | clear_value x
         | subst x)
    | split
    | (with_reducible apply Keep.ofMk; with_reducible apply Keep.fold)

theorem onClock_keep {sB : State} {s : State} {f : Nat} {op : Host.Outcome State Fault Refusal}
    (hs : Keep sB s) (hop : KeepN sB op) : KeepN sB (onClock s f op) := by
  unfold onClock
  repeat' first
    | with_reducible assumption
    | with_reducible apply KeepN.next
    | with_reducible apply KeepN.fault
    | with_reducible apply KeepN.refused
    | with_reducible apply Keep.ite
    | with_reducible apply KeepN.ite
    | split
    | (with_reducible apply KeepN.of_next; with_reducible assumption)
    | (with_reducible apply KeepN.un_next; with_reducible assumption)

theorem State.setCore_keep {sB : State} {s : State} {f : Nat} {c : Nat} {x : CoreSt}
    (hs : Keep sB s) : Keep sB (State.setCore s f c x) := by
  unfold State.setCore
  repeat' first
    | with_reducible assumption
    | (extract_lets +onlyGivenNames x
       first
         | (refine (fun (hx : Keep sB x) => ?_) ?_; clear_value x; rotate_left; subst x)
         | (have := fun a => x a; clear this; subst x)
         | clear_value x
         | subst x)
    | (with_reducible apply Keep.ofMk; with_reducible apply Keep.fold)

theorem State.setGreg_keep {sB : State} {s : State} {f : Nat} {c : Nat} {r : Nat} {v : W64}
    (hs : Keep sB s) : Keep sB (State.setGreg s f c r v) := by
  unfold State.setGreg
  repeat' first
    | with_reducible assumption
    | with_reducible apply State.setCore_keep
    | (extract_lets +onlyGivenNames x
       first
         | (refine (fun (hx : Keep sB x) => ?_) ?_; clear_value x; rotate_left; subst x)
         | (have := fun a => x a; clear this; subst x)
         | clear_value x
         | subst x)
    | with_reducible apply Keep.ite
    | split
    | (with_reducible apply Keep.ofMk; with_reducible apply Keep.fold)

theorem State.setQueue_keep {sB : State} {s : State} {f : Nat} {q : Nat} {x : QueueSt}
    (hs : Keep sB s) : Keep sB (State.setQueue s f q x) := by
  unfold State.setQueue
  repeat' first
    | with_reducible assumption
    | (extract_lets +onlyGivenNames x
       first
         | (refine (fun (hx : Keep sB x) => ?_) ?_; clear_value x; rotate_left; subst x)
         | (have := fun a => x a; clear this; subst x)
         | clear_value x
         | subst x)
    | (with_reducible apply Keep.ofMk; with_reducible apply Keep.fold)

theorem State.tickFresh_keep {sB : State} {s : State}
    (hs : Keep sB s) : Keep sB (State.tickFresh s) := by
  unfold State.tickFresh
  repeat' first
    | with_reducible assumption
    | (extract_lets +onlyGivenNames x
       first
         | (refine (fun (hx : Keep sB x) => ?_) ?_; clear_value x; rotate_left; subst x)
         | (have := fun a => x a; clear this; subst x)
         | clear_value x
         | subst x)
    | (with_reducible apply Keep.ofMk; with_reducible apply Keep.fold)

theorem dropFirst_props (p : ErrRec → Bool) : ∀ (l t : List ErrRec), dropFirst p l = some t →
    t.length + 1 = l.length ∧ ∀ r ∈ t, r ∈ l := by
  intro l
  induction l with
  | nil => intro t h; cases h
  | cons x r ih =>
    intro t h
    simp only [dropFirst] at h
    split at h
    · cases h; exact ⟨rfl, fun y hy => List.mem_cons_of_mem _ hy⟩
    · cases hq : dropFirst p r with
      | none => simp [hq] at h
      | some u =>
        simp only [hq, Option.map_some, Option.some.injEq] at h
        subst h
        obtain ⟨a, b⟩ := ih u hq
        refine ⟨by simp; omega, fun y hy => ?_⟩
        rcases List.mem_cons.mp hy with rfl | hy
        · simp
        · exact List.mem_cons_of_mem _ (b y hy)

/-- A log with room holds fewer than its slots, and only records it held. -/
theorem logRoom_props (l : List ErrRec) (h : l.length ≤ logSlots) :
    (logRoom l).1.length + 1 ≤ logSlots ∧ ∀ r ∈ (logRoom l).1, r ∈ l := by
  unfold logRoom
  split
  · exact ⟨by simp; omega, fun r hr => hr⟩
  · split
    · rename_i t ht
      obtain ⟨a, b⟩ := dropFirst_props _ l t ht
      exact ⟨by simp; omega, b⟩
    · split
      · rename_i t ht
        obtain ⟨a, b⟩ := dropFirst_props _ l t ht
        exact ⟨by simp; omega, b⟩
      · refine ⟨?_, fun r hr => List.mem_of_mem_drop hr⟩
        simp only [List.length_drop, logSlots] at *
        omega

/-- Merging keeps the number of records and their SEQs. -/
theorem mergeC_props (r : ErrRec) : ∀ (l t : List ErrRec), mergeC r l = some t →
    t.length = l.length ∧ ∀ x ∈ t, ∃ y ∈ l, y.seq = x.seq := by
  intro l
  induction l with
  | nil => intro t h; cases h
  | cons x rest ih =>
    intro t h
    simp only [mergeC] at h
    split at h
    · split at h
      · cases h
        refine ⟨rfl, fun y hy => ?_⟩
        rcases List.mem_cons.mp hy with rfl | hy
        · exact ⟨x, by simp, rfl⟩
        · exact ⟨y, List.mem_cons_of_mem _ hy, rfl⟩
      · cases h
    · cases hq : mergeC r rest with
      | none => simp [hq] at h
      | some u =>
        simp only [hq, Option.map_some, Option.some.injEq] at h
        subst h
        obtain ⟨a, b⟩ := ih u hq
        refine ⟨by simp [a], fun y hy => ?_⟩
        rcases List.mem_cons.mp hy with rfl | hy
        · exact ⟨y, by simp, rfl⟩
        · obtain ⟨z, hz, e⟩ := b y hy
          exact ⟨z, List.mem_cons_of_mem _ hz, e⟩

/-- A new log within its slots whose records lie below the next SEQ. -/
theorem Keep.log {s t : State} (h : Keep s t) (l : List ErrRec) (n : Nat)
    (hl : t.log.length ≤ logSlots → (∀ r ∈ t.log, r.seq < t.nextSeq) →
      l.length ≤ logSlots ∧ ∀ r ∈ l, r.seq < n) : Keep s { t with log := l, nextSeq := n } := by
  refine h.trans ⟨rfl, Burned.refl _, fun x => ?_⟩
  obtain ⟨a, b⟩ := hl x.2.2.1 x.2.2.2.1
  exact ⟨x.1, x.2.1, a, b, x.2.2.2.2⟩

/-- Accepting a record keeps the log within its slots and the SEQs below the next one. -/
theorem State.accept_keep {s0 s : State} {r : ErrRec} (hs : Keep s0 s) : Keep s0 (s.accept r) := by
  unfold State.accept
  extract_lets +onlyGivenNames x
  have hx : Keep s0 x := State.bump_keep hs
  clear_value x
  split
  · rename_i l hl
    split at hl
    · refine hx.log _ _ (fun a b => ?_)
      obtain ⟨e, m⟩ := mergeC_props r _ _ hl
      refine ⟨by simpa [e] using a, fun y hy => ?_⟩
      obtain ⟨z, hz, ez⟩ := m y (by simpa using hy)
      rw [← ez]
      exact b z (by simpa using hz)
    · cases hl
  · have key : ∀ (t : State), Keep s0 t → t.log = x.log → t.nextSeq = x.nextSeq →
        Keep s0 { t with log := (logRoom x.log).1 ++ [{ r with seq := t.nextSeq }], nextSeq := t.nextSeq + 1 } := by
      intro t ht e n
      refine ht.log _ _ (fun a b => ?_)
      rw [e] at a b
      obtain ⟨p, q⟩ := logRoom_props x.log a
      refine ⟨by simpa using p, fun y hy => ?_⟩
      rcases List.mem_append.mp hy with hy | hy
      · exact Nat.lt_succ_of_lt (b y (q y hy))
      · rw [List.mem_singleton.mp hy]
        exact Nat.lt_succ_self _
    by_cases c : (logRoom x.log).2 = true
    · simp only [c, if_true]
      exact key _ (State.bump_keep hx) rfl rfl
    · simp only [c]
      exact key _ hx rfl rfl

theorem State.logErr_keep {sB : State} {s : State} {e : ErrInfo}
    (hs : Keep sB s) : Keep sB (State.logErr s e) := by
  unfold State.logErr
  repeat' first
    | with_reducible assumption
    | intro _
    | with_reducible apply State.accept_keep
    | (extract_lets +onlyGivenNames x
       first
         | (refine (fun (hx : Keep sB x) => ?_) ?_; clear_value x; rotate_left; subst x)
         | (have := fun a => x a; clear this; subst x)
         | clear_value x
         | subst x)
    | with_reducible apply Keep.ite
    | split
    | (with_reducible apply Keep.ofMk; with_reducible apply Keep.fold)

theorem State.logReg_keep {sB : State} {s : State} {cause : Nat} {off : Nat}
    (hs : Keep sB s) : Keep sB (State.logReg s cause off) := by
  unfold State.logReg
  repeat' first
    | with_reducible assumption
    | with_reducible apply State.logErr_keep

theorem State.setStage_keep {sB : State} {s : State} {z : Nat} {i : Nat} {l : List Beat}
    (hs : Keep sB s) : Keep sB (State.setStage s z i l) := by
  unfold State.setStage
  repeat' first
    | with_reducible assumption
    | (extract_lets +onlyGivenNames x
       first
         | (refine (fun (hx : Keep sB x) => ?_) ?_; clear_value x; rotate_left; subst x)
         | (have := fun a => x a; clear this; subst x)
         | clear_value x
         | subst x)
    | (with_reducible apply Keep.ofMk; with_reducible apply Keep.fold)

theorem State.setNotice_keep {sB : State} {s : State} {z : Nat} {i : Nat} {l : List Notice}
    (hs : Keep sB s) : Keep sB (State.setNotice s z i l) := by
  unfold State.setNotice
  repeat' first
    | with_reducible assumption
    | (extract_lets +onlyGivenNames x
       first
         | (refine (fun (hx : Keep sB x) => ?_) ?_; clear_value x; rotate_left; subst x)
         | (have := fun a => x a; clear this; subst x)
         | clear_value x
         | subst x)
    | (with_reducible apply Keep.ofMk; with_reducible apply Keep.fold)

theorem State.setRport_keep {sB : State} {s : State} {z : Nat} {i : Nat} {p : RingPort}
    (hs : Keep sB s) : Keep sB (State.setRport s z i p) := by
  unfold State.setRport
  repeat' first
    | with_reducible assumption
    | (extract_lets +onlyGivenNames x
       first
         | (refine (fun (hx : Keep sB x) => ?_) ?_; clear_value x; rotate_left; subst x)
         | (have := fun a => x a; clear this; subst x)
         | clear_value x
         | subst x)
    | (with_reducible apply Keep.ofMk; with_reducible apply Keep.fold)

theorem State.setInj_keep {sB : State} {s : State} {z : Nat} {f : Nat} {x : InjSt}
    (hs : Keep sB s) : Keep sB (State.setInj s z f x) := by
  unfold State.setInj
  repeat' first
    | with_reducible assumption
    | (extract_lets +onlyGivenNames x
       first
         | (refine (fun (hx : Keep sB x) => ?_) ?_; clear_value x; rotate_left; subst x)
         | (have := fun a => x a; clear this; subst x)
         | clear_value x
         | subst x)
    | (with_reducible apply Keep.ofMk; with_reducible apply Keep.fold)

/-- A write of bytes keeps the memory canonical. -/
theorem State.setBytes_keep {s0 s : State} {a : Nat} {d : List Byte} (hs : Keep s0 s) : Keep s0 (s.setBytes a d) :=
  hs.mem _ (scanon_sputList 0 d _ _)

theorem setSpad_keep {s0 : State} {a : Nat} {d : List Byte} :
    ∀ {s : State}, Keep s0 s → Keep s0 (setSpad s a d) := by
  induction d generalizing a with
  | nil => intro s hs; exact hs
  | cons b r ih =>
    intro s hs
    unfold setSpad
    split
    · exact ih (hs.mem _ (scanon_sput 0 _ _ _))
    · exact ih hs

theorem State.uncorrBlock_keep {sB : State} {s : State} {a : Nat}
    (hs : Keep sB s) : Keep sB (State.uncorrBlock s a) := by
  unfold State.uncorrBlock
  repeat' first
    | with_reducible assumption
    | with_reducible apply State.put_keep
    | with_reducible apply State.bump_keep
    | (extract_lets +onlyGivenNames x
       first
         | (refine (fun (hx : Keep sB x) => ?_) ?_; clear_value x; rotate_left; subst x)
         | (have := fun a => x a; clear this; subst x)
         | clear_value x
         | subst x)
    | with_reducible apply Keep.ite
    | split

theorem countBad_keep {sB : State} {s : State} {bl : List Nat}
    (hs : Keep sB s) : Keep sB (countBad s bl) := by
  unfold countBad
  repeat' first
    | with_reducible assumption
    | intro _
    | with_reducible apply State.uncorrBlock_keep
    | with_reducible apply Keep.foldl
    | with_reducible apply Keep.ite
    | split

theorem chanRead_keep {sB : State} {s : State} {a : Nat} {n : Nat}
    (hs : Keep sB s) : KeepMem sB (chanRead s a n) := by
  unfold chanRead
  repeat' first
    | with_reducible assumption
    | with_reducible apply countBad_keep
    | (extract_lets +onlyGivenNames x
       first
         | (refine (fun (hx : Keep sB x) => ?_) ?_; clear_value x; rotate_left; subst x)
         | (refine (fun (hx : KeepMem sB x) => ?_) ?_; clear_value x; have hx2 := KeepMem.proj hx; rotate_left; subst x)
         | (have := fun a => x a; clear this; subst x)
         | clear_value x
         | subst x)
    | split
    | with_reducible apply KeepMem.mk


theorem chanRead_keep_st {sB : State} {s : State} {a : Nat} {n : Nat}
    (hs : Keep sB s) : Keep sB (chanRead s a n).st :=
  chanRead_keep hs
theorem mirror_keep {sB : State} {s : State} {a : Nat} {d : List Byte}
    (hs : Keep sB s) : Keep sB (mirror s a d) := by
  unfold mirror
  repeat' first
    | with_reducible assumption
    | (extract_lets +onlyGivenNames x
       first
         | (refine (fun (hx : Keep sB x) => ?_) ?_; clear_value x; rotate_left; subst x)
         | (have := fun a => x a; clear this; subst x)
         | clear_value x
         | subst x)
    | with_reducible apply Keep.ite
    | split
    | (with_reducible apply Keep.ofMk; with_reducible apply Keep.fold)

theorem chanWriteBlock_keep {sB : State} {s : State} {a : Nat} {d : List Byte}
    (hs : Keep sB s) : KeepMem sB (chanWriteBlock s a d) := by
  unfold chanWriteBlock
  repeat' first
    | with_reducible assumption
    | with_reducible apply State.setBytes_keep
    | with_reducible apply State.uncorrBlock_keep
    | with_reducible apply mirror_keep
    | (extract_lets +onlyGivenNames x
       first
         | (refine (fun (hx : Keep sB x) => ?_) ?_; clear_value x; rotate_left; subst x)
         | (refine (fun (hx : KeepMem sB x) => ?_) ?_; clear_value x; have hx2 := KeepMem.proj hx; rotate_left; subst x)
         | (have := fun a => x a; clear this; subst x)
         | clear_value x
         | subst x)
    | with_reducible apply Keep.ite
    | with_reducible apply KeepMem.ite
    | split
    | with_reducible apply KeepMem.mk
    | (with_reducible apply Keep.ofMk; with_reducible apply Keep.fold)


theorem chanWriteBlock_keep_st {sB : State} {s : State} {a : Nat} {d : List Byte}
    (hs : Keep sB s) : Keep sB (chanWriteBlock s a d).st :=
  chanWriteBlock_keep hs
theorem chanWriteGo_keep {sB : State} {s : State} {a : Nat} {d : List Byte} {err : Option Nat} {fuel : Nat}
    (hs : Keep sB s) : KeepMem sB (chanWriteGo s a d err fuel) := by
  induction fuel generalizing s a d err with
  | zero  =>
    first | rw [chanWriteGo] | unfold chanWriteGo
    repeat' first
      | with_reducible assumption
      | with_reducible apply chanWriteBlock_keep
      | with_reducible apply chanWriteBlock_keep_st
      | (extract_lets +onlyGivenNames x
         first
           | (refine (fun (hx : Keep sB x) => ?_) ?_; clear_value x; rotate_left; subst x)
           | (refine (fun (hx : KeepMem sB x) => ?_) ?_; clear_value x; have hx2 := KeepMem.proj hx; rotate_left; subst x)
           | (have := fun a => x a; clear this; subst x)
           | clear_value x
           | subst x)
      | with_reducible apply Keep.ite
      | with_reducible apply KeepMem.ite
      | split
      | with_reducible apply KeepMem.mk
      | (with_reducible apply Keep.ofMk; with_reducible apply Keep.fold)
  | succ n ih =>
    first | rw [chanWriteGo] | unfold chanWriteGo
    repeat' first
      | with_reducible assumption
      | with_reducible apply ih
      | with_reducible apply chanWriteBlock_keep
      | with_reducible apply chanWriteBlock_keep_st
      | (extract_lets +onlyGivenNames x
         first
           | (refine (fun (hx : Keep sB x) => ?_) ?_; clear_value x; rotate_left; subst x)
           | (refine (fun (hx : KeepMem sB x) => ?_) ?_; clear_value x; have hx2 := KeepMem.proj hx; rotate_left; subst x)
           | (have := fun a => x a; clear this; subst x)
           | clear_value x
           | subst x)
      | with_reducible apply Keep.ite
      | with_reducible apply KeepMem.ite
      | split
      | with_reducible apply KeepMem.mk
      | (with_reducible apply Keep.ofMk; with_reducible apply Keep.fold)


theorem chanWriteGo_keep_st {sB : State} {s : State} {a : Nat} {d : List Byte} {err : Option Nat} {fuel : Nat}
    (hs : Keep sB s) : Keep sB (chanWriteGo s a d err fuel).st :=
  chanWriteGo_keep hs
theorem queueWrite_keep {sB : State} {s : State} {g : Nat}
    (hs : Keep sB s) : Keep sB (queueWrite s g) := by
  unfold queueWrite
  repeat' first
    | with_reducible assumption
    | (extract_lets +onlyGivenNames x
       first
         | (refine (fun (hx : Keep sB x) => ?_) ?_; clear_value x; rotate_left; subst x)
         | (have := fun a => x a; clear this; subst x)
         | clear_value x
         | subst x)
    | with_reducible apply Keep.ite
    | split
    | (with_reducible apply Keep.ofMk; with_reducible apply Keep.fold)

theorem chanWrite_keep {sB : State} {s : State} {a : Nat} {d : List Byte}
    (hs : Keep sB s) : KeepMem sB (chanWrite s a d) := by
  unfold chanWrite
  repeat' first
    | with_reducible assumption
    | with_reducible apply chanWriteGo_keep
    | with_reducible apply chanWriteGo_keep_st
    | with_reducible apply queueWrite_keep
    | with_reducible apply KeepMem.mk


theorem chanWrite_keep_st {sB : State} {s : State} {a : Nat} {d : List Byte}
    (hs : Keep sB s) : Keep sB (chanWrite s a d).st :=
  chanWrite_keep hs
theorem State.setLine_keep {sB : State} {s : State} {sl : Nat} {i : Nat} {w : Nat} {l : Line}
    (hs : Keep sB s) : Keep sB (State.setLine s sl i w l) := by
  unfold State.setLine
  repeat' first
    | with_reducible assumption
    | (extract_lets +onlyGivenNames x
       first
         | (refine (fun (hx : Keep sB x) => ?_) ?_; clear_value x; rotate_left; subst x)
         | (have := fun a => x a; clear this; subst x)
         | clear_value x
         | subst x)
    | (with_reducible apply Keep.ofMk; with_reducible apply Keep.fold)

theorem State.touch_keep {sB : State} {s : State} {g : Nat} {w : Nat}
    (hs : Keep sB s) : Keep sB (State.touch s g w) := by
  unfold State.touch
  repeat' first
    | with_reducible assumption
    | (extract_lets +onlyGivenNames x
       first
         | (refine (fun (hx : Keep sB x) => ?_) ?_; clear_value x; rotate_left; subst x)
         | (have := fun a => x a; clear this; subst x)
         | clear_value x
         | subst x)
    | split
    | (with_reducible apply Keep.ofMk; with_reducible apply Keep.fold)

theorem writeBack_keep {sB : State} {s : State} {l : Line}
    (hs : Keep sB s) : Keep sB (writeBack s l) := by
  unfold writeBack
  repeat' first
    | with_reducible assumption
    | with_reducible apply chanWrite_keep
    | with_reducible apply chanWrite_keep_st
    | with_reducible apply Keep.ite
    | with_reducible apply KeepMem.ite
    | split
    | with_reducible apply KeepMem.mk

theorem allocLine_keep {sB : State} {s : State} {g : Nat} {dirty : Bool} {d : List Byte}
    (hs : Keep sB s) : Keep sB (allocLine s g dirty d) := by
  unfold allocLine
  repeat' first
    | with_reducible assumption
    | with_reducible apply State.setLine_keep
    | with_reducible apply State.touch_keep
    | with_reducible apply writeBack_keep
    | (extract_lets +onlyGivenNames x
       first
         | (refine (fun (hx : Keep sB x) => ?_) ?_; clear_value x; rotate_left; subst x)
         | (have := fun a => x a; clear this; subst x)
         | clear_value x
         | subst x)
    | split
    | (with_reducible apply Keep.ofMk; with_reducible apply Keep.fold)

theorem lineRead_keep {sB : State} {s : State} {a : Nat} {n : Nat}
    (hs : Keep sB s) : KeepMem sB (lineRead s a n) := by
  unfold lineRead
  repeat' first
    | with_reducible assumption
    | with_reducible apply countBad_keep
    | with_reducible apply chanRead_keep
    | with_reducible apply chanRead_keep_st
    | with_reducible apply State.touch_keep
    | with_reducible apply allocLine_keep
    | (extract_lets +onlyGivenNames x
       first
         | (refine (fun (hx : Keep sB x) => ?_) ?_; clear_value x; rotate_left; subst x)
         | (refine (fun (hx : KeepMem sB x) => ?_) ?_; clear_value x; have hx2 := KeepMem.proj hx; rotate_left; subst x)
         | (have := fun a => x a; clear this; subst x)
         | clear_value x
         | subst x)
    | with_reducible apply Keep.ite
    | with_reducible apply KeepMem.ite
    | split
    | with_reducible apply KeepMem.mk
    | (with_reducible apply Keep.ofMk; with_reducible apply Keep.fold)


theorem lineRead_keep_st {sB : State} {s : State} {a : Nat} {n : Nat}
    (hs : Keep sB s) : Keep sB (lineRead s a n).st :=
  lineRead_keep hs
theorem lineWrite_keep {sB : State} {s : State} {a : Nat} {d : List Byte}
    (hs : Keep sB s) : KeepMem sB (lineWrite s a d) := by
  unfold lineWrite
  repeat' first
    | with_reducible assumption
    | with_reducible apply countBad_keep
    | with_reducible apply chanWrite_keep
    | with_reducible apply chanWrite_keep_st
    | with_reducible apply State.setLine_keep
    | with_reducible apply State.touch_keep
    | with_reducible apply allocLine_keep
    | (extract_lets +onlyGivenNames x
       first
         | (refine (fun (hx : Keep sB x) => ?_) ?_; clear_value x; rotate_left; subst x)
         | (refine (fun (hx : KeepMem sB x) => ?_) ?_; clear_value x; have hx2 := KeepMem.proj hx; rotate_left; subst x)
         | (have := fun a => x a; clear this; subst x)
         | clear_value x
         | subst x)
    | with_reducible apply Keep.ite
    | with_reducible apply KeepMem.ite
    | split
    | with_reducible apply KeepMem.mk
    | (with_reducible apply Keep.ofMk; with_reducible apply Keep.fold)


theorem lineWrite_keep_st {sB : State} {s : State} {a : Nat} {d : List Byte}
    (hs : Keep sB s) : Keep sB (lineWrite s a d).st :=
  lineWrite_keep hs
theorem countAccess_keep {sB : State} {s : State} {g : Nat}
    (hs : Keep sB s) : Keep sB (countAccess s g) := by
  unfold countAccess
  repeat' first
    | with_reducible assumption
    | with_reducible apply State.bump_keep
    | (extract_lets +onlyGivenNames x
       first
         | (refine (fun (hx : Keep sB x) => ?_) ?_; clear_value x; rotate_left; subst x)
         | (have := fun a => x a; clear this; subst x)
         | clear_value x
         | subst x)
    | split
    | (with_reducible apply Keep.ofMk; with_reducible apply Keep.fold)

theorem serveWaiting_keep {sB : State} {s : State} {sl : Nat} {ws : List Access}
    (hs : Keep sB s) : Keep sB (serveWaiting s sl ws) := by
  induction ws generalizing s sl with
  | nil  =>
    first | rw [serveWaiting] | unfold serveWaiting
    repeat' first
      | with_reducible assumption
      | with_reducible apply lineRead_keep
      | with_reducible apply lineRead_keep_st
      | with_reducible apply lineWrite_keep
      | with_reducible apply lineWrite_keep_st
      | (extract_lets +onlyGivenNames x
         first
           | (refine (fun (hx : Keep sB x) => ?_) ?_; clear_value x; rotate_left; subst x)
           | (refine (fun (hx : KeepMem sB x) => ?_) ?_; clear_value x; have hx2 := KeepMem.proj hx; rotate_left; subst x)
           | (have := fun a => x a; clear this; subst x)
           | clear_value x
           | subst x)
      | with_reducible apply Keep.ite
      | with_reducible apply KeepMem.ite
      | split
      | with_reducible apply KeepMem.mk
      | (with_reducible apply Keep.ofMk; with_reducible apply Keep.fold)
  | cons y r ih =>
    first | rw [serveWaiting] | unfold serveWaiting
    repeat' first
      | with_reducible assumption
      | with_reducible apply ih
      | with_reducible apply lineRead_keep
      | with_reducible apply lineRead_keep_st
      | with_reducible apply lineWrite_keep
      | with_reducible apply lineWrite_keep_st
      | (extract_lets +onlyGivenNames x
         first
           | (refine (fun (hx : Keep sB x) => ?_) ?_; clear_value x; rotate_left; subst x)
           | (refine (fun (hx : KeepMem sB x) => ?_) ?_; clear_value x; have hx2 := KeepMem.proj hx; rotate_left; subst x)
           | (have := fun a => x a; clear this; subst x)
           | clear_value x
           | subst x)
      | with_reducible apply Keep.ite
      | with_reducible apply KeepMem.ite
      | split
      | with_reducible apply KeepMem.mk
      | (with_reducible apply Keep.ofMk; with_reducible apply Keep.fold)

theorem serveBad_keep {sB : State} {s : State} {sl : Nat} {ws : List Access}
    (hs : Keep sB s) : Keep sB (serveBad s sl ws) := by
  induction ws generalizing s sl with
  | nil  =>
    first | rw [serveBad] | unfold serveBad
    repeat' first
      | with_reducible assumption
      | with_reducible apply chanWrite_keep
      | with_reducible apply chanWrite_keep_st
      | (extract_lets +onlyGivenNames x
         first
           | (refine (fun (hx : Keep sB x) => ?_) ?_; clear_value x; rotate_left; subst x)
           | (refine (fun (hx : KeepMem sB x) => ?_) ?_; clear_value x; have hx2 := KeepMem.proj hx; rotate_left; subst x)
           | (have := fun a => x a; clear this; subst x)
           | clear_value x
           | subst x)
      | with_reducible apply Keep.ite
      | with_reducible apply KeepMem.ite
      | split
      | with_reducible apply KeepMem.mk
      | (with_reducible apply Keep.ofMk; with_reducible apply Keep.fold)
  | cons y r ih =>
    first | rw [serveBad] | unfold serveBad
    repeat' first
      | with_reducible assumption
      | with_reducible apply ih
      | with_reducible apply chanWrite_keep
      | with_reducible apply chanWrite_keep_st
      | (extract_lets +onlyGivenNames x
         first
           | (refine (fun (hx : Keep sB x) => ?_) ?_; clear_value x; rotate_left; subst x)
           | (refine (fun (hx : KeepMem sB x) => ?_) ?_; clear_value x; have hx2 := KeepMem.proj hx; rotate_left; subst x)
           | (have := fun a => x a; clear this; subst x)
           | clear_value x
           | subst x)
      | with_reducible apply Keep.ite
      | with_reducible apply KeepMem.ite
      | split
      | with_reducible apply KeepMem.mk
      | (with_reducible apply Keep.ofMk; with_reducible apply Keep.fold)

theorem endMiss_keep {sB : State} {s : State} {g : Nat}
    (hs : Keep sB s) : Keep sB (endMiss s g) := by
  unfold endMiss
  repeat' first
    | with_reducible assumption
    | intro _
    | with_reducible apply countBad_keep
    | with_reducible apply serveWaiting_keep
    | with_reducible apply serveBad_keep
    | (extract_lets +onlyGivenNames x
       first
         | (refine (fun (hx : Keep sB x) => ?_) ?_; clear_value x; rotate_left; subst x)
         | (have := fun a => x a; clear this; subst x)
         | clear_value x
         | subst x)
    | with_reducible apply Keep.ite
    | split
    | (with_reducible apply Keep.ofMk; with_reducible apply Keep.fold)

theorem homeRead_keep {sB : State} {s : State} {a : Nat} {n : Nat}
    (hs : Keep sB s) : KeepMem sB (homeRead s a n) := by
  unfold homeRead
  repeat' first
    | with_reducible assumption
    | with_reducible apply lineRead_keep
    | with_reducible apply lineRead_keep_st
    | with_reducible apply countAccess_keep
    | with_reducible apply endMiss_keep
    | with_reducible apply KeepMem.mk


theorem homeRead_keep_st {sB : State} {s : State} {a : Nat} {n : Nat}
    (hs : Keep sB s) : Keep sB (homeRead s a n).st :=
  homeRead_keep hs
theorem homeWrite_keep {sB : State} {s : State} {a : Nat} {d : List Byte}
    (hs : Keep sB s) : KeepMem sB (homeWrite s a d) := by
  unfold homeWrite
  repeat' first
    | with_reducible assumption
    | with_reducible apply lineWrite_keep
    | with_reducible apply lineWrite_keep_st
    | with_reducible apply countAccess_keep
    | with_reducible apply endMiss_keep
    | with_reducible apply KeepMem.mk


theorem homeWrite_keep_st {sB : State} {s : State} {a : Nat} {d : List Byte}
    (hs : Keep sB s) : Keep sB (homeWrite s a d).st :=
  homeWrite_keep hs
theorem healSpad_keep {sB : State} {s : State} {a : Nat} {n : Nat}
    (hs : Keep sB s) : Keep sB (healSpad s a n) := by
  unfold healSpad
  repeat' first
    | with_reducible assumption
    | intro _
    | with_reducible apply Keep.foldl
    | (extract_lets +onlyGivenNames x
       first
         | (refine (fun (hx : Keep sB x) => ?_) ?_; clear_value x; rotate_left; subst x)
         | (have := fun a => x a; clear this; subst x)
         | clear_value x
         | subst x)
    | with_reducible apply Keep.ite
    | split
    | (with_reducible apply Keep.ofMk; with_reducible apply Keep.fold)

theorem readPiece_keep {sB : State} {s : State} {a : Nat} {n : Nat}
    (hs : Keep sB s) : KeepMem sB (readPiece s a n) := by
  unfold readPiece
  repeat' first
    | with_reducible assumption
    | with_reducible apply homeRead_keep
    | with_reducible apply homeRead_keep_st
    | (extract_lets +onlyGivenNames x
       first
         | (refine (fun (hx : Keep sB x) => ?_) ?_; clear_value x; rotate_left; subst x)
         | (refine (fun (hx : KeepMem sB x) => ?_) ?_; clear_value x; have hx2 := KeepMem.proj hx; rotate_left; subst x)
         | (have := fun a => x a; clear this; subst x)
         | clear_value x
         | subst x)
    | with_reducible apply Keep.ite
    | with_reducible apply KeepMem.ite
    | split
    | with_reducible apply KeepMem.mk
    | (with_reducible apply Keep.ofMk; with_reducible apply Keep.fold)


theorem readPiece_keep_st {sB : State} {s : State} {a : Nat} {n : Nat}
    (hs : Keep sB s) : Keep sB (readPiece s a n).st :=
  readPiece_keep hs
theorem writePiece_keep {sB : State} {s : State} {a : Nat} {d : List Byte}
    (hs : Keep sB s) : KeepMem sB (writePiece s a d) := by
  unfold writePiece
  repeat' first
    | with_reducible assumption
    | with_reducible apply State.setBytes_keep
    | with_reducible apply setSpad_keep
    | with_reducible apply homeWrite_keep
    | with_reducible apply homeWrite_keep_st
    | with_reducible apply healSpad_keep
    | (extract_lets +onlyGivenNames x
       first
         | (refine (fun (hx : Keep sB x) => ?_) ?_; clear_value x; rotate_left; subst x)
         | (refine (fun (hx : KeepMem sB x) => ?_) ?_; clear_value x; have hx2 := KeepMem.proj hx; rotate_left; subst x)
         | (have := fun a => x a; clear this; subst x)
         | clear_value x
         | subst x)
    | with_reducible apply Keep.ite
    | with_reducible apply KeepMem.ite
    | split
    | with_reducible apply KeepMem.mk
    | (with_reducible apply Keep.ofMk; with_reducible apply Keep.fold)


theorem writePiece_keep_st {sB : State} {s : State} {a : Nat} {d : List Byte}
    (hs : Keep sB s) : Keep sB (writePiece s a d).st :=
  writePiece_keep hs
theorem devReadGo_keep {sB : State} {s : State} {a : Nat} {n : Nat} {acc : List Byte} {fuel : Nat}
    (hs : Keep sB s) : KeepMem sB (devReadGo s a n acc fuel) := by
  induction fuel generalizing s a n acc with
  | zero  =>
    first | rw [devReadGo] | unfold devReadGo
    repeat' first
      | with_reducible assumption
      | with_reducible apply readPiece_keep
      | with_reducible apply readPiece_keep_st
      | (extract_lets +onlyGivenNames x
         first
           | (refine (fun (hx : Keep sB x) => ?_) ?_; clear_value x; rotate_left; subst x)
           | (refine (fun (hx : KeepMem sB x) => ?_) ?_; clear_value x; have hx2 := KeepMem.proj hx; rotate_left; subst x)
           | (have := fun a => x a; clear this; subst x)
           | clear_value x
           | subst x)
      | with_reducible apply Keep.ite
      | with_reducible apply KeepMem.ite
      | split
      | with_reducible apply KeepMem.mk
      | (with_reducible apply Keep.ofMk; with_reducible apply Keep.fold)
  | succ n ih =>
    first | rw [devReadGo] | unfold devReadGo
    repeat' first
      | with_reducible assumption
      | with_reducible apply ih
      | with_reducible apply readPiece_keep
      | with_reducible apply readPiece_keep_st
      | (extract_lets +onlyGivenNames x
         first
           | (refine (fun (hx : Keep sB x) => ?_) ?_; clear_value x; rotate_left; subst x)
           | (refine (fun (hx : KeepMem sB x) => ?_) ?_; clear_value x; have hx2 := KeepMem.proj hx; rotate_left; subst x)
           | (have := fun a => x a; clear this; subst x)
           | clear_value x
           | subst x)
      | with_reducible apply Keep.ite
      | with_reducible apply KeepMem.ite
      | split
      | with_reducible apply KeepMem.mk
      | (with_reducible apply Keep.ofMk; with_reducible apply Keep.fold)


theorem devReadGo_keep_st {sB : State} {s : State} {a : Nat} {n : Nat} {acc : List Byte} {fuel : Nat}
    (hs : Keep sB s) : Keep sB (devReadGo s a n acc fuel).st :=
  devReadGo_keep hs
theorem devRead_keep {sB : State} {s : State} {a : Nat} {n : Nat}
    (hs : Keep sB s) : KeepMem sB (devRead s a n) := by
  unfold devRead
  repeat' first
    | with_reducible assumption
    | with_reducible apply devReadGo_keep
    | with_reducible apply devReadGo_keep_st
    | with_reducible apply KeepMem.mk


theorem devRead_keep_st {sB : State} {s : State} {a : Nat} {n : Nat}
    (hs : Keep sB s) : Keep sB (devRead s a n).st :=
  devRead_keep hs
theorem devWriteGo_keep {sB : State} {s : State} {a : Nat} {d : List Byte} {fuel : Nat}
    (hs : Keep sB s) : KeepMem sB (devWriteGo s a d fuel) := by
  induction fuel generalizing s a d with
  | zero  =>
    first | rw [devWriteGo] | unfold devWriteGo
    repeat' first
      | with_reducible assumption
      | with_reducible apply writePiece_keep
      | with_reducible apply writePiece_keep_st
      | (extract_lets +onlyGivenNames x
         first
           | (refine (fun (hx : Keep sB x) => ?_) ?_; clear_value x; rotate_left; subst x)
           | (refine (fun (hx : KeepMem sB x) => ?_) ?_; clear_value x; have hx2 := KeepMem.proj hx; rotate_left; subst x)
           | (have := fun a => x a; clear this; subst x)
           | clear_value x
           | subst x)
      | with_reducible apply Keep.ite
      | with_reducible apply KeepMem.ite
      | split
      | with_reducible apply KeepMem.mk
      | (with_reducible apply Keep.ofMk; with_reducible apply Keep.fold)
  | succ n ih =>
    first | rw [devWriteGo] | unfold devWriteGo
    repeat' first
      | with_reducible assumption
      | with_reducible apply ih
      | with_reducible apply writePiece_keep
      | with_reducible apply writePiece_keep_st
      | (extract_lets +onlyGivenNames x
         first
           | (refine (fun (hx : Keep sB x) => ?_) ?_; clear_value x; rotate_left; subst x)
           | (refine (fun (hx : KeepMem sB x) => ?_) ?_; clear_value x; have hx2 := KeepMem.proj hx; rotate_left; subst x)
           | (have := fun a => x a; clear this; subst x)
           | clear_value x
           | subst x)
      | with_reducible apply Keep.ite
      | with_reducible apply KeepMem.ite
      | split
      | with_reducible apply KeepMem.mk
      | (with_reducible apply Keep.ofMk; with_reducible apply Keep.fold)


theorem devWriteGo_keep_st {sB : State} {s : State} {a : Nat} {d : List Byte} {fuel : Nat}
    (hs : Keep sB s) : Keep sB (devWriteGo s a d fuel).st :=
  devWriteGo_keep hs
theorem devWrite_keep {sB : State} {s : State} {a : Nat} {d : List Byte}
    (hs : Keep sB s) : KeepMem sB (devWrite s a d) := by
  unfold devWrite
  repeat' first
    | with_reducible assumption
    | with_reducible apply devWriteGo_keep
    | with_reducible apply devWriteGo_keep_st
    | with_reducible apply KeepMem.mk


theorem devWrite_keep_st {sB : State} {s : State} {a : Nat} {d : List Byte}
    (hs : Keep sB s) : Keep sB (devWrite s a d).st :=
  devWrite_keep hs
theorem State.setFm_keep {sB : State} {s : State} {f : Nat} {o : Nat} {d : List Byte}
    (hs : Keep sB s) : Keep sB (State.setFm s f o d) := by
  unfold State.setFm
  repeat' first
    | with_reducible assumption
    | with_reducible apply State.setBytes_keep

theorem State.setPort_keep {sB : State} {s : State} {p : Nat} {x : PortSt}
    (hs : Keep sB s) : Keep sB (State.setPort s p x) := by
  unfold State.setPort
  repeat' first
    | with_reducible assumption
    | (extract_lets +onlyGivenNames x
       first
         | (refine (fun (hx : Keep sB x) => ?_) ?_; clear_value x; rotate_left; subst x)
         | (have := fun a => x a; clear this; subst x)
         | clear_value x
         | subst x)
    | (with_reducible apply Keep.ofMk; with_reducible apply Keep.fold)

theorem pumpVc_keep {sB : State} {s : State} {p : Nat} {vc : Nat} {fuel : Nat}
    (hs : Keep sB s) : Keep sB (pumpVc s p vc fuel) := by
  induction fuel generalizing s p vc with
  | zero  =>
    first | rw [pumpVc] | unfold pumpVc
    repeat' first
      | with_reducible assumption
      | with_reducible apply State.setPort_keep
      | (extract_lets +onlyGivenNames x
         first
           | (refine (fun (hx : Keep sB x) => ?_) ?_; clear_value x; rotate_left; subst x)
           | (have := fun a => x a; clear this; subst x)
           | clear_value x
           | subst x)
      | with_reducible apply Keep.ite
      | split
      | (with_reducible apply Keep.ofMk; with_reducible apply Keep.fold)
  | succ n ih =>
    first | rw [pumpVc] | unfold pumpVc
    repeat' first
      | with_reducible assumption
      | with_reducible apply ih
      | with_reducible apply State.setPort_keep
      | (extract_lets +onlyGivenNames x
         first
           | (refine (fun (hx : Keep sB x) => ?_) ?_; clear_value x; rotate_left; subst x)
           | (have := fun a => x a; clear this; subst x)
           | clear_value x
           | subst x)
      | with_reducible apply Keep.ite
      | split
      | (with_reducible apply Keep.ofMk; with_reducible apply Keep.fold)

theorem pump_keep {sB : State} {s : State} {p : Nat}
    (hs : Keep sB s) : Keep sB (pump s p) := by
  unfold pump
  repeat' first
    | with_reducible assumption
    | intro _
    | with_reducible apply pumpVc_keep
    | with_reducible apply Keep.foldl
    | split

theorem putRecord_keep {sB : State} {s : State} {p : Nat} {vc : Nat} {r : Record}
    (hs : Keep sB s) : Keep sB (putRecord s p vc r) := by
  unfold putRecord
  repeat' first
    | with_reducible assumption
    | with_reducible apply State.setPort_keep
    | with_reducible apply pump_keep
    | (extract_lets +onlyGivenNames x
       first
         | (refine (fun (hx : Keep sB x) => ?_) ?_; clear_value x; rotate_left; subst x)
         | (have := fun a => x a; clear this; subst x)
         | clear_value x
         | subst x)
    | split
    | (with_reducible apply Keep.ofMk; with_reducible apply Keep.fold)

theorem forward_keep {sB : State} {s : State} {r : Record}
    (hs : Keep sB s) : KeepO sB (forward s r) := by
  unfold forward
  repeat' first
    | with_reducible assumption
    | with_reducible apply KeepO.map
    | with_reducible apply KeepO.getD
    | with_reducible apply putRecord_keep
    | with_reducible apply KeepO.some
    | with_reducible apply KeepO.none
    | (extract_lets +onlyGivenNames x
       first
         | (refine (fun (hx : Keep sB x) => ?_) ?_; clear_value x; rotate_left; subst x)
         | (refine (fun (hx : KeepO sB x) => ?_) ?_; clear_value x; rotate_left; subst x)
         | (have := fun a => x a; clear this; subst x)
         | clear_value x
         | subst x)
    | with_reducible apply Keep.ite
    | with_reducible apply KeepO.ite
    | split
    | (with_reducible apply KeepO.of_some; with_reducible assumption)
    | (with_reducible apply KeepO.un_some; with_reducible assumption)
    | (with_reducible apply Keep.ofMk; with_reducible apply Keep.fold)

theorem sendReq_keep {sB : State} {s : State} {r : Record} {who : Origin}
    (hs : Keep sB s) : KeepSend sB (sendReq s r who) := by
  unfold sendReq
  repeat' first
    | with_reducible assumption
    | with_reducible apply KeepO.map
    | with_reducible apply KeepO.getD
    | with_reducible apply State.setPort_keep
    | with_reducible apply forward_keep
    | with_reducible apply KeepO.some
    | with_reducible apply KeepO.none
    | with_reducible apply KeepSend.sent
    | with_reducible apply KeepSend.refused
    | (extract_lets +onlyGivenNames x
       first
         | (refine (fun (hx : Keep sB x) => ?_) ?_; clear_value x; rotate_left; subst x)
         | (refine (fun (hx : KeepO sB x) => ?_) ?_; clear_value x; rotate_left; subst x)
         | (refine (fun (hx : KeepSend sB x) => ?_) ?_; clear_value x; rotate_left; subst x)
         | (have := fun a => x a; clear this; subst x)
         | clear_value x
         | subst x)
    | with_reducible apply Keep.ite
    | with_reducible apply KeepO.ite
    | with_reducible apply KeepSend.ite
    | split
    | (with_reducible apply KeepO.of_some; with_reducible assumption)
    | (with_reducible apply KeepO.un_some; with_reducible assumption)
    | (with_reducible apply KeepSend.of_sent; with_reducible assumption)
    | (with_reducible apply KeepSend.un_sent; with_reducible assumption)
    | (with_reducible apply Keep.ofMk; with_reducible apply Keep.fold)

theorem sendResp_keep {sB : State} {s : State} {r : Record}
    (hs : Keep sB s) : Keep sB (sendResp s r) := by
  unfold sendResp
  repeat' first
    | with_reducible assumption
    | with_reducible apply KeepO.map
    | with_reducible apply KeepO.getD
    | with_reducible apply forward_keep
    | with_reducible apply KeepO.some
    | with_reducible apply KeepO.none
    | (extract_lets +onlyGivenNames x
       first
         | (refine (fun (hx : Keep sB x) => ?_) ?_; clear_value x; rotate_left; subst x)
         | (refine (fun (hx : KeepO sB x) => ?_) ?_; clear_value x; rotate_left; subst x)
         | (have := fun a => x a; clear this; subst x)
         | clear_value x
         | subst x)
    | split
    | (with_reducible apply KeepO.of_some; with_reducible assumption)
    | (with_reducible apply KeepO.un_some; with_reducible assumption)
    | (with_reducible apply Keep.ofMk; with_reducible apply Keep.fold)

theorem noteReject_keep {sB : State} {s : State} {cause : Nat} {typ : Nat} {port : Nat} {mod : Nat}
    (hs : Keep sB s) : Keep sB (noteReject s cause typ port mod) := by
  unfold noteReject
  repeat' first
    | with_reducible assumption
    | with_reducible apply State.put_keep
    | with_reducible apply State.logErr_keep
    | (extract_lets +onlyGivenNames x
       first
         | (refine (fun (hx : Keep sB x) => ?_) ?_; clear_value x; rotate_left; subst x)
         | (have := fun a => x a; clear this; subst x)
         | clear_value x
         | subst x)
    | with_reducible apply Keep.ite
    | split

theorem sendNoted_keep {sB : State} {s : State} {r : Record} {who : Origin}
    (hs : Keep sB s) : Keep1 sB (sendNoted s r who) := by
  unfold sendNoted
  repeat' first
    | with_reducible assumption
    | intro _
    | with_reducible apply sendReq_keep
    | with_reducible apply noteReject_keep
    | with_reducible apply KeepSend.sent
    | with_reducible apply KeepSend.refused
    | (extract_lets +onlyGivenNames x
       first
         | (refine (fun (hx : Keep sB x) => ?_) ?_; clear_value x; rotate_left; subst x)
         | (refine (fun (hx : Keep1 sB x) => ?_) ?_; clear_value x; have hx2 := Keep1.proj hx; rotate_left; subst x)
         | (refine (fun (hx : KeepSend sB x) => ?_) ?_; clear_value x; rotate_left; subst x)
         | (have := fun a => x a; clear this; subst x)
         | clear_value x
         | subst x)
    | split
    | (with_reducible apply Keep1.elim; with_reducible assumption)
    | (with_reducible apply Keep1.elimM; with_reducible assumption)
    | (with_reducible apply KeepSend.of_sent; with_reducible assumption)
    | (with_reducible apply KeepSend.un_sent; with_reducible assumption)
    | with_reducible apply Keep1.mk
    | (with_reducible apply Keep.ofMk; with_reducible apply Keep.fold)


theorem sendNoted_keep_st {sB : State} {s : State} {r : Record} {who : Origin}
    (hs : Keep sB s) : Keep sB (sendNoted s r who).1 :=
  sendNoted_keep hs
theorem mcastOut_keep {sB : State} {s : State} {g : Nat} {r : Record}
    (hs : Keep sB s) : Keep sB (mcastOut s g r) := by
  unfold mcastOut
  repeat' first
    | with_reducible assumption
    | intro _
    | with_reducible apply putRecord_keep
    | with_reducible apply Keep.foldl
    | split

theorem sendReplies_keep {sB : State} {s : State} {p : Nat}
    (hs : Keep sB s) : Keep sB (sendReplies s p) := by
  unfold sendReplies
  repeat' first
    | with_reducible assumption
    | intro _
    | with_reducible apply State.setPort_keep
    | with_reducible apply sendResp_keep
    | with_reducible apply Keep.foldl
    | (extract_lets +onlyGivenNames x
       first
         | (refine (fun (hx : Keep sB x) => ?_) ?_; clear_value x; rotate_left; subst x)
         | (have := fun a => x a; clear this; subst x)
         | clear_value x
         | subst x)
    | split
    | (with_reducible apply Keep.ofMk; with_reducible apply Keep.fold)

theorem openReq_keep {sB : State} {s : State} {p : Nat} {r : Record} {due : Nat}
    (hs : Keep sB s) : Keep sB (openReq s p r due) := by
  unfold openReq
  repeat' first
    | with_reducible assumption
    | with_reducible apply State.setPort_keep
    | (extract_lets +onlyGivenNames x
       first
         | (refine (fun (hx : Keep sB x) => ?_) ?_; clear_value x; rotate_left; subst x)
         | (have := fun a => x a; clear this; subst x)
         | clear_value x
         | subst x)
    | (with_reducible apply Keep.ofMk; with_reducible apply Keep.fold)

theorem answerNow_keep {sB : State} {s : State} {p : Nat} {r : Record} {a : Record}
    (hs : Keep sB s) : Keep sB (answerNow s p r a) := by
  unfold answerNow
  repeat' first
    | with_reducible assumption
    | with_reducible apply State.setPort_keep
    | with_reducible apply sendReplies_keep
    | (extract_lets +onlyGivenNames x
       first
         | (refine (fun (hx : Keep sB x) => ?_) ?_; clear_value x; rotate_left; subst x)
         | (have := fun a => x a; clear this; subst x)
         | clear_value x
         | subst x)
    | (with_reducible apply Keep.ofMk; with_reducible apply Keep.fold)

theorem replyTo_keep {sB : State} {s : State} {p : Nat} {q : Record → Bool} {a : Record}
    (hs : Keep sB s) : Keep sB (replyTo s p q a) := by
  unfold replyTo
  repeat' first
    | with_reducible assumption
    | intro _
    | with_reducible apply State.setPort_keep
    | with_reducible apply sendReplies_keep
    | (extract_lets +onlyGivenNames x
       first
         | (refine (fun (hx : Keep sB x) => ?_) ?_; clear_value x; rotate_left; subst x)
         | (have := fun a => x a; clear this; subst x)
         | clear_value x
         | subst x)
    | split
    | (with_reducible apply Keep.ofMk; with_reducible apply Keep.fold)

theorem partDone_keep {sB : State} {s : State} {p : Nat} {r : Record} {addr : Nat} {d : List Byte} {err : Option Nat}
    (hs : Keep sB s) : Keep sB (partDone s p r addr d err) := by
  unfold partDone
  repeat' first
    | with_reducible assumption
    | intro _
    | with_reducible apply State.setPort_keep
    | with_reducible apply sendReplies_keep
    | (extract_lets +onlyGivenNames x
       first
         | (refine (fun (hx : Keep sB x) => ?_) ?_; clear_value x; rotate_left; subst x)
         | (have := fun a => x a; clear this; subst x)
         | clear_value x
         | subst x)
    | split
    | (with_reducible apply Keep.ofMk; with_reducible apply Keep.fold)

theorem setRx_keep {sB : State} {s : State} {p : Nat} {vc : Nat} {old : List Byte} {new : List Byte}
    (hs : Keep sB s) : Keep sB (setRx s p vc old new) := by
  unfold setRx
  repeat' first
    | with_reducible assumption
    | with_reducible apply State.setPort_keep
    | (extract_lets +onlyGivenNames x
       first
         | (refine (fun (hx : Keep sB x) => ?_) ?_; clear_value x; rotate_left; subst x)
         | (have := fun a => x a; clear this; subst x)
         | clear_value x
         | subst x)
    | split
    | (with_reducible apply Keep.ofMk; with_reducible apply Keep.fold)

theorem malformed_keep {sB : State} {s : State} {p : Nat} {r : Record}
    (hs : Keep sB s) : Keep sB (malformed s p r) := by
  unfold malformed
  repeat' first
    | with_reducible assumption
    | with_reducible apply State.bump_keep
    | with_reducible apply answerNow_keep
    | (extract_lets +onlyGivenNames x
       first
         | (refine (fun (hx : Keep sB x) => ?_) ?_; clear_value x; rotate_left; subst x)
         | (have := fun a => x a; clear this; subst x)
         | clear_value x
         | subst x)
    | with_reducible apply Keep.ite
    | split

theorem purgeGo_keep {sB : State} {s : State} {p : Nat} {vc : Nat} {st : List Byte} {fuel : Nat}
    (hs : Keep sB s) : Keep1 sB (purgeGo s p vc st fuel) := by
  induction fuel generalizing s p vc st with
  | zero  =>
    first | rw [purgeGo] | unfold purgeGo
    repeat' first
      | with_reducible assumption
      | with_reducible apply State.bump_keep
      | with_reducible apply answerNow_keep
      | (extract_lets +onlyGivenNames x
         first
           | (refine (fun (hx : Keep sB x) => ?_) ?_; clear_value x; rotate_left; subst x)
           | (refine (fun (hx : Keep1 sB x) => ?_) ?_; clear_value x; have hx2 := Keep1.proj hx; rotate_left; subst x)
           | (have := fun a => x a; clear this; subst x)
           | clear_value x
           | subst x)
      | with_reducible apply Keep.ite
      | with_reducible apply Keep1.ite
      | split
      | (with_reducible apply Keep1.elim; with_reducible assumption)
      | (with_reducible apply Keep1.elimM; with_reducible assumption)
      | with_reducible apply Keep1.mk
      | (with_reducible apply Keep.ofMk; with_reducible apply Keep.fold)
  | succ n ih =>
    first | rw [purgeGo] | unfold purgeGo
    repeat' first
      | with_reducible assumption
      | with_reducible apply ih
      | with_reducible apply State.bump_keep
      | with_reducible apply answerNow_keep
      | (extract_lets +onlyGivenNames x
         first
           | (refine (fun (hx : Keep sB x) => ?_) ?_; clear_value x; rotate_left; subst x)
           | (refine (fun (hx : Keep1 sB x) => ?_) ?_; clear_value x; have hx2 := Keep1.proj hx; rotate_left; subst x)
           | (have := fun a => x a; clear this; subst x)
           | clear_value x
           | subst x)
      | with_reducible apply Keep.ite
      | with_reducible apply Keep1.ite
      | split
      | (with_reducible apply Keep1.elim; with_reducible assumption)
      | (with_reducible apply Keep1.elimM; with_reducible assumption)
      | with_reducible apply Keep1.mk
      | (with_reducible apply Keep.ofMk; with_reducible apply Keep.fold)


theorem purgeGo_keep_st {sB : State} {s : State} {p : Nat} {vc : Nat} {st : List Byte} {fuel : Nat}
    (hs : Keep sB s) : Keep sB (purgeGo s p vc st fuel).1 :=
  purgeGo_keep hs
theorem rxTake_keep {sB : State} {s : State} {p : Nat} {rb : List Byte}
    (hs : Keep sB s) : Keep sB (rxTake s p rb) := by
  unfold rxTake
  repeat' first
    | with_reducible assumption
    | with_reducible apply setRx_keep
    | with_reducible apply purgeGo_keep
    | with_reducible apply purgeGo_keep_st
    | (extract_lets +onlyGivenNames x
       first
         | (refine (fun (hx : Keep sB x) => ?_) ?_; clear_value x; rotate_left; subst x)
         | (refine (fun (hx : Keep1 sB x) => ?_) ?_; clear_value x; have hx2 := Keep1.proj hx; rotate_left; subst x)
         | (have := fun a => x a; clear this; subst x)
         | clear_value x
         | subst x)
    | split
    | (with_reducible apply Keep1.elim; with_reducible assumption)
    | (with_reducible apply Keep1.elimM; with_reducible assumption)
    | with_reducible apply Keep1.mk
    | (with_reducible apply Keep.ofMk; with_reducible apply Keep.fold)

theorem rxConsume_keep {sB : State} {s : State} {p : Nat} {r : Record}
    (hs : Keep sB s) : Keep sB (rxConsume s p r) := by
  unfold rxConsume
  repeat' first
    | with_reducible assumption
    | with_reducible apply rxTake_keep

end Sys2Proof.Machine
end

