-- ==== Sys2Proof/Laws/KeepErr.lean ====
section
/-! SUPPORT. Errors, aborts, the module stop and the event controller keep the relation. -/
namespace Sys2Proof.Machine

theorem viaCtl_keep {sB : State} {s : State} {by_ : Agent} {f : Nat} {off : Nat} {v : Nat} {op : Host.Outcome State Fault Refusal}
    (hs : Keep sB s) (hop : KeepN sB op) : KeepN sB (viaCtl s by_ f off v op) := by
  unfold viaCtl
  repeat' first
    | with_reducible assumption
    | with_reducible apply KeepN.next
    | with_reducible apply KeepN.fault
    | with_reducible apply KeepN.refused
    | (extract_lets +onlyGivenNames x
       first
         | (refine (fun (hx : Keep sB x) => ?_) ?_; clear_value x; rotate_left; subst x)
         | (refine (fun (hx : KeepN sB x) => ?_) ?_; clear_value x; rotate_left; subst x)
         | (have := fun a => x a; clear this; subst x)
         | clear_value x
         | subst x)
    | with_reducible apply Keep.ite
    | with_reducible apply KeepN.ite
    | split
    | (with_reducible apply KeepN.of_next; with_reducible assumption)
    | (with_reducible apply KeepN.un_next; with_reducible assumption)
    | (with_reducible apply Keep.ofMk; with_reducible apply Keep.fold)

theorem completeJob_keep {sB : State} {s : State} {status : Nat} {detail : Nat}
    (hs : Keep sB s) : Keep sB (completeJob s status detail) := by
  unfold completeJob
  repeat' first
    | with_reducible assumption
    | intro _
    | (extract_lets +onlyGivenNames x
       first
         | (refine (fun (hx : Keep sB x) => ?_) ?_; clear_value x; rotate_left; subst x)
         | (have := fun a => x a; clear this; subst x)
         | clear_value x
         | subst x)
    | with_reducible apply Keep.ite
    | split
    | (with_reducible apply Keep.ofMk; with_reducible apply Keep.fold)

theorem State.setSh_keep {sB : State} {s : State} {f : Nat} {j : Nat} {x : ShutSt}
    (hs : Keep sB s) : Keep sB (State.setSh s f j x) := by
  unfold State.setSh
  repeat' first
    | with_reducible assumption
    | (extract_lets +onlyGivenNames x
       first
         | (refine (fun (hx : Keep sB x) => ?_) ?_; clear_value x; rotate_left; subst x)
         | (have := fun a => x a; clear this; subst x)
         | clear_value x
         | subst x)
    | (with_reducible apply Keep.ofMk; with_reducible apply Keep.fold)

theorem syncBusy_keep {sB : State} {s : State} {f : Nat} {j : Nat}
    (hs : Keep sB s) : Keep sB (syncBusy s f j) := by
  unfold syncBusy
  repeat' first
    | with_reducible assumption
    | with_reducible apply State.put_keep

theorem doneAll_keep {sB : State} {s : State} {f : Nat} {q : Nat}
    (hs : Keep sB s) : Keep sB (doneAll s f q) := by
  unfold doneAll
  repeat' first
    | with_reducible assumption
    | with_reducible apply State.put_keep

theorem cancelQueue_keep {sB : State} {s : State} {f : Nat} {j : Nat}
    (hs : Keep sB s) : Keep sB (cancelQueue s f j) := by
  unfold cancelQueue
  repeat' first
    | with_reducible assumption
    | with_reducible apply State.put_keep
    | with_reducible apply State.setQueue_keep
    | with_reducible apply State.setInj_keep
    | with_reducible apply State.setSh_keep
    | with_reducible apply doneAll_keep
    | (extract_lets +onlyGivenNames x
       first
         | (refine (fun (hx : Keep sB x) => ?_) ?_; clear_value x; rotate_left; subst x)
         | (have := fun a => x a; clear this; subst x)
         | clear_value x
         | subst x)
    | with_reducible apply Keep.ite
    | split
    | (with_reducible apply Keep.ofMk; with_reducible apply Keep.fold)

theorem keepShFault_keep {sB : State} {s : State} {f : Nat} {j : Nat} {cause : Nat} {addr : Nat} {item : Nat}
    (hs : Keep sB s) : Keep sB (keepShFault s f j cause addr item) := by
  unfold keepShFault
  repeat' first
    | with_reducible assumption
    | with_reducible apply State.put_keep
    | with_reducible apply Keep.ite
    | split

theorem putStream_keep {sB : State} {s : State} {p : Nat} {vc : Nat} {bs : List Byte}
    (hs : Keep sB s) : Keep sB (putStream s p vc bs) := by
  unfold putStream
  repeat' first
    | with_reducible assumption
    | with_reducible apply State.setPort_keep
    | with_reducible apply pump_keep
    | (extract_lets +onlyGivenNames x
       first
         | (refine (fun (hx : Keep sB x) => ?_) ?_; clear_value x; rotate_left; subst x)
         | (have := fun a => x a; clear this; subst x)
         | clear_value x
         | subst x)
    | split
    | (with_reducible apply Keep.ofMk; with_reducible apply Keep.fold)

theorem emptyMember_keep {sB : State} {s : State} {z : Nat} {m : Nat}
    (hs : Keep sB s) : Keep sB (emptyMember s z m) := by
  unfold emptyMember
  repeat' first
    | with_reducible assumption
    | with_reducible apply State.setStage_keep
    | with_reducible apply State.setNotice_keep
    | with_reducible apply State.setRport_keep
    | (extract_lets +onlyGivenNames x
       first
         | (refine (fun (hx : Keep sB x) => ?_) ?_; clear_value x; rotate_left; subst x)
         | (have := fun a => x a; clear this; subst x)
         | clear_value x
         | subst x)
    | split
    | (with_reducible apply Keep.ofMk; with_reducible apply Keep.fold)

theorem resetSegment_keep {sB : State} {s : State} {z : Nat} {i : Nat}
    (hs : Keep sB s) : Keep sB (resetSegment s z i) := by
  unfold resetSegment
  repeat' first
    | with_reducible assumption
    | intro _
    | with_reducible apply State.setInj_keep
    | with_reducible apply putStream_keep
    | with_reducible apply emptyMember_keep
    | with_reducible apply Keep.foldl
    | (extract_lets +onlyGivenNames x
       first
         | (refine (fun (hx : Keep sB x) => ?_) ?_; clear_value x; rotate_left; subst x)
         | (have := fun a => x a; clear this; subst x)
         | clear_value x
         | subst x)
    | with_reducible apply Keep.ite
    | split
    | (with_reducible apply Keep.ofMk; with_reducible apply Keep.fold)

theorem haltCores_keep {sB : State} {s : State} {t : Nat}
    (hs : Keep sB s) : Keep sB (haltCores s t) := by
  unfold haltCores
  repeat' first
    | with_reducible assumption
    | intro _
    | with_reducible apply State.put_keep
    | with_reducible apply State.setCore_keep
    | with_reducible apply Keep.foldl
    | (extract_lets +onlyGivenNames x
       first
         | (refine (fun (hx : Keep sB x) => ?_) ?_; clear_value x; rotate_left; subst x)
         | (have := fun a => x a; clear this; subst x)
         | clear_value x
         | subst x)
    | with_reducible apply Keep.ite
    | split
    | (with_reducible apply Keep.ofMk; with_reducible apply Keep.fold)

theorem State.setSpin_keep {sB : State} {s : State} {f : Nat} {n : Nat} {x : SpinSt}
    (hs : Keep sB s) : Keep sB (State.setSpin s f n x) := by
  unfold State.setSpin
  repeat' first
    | with_reducible assumption
    | (extract_lets +onlyGivenNames x
       first
         | (refine (fun (hx : Keep sB x) => ?_) ?_; clear_value x; rotate_left; subst x)
         | (have := fun a => x a; clear this; subst x)
         | clear_value x
         | subst x)
    | (with_reducible apply Keep.ofMk; with_reducible apply Keep.fold)

theorem flushEngine_keep {sB : State} {s : State} {f : Nat} {q : Nat}
    (hs : Keep sB s) : Keep sB (flushEngine s f q) := by
  unfold flushEngine
  repeat' first
    | with_reducible assumption
    | with_reducible apply State.setQueue_keep
    | with_reducible apply doneAll_keep
    | with_reducible apply State.setSpin_keep
    | (extract_lets +onlyGivenNames x
       first
         | (refine (fun (hx : Keep sB x) => ?_) ?_; clear_value x; rotate_left; subst x)
         | (have := fun a => x a; clear this; subst x)
         | clear_value x
         | subst x)
    | with_reducible apply Keep.ite
    | split
    | (with_reducible apply Keep.ofMk; with_reducible apply Keep.fold)

theorem abortTask_keep {sB : State} {s : State} {t : Nat}
    (hs : Keep sB s) : Keep1 sB (abortTask s t) := by
  unfold abortTask
  repeat' first
    | with_reducible assumption
    | intro _
    | with_reducible apply cancelQueue_keep
    | with_reducible apply keepShFault_keep
    | with_reducible apply haltCores_keep
    | with_reducible apply flushEngine_keep
    | with_reducible apply Keep.foldl
    | with_reducible apply Keep1.foldl
    | with_reducible apply Keep1.foldl_st
    | (extract_lets +onlyGivenNames x
       first
         | (refine (fun (hx : Keep sB x) => ?_) ?_; clear_value x; rotate_left; subst x)
         | (refine (fun (hx : Keep1 sB x) => ?_) ?_; clear_value x; have hx2 := Keep1.proj hx; rotate_left; subst x)
         | (have := fun a => x a; clear this; subst x)
         | clear_value x
         | subst x)
    | with_reducible apply Keep.ite
    | with_reducible apply Keep1.ite
    | split
    | (with_reducible apply Keep1.elim; with_reducible assumption)
    | (with_reducible apply Keep1.elimM; with_reducible assumption)
    | with_reducible apply Keep1.mk


theorem abortTask_keep_st {sB : State} {s : State} {t : Nat}
    (hs : Keep sB s) : Keep sB (abortTask s t).1 :=
  abortTask_keep hs
theorem startAborts_keep {sB : State} {s : State} {ts : List Nat} {seq : Nat}
    (hs : Keep sB s) : Keep sB (startAborts s ts seq) := by
  unfold startAborts
  repeat' first
    | with_reducible assumption
    | intro _
    | with_reducible apply resetSegment_keep
    | with_reducible apply abortTask_keep
    | with_reducible apply abortTask_keep_st
    | with_reducible apply Keep.foldl
    | with_reducible apply Keep1.foldl
    | with_reducible apply Keep1.foldl_st
    | (extract_lets +onlyGivenNames x
       first
         | (refine (fun (hx : Keep sB x) => ?_) ?_; clear_value x; rotate_left; subst x)
         | (refine (fun (hx : Keep1 sB x) => ?_) ?_; clear_value x; have hx2 := Keep1.proj hx; rotate_left; subst x)
         | (have := fun a => x a; clear this; subst x)
         | clear_value x
         | subst x)
    | split
    | (with_reducible apply Keep1.elim; with_reducible assumption)
    | (with_reducible apply Keep1.elimM; with_reducible assumption)
    | with_reducible apply Keep1.mk
    | (with_reducible apply Keep.ofMk; with_reducible apply Keep.fold)

theorem State.taskErr_keep {sB : State} {s : State} {e : ErrInfo}
    (hs : Keep sB s) : Keep sB (State.taskErr s e) := by
  unfold State.taskErr
  repeat' first
    | with_reducible assumption
    | with_reducible apply State.logErr_keep
    | with_reducible apply startAborts_keep
    | (extract_lets +onlyGivenNames x
       first
         | (refine (fun (hx : Keep sB x) => ?_) ?_; clear_value x; rotate_left; subst x)
         | (have := fun a => x a; clear this; subst x)
         | clear_value x
         | subst x)
    | with_reducible apply Keep.ite
    | split
    | (with_reducible apply Keep.ofMk; with_reducible apply Keep.fold)

theorem abortJob_keep {sB : State} {s : State}
    (hs : Keep sB s) : Keep sB (abortJob s) := by
  unfold abortJob
  repeat' first
    | with_reducible assumption
    | with_reducible apply startAborts_keep

theorem refuseGlaze_keep {sB : State} {s : State} {word : Nat}
    (hs : Keep sB s) : Keep sB (refuseGlaze s word) := by
  unfold refuseGlaze
  repeat' first
    | with_reducible assumption
    | with_reducible apply State.put_keep
    | with_reducible apply State.logErr_keep
    | with_reducible apply abortJob_keep
    | (extract_lets +onlyGivenNames x
       first
         | (refine (fun (hx : Keep sB x) => ?_) ?_; clear_value x; rotate_left; subst x)
         | (have := fun a => x a; clear this; subst x)
         | clear_value x
         | subst x)
    | split
    | (with_reducible apply Keep.ofMk; with_reducible apply Keep.fold)

theorem kstatKnot_keep {sB : State} {s : State} {f : Nat} {k : Nat}
    (hs : Keep sB s) : Keep sB (kstatKnot s f k) := by
  unfold kstatKnot
  repeat' first
    | with_reducible assumption
    | with_reducible apply State.put_keep
    | with_reducible apply Keep.ite
    | split

theorem knotRaw_keep {sB : State} {s : State} {f : Nat} {k : Nat} {d : Int}
    (hs : Keep sB s) : Keep1 sB (knotRaw s f k d) := by
  unfold knotRaw
  repeat' first
    | with_reducible assumption
    | with_reducible apply State.put_keep
    | with_reducible apply kstatKnot_keep
    | (extract_lets +onlyGivenNames x
       first
         | (refine (fun (hx : Keep sB x) => ?_) ?_; clear_value x; rotate_left; subst x)
         | (refine (fun (hx : Keep1 sB x) => ?_) ?_; clear_value x; have hx2 := Keep1.proj hx; rotate_left; subst x)
         | (have := fun a => x a; clear this; subst x)
         | clear_value x
         | subst x)
    | with_reducible apply Keep.ite
    | with_reducible apply Keep1.ite
    | split
    | (with_reducible apply Keep1.elim; with_reducible assumption)
    | (with_reducible apply Keep1.elimM; with_reducible assumption)
    | with_reducible apply Keep1.mk


theorem knotRaw_keep_st {sB : State} {s : State} {f : Nat} {k : Nat} {d : Int}
    (hs : Keep sB s) : Keep sB (knotRaw s f k d).1 :=
  knotRaw_keep hs
theorem resetKnots_keep {sB : State} {s : State} {t : Nat}
    (hs : Keep sB s) : Keep sB (resetKnots s t) := by
  unfold resetKnots
  repeat' first
    | with_reducible assumption
    | intro _
    | with_reducible apply State.put_keep
    | with_reducible apply Keep.foldl
    | with_reducible apply Keep.ite
    | split

theorem signalRaw_keep {sB : State} {s : State} {m : Nat} {i : Nat}
    (hs : Keep sB s) : Keep1 sB (signalRaw s m i) := by
  unfold signalRaw
  repeat' first
    | with_reducible assumption
    | with_reducible apply sendReq_keep
    | with_reducible apply knotRaw_keep
    | with_reducible apply knotRaw_keep_st
    | with_reducible apply KeepSend.sent
    | with_reducible apply KeepSend.refused
    | (extract_lets +onlyGivenNames x
       first
         | (refine (fun (hx : Keep sB x) => ?_) ?_; clear_value x; rotate_left; subst x)
         | (refine (fun (hx : Keep1 sB x) => ?_) ?_; clear_value x; have hx2 := Keep1.proj hx; rotate_left; subst x)
         | (refine (fun (hx : KeepSend sB x) => ?_) ?_; clear_value x; rotate_left; subst x)
         | (have := fun a => x a; clear this; subst x)
         | clear_value x
         | subst x)
    | with_reducible apply Keep.ite
    | with_reducible apply Keep1.ite
    | with_reducible apply KeepSend.ite
    | split
    | (with_reducible apply Keep1.elim; with_reducible assumption)
    | (with_reducible apply Keep1.elimM; with_reducible assumption)
    | (with_reducible apply KeepSend.of_sent; with_reducible assumption)
    | (with_reducible apply KeepSend.un_sent; with_reducible assumption)
    | with_reducible apply Keep1.mk
    | (with_reducible apply Keep.ofMk; with_reducible apply Keep.fold)


theorem signalRaw_keep_st {sB : State} {s : State} {m : Nat} {i : Nat}
    (hs : Keep sB s) : Keep sB (signalRaw s m i).1 :=
  signalRaw_keep hs
theorem stepFail_keep {sB : State} {s : State}
    (hs : Keep sB s) : Keep sB (stepFail s) := by
  unfold stepFail
  repeat' first
    | with_reducible assumption
    | with_reducible apply State.put_keep
    | with_reducible apply State.logErr_keep
    | with_reducible apply signalRaw_keep
    | with_reducible apply signalRaw_keep_st
    | (extract_lets +onlyGivenNames x
       first
         | (refine (fun (hx : Keep sB x) => ?_) ?_; clear_value x; rotate_left; subst x)
         | (refine (fun (hx : Keep1 sB x) => ?_) ?_; clear_value x; have hx2 := Keep1.proj hx; rotate_left; subst x)
         | (have := fun a => x a; clear this; subst x)
         | clear_value x
         | subst x)
    | with_reducible apply Keep.ite
    | with_reducible apply Keep1.ite
    | split
    | (with_reducible apply Keep1.elim; with_reducible assumption)
    | (with_reducible apply Keep1.elimM; with_reducible assumption)
    | with_reducible apply Keep1.mk
    | (with_reducible apply Keep.ofMk; with_reducible apply Keep.fold)

theorem signal_keep {sB : State} {s : State} {m : Nat} {i : Nat}
    (hs : Keep sB s) : Keep sB (signal s m i) := by
  unfold signal
  repeat' first
    | with_reducible assumption
    | with_reducible apply State.logErr_keep
    | with_reducible apply signalRaw_keep
    | with_reducible apply signalRaw_keep_st
    | with_reducible apply stepFail_keep
    | (extract_lets +onlyGivenNames x
       first
         | (refine (fun (hx : Keep sB x) => ?_) ?_; clear_value x; rotate_left; subst x)
         | (refine (fun (hx : Keep1 sB x) => ?_) ?_; clear_value x; have hx2 := Keep1.proj hx; rotate_left; subst x)
         | (have := fun a => x a; clear this; subst x)
         | clear_value x
         | subst x)
    | with_reducible apply Keep.ite
    | with_reducible apply Keep1.ite
    | split
    | (with_reducible apply Keep1.elim; with_reducible assumption)
    | (with_reducible apply Keep1.elimM; with_reducible assumption)
    | with_reducible apply Keep1.mk

theorem State.stepErr_keep {sB : State} {s : State} {e : ErrInfo}
    (hs : Keep sB s) : Keep sB (State.stepErr s e) := by
  unfold State.stepErr
  repeat' first
    | with_reducible assumption
    | with_reducible apply State.logErr_keep
    | with_reducible apply stepFail_keep
    | (extract_lets +onlyGivenNames x
       first
         | (refine (fun (hx : Keep sB x) => ?_) ?_; clear_value x; rotate_left; subst x)
         | (have := fun a => x a; clear this; subst x)
         | clear_value x
         | subst x)
    | (with_reducible apply Keep.ofMk; with_reducible apply Keep.fold)

theorem knotAdd_keep {sB : State} {s : State} {f : Nat} {k : Nat} {d : Int} {core : Nat}
    (hs : Keep sB s) : Keep sB (knotAdd s f k d core) := by
  unfold knotAdd
  repeat' first
    | with_reducible assumption
    | with_reducible apply State.taskErr_keep
    | with_reducible apply knotRaw_keep
    | with_reducible apply knotRaw_keep_st
    | with_reducible apply State.stepErr_keep
    | (extract_lets +onlyGivenNames x
       first
         | (refine (fun (hx : Keep sB x) => ?_) ?_; clear_value x; rotate_left; subst x)
         | (refine (fun (hx : Keep1 sB x) => ?_) ?_; clear_value x; have hx2 := Keep1.proj hx; rotate_left; subst x)
         | (have := fun a => x a; clear this; subst x)
         | clear_value x
         | subst x)
    | with_reducible apply Keep.ite
    | with_reducible apply Keep1.ite
    | split
    | (with_reducible apply Keep1.elim; with_reducible assumption)
    | (with_reducible apply Keep1.elimM; with_reducible assumption)
    | with_reducible apply Keep1.mk

theorem knotAddG_keep {sB : State} {s : State} {k : Nat} {d : Int}
    (hs : Keep sB s) : Keep sB (knotAddG s k d) := by
  unfold knotAddG
  repeat' first
    | with_reducible assumption
    | with_reducible apply knotAdd_keep

theorem completeWord_keep {sB : State} {s : State} {f : Nat} {q : Nat} {w : Nat}
    (hs : Keep sB s) : Keep sB (completeWord s f q w) := by
  unfold completeWord
  repeat' first
    | with_reducible assumption
    | with_reducible apply State.put_keep
    | with_reducible apply knotAdd_keep
    | (extract_lets +onlyGivenNames x
       first
         | (refine (fun (hx : Keep sB x) => ?_) ?_; clear_value x; rotate_left; subst x)
         | (have := fun a => x a; clear this; subst x)
         | clear_value x
         | subst x)
    | with_reducible apply Keep.ite
    | split

theorem resetUnits_keep {s0 s : State} (hs : Keep s0 s) : Keep s0 (resetUnits s) :=
  hs.trans ⟨rfl, Burned.refl _, fun x => ⟨scanon_sclear 0 _ _ _ (scanon_sclear 0 _ _ _ x.1), x.2⟩⟩

theorem saveErrors_keep {s0 s : State} (hs : Keep s0 s) : Keep s0 (saveErrors s) := by
  refine hs.trans ⟨rfl, Burned.refl _, fun x => ⟨x.1, x.2.1, x.2.2.1, x.2.2.2.1, ?_, x.2.2.2.2.2⟩⟩
  simp only [saveErrors, List.length_take]
  exact Nat.min_le_left _ _

theorem moduleStop_keep {sB : State} {s : State} {seq : Nat}
    (hs : Keep sB s) : Keep sB (moduleStop s seq) := by
  unfold moduleStop
  repeat' first
    | with_reducible assumption
    | with_reducible apply State.put_keep
    | with_reducible apply State.logErr_keep
    | with_reducible apply completeJob_keep
    | with_reducible apply resetUnits_keep
    | (extract_lets +onlyGivenNames x
       first
         | (refine (fun (hx : Keep sB x) => ?_) ?_; clear_value x; rotate_left; subst x)
         | (have := fun a => x a; clear this; subst x)
         | clear_value x
         | subst x)
    | split
    | (with_reducible apply Keep.ofMk; with_reducible apply Keep.fold)

theorem State.modErr_keep {sB : State} {s : State} {e : ErrInfo}
    (hs : Keep sB s) : Keep sB (State.modErr s e) := by
  unfold State.modErr
  repeat' first
    | with_reducible assumption
    | with_reducible apply State.put_keep
    | with_reducible apply State.logErr_keep
    | with_reducible apply saveErrors_keep
    | with_reducible apply moduleStop_keep
    | (extract_lets +onlyGivenNames x
       first
         | (refine (fun (hx : Keep sB x) => ?_) ?_; clear_value x; rotate_left; subst x)
         | (have := fun a => x a; clear this; subst x)
         | clear_value x
         | subst x)
    | with_reducible apply Keep.ite
    | split
    | (with_reducible apply Keep.ofMk; with_reducible apply Keep.fold)

theorem segErrorAs_keep {sB : State} {s : State} {z : Nat} {i : Nat} {kind : Nat} {cause : Nat}
    (hs : Keep sB s) : Keep sB (segErrorAs s z i kind cause) := by
  unfold segErrorAs
  repeat' first
    | with_reducible assumption
    | intro _
    | with_reducible apply State.put_keep
    | with_reducible apply State.logErr_keep
    | with_reducible apply resetSegment_keep
    | with_reducible apply startAborts_keep
    | (extract_lets +onlyGivenNames x
       first
         | (refine (fun (hx : Keep sB x) => ?_) ?_; clear_value x; rotate_left; subst x)
         | (have := fun a => x a; clear this; subst x)
         | clear_value x
         | subst x)
    | with_reducible apply Keep.ite
    | split
    | (with_reducible apply Keep.ofMk; with_reducible apply Keep.fold)

theorem segError_keep {sB : State} {s : State} {z : Nat} {i : Nat} {kind : Nat}
    (hs : Keep sB s) : Keep sB (segError s z i kind) := by
  unfold segError
  repeat' first
    | with_reducible assumption
    | with_reducible apply segErrorAs_keep

theorem startPass_keep {sB : State} {s : State} {f : Nat} {q : Nat}
    (hs : Keep sB s) : Keep sB (startPass s f q) := by
  unfold startPass
  repeat' first
    | with_reducible assumption
    | with_reducible apply State.setSpin_keep
    | (extract_lets +onlyGivenNames x
       first
         | (refine (fun (hx : Keep sB x) => ?_) ?_; clear_value x; rotate_left; subst x)
         | (have := fun a => x a; clear this; subst x)
         | clear_value x
         | subst x)
    | with_reducible apply Keep.ite
    | split
    | (with_reducible apply Keep.ofMk; with_reducible apply Keep.fold)

theorem State.setRing_keep {sB : State} {s : State} {n : Nat} {x : HostRing}
    (hs : Keep sB s) : Keep sB (State.setRing s n x) := by
  unfold State.setRing
  repeat' first
    | with_reducible assumption
    | (extract_lets +onlyGivenNames x
       first
         | (refine (fun (hx : Keep sB x) => ?_) ?_; clear_value x; rotate_left; subst x)
         | (have := fun a => x a; clear this; subst x)
         | clear_value x
         | subst x)
    | (with_reducible apply Keep.ofMk; with_reducible apply Keep.fold)

theorem claim_keep {sB : State} {s : State} {t : Nat}
    (hs : Keep sB s) : Keep1 sB (claim s t) := by
  unfold claim
  repeat' first
    | with_reducible assumption
    | (extract_lets +onlyGivenNames x
       first
         | (refine (fun (hx : Keep sB x) => ?_) ?_; clear_value x; rotate_left; subst x)
         | (refine (fun (hx : Keep1 sB x) => ?_) ?_; clear_value x; have hx2 := Keep1.proj hx; rotate_left; subst x)
         | (have := fun a => x a; clear this; subst x)
         | clear_value x
         | subst x)
    | split
    | (with_reducible apply Keep1.elim; with_reducible assumption)
    | (with_reducible apply Keep1.elimM; with_reducible assumption)
    | with_reducible apply Keep1.mk
    | (with_reducible apply Keep.ofMk; with_reducible apply Keep.fold)


theorem claim_keep_st {sB : State} {s : State} {t : Nat}
    (hs : Keep sB s) : Keep sB (claim s t).1 :=
  claim_keep hs
theorem setSrcCfg_keep {sB : State} {s : State} {src : Nat} {v : Nat}
    (hs : Keep sB s) : Keep sB (setSrcCfg s src v) := by
  unfold setSrcCfg
  repeat' first
    | with_reducible assumption
    | with_reducible apply State.put_keep

theorem complete_keep {sB : State} {s : State} {t : Nat} {src : Nat}
    (hs : Keep sB s) : Keep sB (complete s t src) := by
  unfold complete
  repeat' first
    | with_reducible assumption
    | intro _
    | with_reducible apply State.bump_keep
    | with_reducible apply setSrcCfg_keep
    | (extract_lets +onlyGivenNames x
       first
         | (refine (fun (hx : Keep sB x) => ?_) ?_; clear_value x; rotate_left; subst x)
         | (have := fun a => x a; clear this; subst x)
         | clear_value x
         | subst x)
    | with_reducible apply Keep.ite
    | split
    | (with_reducible apply Keep.ofMk; with_reducible apply Keep.fold)

theorem sendMsix_keep {sB : State} {s : State} {v : Nat}
    (hs : Keep sB s) : Keep sB (sendMsix s v) := by
  unfold sendMsix
  repeat' first
    | with_reducible assumption
    | (extract_lets +onlyGivenNames x
       first
         | (refine (fun (hx : Keep sB x) => ?_) ?_; clear_value x; rotate_left; subst x)
         | (have := fun a => x a; clear this; subst x)
         | clear_value x
         | subst x)
    | with_reducible apply Keep.ite
    | split
    | (with_reducible apply Keep.ofMk; with_reducible apply Keep.fold)

theorem latchWakes_keep {sB : State} {s : State}
    (hs : Keep sB s) : Keep sB (latchWakes s) := by
  unfold latchWakes
  repeat' first
    | with_reducible assumption
    | intro _
    | with_reducible apply Keep.foldl
    | (extract_lets +onlyGivenNames x
       first
         | (refine (fun (hx : Keep sB x) => ?_) ?_; clear_value x; rotate_left; subst x)
         | (have := fun a => x a; clear this; subst x)
         | clear_value x
         | subst x)
    | with_reducible apply Keep.ite
    | split
    | (with_reducible apply Keep.ofMk; with_reducible apply Keep.fold)

theorem evRefresh_keep {sB : State} {s : State}
    (hs : Keep sB s) : Keep sB (evRefresh s) := by
  unfold evRefresh
  repeat' first
    | with_reducible assumption
    | intro _
    | with_reducible apply sendMsix_keep
    | with_reducible apply latchWakes_keep
    | with_reducible apply Keep.foldl
    | (extract_lets +onlyGivenNames x
       first
         | (refine (fun (hx : Keep sB x) => ?_) ?_; clear_value x; rotate_left; subst x)
         | (have := fun a => x a; clear this; subst x)
         | clear_value x
         | subst x)
    | with_reducible apply Keep.ite
    | split
    | (with_reducible apply Keep.ofMk; with_reducible apply Keep.fold)

theorem studioServes_keep {sB : State} {s : State} {t : Nat}
    (hs : Keep sB s) : Keep sB (studioServes s t) := by
  unfold studioServes
  repeat' first
    | with_reducible assumption
    | intro _
    | with_reducible apply claim_keep
    | with_reducible apply claim_keep_st
    | with_reducible apply complete_keep
    | with_reducible apply Keep.foldl
    | with_reducible apply Keep1.foldl
    | with_reducible apply Keep1.foldl_st
    | (extract_lets +onlyGivenNames x
       first
         | (refine (fun (hx : Keep sB x) => ?_) ?_; clear_value x; rotate_left; subst x)
         | (refine (fun (hx : Keep1 sB x) => ?_) ?_; clear_value x; have hx2 := Keep1.proj hx; rotate_left; subst x)
         | (have := fun a => x a; clear this; subst x)
         | clear_value x
         | subst x)
    | with_reducible apply Keep.ite
    | with_reducible apply Keep1.ite
    | split
    | (with_reducible apply Keep1.elim; with_reducible assumption)
    | (with_reducible apply Keep1.elimM; with_reducible assumption)
    | with_reducible apply Keep1.mk

theorem finish_keep {sB : State} {s : State}
    (hs : Keep sB s) : KeepN sB (finish s) := by
  unfold finish
  repeat' first
    | with_reducible assumption
    | with_reducible apply evRefresh_keep
    | with_reducible apply KeepN.next
    | with_reducible apply KeepN.fault
    | with_reducible apply KeepN.refused
    | (with_reducible apply KeepN.of_next; with_reducible assumption)
    | (with_reducible apply KeepN.un_next; with_reducible assumption)

theorem State.setMeshQ_keep {sB : State} {s : State} {f : Nat} {i : Nat} {v : Nat} {l : List MeshPkt}
    (hs : Keep sB s) : Keep sB (State.setMeshQ s f i v l) := by
  unfold State.setMeshQ
  repeat' first
    | with_reducible assumption
    | (extract_lets +onlyGivenNames x
       first
         | (refine (fun (hx : Keep sB x) => ?_) ?_; clear_value x; rotate_left; subst x)
         | (have := fun a => x a; clear this; subst x)
         | clear_value x
         | subst x)
    | (with_reducible apply Keep.ofMk; with_reducible apply Keep.fold)

theorem meshPut_keep {sB : State} {s : State} {f : Nat} {i : Nat} {v : Nat} {p : MeshPkt}
    (hs : Keep sB s) : Keep sB (meshPut s f i v p) := by
  unfold meshPut
  repeat' first
    | with_reducible assumption
    | with_reducible apply State.setMeshQ_keep
    | (extract_lets +onlyGivenNames x
       first
         | (refine (fun (hx : Keep sB x) => ?_) ?_; clear_value x; rotate_left; subst x)
         | (have := fun a => x a; clear this; subst x)
         | clear_value x
         | subst x)
    | (with_reducible apply Keep.ofMk; with_reducible apply Keep.fold)

theorem meshPump_keep {sB : State} {s : State} {f : Nat} {v : Nat}
    (hs : Keep sB s) : Keep sB (meshPump s f v) := by
  unfold meshPump
  repeat' first
    | with_reducible assumption
    | intro _
    | with_reducible apply State.setMeshQ_keep
    | (extract_lets +onlyGivenNames x
       first
         | (refine (fun (hx : Keep sB x) => ?_) ?_; clear_value x; rotate_left; subst x)
         | (have := fun a => x a; clear this; subst x)
         | clear_value x
         | subst x)
    | split
    | (with_reducible apply Keep.ofMk; with_reducible apply Keep.fold)

theorem meshSend_keep {sB : State} {s : State} {f : Nat} {p : MeshPkt}
    (hs : Keep sB s) : Keep sB (meshSend s f p) := by
  unfold meshSend
  repeat' first
    | with_reducible assumption
    | with_reducible apply meshPump_keep
    | (extract_lets +onlyGivenNames x
       first
         | (refine (fun (hx : Keep sB x) => ?_) ?_; clear_value x; rotate_left; subst x)
         | (have := fun a => x a; clear this; subst x)
         | clear_value x
         | subst x)
    | split
    | (with_reducible apply Keep.ofMk; with_reducible apply Keep.fold)

theorem noteCvt_keep {sB : State} {s : State} {f : Nat} {c : CvtFlags}
    (hs : Keep sB s) : Keep sB (noteCvt s f c) := by
  unfold noteCvt
  repeat' first
    | with_reducible assumption
    | with_reducible apply State.put_keep
    | with_reducible apply State.bump_keep
    | (extract_lets +onlyGivenNames x
       first
         | (refine (fun (hx : Keep sB x) => ?_) ?_; clear_value x; rotate_left; subst x)
         | (have := fun a => x a; clear this; subst x)
         | clear_value x
         | subst x)
    | with_reducible apply Keep.ite
    | split

theorem noteNan_keep {sB : State} {s : State} {f : Nat}
    (hs : Keep sB s) : Keep sB (noteNan s f) := by
  unfold noteNan
  repeat' first
    | with_reducible assumption
    | with_reducible apply State.put_keep

theorem noteSat_keep {sB : State} {s : State} {f : Nat}
    (hs : Keep sB s) : Keep sB (noteSat s f) := by
  unfold noteSat
  repeat' first
    | with_reducible assumption
    | with_reducible apply State.put_keep
    | with_reducible apply State.bump_keep

theorem noteInf_keep {sB : State} {s : State} {f : Nat}
    (hs : Keep sB s) : Keep sB (noteInf s f) := by
  unfold noteInf
  repeat' first
    | with_reducible assumption
    | with_reducible apply State.put_keep
    | with_reducible apply State.bump_keep

theorem noteExh_keep {sB : State} {s : State} {f : Nat}
    (hs : Keep sB s) : Keep sB (noteExh s f) := by
  unfold noteExh
  repeat' first
    | with_reducible assumption
    | with_reducible apply State.put_keep

theorem noteRetry_keep {sB : State} {s : State} {f : Nat}
    (hs : Keep sB s) : Keep sB (noteRetry s f) := by
  unfold noteRetry
  repeat' first
    | with_reducible assumption
    | with_reducible apply State.bump_keep

theorem drawLane_keep {sB : State} {s : State} {f : Nat} {l : Nat}
    (hs : Keep sB s) : Keep1 sB (drawLane s f l) := by
  unfold drawLane
  repeat' first
    | with_reducible assumption
    | (extract_lets +onlyGivenNames x
       first
         | (refine (fun (hx : Keep sB x) => ?_) ?_; clear_value x; rotate_left; subst x)
         | (refine (fun (hx : Keep1 sB x) => ?_) ?_; clear_value x; have hx2 := Keep1.proj hx; rotate_left; subst x)
         | (have := fun a => x a; clear this; subst x)
         | clear_value x
         | subst x)
    | split
    | (with_reducible apply Keep1.elim; with_reducible assumption)
    | (with_reducible apply Keep1.elimM; with_reducible assumption)
    | with_reducible apply Keep1.mk
    | (with_reducible apply Keep.ofMk; with_reducible apply Keep.fold)


theorem drawLane_keep_st {sB : State} {s : State} {f : Nat} {l : Nat}
    (hs : Keep sB s) : Keep sB (drawLane s f l).1 :=
  drawLane_keep hs
theorem cvtLane_keep {sB : State} {s : State} {f : Nat} {l : Nat} {t : Nat} {sat : Bool} {sr : Bool} {v : Val}
    (hs : Keep sB s) : Keep1 sB (cvtLane s f l t sat sr v) := by
  unfold cvtLane
  repeat' first
    | with_reducible assumption
    | with_reducible apply noteCvt_keep
    | with_reducible apply drawLane_keep
    | with_reducible apply drawLane_keep_st
    | (extract_lets +onlyGivenNames x
       first
         | (refine (fun (hx : Keep sB x) => ?_) ?_; clear_value x; rotate_left; subst x)
         | (refine (fun (hx : Keep1 sB x) => ?_) ?_; clear_value x; have hx2 := Keep1.proj hx; rotate_left; subst x)
         | (have := fun a => x a; clear this; subst x)
         | clear_value x
         | subst x)
    | with_reducible apply Keep.ite
    | with_reducible apply Keep1.ite
    | split
    | (with_reducible apply Keep1.elim; with_reducible assumption)
    | (with_reducible apply Keep1.elimM; with_reducible assumption)
    | with_reducible apply Keep1.mk


theorem cvtLane_keep_st {sB : State} {s : State} {f : Nat} {l : Nat} {t : Nat} {sat : Bool} {sr : Bool} {v : Val}
    (hs : Keep sB s) : Keep sB (cvtLane s f l t sat sr v).1 :=
  cvtLane_keep hs
theorem quantLane_keep {sB : State} {s : State} {f : Nat} {l : Nat} {st : Nat} {t : Nat} {sc : Nat} {ts : W32} {sr : Bool} {v : Val}
    (hs : Keep sB s) : Keep1 sB (quantLane s f l st t sc ts sr v) := by
  unfold quantLane
  repeat' first
    | with_reducible assumption
    | with_reducible apply noteCvt_keep
    | with_reducible apply drawLane_keep
    | with_reducible apply drawLane_keep_st
    | (extract_lets +onlyGivenNames x
       first
         | (refine (fun (hx : Keep sB x) => ?_) ?_; clear_value x; rotate_left; subst x)
         | (refine (fun (hx : Keep1 sB x) => ?_) ?_; clear_value x; have hx2 := Keep1.proj hx; rotate_left; subst x)
         | (have := fun a => x a; clear this; subst x)
         | clear_value x
         | subst x)
    | with_reducible apply Keep.ite
    | with_reducible apply Keep1.ite
    | split
    | (with_reducible apply Keep1.elim; with_reducible assumption)
    | (with_reducible apply Keep1.elimM; with_reducible assumption)
    | with_reducible apply Keep1.mk


theorem quantLane_keep_st {sB : State} {s : State} {f : Nat} {l : Nat} {st : Nat} {t : Nat} {sc : Nat} {ts : W32} {sr : Bool} {v : Val}
    (hs : Keep sB s) : Keep sB (quantLane s f l st t sc ts sr v).1 :=
  quantLane_keep hs
theorem palCorr_keep {sB : State} {s : State} {sl : Nat} {cause : Nat} {addr : Nat}
    (hs : Keep sB s) : Keep sB (palCorr s sl cause addr) := by
  unfold palCorr
  repeat' first
    | with_reducible assumption
    | with_reducible apply State.logErr_keep

theorem palSingle_keep {sB : State} {s : State} {sl : Nat} {addr : Nat}
    (hs : Keep sB s) : Keep sB (palSingle s sl addr) := by
  unfold palSingle
  repeat' first
    | with_reducible assumption
    | with_reducible apply State.bump_keep
    | with_reducible apply palCorr_keep

theorem palLost_keep {sB : State} {s : State} {sl : Nat} {addr : Nat}
    (hs : Keep sB s) : Keep sB (palLost s sl addr) := by
  unfold palLost
  repeat' first
    | with_reducible assumption
    | with_reducible apply State.bump_keep
    | with_reducible apply State.modErr_keep

theorem palWalk_keep {sB : State} {s : State} {sl : Nat} {l : Option Line} {addr : Nat} {ecc : Ecc}
    (hs : Keep sB s) : Keep1 sB (palWalk s sl l addr ecc) := by
  unfold palWalk
  repeat' first
    | with_reducible assumption
    | intro _
    | with_reducible apply palSingle_keep
    | with_reducible apply palLost_keep
    | (extract_lets +onlyGivenNames x
       first
         | (refine (fun (hx : Keep sB x) => ?_) ?_; clear_value x; rotate_left; subst x)
         | (refine (fun (hx : Keep1 sB x) => ?_) ?_; clear_value x; have hx2 := Keep1.proj hx; rotate_left; subst x)
         | (have := fun a => x a; clear this; subst x)
         | clear_value x
         | subst x)
    | with_reducible apply Keep.ite
    | with_reducible apply Keep1.ite
    | split
    | (with_reducible apply Keep1.elim; with_reducible assumption)
    | (with_reducible apply Keep1.elimM; with_reducible assumption)
    | with_reducible apply Keep1.mk
    | (with_reducible apply Keep.ofMk; with_reducible apply Keep.fold)


theorem palWalk_keep_st {sB : State} {s : State} {sl : Nat} {l : Option Line} {addr : Nat} {ecc : Ecc}
    (hs : Keep sB s) : Keep sB (palWalk s sl l addr ecc).1 :=
  palWalk_keep hs
theorem palCheck_keep {sB : State} {s : State} {g : Nat} {write : Bool} {whole : Bool} {addr : Nat} {ecc : Ecc}
    (hs : Keep sB s) : Keep1 sB (palCheck s g write whole addr ecc) := by
  unfold palCheck
  repeat' first
    | with_reducible assumption
    | with_reducible apply State.bump_keep
    | with_reducible apply State.setLine_keep
    | with_reducible apply palCorr_keep
    | with_reducible apply palSingle_keep
    | with_reducible apply palLost_keep
    | with_reducible apply palWalk_keep
    | with_reducible apply palWalk_keep_st
    | (extract_lets +onlyGivenNames x
       first
         | (refine (fun (hx : Keep sB x) => ?_) ?_; clear_value x; rotate_left; subst x)
         | (refine (fun (hx : Keep1 sB x) => ?_) ?_; clear_value x; have hx2 := Keep1.proj hx; rotate_left; subst x)
         | (have := fun a => x a; clear this; subst x)
         | clear_value x
         | subst x)
    | with_reducible apply Keep.ite
    | with_reducible apply Keep1.ite
    | split
    | (with_reducible apply Keep1.elim; with_reducible assumption)
    | (with_reducible apply Keep1.elimM; with_reducible assumption)
    | with_reducible apply Keep1.mk
    | (with_reducible apply Keep.ofMk; with_reducible apply Keep.fold)


theorem palCheck_keep_st {sB : State} {s : State} {g : Nat} {write : Bool} {whole : Bool} {addr : Nat} {ecc : Ecc}
    (hs : Keep sB s) : Keep sB (palCheck s g write whole addr ecc).1 :=
  palCheck_keep hs
theorem spadCheck_keep {sB : State} {s : State} {a : Nat} {ecc : Ecc}
    (hs : Keep sB s) : Keep sB (spadCheck s a ecc) := by
  unfold spadCheck
  repeat' first
    | with_reducible assumption
    | with_reducible apply palSingle_keep
    | (extract_lets +onlyGivenNames x
       first
         | (refine (fun (hx : Keep sB x) => ?_) ?_; clear_value x; rotate_left; subst x)
         | (have := fun a => x a; clear this; subst x)
         | clear_value x
         | subst x)
    | split
    | (with_reducible apply Keep.ofMk; with_reducible apply Keep.fold)

theorem frameCheck_keep {sB : State} {s : State} {a : Nat} {ecc : Ecc}
    (hs : Keep sB s) : Keep1 sB (frameCheck s a ecc) := by
  unfold frameCheck
  repeat' first
    | with_reducible assumption
    | with_reducible apply State.bump_keep
    | with_reducible apply State.logErr_keep
    | (extract_lets +onlyGivenNames x
       first
         | (refine (fun (hx : Keep sB x) => ?_) ?_; clear_value x; rotate_left; subst x)
         | (refine (fun (hx : Keep1 sB x) => ?_) ?_; clear_value x; have hx2 := Keep1.proj hx; rotate_left; subst x)
         | (have := fun a => x a; clear this; subst x)
         | clear_value x
         | subst x)
    | split
    | (with_reducible apply Keep1.elim; with_reducible assumption)
    | (with_reducible apply Keep1.elimM; with_reducible assumption)
    | with_reducible apply Keep1.mk
    | (with_reducible apply Keep.ofMk; with_reducible apply Keep.fold)


theorem frameCheck_keep_st {sB : State} {s : State} {a : Nat} {ecc : Ecc}
    (hs : Keep sB s) : Keep sB (frameCheck s a ecc).1 :=
  frameCheck_keep hs
theorem unitRead_keep {sB : State} {s : State} {a : Nat} {n : Nat} {ecc : Ecc}
    (hs : Keep sB s) : KeepMem sB (unitRead s a n ecc) := by
  unfold unitRead
  repeat' first
    | with_reducible assumption
    | with_reducible apply State.bump_keep
    | with_reducible apply devRead_keep
    | with_reducible apply devRead_keep_st
    | with_reducible apply palCheck_keep
    | with_reducible apply palCheck_keep_st
    | with_reducible apply spadCheck_keep
    | with_reducible apply frameCheck_keep
    | with_reducible apply frameCheck_keep_st
    | (extract_lets +onlyGivenNames x
       first
         | (refine (fun (hx : Keep sB x) => ?_) ?_; clear_value x; rotate_left; subst x)
         | (refine (fun (hx : Keep1 sB x) => ?_) ?_; clear_value x; have hx2 := Keep1.proj hx; rotate_left; subst x)
         | (refine (fun (hx : KeepMem sB x) => ?_) ?_; clear_value x; have hx2 := KeepMem.proj hx; rotate_left; subst x)
         | (have := fun a => x a; clear this; subst x)
         | clear_value x
         | subst x)
    | with_reducible apply Keep.ite
    | with_reducible apply Keep1.ite
    | with_reducible apply KeepMem.ite
    | split
    | (with_reducible apply Keep1.elim; with_reducible assumption)
    | (with_reducible apply Keep1.elimM; with_reducible assumption)
    | with_reducible apply Keep1.mk
    | with_reducible apply KeepMem.mk
    | (with_reducible apply Keep.ofMk; with_reducible apply Keep.fold)


theorem unitRead_keep_st {sB : State} {s : State} {a : Nat} {n : Nat} {ecc : Ecc}
    (hs : Keep sB s) : Keep sB (unitRead s a n ecc).st :=
  unitRead_keep hs
theorem unitWrite_keep {sB : State} {s : State} {a : Nat} {d : List Byte} {ecc : Ecc}
    (hs : Keep sB s) : KeepMem sB (unitWrite s a d ecc) := by
  unfold unitWrite
  repeat' first
    | with_reducible assumption
    | with_reducible apply devWrite_keep
    | with_reducible apply devWrite_keep_st
    | with_reducible apply palSingle_keep
    | with_reducible apply palCheck_keep
    | with_reducible apply palCheck_keep_st
    | (extract_lets +onlyGivenNames x
       first
         | (refine (fun (hx : Keep sB x) => ?_) ?_; clear_value x; rotate_left; subst x)
         | (refine (fun (hx : Keep1 sB x) => ?_) ?_; clear_value x; have hx2 := Keep1.proj hx; rotate_left; subst x)
         | (refine (fun (hx : KeepMem sB x) => ?_) ?_; clear_value x; have hx2 := KeepMem.proj hx; rotate_left; subst x)
         | (have := fun a => x a; clear this; subst x)
         | clear_value x
         | subst x)
    | with_reducible apply Keep.ite
    | with_reducible apply Keep1.ite
    | with_reducible apply KeepMem.ite
    | split
    | (with_reducible apply Keep1.elim; with_reducible assumption)
    | (with_reducible apply Keep1.elimM; with_reducible assumption)
    | with_reducible apply Keep1.mk
    | with_reducible apply KeepMem.mk
    | (with_reducible apply Keep.ofMk; with_reducible apply Keep.fold)


theorem unitWrite_keep_st {sB : State} {s : State} {a : Nat} {d : List Byte} {ecc : Ecc}
    (hs : Keep sB s) : Keep sB (unitWrite s a d ecc).st :=
  unitWrite_keep hs
end Sys2Proof.Machine
end

