-- ==== Sys2Proof/Laws/KeepCore.lean ====
section
/-! SUPPORT. The commands of the cores, the Knots, the clocks, the governor and the Palette keep the relation. -/
namespace Sys2Proof.Machine

theorem State.setPc_keep {sB : State} {s : State} {f : Nat} {c : Nat} {v : Nat}
    (hs : Keep sB s) : Keep sB (State.setPc s f c v) := by
  unfold State.setPc
  repeat' first
    | with_reducible assumption
    | with_reducible apply State.put_keep

theorem coreFault_keep {sB : State} {s : State} {f : Nat} {c : Nat} {cause : Nat} {addr : Nat}
    (hs : Keep sB s) : Keep sB (coreFault s f c cause addr) := by
  unfold coreFault
  repeat' first
    | with_reducible assumption
    | with_reducible apply State.put_keep
    | with_reducible apply State.taskErr_keep

theorem coreRun_keep {sB : State} {s : State} {f : Nat} {c : Nat} {op : Host.Outcome State Fault Refusal}
    (hs : Keep sB s) (hop : KeepN sB op) : KeepN sB (coreRun s f c op) := by
  unfold coreRun
  repeat' first
    | with_reducible assumption
    | with_reducible apply finish_keep
    | with_reducible apply coreFault_keep
    | with_reducible apply KeepN.next
    | with_reducible apply KeepN.fault
    | with_reducible apply KeepN.refused
    | with_reducible apply Keep.ite
    | with_reducible apply KeepN.ite
    | split
    | (with_reducible apply KeepN.of_next; with_reducible assumption)
    | (with_reducible apply KeepN.un_next; with_reducible assumption)

theorem coreStep_keep {sB : State} {s : State} {f : Nat} {c : Nat} {w : Nat} {op : Host.Outcome State Fault Refusal}
    (hs : Keep sB s) (hop : KeepN sB op) : KeepN sB (coreStep s f c w op) := by
  unfold coreStep
  repeat' first
    | with_reducible assumption
    | with_reducible apply coreRun_keep
    | with_reducible apply KeepN.next
    | with_reducible apply KeepN.fault
    | with_reducible apply KeepN.refused
    | with_reducible apply Keep.ite
    | with_reducible apply KeepN.ite
    | split
    | (with_reducible apply KeepN.of_next; with_reducible assumption)
    | (with_reducible apply KeepN.un_next; with_reducible assumption)

theorem advance_keep {sB : State} {s : State} {f : Nat} {c : Nat}
    (hs : Keep sB s) : Keep sB (advance s f c) := by
  unfold advance
  repeat' first
    | with_reducible assumption
    | with_reducible apply State.setPc_keep

theorem writeOp_keep {sB : State} {f : Nat} {c : Nat} {w : Nat} {d : Nat} {v : W64} {s : State}
    (hs : Keep sB s) : KeepN sB (writeOp f c w d v s) := by
  unfold writeOp
  repeat' first
    | with_reducible assumption
    | with_reducible apply State.setGreg_keep
    | with_reducible apply coreStep_keep
    | with_reducible apply advance_keep
    | with_reducible apply KeepN.next
    | with_reducible apply KeepN.fault
    | with_reducible apply KeepN.refused
    | (with_reducible apply KeepN.of_next; with_reducible assumption)
    | (with_reducible apply KeepN.un_next; with_reducible assumption)

theorem aluR_keep {sB : State} {fn : Nat} {f : Nat} {c : Nat} {d : Nat} {a : Nat} {b : Nat} {g : W64 → W64 → W64} {s : State}
    (hs : Keep sB s) : KeepN sB (aluR fn f c d a b g s) := by
  unfold aluR
  repeat' first
    | with_reducible assumption
    | with_reducible apply writeOp_keep
    | with_reducible apply KeepN.next
    | with_reducible apply KeepN.fault
    | with_reducible apply KeepN.refused
    | (with_reducible apply KeepN.of_next; with_reducible assumption)
    | (with_reducible apply KeepN.un_next; with_reducible assumption)

theorem aluI_keep {sB : State} {maj : Nat} {f : Nat} {c : Nat} {d : Nat} {a : Nat} {imm : BitVec 16} {ext : BitVec 16 → W64} {g : W64 → W64 → W64} {s : State}
    (hs : Keep sB s) : KeepN sB (aluI maj f c d a imm ext g s) := by
  unfold aluI
  repeat' first
    | with_reducible assumption
    | with_reducible apply writeOp_keep
    | with_reducible apply KeepN.next
    | with_reducible apply KeepN.fault
    | with_reducible apply KeepN.refused
    | (with_reducible apply KeepN.of_next; with_reducible assumption)
    | (with_reducible apply KeepN.un_next; with_reducible assumption)

theorem execAdd_keep {sB : State} {f : Fin 64} {c : Fin 4} {d : Fin 32} {a : Fin 32} {b : Fin 32} {s : State}
    (hs : Keep sB s) : KeepN sB (execAdd f c d a b s) := by
  unfold execAdd
  repeat' first
    | with_reducible assumption
    | intro _
    | with_reducible apply aluR_keep
    | with_reducible apply KeepN.next
    | with_reducible apply KeepN.fault
    | with_reducible apply KeepN.refused
    | split
    | (with_reducible apply KeepN.of_next; with_reducible assumption)
    | (with_reducible apply KeepN.un_next; with_reducible assumption)

theorem execSub_keep {sB : State} {f : Fin 64} {c : Fin 4} {d : Fin 32} {a : Fin 32} {b : Fin 32} {s : State}
    (hs : Keep sB s) : KeepN sB (execSub f c d a b s) := by
  unfold execSub
  repeat' first
    | with_reducible assumption
    | intro _
    | with_reducible apply aluR_keep
    | with_reducible apply KeepN.next
    | with_reducible apply KeepN.fault
    | with_reducible apply KeepN.refused
    | split
    | (with_reducible apply KeepN.of_next; with_reducible assumption)
    | (with_reducible apply KeepN.un_next; with_reducible assumption)

theorem execAnd_keep {sB : State} {f : Fin 64} {c : Fin 4} {d : Fin 32} {a : Fin 32} {b : Fin 32} {s : State}
    (hs : Keep sB s) : KeepN sB (execAnd f c d a b s) := by
  unfold execAnd
  repeat' first
    | with_reducible assumption
    | intro _
    | with_reducible apply aluR_keep
    | with_reducible apply KeepN.next
    | with_reducible apply KeepN.fault
    | with_reducible apply KeepN.refused
    | split
    | (with_reducible apply KeepN.of_next; with_reducible assumption)
    | (with_reducible apply KeepN.un_next; with_reducible assumption)

theorem execOr_keep {sB : State} {f : Fin 64} {c : Fin 4} {d : Fin 32} {a : Fin 32} {b : Fin 32} {s : State}
    (hs : Keep sB s) : KeepN sB (execOr f c d a b s) := by
  unfold execOr
  repeat' first
    | with_reducible assumption
    | intro _
    | with_reducible apply aluR_keep
    | with_reducible apply KeepN.next
    | with_reducible apply KeepN.fault
    | with_reducible apply KeepN.refused
    | split
    | (with_reducible apply KeepN.of_next; with_reducible assumption)
    | (with_reducible apply KeepN.un_next; with_reducible assumption)

theorem execXor_keep {sB : State} {f : Fin 64} {c : Fin 4} {d : Fin 32} {a : Fin 32} {b : Fin 32} {s : State}
    (hs : Keep sB s) : KeepN sB (execXor f c d a b s) := by
  unfold execXor
  repeat' first
    | with_reducible assumption
    | intro _
    | with_reducible apply aluR_keep
    | with_reducible apply KeepN.next
    | with_reducible apply KeepN.fault
    | with_reducible apply KeepN.refused
    | split
    | (with_reducible apply KeepN.of_next; with_reducible assumption)
    | (with_reducible apply KeepN.un_next; with_reducible assumption)

theorem execSll_keep {sB : State} {f : Fin 64} {c : Fin 4} {d : Fin 32} {a : Fin 32} {b : Fin 32} {s : State}
    (hs : Keep sB s) : KeepN sB (execSll f c d a b s) := by
  unfold execSll
  repeat' first
    | with_reducible assumption
    | intro _
    | with_reducible apply aluR_keep
    | with_reducible apply KeepN.next
    | with_reducible apply KeepN.fault
    | with_reducible apply KeepN.refused
    | split
    | (with_reducible apply KeepN.of_next; with_reducible assumption)
    | (with_reducible apply KeepN.un_next; with_reducible assumption)

theorem execSrl_keep {sB : State} {f : Fin 64} {c : Fin 4} {d : Fin 32} {a : Fin 32} {b : Fin 32} {s : State}
    (hs : Keep sB s) : KeepN sB (execSrl f c d a b s) := by
  unfold execSrl
  repeat' first
    | with_reducible assumption
    | intro _
    | with_reducible apply aluR_keep
    | with_reducible apply KeepN.next
    | with_reducible apply KeepN.fault
    | with_reducible apply KeepN.refused
    | split
    | (with_reducible apply KeepN.of_next; with_reducible assumption)
    | (with_reducible apply KeepN.un_next; with_reducible assumption)

theorem execSra_keep {sB : State} {f : Fin 64} {c : Fin 4} {d : Fin 32} {a : Fin 32} {b : Fin 32} {s : State}
    (hs : Keep sB s) : KeepN sB (execSra f c d a b s) := by
  unfold execSra
  repeat' first
    | with_reducible assumption
    | intro _
    | with_reducible apply aluR_keep
    | with_reducible apply KeepN.next
    | with_reducible apply KeepN.fault
    | with_reducible apply KeepN.refused
    | split
    | (with_reducible apply KeepN.of_next; with_reducible assumption)
    | (with_reducible apply KeepN.un_next; with_reducible assumption)

theorem execSlt_keep {sB : State} {f : Fin 64} {c : Fin 4} {d : Fin 32} {a : Fin 32} {b : Fin 32} {s : State}
    (hs : Keep sB s) : KeepN sB (execSlt f c d a b s) := by
  unfold execSlt
  repeat' first
    | with_reducible assumption
    | intro _
    | with_reducible apply aluR_keep
    | with_reducible apply KeepN.next
    | with_reducible apply KeepN.fault
    | with_reducible apply KeepN.refused
    | split
    | (with_reducible apply KeepN.of_next; with_reducible assumption)
    | (with_reducible apply KeepN.un_next; with_reducible assumption)

theorem execSltu_keep {sB : State} {f : Fin 64} {c : Fin 4} {d : Fin 32} {a : Fin 32} {b : Fin 32} {s : State}
    (hs : Keep sB s) : KeepN sB (execSltu f c d a b s) := by
  unfold execSltu
  repeat' first
    | with_reducible assumption
    | intro _
    | with_reducible apply aluR_keep
    | with_reducible apply KeepN.next
    | with_reducible apply KeepN.fault
    | with_reducible apply KeepN.refused
    | split
    | (with_reducible apply KeepN.of_next; with_reducible assumption)
    | (with_reducible apply KeepN.un_next; with_reducible assumption)

theorem execMin_keep {sB : State} {f : Fin 64} {c : Fin 4} {d : Fin 32} {a : Fin 32} {b : Fin 32} {s : State}
    (hs : Keep sB s) : KeepN sB (execMin f c d a b s) := by
  unfold execMin
  repeat' first
    | with_reducible assumption
    | intro _
    | with_reducible apply aluR_keep
    | with_reducible apply KeepN.next
    | with_reducible apply KeepN.fault
    | with_reducible apply KeepN.refused
    | with_reducible apply Keep.ite
    | with_reducible apply KeepN.ite
    | split
    | (with_reducible apply KeepN.of_next; with_reducible assumption)
    | (with_reducible apply KeepN.un_next; with_reducible assumption)

theorem execMax_keep {sB : State} {f : Fin 64} {c : Fin 4} {d : Fin 32} {a : Fin 32} {b : Fin 32} {s : State}
    (hs : Keep sB s) : KeepN sB (execMax f c d a b s) := by
  unfold execMax
  repeat' first
    | with_reducible assumption
    | intro _
    | with_reducible apply aluR_keep
    | with_reducible apply KeepN.next
    | with_reducible apply KeepN.fault
    | with_reducible apply KeepN.refused
    | with_reducible apply Keep.ite
    | with_reducible apply KeepN.ite
    | split
    | (with_reducible apply KeepN.of_next; with_reducible assumption)
    | (with_reducible apply KeepN.un_next; with_reducible assumption)

theorem execMinu_keep {sB : State} {f : Fin 64} {c : Fin 4} {d : Fin 32} {a : Fin 32} {b : Fin 32} {s : State}
    (hs : Keep sB s) : KeepN sB (execMinu f c d a b s) := by
  unfold execMinu
  repeat' first
    | with_reducible assumption
    | intro _
    | with_reducible apply aluR_keep
    | with_reducible apply KeepN.next
    | with_reducible apply KeepN.fault
    | with_reducible apply KeepN.refused
    | with_reducible apply Keep.ite
    | with_reducible apply KeepN.ite
    | split
    | (with_reducible apply KeepN.of_next; with_reducible assumption)
    | (with_reducible apply KeepN.un_next; with_reducible assumption)

theorem execMaxu_keep {sB : State} {f : Fin 64} {c : Fin 4} {d : Fin 32} {a : Fin 32} {b : Fin 32} {s : State}
    (hs : Keep sB s) : KeepN sB (execMaxu f c d a b s) := by
  unfold execMaxu
  repeat' first
    | with_reducible assumption
    | intro _
    | with_reducible apply aluR_keep
    | with_reducible apply KeepN.next
    | with_reducible apply KeepN.fault
    | with_reducible apply KeepN.refused
    | with_reducible apply Keep.ite
    | with_reducible apply KeepN.ite
    | split
    | (with_reducible apply KeepN.of_next; with_reducible assumption)
    | (with_reducible apply KeepN.un_next; with_reducible assumption)

theorem execMul_keep {sB : State} {f : Fin 64} {c : Fin 4} {d : Fin 32} {a : Fin 32} {b : Fin 32} {s : State}
    (hs : Keep sB s) : KeepN sB (execMul f c d a b s) := by
  unfold execMul
  repeat' first
    | with_reducible assumption
    | intro _
    | with_reducible apply aluR_keep
    | with_reducible apply KeepN.next
    | with_reducible apply KeepN.fault
    | with_reducible apply KeepN.refused
    | split
    | (with_reducible apply KeepN.of_next; with_reducible assumption)
    | (with_reducible apply KeepN.un_next; with_reducible assumption)

theorem execMulh_keep {sB : State} {f : Fin 64} {c : Fin 4} {d : Fin 32} {a : Fin 32} {b : Fin 32} {s : State}
    (hs : Keep sB s) : KeepN sB (execMulh f c d a b s) := by
  unfold execMulh
  repeat' first
    | with_reducible assumption
    | intro _
    | with_reducible apply aluR_keep
    | with_reducible apply KeepN.next
    | with_reducible apply KeepN.fault
    | with_reducible apply KeepN.refused
    | split
    | (with_reducible apply KeepN.of_next; with_reducible assumption)
    | (with_reducible apply KeepN.un_next; with_reducible assumption)

theorem execMulhu_keep {sB : State} {f : Fin 64} {c : Fin 4} {d : Fin 32} {a : Fin 32} {b : Fin 32} {s : State}
    (hs : Keep sB s) : KeepN sB (execMulhu f c d a b s) := by
  unfold execMulhu
  repeat' first
    | with_reducible assumption
    | intro _
    | with_reducible apply aluR_keep
    | with_reducible apply KeepN.next
    | with_reducible apply KeepN.fault
    | with_reducible apply KeepN.refused
    | split
    | (with_reducible apply KeepN.of_next; with_reducible assumption)
    | (with_reducible apply KeepN.un_next; with_reducible assumption)

theorem execDiv_keep {sB : State} {f : Fin 64} {c : Fin 4} {d : Fin 32} {a : Fin 32} {b : Fin 32} {s : State}
    (hs : Keep sB s) : KeepN sB (execDiv f c d a b s) := by
  unfold execDiv
  repeat' first
    | with_reducible assumption
    | intro _
    | with_reducible apply aluR_keep
    | with_reducible apply KeepN.next
    | with_reducible apply KeepN.fault
    | with_reducible apply KeepN.refused
    | split
    | (with_reducible apply KeepN.of_next; with_reducible assumption)
    | (with_reducible apply KeepN.un_next; with_reducible assumption)

theorem execDivu_keep {sB : State} {f : Fin 64} {c : Fin 4} {d : Fin 32} {a : Fin 32} {b : Fin 32} {s : State}
    (hs : Keep sB s) : KeepN sB (execDivu f c d a b s) := by
  unfold execDivu
  repeat' first
    | with_reducible assumption
    | intro _
    | with_reducible apply aluR_keep
    | with_reducible apply KeepN.next
    | with_reducible apply KeepN.fault
    | with_reducible apply KeepN.refused
    | split
    | (with_reducible apply KeepN.of_next; with_reducible assumption)
    | (with_reducible apply KeepN.un_next; with_reducible assumption)

theorem execRem_keep {sB : State} {f : Fin 64} {c : Fin 4} {d : Fin 32} {a : Fin 32} {b : Fin 32} {s : State}
    (hs : Keep sB s) : KeepN sB (execRem f c d a b s) := by
  unfold execRem
  repeat' first
    | with_reducible assumption
    | intro _
    | with_reducible apply aluR_keep
    | with_reducible apply KeepN.next
    | with_reducible apply KeepN.fault
    | with_reducible apply KeepN.refused
    | split
    | (with_reducible apply KeepN.of_next; with_reducible assumption)
    | (with_reducible apply KeepN.un_next; with_reducible assumption)

theorem execRemu_keep {sB : State} {f : Fin 64} {c : Fin 4} {d : Fin 32} {a : Fin 32} {b : Fin 32} {s : State}
    (hs : Keep sB s) : KeepN sB (execRemu f c d a b s) := by
  unfold execRemu
  repeat' first
    | with_reducible assumption
    | intro _
    | with_reducible apply aluR_keep
    | with_reducible apply KeepN.next
    | with_reducible apply KeepN.fault
    | with_reducible apply KeepN.refused
    | split
    | (with_reducible apply KeepN.of_next; with_reducible assumption)
    | (with_reducible apply KeepN.un_next; with_reducible assumption)

theorem execAddi_keep {sB : State} {f : Fin 64} {c : Fin 4} {d : Fin 32} {a : Fin 32} {imm : BitVec 16} {s : State}
    (hs : Keep sB s) : KeepN sB (execAddi f c d a imm s) := by
  unfold execAddi
  repeat' first
    | with_reducible assumption
    | intro _
    | with_reducible apply aluI_keep
    | with_reducible apply KeepN.next
    | with_reducible apply KeepN.fault
    | with_reducible apply KeepN.refused
    | split
    | (with_reducible apply KeepN.of_next; with_reducible assumption)
    | (with_reducible apply KeepN.un_next; with_reducible assumption)

theorem execAndi_keep {sB : State} {f : Fin 64} {c : Fin 4} {d : Fin 32} {a : Fin 32} {imm : BitVec 16} {s : State}
    (hs : Keep sB s) : KeepN sB (execAndi f c d a imm s) := by
  unfold execAndi
  repeat' first
    | with_reducible assumption
    | intro _
    | with_reducible apply aluI_keep
    | with_reducible apply KeepN.next
    | with_reducible apply KeepN.fault
    | with_reducible apply KeepN.refused
    | split
    | (with_reducible apply KeepN.of_next; with_reducible assumption)
    | (with_reducible apply KeepN.un_next; with_reducible assumption)

theorem execOri_keep {sB : State} {f : Fin 64} {c : Fin 4} {d : Fin 32} {a : Fin 32} {imm : BitVec 16} {s : State}
    (hs : Keep sB s) : KeepN sB (execOri f c d a imm s) := by
  unfold execOri
  repeat' first
    | with_reducible assumption
    | intro _
    | with_reducible apply aluI_keep
    | with_reducible apply KeepN.next
    | with_reducible apply KeepN.fault
    | with_reducible apply KeepN.refused
    | split
    | (with_reducible apply KeepN.of_next; with_reducible assumption)
    | (with_reducible apply KeepN.un_next; with_reducible assumption)

theorem execXori_keep {sB : State} {f : Fin 64} {c : Fin 4} {d : Fin 32} {a : Fin 32} {imm : BitVec 16} {s : State}
    (hs : Keep sB s) : KeepN sB (execXori f c d a imm s) := by
  unfold execXori
  repeat' first
    | with_reducible assumption
    | intro _
    | with_reducible apply aluI_keep
    | with_reducible apply KeepN.next
    | with_reducible apply KeepN.fault
    | with_reducible apply KeepN.refused
    | split
    | (with_reducible apply KeepN.of_next; with_reducible assumption)
    | (with_reducible apply KeepN.un_next; with_reducible assumption)

theorem execSlti_keep {sB : State} {f : Fin 64} {c : Fin 4} {d : Fin 32} {a : Fin 32} {imm : BitVec 16} {s : State}
    (hs : Keep sB s) : KeepN sB (execSlti f c d a imm s) := by
  unfold execSlti
  repeat' first
    | with_reducible assumption
    | intro _
    | with_reducible apply aluI_keep
    | with_reducible apply KeepN.next
    | with_reducible apply KeepN.fault
    | with_reducible apply KeepN.refused
    | split
    | (with_reducible apply KeepN.of_next; with_reducible assumption)
    | (with_reducible apply KeepN.un_next; with_reducible assumption)

theorem execSltiu_keep {sB : State} {f : Fin 64} {c : Fin 4} {d : Fin 32} {a : Fin 32} {imm : BitVec 16} {s : State}
    (hs : Keep sB s) : KeepN sB (execSltiu f c d a imm s) := by
  unfold execSltiu
  repeat' first
    | with_reducible assumption
    | intro _
    | with_reducible apply aluI_keep
    | with_reducible apply KeepN.next
    | with_reducible apply KeepN.fault
    | with_reducible apply KeepN.refused
    | split
    | (with_reducible apply KeepN.of_next; with_reducible assumption)
    | (with_reducible apply KeepN.un_next; with_reducible assumption)

theorem execShi_keep {sB : State} {f : Fin 64} {c : Fin 4} {d : Fin 32} {a : Fin 32} {kind : Fin 3} {amt : BitVec 6} {s : State}
    (hs : Keep sB s) : KeepN sB (execShi f c d a kind amt s) := by
  unfold execShi
  repeat' first
    | with_reducible assumption
    | with_reducible apply writeOp_keep
    | with_reducible apply KeepN.next
    | with_reducible apply KeepN.fault
    | with_reducible apply KeepN.refused
    | (extract_lets +onlyGivenNames x
       first
         | (refine (fun (hx : Keep sB x) => ?_) ?_; clear_value x; rotate_left; subst x)
         | (refine (fun (hx : KeepN sB x) => ?_) ?_; clear_value x; rotate_left; subst x)
         | (have := fun a => x a; clear this; subst x)
         | clear_value x
         | subst x)
    | with_reducible apply Keep.ite
    | with_reducible apply KeepN.ite
    | split
    | (with_reducible apply KeepN.of_next; with_reducible assumption)
    | (with_reducible apply KeepN.un_next; with_reducible assumption)

theorem execInsh_keep {sB : State} {f : Fin 64} {c : Fin 4} {d : Fin 32} {h : Fin 4} {imm : BitVec 16} {s : State}
    (hs : Keep sB s) : KeepN sB (execInsh f c d h imm s) := by
  unfold execInsh
  repeat' first
    | with_reducible assumption
    | with_reducible apply writeOp_keep
    | with_reducible apply KeepN.next
    | with_reducible apply KeepN.fault
    | with_reducible apply KeepN.refused
    | (with_reducible apply KeepN.of_next; with_reducible assumption)
    | (with_reducible apply KeepN.un_next; with_reducible assumption)

theorem fmemEcc_keep {sB : State} {s : State} {f : Nat} {ecc : Ecc}
    (hs : Keep sB s) : Keep sB (fmemEcc s f ecc) := by
  unfold fmemEcc
  repeat' first
    | with_reducible assumption
    | with_reducible apply State.bump_keep
    | with_reducible apply State.logErr_keep
    | (extract_lets +onlyGivenNames x
       first
         | (refine (fun (hx : Keep sB x) => ?_) ?_; clear_value x; rotate_left; subst x)
         | (have := fun a => x a; clear this; subst x)
         | clear_value x
         | subst x)
    | split
    | (with_reducible apply Keep.ofMk; with_reducible apply Keep.fold)

theorem loadOp_keep {sB : State} {maj : Nat} {f : Nat} {c : Nat} {d : Nat} {a : Nat} {imm : BitVec 16} {n : Nat} {ext : Nat → W64} {ecc : Ecc} {s : State}
    (hs : Keep sB s) : KeepN sB (loadOp maj f c d a imm n ext ecc s) := by
  unfold loadOp
  repeat' first
    | with_reducible assumption
    | with_reducible apply State.put_keep
    | with_reducible apply State.setGreg_keep
    | with_reducible apply State.taskErr_keep
    | with_reducible apply finish_keep
    | with_reducible apply coreFault_keep
    | with_reducible apply coreStep_keep
    | with_reducible apply advance_keep
    | with_reducible apply fmemEcc_keep
    | with_reducible apply KeepN.next
    | with_reducible apply KeepN.fault
    | with_reducible apply KeepN.refused
    | (extract_lets +onlyGivenNames x
       first
         | (refine (fun (hx : Keep sB x) => ?_) ?_; clear_value x; rotate_left; subst x)
         | (refine (fun (hx : KeepN sB x) => ?_) ?_; clear_value x; rotate_left; subst x)
         | (have := fun a => x a; clear this; subst x)
         | clear_value x
         | subst x)
    | split
    | (with_reducible apply KeepN.of_next; with_reducible assumption)
    | (with_reducible apply KeepN.un_next; with_reducible assumption)
    | (with_reducible apply Keep.ofMk; with_reducible apply Keep.fold)

theorem execLb_keep {sB : State} {f : Fin 64} {c : Fin 4} {d : Fin 32} {a : Fin 32} {imm : BitVec 16} {ecc : Ecc} {s : State}
    (hs : Keep sB s) : KeepN sB (execLb f c d a imm ecc s) := by
  unfold execLb
  repeat' first
    | with_reducible assumption
    | with_reducible apply loadOp_keep
    | with_reducible apply KeepN.next
    | with_reducible apply KeepN.fault
    | with_reducible apply KeepN.refused
    | (with_reducible apply KeepN.of_next; with_reducible assumption)
    | (with_reducible apply KeepN.un_next; with_reducible assumption)

theorem execLbu_keep {sB : State} {f : Fin 64} {c : Fin 4} {d : Fin 32} {a : Fin 32} {imm : BitVec 16} {ecc : Ecc} {s : State}
    (hs : Keep sB s) : KeepN sB (execLbu f c d a imm ecc s) := by
  unfold execLbu
  repeat' first
    | with_reducible assumption
    | with_reducible apply loadOp_keep
    | with_reducible apply KeepN.next
    | with_reducible apply KeepN.fault
    | with_reducible apply KeepN.refused
    | (with_reducible apply KeepN.of_next; with_reducible assumption)
    | (with_reducible apply KeepN.un_next; with_reducible assumption)

theorem execLh_keep {sB : State} {f : Fin 64} {c : Fin 4} {d : Fin 32} {a : Fin 32} {imm : BitVec 16} {ecc : Ecc} {s : State}
    (hs : Keep sB s) : KeepN sB (execLh f c d a imm ecc s) := by
  unfold execLh
  repeat' first
    | with_reducible assumption
    | with_reducible apply loadOp_keep
    | with_reducible apply KeepN.next
    | with_reducible apply KeepN.fault
    | with_reducible apply KeepN.refused
    | (with_reducible apply KeepN.of_next; with_reducible assumption)
    | (with_reducible apply KeepN.un_next; with_reducible assumption)

theorem execLhu_keep {sB : State} {f : Fin 64} {c : Fin 4} {d : Fin 32} {a : Fin 32} {imm : BitVec 16} {ecc : Ecc} {s : State}
    (hs : Keep sB s) : KeepN sB (execLhu f c d a imm ecc s) := by
  unfold execLhu
  repeat' first
    | with_reducible assumption
    | with_reducible apply loadOp_keep
    | with_reducible apply KeepN.next
    | with_reducible apply KeepN.fault
    | with_reducible apply KeepN.refused
    | (with_reducible apply KeepN.of_next; with_reducible assumption)
    | (with_reducible apply KeepN.un_next; with_reducible assumption)

theorem execLw_keep {sB : State} {f : Fin 64} {c : Fin 4} {d : Fin 32} {a : Fin 32} {imm : BitVec 16} {ecc : Ecc} {s : State}
    (hs : Keep sB s) : KeepN sB (execLw f c d a imm ecc s) := by
  unfold execLw
  repeat' first
    | with_reducible assumption
    | with_reducible apply loadOp_keep
    | with_reducible apply KeepN.next
    | with_reducible apply KeepN.fault
    | with_reducible apply KeepN.refused
    | (with_reducible apply KeepN.of_next; with_reducible assumption)
    | (with_reducible apply KeepN.un_next; with_reducible assumption)

theorem execLwu_keep {sB : State} {f : Fin 64} {c : Fin 4} {d : Fin 32} {a : Fin 32} {imm : BitVec 16} {ecc : Ecc} {s : State}
    (hs : Keep sB s) : KeepN sB (execLwu f c d a imm ecc s) := by
  unfold execLwu
  repeat' first
    | with_reducible assumption
    | with_reducible apply loadOp_keep
    | with_reducible apply KeepN.next
    | with_reducible apply KeepN.fault
    | with_reducible apply KeepN.refused
    | (with_reducible apply KeepN.of_next; with_reducible assumption)
    | (with_reducible apply KeepN.un_next; with_reducible assumption)

theorem execLd_keep {sB : State} {f : Fin 64} {c : Fin 4} {d : Fin 32} {a : Fin 32} {imm : BitVec 16} {ecc : Ecc} {s : State}
    (hs : Keep sB s) : KeepN sB (execLd f c d a imm ecc s) := by
  unfold execLd
  repeat' first
    | with_reducible assumption
    | with_reducible apply loadOp_keep
    | with_reducible apply KeepN.next
    | with_reducible apply KeepN.fault
    | with_reducible apply KeepN.refused
    | (with_reducible apply KeepN.of_next; with_reducible assumption)
    | (with_reducible apply KeepN.un_next; with_reducible assumption)

theorem storeAt_keep {sB : State} {s : State} {f : Nat} {c : Nat} {p : Place} {d : List Byte}
    (hs : Keep sB s) : Keep sB (storeAt s f c p d) := by
  unfold storeAt
  repeat' first
    | with_reducible assumption
    | with_reducible apply State.setCore_keep
    | with_reducible apply State.setFm_keep
    | (extract_lets +onlyGivenNames x
       first
         | (refine (fun (hx : Keep sB x) => ?_) ?_; clear_value x; rotate_left; subst x)
         | (have := fun a => x a; clear this; subst x)
         | clear_value x
         | subst x)
    | split
    | (with_reducible apply Keep.ofMk; with_reducible apply Keep.fold)

theorem storeOp_keep {sB : State} {maj : Nat} {f : Nat} {c : Nat} {b : Nat} {a : Nat} {imm : BitVec 16} {n : Nat} {s : State}
    (hs : Keep sB s) : KeepN sB (storeOp maj f c b a imm n s) := by
  unfold storeOp
  repeat' first
    | with_reducible assumption
    | with_reducible apply finish_keep
    | with_reducible apply coreFault_keep
    | with_reducible apply coreStep_keep
    | with_reducible apply advance_keep
    | with_reducible apply storeAt_keep
    | with_reducible apply KeepN.next
    | with_reducible apply KeepN.fault
    | with_reducible apply KeepN.refused
    | (extract_lets +onlyGivenNames x
       first
         | (refine (fun (hx : Keep sB x) => ?_) ?_; clear_value x; rotate_left; subst x)
         | (refine (fun (hx : KeepN sB x) => ?_) ?_; clear_value x; rotate_left; subst x)
         | (have := fun a => x a; clear this; subst x)
         | clear_value x
         | subst x)
    | split
    | (with_reducible apply KeepN.of_next; with_reducible assumption)
    | (with_reducible apply KeepN.un_next; with_reducible assumption)
    | (with_reducible apply Keep.ofMk; with_reducible apply Keep.fold)

theorem execSb_keep {sB : State} {f : Fin 64} {c : Fin 4} {b : Fin 32} {a : Fin 32} {imm : BitVec 16} {s : State}
    (hs : Keep sB s) : KeepN sB (execSb f c b a imm s) := by
  unfold execSb
  repeat' first
    | with_reducible assumption
    | with_reducible apply storeOp_keep
    | with_reducible apply KeepN.next
    | with_reducible apply KeepN.fault
    | with_reducible apply KeepN.refused
    | (with_reducible apply KeepN.of_next; with_reducible assumption)
    | (with_reducible apply KeepN.un_next; with_reducible assumption)

theorem execSh_keep {sB : State} {f : Fin 64} {c : Fin 4} {b : Fin 32} {a : Fin 32} {imm : BitVec 16} {s : State}
    (hs : Keep sB s) : KeepN sB (execSh f c b a imm s) := by
  unfold execSh
  repeat' first
    | with_reducible assumption
    | with_reducible apply storeOp_keep
    | with_reducible apply KeepN.next
    | with_reducible apply KeepN.fault
    | with_reducible apply KeepN.refused
    | (with_reducible apply KeepN.of_next; with_reducible assumption)
    | (with_reducible apply KeepN.un_next; with_reducible assumption)

theorem execSw_keep {sB : State} {f : Fin 64} {c : Fin 4} {b : Fin 32} {a : Fin 32} {imm : BitVec 16} {s : State}
    (hs : Keep sB s) : KeepN sB (execSw f c b a imm s) := by
  unfold execSw
  repeat' first
    | with_reducible assumption
    | with_reducible apply storeOp_keep
    | with_reducible apply KeepN.next
    | with_reducible apply KeepN.fault
    | with_reducible apply KeepN.refused
    | (with_reducible apply KeepN.of_next; with_reducible assumption)
    | (with_reducible apply KeepN.un_next; with_reducible assumption)

theorem execSd_keep {sB : State} {f : Fin 64} {c : Fin 4} {b : Fin 32} {a : Fin 32} {imm : BitVec 16} {s : State}
    (hs : Keep sB s) : KeepN sB (execSd f c b a imm s) := by
  unfold execSd
  repeat' first
    | with_reducible assumption
    | with_reducible apply storeOp_keep
    | with_reducible apply KeepN.next
    | with_reducible apply KeepN.fault
    | with_reducible apply KeepN.refused
    | (with_reducible apply KeepN.of_next; with_reducible assumption)
    | (with_reducible apply KeepN.un_next; with_reducible assumption)

theorem branchOp_keep {sB : State} {maj : Nat} {f : Nat} {c : Nat} {b : Nat} {a : Nat} {imm : BitVec 16} {cond : Bool} {s : State}
    (hs : Keep sB s) : KeepN sB (branchOp maj f c b a imm cond s) := by
  unfold branchOp
  repeat' first
    | with_reducible assumption
    | with_reducible apply State.setPc_keep
    | with_reducible apply coreStep_keep
    | with_reducible apply advance_keep
    | with_reducible apply KeepN.next
    | with_reducible apply KeepN.fault
    | with_reducible apply KeepN.refused
    | with_reducible apply Keep.ite
    | with_reducible apply KeepN.ite
    | split
    | (with_reducible apply KeepN.of_next; with_reducible assumption)
    | (with_reducible apply KeepN.un_next; with_reducible assumption)

theorem execBeq_keep {sB : State} {f : Fin 64} {c : Fin 4} {b : Fin 32} {a : Fin 32} {imm : BitVec 16} {s : State}
    (hs : Keep sB s) : KeepN sB (execBeq f c b a imm s) := by
  unfold execBeq
  repeat' first
    | with_reducible assumption
    | with_reducible apply branchOp_keep
    | with_reducible apply KeepN.next
    | with_reducible apply KeepN.fault
    | with_reducible apply KeepN.refused
    | (with_reducible apply KeepN.of_next; with_reducible assumption)
    | (with_reducible apply KeepN.un_next; with_reducible assumption)

theorem execBne_keep {sB : State} {f : Fin 64} {c : Fin 4} {b : Fin 32} {a : Fin 32} {imm : BitVec 16} {s : State}
    (hs : Keep sB s) : KeepN sB (execBne f c b a imm s) := by
  unfold execBne
  repeat' first
    | with_reducible assumption
    | with_reducible apply branchOp_keep
    | with_reducible apply KeepN.next
    | with_reducible apply KeepN.fault
    | with_reducible apply KeepN.refused
    | (with_reducible apply KeepN.of_next; with_reducible assumption)
    | (with_reducible apply KeepN.un_next; with_reducible assumption)

theorem execBlt_keep {sB : State} {f : Fin 64} {c : Fin 4} {b : Fin 32} {a : Fin 32} {imm : BitVec 16} {s : State}
    (hs : Keep sB s) : KeepN sB (execBlt f c b a imm s) := by
  unfold execBlt
  repeat' first
    | with_reducible assumption
    | with_reducible apply branchOp_keep
    | with_reducible apply KeepN.next
    | with_reducible apply KeepN.fault
    | with_reducible apply KeepN.refused
    | (with_reducible apply KeepN.of_next; with_reducible assumption)
    | (with_reducible apply KeepN.un_next; with_reducible assumption)

theorem execBge_keep {sB : State} {f : Fin 64} {c : Fin 4} {b : Fin 32} {a : Fin 32} {imm : BitVec 16} {s : State}
    (hs : Keep sB s) : KeepN sB (execBge f c b a imm s) := by
  unfold execBge
  repeat' first
    | with_reducible assumption
    | with_reducible apply branchOp_keep
    | with_reducible apply KeepN.next
    | with_reducible apply KeepN.fault
    | with_reducible apply KeepN.refused
    | (with_reducible apply KeepN.of_next; with_reducible assumption)
    | (with_reducible apply KeepN.un_next; with_reducible assumption)

theorem execBltu_keep {sB : State} {f : Fin 64} {c : Fin 4} {b : Fin 32} {a : Fin 32} {imm : BitVec 16} {s : State}
    (hs : Keep sB s) : KeepN sB (execBltu f c b a imm s) := by
  unfold execBltu
  repeat' first
    | with_reducible assumption
    | with_reducible apply branchOp_keep
    | with_reducible apply KeepN.next
    | with_reducible apply KeepN.fault
    | with_reducible apply KeepN.refused
    | (with_reducible apply KeepN.of_next; with_reducible assumption)
    | (with_reducible apply KeepN.un_next; with_reducible assumption)

theorem execBgeu_keep {sB : State} {f : Fin 64} {c : Fin 4} {b : Fin 32} {a : Fin 32} {imm : BitVec 16} {s : State}
    (hs : Keep sB s) : KeepN sB (execBgeu f c b a imm s) := by
  unfold execBgeu
  repeat' first
    | with_reducible assumption
    | with_reducible apply branchOp_keep
    | with_reducible apply KeepN.next
    | with_reducible apply KeepN.fault
    | with_reducible apply KeepN.refused
    | (with_reducible apply KeepN.of_next; with_reducible assumption)
    | (with_reducible apply KeepN.un_next; with_reducible assumption)

theorem execJ_keep {sB : State} {f : Fin 64} {c : Fin 4} {ofs : BitVec 26} {s : State}
    (hs : Keep sB s) : KeepN sB (execJ f c ofs s) := by
  unfold execJ
  repeat' first
    | with_reducible assumption
    | with_reducible apply State.setPc_keep
    | with_reducible apply coreStep_keep
    | with_reducible apply KeepN.next
    | with_reducible apply KeepN.fault
    | with_reducible apply KeepN.refused
    | (with_reducible apply KeepN.of_next; with_reducible assumption)
    | (with_reducible apply KeepN.un_next; with_reducible assumption)

theorem execJal_keep {sB : State} {f : Fin 64} {c : Fin 4} {ofs : BitVec 26} {s : State}
    (hs : Keep sB s) : KeepN sB (execJal f c ofs s) := by
  unfold execJal
  repeat' first
    | with_reducible assumption
    | with_reducible apply State.setGreg_keep
    | with_reducible apply State.setPc_keep
    | with_reducible apply coreStep_keep
    | with_reducible apply KeepN.next
    | with_reducible apply KeepN.fault
    | with_reducible apply KeepN.refused
    | (with_reducible apply KeepN.of_next; with_reducible assumption)
    | (with_reducible apply KeepN.un_next; with_reducible assumption)

theorem execJalr_keep {sB : State} {f : Fin 64} {c : Fin 4} {d : Fin 32} {a : Fin 32} {imm : BitVec 16} {s : State}
    (hs : Keep sB s) : KeepN sB (execJalr f c d a imm s) := by
  unfold execJalr
  repeat' first
    | with_reducible assumption
    | with_reducible apply State.setGreg_keep
    | with_reducible apply finish_keep
    | with_reducible apply State.setPc_keep
    | with_reducible apply coreFault_keep
    | with_reducible apply coreStep_keep
    | with_reducible apply KeepN.next
    | with_reducible apply KeepN.fault
    | with_reducible apply KeepN.refused
    | (extract_lets +onlyGivenNames x
       first
         | (refine (fun (hx : Keep sB x) => ?_) ?_; clear_value x; rotate_left; subst x)
         | (refine (fun (hx : KeepN sB x) => ?_) ?_; clear_value x; rotate_left; subst x)
         | (have := fun a => x a; clear this; subst x)
         | clear_value x
         | subst x)
    | with_reducible apply Keep.ite
    | with_reducible apply KeepN.ite
    | split
    | (with_reducible apply KeepN.of_next; with_reducible assumption)
    | (with_reducible apply KeepN.un_next; with_reducible assumption)

theorem execUndefinedEncoding_keep {sB : State} {f : Fin 64} {c : Fin 4} {w : BitVec 32} {s : State}
    (hs : Keep sB s) : KeepN sB (execUndefinedEncoding f c w s) := by
  unfold execUndefinedEncoding
  repeat' first
    | with_reducible assumption
    | with_reducible apply finish_keep
    | with_reducible apply coreFault_keep
    | with_reducible apply coreStep_keep
    | with_reducible apply KeepN.next
    | with_reducible apply KeepN.fault
    | with_reducible apply KeepN.refused
    | with_reducible apply Keep.ite
    | with_reducible apply KeepN.ite
    | split
    | (with_reducible apply KeepN.of_next; with_reducible assumption)
    | (with_reducible apply KeepN.un_next; with_reducible assumption)

theorem execIcacheFill_keep {sB : State} {f : Fin 64} {c : Fin 4} {resp : Resp} {s : State}
    (hs : Keep sB s) : KeepN sB (execIcacheFill f c resp s) := by
  unfold execIcacheFill
  repeat' first
    | with_reducible assumption
    | with_reducible apply State.setCore_keep
    | with_reducible apply State.tickFresh_keep
    | with_reducible apply devRead_keep
    | with_reducible apply devRead_keep_st
    | with_reducible apply finish_keep
    | with_reducible apply coreFault_keep
    | with_reducible apply coreRun_keep
    | with_reducible apply KeepN.next
    | with_reducible apply KeepN.fault
    | with_reducible apply KeepN.refused
    | (extract_lets +onlyGivenNames x
       first
         | (refine (fun (hx : Keep sB x) => ?_) ?_; clear_value x; rotate_left; subst x)
         | (refine (fun (hx : KeepMem sB x) => ?_) ?_; clear_value x; have hx2 := KeepMem.proj hx; rotate_left; subst x)
         | (refine (fun (hx : KeepN sB x) => ?_) ?_; clear_value x; rotate_left; subst x)
         | (have := fun a => x a; clear this; subst x)
         | clear_value x
         | subst x)
    | with_reducible apply Keep.ite
    | with_reducible apply KeepMem.ite
    | with_reducible apply KeepN.ite
    | split
    | (with_reducible apply KeepN.of_next; with_reducible assumption)
    | (with_reducible apply KeepN.un_next; with_reducible assumption)
    | with_reducible apply KeepMem.mk
    | (with_reducible apply Keep.ofMk; with_reducible apply Keep.fold)

theorem execQpush_keep {sB : State} {f : Fin 64} {c : Fin 4} {q : Fin 27} {a : Fin 32} {b : Fin 32} {s : State}
    (hs : Keep sB s) : KeepN sB (execQpush f c q a b s) := by
  unfold execQpush
  repeat' first
    | with_reducible assumption
    | with_reducible apply State.put_keep
    | with_reducible apply State.setQueue_keep
    | with_reducible apply startPass_keep
    | with_reducible apply finish_keep
    | with_reducible apply coreFault_keep
    | with_reducible apply coreStep_keep
    | with_reducible apply advance_keep
    | with_reducible apply KeepN.next
    | with_reducible apply KeepN.fault
    | with_reducible apply KeepN.refused
    | (extract_lets +onlyGivenNames x
       first
         | (refine (fun (hx : Keep sB x) => ?_) ?_; clear_value x; rotate_left; subst x)
         | (refine (fun (hx : KeepN sB x) => ?_) ?_; clear_value x; rotate_left; subst x)
         | (have := fun a => x a; clear this; subst x)
         | clear_value x
         | subst x)
    | with_reducible apply Keep.ite
    | with_reducible apply KeepN.ite
    | split
    | (with_reducible apply KeepN.of_next; with_reducible assumption)
    | (with_reducible apply KeepN.un_next; with_reducible assumption)
    | (with_reducible apply Keep.ofMk; with_reducible apply Keep.fold)

theorem beginWait_keep {sB : State} {s : State} {f : Nat} {c : Nat} {st : Nat} {on : Nat} {thresh : Nat}
    (hs : Keep sB s) : Keep sB (beginWait s f c st on thresh) := by
  unfold beginWait
  repeat' first
    | with_reducible assumption
    | with_reducible apply State.put_keep
    | with_reducible apply State.setCore_keep
    | (extract_lets +onlyGivenNames x
       first
         | (refine (fun (hx : Keep sB x) => ?_) ?_; clear_value x; rotate_left; subst x)
         | (have := fun a => x a; clear this; subst x)
         | clear_value x
         | subst x)
    | (with_reducible apply Keep.ofMk; with_reducible apply Keep.fold)

theorem execQwait_keep {sB : State} {f : Fin 64} {c : Fin 4} {q : Fin 27} {a : Fin 32} {s : State}
    (hs : Keep sB s) : KeepN sB (execQwait f c q a s) := by
  unfold execQwait
  repeat' first
    | with_reducible assumption
    | with_reducible apply finish_keep
    | with_reducible apply coreFault_keep
    | with_reducible apply coreStep_keep
    | with_reducible apply advance_keep
    | with_reducible apply beginWait_keep
    | with_reducible apply KeepN.next
    | with_reducible apply KeepN.fault
    | with_reducible apply KeepN.refused
    | with_reducible apply Keep.ite
    | with_reducible apply KeepN.ite
    | split
    | (with_reducible apply KeepN.of_next; with_reducible assumption)
    | (with_reducible apply KeepN.un_next; with_reducible assumption)

theorem endWait_keep {sB : State} {s : State} {f : Nat} {c : Nat}
    (hs : Keep sB s) : Keep sB (endWait s f c) := by
  unfold endWait
  repeat' first
    | with_reducible assumption
    | with_reducible apply State.put_keep
    | with_reducible apply advance_keep

theorem execQwaitRelease_keep {sB : State} {f : Fin 64} {c : Fin 4} {s : State}
    (hs : Keep sB s) : KeepN sB (execQwaitRelease f c s) := by
  unfold execQwaitRelease
  repeat' first
    | with_reducible assumption
    | with_reducible apply endWait_keep
    | with_reducible apply KeepN.next
    | with_reducible apply KeepN.fault
    | with_reducible apply KeepN.refused
    | (extract_lets +onlyGivenNames x
       first
         | (refine (fun (hx : Keep sB x) => ?_) ?_; clear_value x; rotate_left; subst x)
         | (refine (fun (hx : KeepN sB x) => ?_) ?_; clear_value x; rotate_left; subst x)
         | (have := fun a => x a; clear this; subst x)
         | clear_value x
         | subst x)
    | with_reducible apply Keep.ite
    | with_reducible apply KeepN.ite
    | split
    | (with_reducible apply KeepN.of_next; with_reducible assumption)
    | (with_reducible apply KeepN.un_next; with_reducible assumption)

theorem cancelWithStarved_keep {sB : State} {s : State} {f : Nat} {j : Nat}
    (hs : Keep sB s) : Keep sB (cancelWithStarved s f j) := by
  unfold cancelWithStarved
  repeat' first
    | with_reducible assumption
    | intro _
    | with_reducible apply cancelQueue_keep
    | with_reducible apply keepShFault_keep
    | with_reducible apply State.taskErr_keep
    | with_reducible apply Keep.foldl
    | (extract_lets +onlyGivenNames x
       first
         | (refine (fun (hx : Keep sB x) => ?_) ?_; clear_value x; rotate_left; subst x)
         | (have := fun a => x a; clear this; subst x)
         | clear_value x
         | subst x)
    | with_reducible apply Keep.ite
    | split

theorem execQcancel_keep {sB : State} {f : Fin 64} {c : Fin 4} {j : Fin 16} {s : State}
    (hs : Keep sB s) : KeepN sB (execQcancel f c j s) := by
  unfold execQcancel
  repeat' first
    | with_reducible assumption
    | with_reducible apply finish_keep
    | with_reducible apply coreFault_keep
    | with_reducible apply coreStep_keep
    | with_reducible apply advance_keep
    | with_reducible apply cancelWithStarved_keep
    | with_reducible apply KeepN.next
    | with_reducible apply KeepN.fault
    | with_reducible apply KeepN.refused
    | with_reducible apply Keep.ite
    | with_reducible apply KeepN.ite
    | split
    | (with_reducible apply KeepN.of_next; with_reducible assumption)
    | (with_reducible apply KeepN.un_next; with_reducible assumption)

theorem execKadd_keep {sB : State} {f : Fin 64} {c : Fin 4} {a : Fin 32} {b : Fin 32} {s : State}
    (hs : Keep sB s) : KeepN sB (execKadd f c a b s) := by
  unfold execKadd
  repeat' first
    | with_reducible assumption
    | with_reducible apply knotAdd_keep
    | with_reducible apply finish_keep
    | with_reducible apply meshSend_keep
    | with_reducible apply coreFault_keep
    | with_reducible apply coreStep_keep
    | with_reducible apply advance_keep
    | with_reducible apply KeepN.next
    | with_reducible apply KeepN.fault
    | with_reducible apply KeepN.refused
    | (extract_lets +onlyGivenNames x
       first
         | (refine (fun (hx : Keep sB x) => ?_) ?_; clear_value x; rotate_left; subst x)
         | (refine (fun (hx : KeepN sB x) => ?_) ?_; clear_value x; rotate_left; subst x)
         | (have := fun a => x a; clear this; subst x)
         | clear_value x
         | subst x)
    | with_reducible apply Keep.ite
    | with_reducible apply KeepN.ite
    | split
    | (with_reducible apply KeepN.of_next; with_reducible assumption)
    | (with_reducible apply KeepN.un_next; with_reducible assumption)

theorem execKset_keep {sB : State} {f : Fin 64} {c : Fin 4} {a : Fin 32} {b : Fin 32} {s : State}
    (hs : Keep sB s) : KeepN sB (execKset f c a b s) := by
  unfold execKset
  repeat' first
    | with_reducible assumption
    | with_reducible apply State.put_keep
    | with_reducible apply finish_keep
    | with_reducible apply coreFault_keep
    | with_reducible apply coreStep_keep
    | with_reducible apply advance_keep
    | with_reducible apply KeepN.next
    | with_reducible apply KeepN.fault
    | with_reducible apply KeepN.refused
    | (extract_lets +onlyGivenNames x
       first
         | (refine (fun (hx : Keep sB x) => ?_) ?_; clear_value x; rotate_left; subst x)
         | (refine (fun (hx : KeepN sB x) => ?_) ?_; clear_value x; rotate_left; subst x)
         | (have := fun a => x a; clear this; subst x)
         | clear_value x
         | subst x)
    | with_reducible apply Keep.ite
    | with_reducible apply KeepN.ite
    | split
    | (with_reducible apply KeepN.of_next; with_reducible assumption)
    | (with_reducible apply KeepN.un_next; with_reducible assumption)

theorem execKwait_keep {sB : State} {f : Fin 64} {c : Fin 4} {a : Fin 32} {b : Fin 32} {s : State}
    (hs : Keep sB s) : KeepN sB (execKwait f c a b s) := by
  unfold execKwait
  repeat' first
    | with_reducible assumption
    | with_reducible apply finish_keep
    | with_reducible apply coreFault_keep
    | with_reducible apply coreStep_keep
    | with_reducible apply advance_keep
    | with_reducible apply beginWait_keep
    | with_reducible apply KeepN.next
    | with_reducible apply KeepN.fault
    | with_reducible apply KeepN.refused
    | (extract_lets +onlyGivenNames x
       first
         | (refine (fun (hx : Keep sB x) => ?_) ?_; clear_value x; rotate_left; subst x)
         | (refine (fun (hx : KeepN sB x) => ?_) ?_; clear_value x; rotate_left; subst x)
         | (have := fun a => x a; clear this; subst x)
         | clear_value x
         | subst x)
    | with_reducible apply Keep.ite
    | with_reducible apply KeepN.ite
    | split
    | (with_reducible apply KeepN.of_next; with_reducible assumption)
    | (with_reducible apply KeepN.un_next; with_reducible assumption)

theorem execKwaitRelease_keep {sB : State} {f : Fin 64} {c : Fin 4} {s : State}
    (hs : Keep sB s) : KeepN sB (execKwaitRelease f c s) := by
  unfold execKwaitRelease
  repeat' first
    | with_reducible assumption
    | with_reducible apply endWait_keep
    | with_reducible apply KeepN.next
    | with_reducible apply KeepN.fault
    | with_reducible apply KeepN.refused
    | (extract_lets +onlyGivenNames x
       first
         | (refine (fun (hx : Keep sB x) => ?_) ?_; clear_value x; rotate_left; subst x)
         | (refine (fun (hx : KeepN sB x) => ?_) ?_; clear_value x; rotate_left; subst x)
         | (have := fun a => x a; clear this; subst x)
         | clear_value x
         | subst x)
    | with_reducible apply Keep.ite
    | with_reducible apply KeepN.ite
    | split
    | (with_reducible apply KeepN.of_next; with_reducible assumption)
    | (with_reducible apply KeepN.un_next; with_reducible assumption)

theorem execWaitTimeout_keep {sB : State} {f : Fin 64} {c : Fin 4} {s : State}
    (hs : Keep sB s) : KeepN sB (execWaitTimeout f c s) := by
  unfold execWaitTimeout
  repeat' first
    | with_reducible assumption
    | with_reducible apply State.put_keep
    | with_reducible apply finish_keep
    | with_reducible apply coreFault_keep
    | with_reducible apply KeepN.next
    | with_reducible apply KeepN.fault
    | with_reducible apply KeepN.refused
    | (extract_lets +onlyGivenNames x
       first
         | (refine (fun (hx : Keep sB x) => ?_) ?_; clear_value x; rotate_left; subst x)
         | (refine (fun (hx : KeepN sB x) => ?_) ?_; clear_value x; rotate_left; subst x)
         | (have := fun a => x a; clear this; subst x)
         | clear_value x
         | subst x)
    | with_reducible apply Keep.ite
    | with_reducible apply KeepN.ite
    | split
    | (with_reducible apply KeepN.of_next; with_reducible assumption)
    | (with_reducible apply KeepN.un_next; with_reducible assumption)

theorem execKread_keep {sB : State} {f : Fin 64} {c : Fin 4} {d : Fin 32} {a : Fin 32} {s : State}
    (hs : Keep sB s) : KeepN sB (execKread f c d a s) := by
  unfold execKread
  repeat' first
    | with_reducible assumption
    | with_reducible apply State.setCore_keep
    | with_reducible apply State.setGreg_keep
    | with_reducible apply finish_keep
    | with_reducible apply meshSend_keep
    | with_reducible apply coreFault_keep
    | with_reducible apply coreStep_keep
    | with_reducible apply advance_keep
    | with_reducible apply KeepN.next
    | with_reducible apply KeepN.fault
    | with_reducible apply KeepN.refused
    | (extract_lets +onlyGivenNames x
       first
         | (refine (fun (hx : Keep sB x) => ?_) ?_; clear_value x; rotate_left; subst x)
         | (refine (fun (hx : KeepN sB x) => ?_) ?_; clear_value x; rotate_left; subst x)
         | (have := fun a => x a; clear this; subst x)
         | clear_value x
         | subst x)
    | with_reducible apply Keep.ite
    | with_reducible apply KeepN.ite
    | split
    | (with_reducible apply KeepN.of_next; with_reducible assumption)
    | (with_reducible apply KeepN.un_next; with_reducible assumption)
    | (with_reducible apply Keep.ofMk; with_reducible apply Keep.fold)

theorem execSleep_keep {sB : State} {f : Fin 64} {c : Fin 4} {s : State}
    (hs : Keep sB s) : KeepN sB (execSleep f c s) := by
  unfold execSleep
  repeat' first
    | with_reducible assumption
    | with_reducible apply State.put_keep
    | with_reducible apply State.setCore_keep
    | with_reducible apply coreStep_keep
    | with_reducible apply advance_keep
    | with_reducible apply KeepN.next
    | with_reducible apply KeepN.fault
    | with_reducible apply KeepN.refused
    | (extract_lets +onlyGivenNames x
       first
         | (refine (fun (hx : Keep sB x) => ?_) ?_; clear_value x; rotate_left; subst x)
         | (refine (fun (hx : KeepN sB x) => ?_) ?_; clear_value x; rotate_left; subst x)
         | (have := fun a => x a; clear this; subst x)
         | clear_value x
         | subst x)
    | with_reducible apply Keep.ite
    | with_reducible apply KeepN.ite
    | split
    | (with_reducible apply KeepN.of_next; with_reducible assumption)
    | (with_reducible apply KeepN.un_next; with_reducible assumption)
    | (with_reducible apply Keep.ofMk; with_reducible apply Keep.fold)

theorem execSleepWake_keep {sB : State} {f : Fin 64} {c : Fin 4} {s : State}
    (hs : Keep sB s) : KeepN sB (execSleepWake f c s) := by
  unfold execSleepWake
  repeat' first
    | with_reducible assumption
    | with_reducible apply State.setCore_keep
    | with_reducible apply endWait_keep
    | with_reducible apply KeepN.next
    | with_reducible apply KeepN.fault
    | with_reducible apply KeepN.refused
    | (extract_lets +onlyGivenNames x
       first
         | (refine (fun (hx : Keep sB x) => ?_) ?_; clear_value x; rotate_left; subst x)
         | (refine (fun (hx : KeepN sB x) => ?_) ?_; clear_value x; rotate_left; subst x)
         | (have := fun a => x a; clear this; subst x)
         | clear_value x
         | subst x)
    | with_reducible apply Keep.ite
    | with_reducible apply KeepN.ite
    | split
    | (with_reducible apply KeepN.of_next; with_reducible assumption)
    | (with_reducible apply KeepN.un_next; with_reducible assumption)
    | (with_reducible apply Keep.ofMk; with_reducible apply Keep.fold)

theorem execHalt_keep {sB : State} {f : Fin 64} {c : Fin 4} {s : State}
    (hs : Keep sB s) : KeepN sB (execHalt f c s) := by
  unfold execHalt
  repeat' first
    | with_reducible assumption
    | with_reducible apply State.put_keep
    | with_reducible apply coreStep_keep
    | with_reducible apply advance_keep
    | with_reducible apply KeepN.next
    | with_reducible apply KeepN.fault
    | with_reducible apply KeepN.refused
    | (with_reducible apply KeepN.of_next; with_reducible assumption)
    | (with_reducible apply KeepN.un_next; with_reducible assumption)

theorem notePhase_keep {sB : State} {s : State} {f : Nat}
    (hs : Keep sB s) : Keep sB (notePhase s f) := by
  unfold notePhase
  repeat' first
    | with_reducible assumption
    | (extract_lets +onlyGivenNames x
       first
         | (refine (fun (hx : Keep sB x) => ?_) ?_; clear_value x; rotate_left; subst x)
         | (have := fun a => x a; clear this; subst x)
         | clear_value x
         | subst x)
    | (with_reducible apply Keep.ofMk; with_reducible apply Keep.fold)

theorem execPhase_keep {sB : State} {f : Fin 64} {c : Fin 4} {tag : BitVec 8} {hint : Bool} {s : State}
    (hs : Keep sB s) : KeepN sB (execPhase f c tag hint s) := by
  unfold execPhase
  repeat' first
    | with_reducible assumption
    | with_reducible apply State.put_keep
    | with_reducible apply coreStep_keep
    | with_reducible apply advance_keep
    | with_reducible apply notePhase_keep
    | with_reducible apply KeepN.next
    | with_reducible apply KeepN.fault
    | with_reducible apply KeepN.refused
    | (extract_lets +onlyGivenNames x
       first
         | (refine (fun (hx : Keep sB x) => ?_) ?_; clear_value x; rotate_left; subst x)
         | (refine (fun (hx : KeepN sB x) => ?_) ?_; clear_value x; rotate_left; subst x)
         | (have := fun a => x a; clear this; subst x)
         | clear_value x
         | subst x)
    | with_reducible apply Keep.ite
    | with_reducible apply KeepN.ite
    | split
    | (with_reducible apply KeepN.of_next; with_reducible assumption)
    | (with_reducible apply KeepN.un_next; with_reducible assumption)

theorem execSysrd_keep {sB : State} {f : Fin 64} {c : Fin 4} {d : Fin 32} {sel : Fin 32} {s : State}
    (hs : Keep sB s) : KeepN sB (execSysrd f c d sel s) := by
  unfold execSysrd
  repeat' first
    | with_reducible assumption
    | with_reducible apply State.setGreg_keep
    | with_reducible apply finish_keep
    | with_reducible apply coreFault_keep
    | with_reducible apply coreStep_keep
    | with_reducible apply advance_keep
    | with_reducible apply KeepN.next
    | with_reducible apply KeepN.fault
    | with_reducible apply KeepN.refused
    | (extract_lets +onlyGivenNames x
       first
         | (refine (fun (hx : Keep sB x) => ?_) ?_; clear_value x; rotate_left; subst x)
         | (refine (fun (hx : KeepN sB x) => ?_) ?_; clear_value x; rotate_left; subst x)
         | (have := fun a => x a; clear this; subst x)
         | clear_value x
         | subst x)
    | with_reducible apply Keep.ite
    | with_reducible apply KeepN.ite
    | split
    | (with_reducible apply KeepN.of_next; with_reducible assumption)
    | (with_reducible apply KeepN.un_next; with_reducible assumption)
    | (with_reducible apply Keep.ofMk; with_reducible apply Keep.fold)

theorem execSysrdClaim_keep {sB : State} {f : Fin 64} {c : Fin 4} {d : Fin 32} {s : State}
    (hs : Keep sB s) : KeepN sB (execSysrdClaim f c d s) := by
  unfold execSysrdClaim
  repeat' first
    | with_reducible assumption
    | with_reducible apply State.setGreg_keep
    | with_reducible apply claim_keep
    | with_reducible apply claim_keep_st
    | with_reducible apply finish_keep
    | with_reducible apply coreStep_keep
    | with_reducible apply advance_keep
    | with_reducible apply KeepN.next
    | with_reducible apply KeepN.fault
    | with_reducible apply KeepN.refused
    | (extract_lets +onlyGivenNames x
       first
         | (refine (fun (hx : Keep sB x) => ?_) ?_; clear_value x; rotate_left; subst x)
         | (refine (fun (hx : Keep1 sB x) => ?_) ?_; clear_value x; have hx2 := Keep1.proj hx; rotate_left; subst x)
         | (refine (fun (hx : KeepN sB x) => ?_) ?_; clear_value x; rotate_left; subst x)
         | (have := fun a => x a; clear this; subst x)
         | clear_value x
         | subst x)
    | split
    | (with_reducible apply Keep1.elim; with_reducible assumption)
    | (with_reducible apply Keep1.elimM; with_reducible assumption)
    | (with_reducible apply KeepN.of_next; with_reducible assumption)
    | (with_reducible apply KeepN.un_next; with_reducible assumption)
    | with_reducible apply Keep1.mk
    | (with_reducible apply Keep.ofMk; with_reducible apply Keep.fold)

theorem execEvdone_keep {sB : State} {f : Fin 64} {c : Fin 4} {a : Fin 32} {s : State}
    (hs : Keep sB s) : KeepN sB (execEvdone f c a s) := by
  unfold execEvdone
  repeat' first
    | with_reducible assumption
    | with_reducible apply complete_keep
    | with_reducible apply finish_keep
    | with_reducible apply coreStep_keep
    | with_reducible apply advance_keep
    | with_reducible apply KeepN.next
    | with_reducible apply KeepN.fault
    | with_reducible apply KeepN.refused
    | (with_reducible apply KeepN.of_next; with_reducible assumption)
    | (with_reducible apply KeepN.un_next; with_reducible assumption)

theorem execKnotWrite_keep {sB : State} {f : Fin 64} {k : Fin 256} {value : BitVec 32} {s : State}
    (hs : Keep sB s) : KeepN sB (execKnotWrite f k value s) := by
  unfold execKnotWrite
  repeat' first
    | with_reducible assumption
    | with_reducible apply State.put_keep
    | with_reducible apply viaCtl_keep
    | with_reducible apply finish_keep
    | with_reducible apply KeepN.next
    | with_reducible apply KeepN.fault
    | with_reducible apply KeepN.refused
    | with_reducible apply Keep.ite
    | with_reducible apply KeepN.ite
    | split
    | (with_reducible apply KeepN.of_next; with_reducible assumption)
    | (with_reducible apply KeepN.un_next; with_reducible assumption)

theorem wakeFrame_keep {sB : State} {s : State} {f : Nat}
    (hs : Keep sB s) : Keep sB (wakeFrame s f) := by
  unfold wakeFrame
  repeat' first
    | with_reducible assumption
    | intro _
    | with_reducible apply State.setCore_keep
    | with_reducible apply Keep.foldl
    | (extract_lets +onlyGivenNames x
       first
         | (refine (fun (hx : Keep sB x) => ?_) ?_; clear_value x; rotate_left; subst x)
         | (have := fun a => x a; clear this; subst x)
         | clear_value x
         | subst x)
    | with_reducible apply Keep.ite
    | split
    | (with_reducible apply Keep.ofMk; with_reducible apply Keep.fold)

theorem execWake_keep {sB : State} {f : Fin 64} {s : State}
    (hs : Keep sB s) : KeepN sB (execWake f s) := by
  unfold execWake
  repeat' first
    | with_reducible assumption
    | with_reducible apply viaCtl_keep
    | with_reducible apply wakeFrame_keep
    | with_reducible apply KeepN.next
    | with_reducible apply KeepN.fault
    | with_reducible apply KeepN.refused
    | with_reducible apply Keep.ite
    | with_reducible apply KeepN.ite
    | split
    | (with_reducible apply KeepN.of_next; with_reducible assumption)
    | (with_reducible apply KeepN.un_next; with_reducible assumption)

theorem execFrameGate_keep {sB : State} {f : Fin 64} {s : State}
    (hs : Keep sB s) : KeepN sB (execFrameGate f s) := by
  unfold execFrameGate
  repeat' first
    | with_reducible assumption
    | intro _
    | with_reducible apply State.put_keep
    | with_reducible apply KeepN.next
    | with_reducible apply KeepN.fault
    | with_reducible apply KeepN.refused
    | with_reducible apply Keep.ite
    | with_reducible apply KeepN.ite
    | split
    | (with_reducible apply KeepN.of_next; with_reducible assumption)
    | (with_reducible apply KeepN.un_next; with_reducible assumption)

theorem execFrameUngate_keep {sB : State} {f : Fin 64} {s : State}
    (hs : Keep sB s) : KeepN sB (execFrameUngate f s) := by
  unfold execFrameUngate
  repeat' first
    | with_reducible assumption
    | intro _
    | with_reducible apply State.put_keep
    | with_reducible apply KeepN.next
    | with_reducible apply KeepN.fault
    | with_reducible apply KeepN.refused
    | with_reducible apply Keep.ite
    | with_reducible apply KeepN.ite
    | split
    | (with_reducible apply KeepN.of_next; with_reducible assumption)
    | (with_reducible apply KeepN.un_next; with_reducible assumption)

theorem tickMaster_keep {sB : State} {s : State}
    (hs : Keep sB s) : Keep sB (tickMaster s) := by
  unfold tickMaster
  repeat' first
    | with_reducible assumption
    | (extract_lets +onlyGivenNames x
       first
         | (refine (fun (hx : Keep sB x) => ?_) ?_; clear_value x; rotate_left; subst x)
         | (have := fun a => x a; clear this; subst x)
         | clear_value x
         | subst x)
    | split
    | (with_reducible apply Keep.ofMk; with_reducible apply Keep.fold)

theorem tickRegions_keep {sB : State} {s : State}
    (hs : Keep sB s) : Keep sB (tickRegions s) := by
  unfold tickRegions
  repeat' first
    | with_reducible assumption
    | intro _
    | with_reducible apply State.put_keep
    | with_reducible apply Keep.foldl
    | (extract_lets +onlyGivenNames x
       first
         | (refine (fun (hx : Keep sB x) => ?_) ?_; clear_value x; rotate_left; subst x)
         | (have := fun a => x a; clear this; subst x)
         | clear_value x
         | subst x)
    | with_reducible apply Keep.ite
    | split
    | (with_reducible apply Keep.ofMk; with_reducible apply Keep.fold)

theorem correctRegion_keep {sB : State} {s : State} {g : Nat}
    (hs : Keep sB s) : Keep sB (correctRegion s g) := by
  unfold correctRegion
  repeat' first
    | with_reducible assumption
    | with_reducible apply State.bump_keep
    | (extract_lets +onlyGivenNames x
       first
         | (refine (fun (hx : Keep sB x) => ?_) ?_; clear_value x; rotate_left; subst x)
         | (have := fun a => x a; clear this; subst x)
         | clear_value x
         | subst x)
    | with_reducible apply Keep.ite
    | split
    | (with_reducible apply Keep.ofMk; with_reducible apply Keep.fold)

theorem correctMaster_keep {sB : State} {s : State} {h : Int}
    (hs : Keep sB s) : Keep sB (correctMaster s h) := by
  unfold correctMaster
  repeat' first
    | with_reducible assumption
    | with_reducible apply State.put_keep
    | with_reducible apply State.bump_keep
    | (extract_lets +onlyGivenNames x
       first
         | (refine (fun (hx : Keep sB x) => ?_) ?_; clear_value x; rotate_left; subst x)
         | (have := fun a => x a; clear this; subst x)
         | clear_value x
         | subst x)
    | with_reducible apply Keep.ite
    | split
    | (with_reducible apply Keep.ofMk; with_reducible apply Keep.fold)

theorem execBeacon_keep {sB : State} {s : State}
    (hs : Keep sB s) : KeepN sB (execBeacon s) := by
  unfold execBeacon
  repeat' first
    | with_reducible assumption
    | intro _
    | with_reducible apply finish_keep
    | with_reducible apply correctRegion_keep
    | with_reducible apply Keep.foldl
    | with_reducible apply KeepN.next
    | with_reducible apply KeepN.fault
    | with_reducible apply KeepN.refused
    | (extract_lets +onlyGivenNames x
       first
         | (refine (fun (hx : Keep sB x) => ?_) ?_; clear_value x; rotate_left; subst x)
         | (refine (fun (hx : KeepN sB x) => ?_) ?_; clear_value x; rotate_left; subst x)
         | (have := fun a => x a; clear this; subst x)
         | clear_value x
         | subst x)
    | with_reducible apply Keep.ite
    | with_reducible apply KeepN.ite
    | split
    | (with_reducible apply KeepN.of_next; with_reducible assumption)
    | (with_reducible apply KeepN.un_next; with_reducible assumption)
    | (with_reducible apply Keep.ofMk; with_reducible apply Keep.fold)

theorem execPpsInEdge_keep {sB : State} {s : State}
    (hs : Keep sB s) : KeepN sB (execPpsInEdge s) := by
  unfold execPpsInEdge
  repeat' first
    | with_reducible assumption
    | with_reducible apply finish_keep
    | with_reducible apply correctMaster_keep
    | with_reducible apply KeepN.next
    | with_reducible apply KeepN.fault
    | with_reducible apply KeepN.refused
    | (extract_lets +onlyGivenNames x
       first
         | (refine (fun (hx : Keep sB x) => ?_) ?_; clear_value x; rotate_left; subst x)
         | (refine (fun (hx : KeepN sB x) => ?_) ?_; clear_value x; rotate_left; subst x)
         | (have := fun a => x a; clear this; subst x)
         | clear_value x
         | subst x)
    | with_reducible apply Keep.ite
    | with_reducible apply KeepN.ite
    | split
    | (with_reducible apply KeepN.of_next; with_reducible assumption)
    | (with_reducible apply KeepN.un_next; with_reducible assumption)
    | (with_reducible apply Keep.ofMk; with_reducible apply Keep.fold)

theorem execPpsOut_keep {sB : State} {s : State}
    (hs : Keep sB s) : KeepN sB (execPpsOut s) := by
  unfold execPpsOut
  repeat' first
    | with_reducible assumption
    | with_reducible apply KeepN.next
    | with_reducible apply KeepN.fault
    | with_reducible apply KeepN.refused
    | (extract_lets +onlyGivenNames x
       first
         | (refine (fun (hx : Keep sB x) => ?_) ?_; clear_value x; rotate_left; subst x)
         | (refine (fun (hx : KeepN sB x) => ?_) ?_; clear_value x; rotate_left; subst x)
         | (have := fun a => x a; clear this; subst x)
         | clear_value x
         | subst x)
    | with_reducible apply Keep.ite
    | with_reducible apply KeepN.ite
    | split
    | (with_reducible apply KeepN.of_next; with_reducible assumption)
    | (with_reducible apply KeepN.un_next; with_reducible assumption)
    | (with_reducible apply Keep.ofMk; with_reducible apply Keep.fold)

theorem execClockStretch_keep {sB : State} {f : Fin 64} {edges : Nat} {s : State}
    (hs : Keep sB s) : KeepN sB (execClockStretch f edges s) := by
  unfold execClockStretch
  repeat' first
    | with_reducible assumption
    | with_reducible apply State.bump_keep
    | with_reducible apply KeepN.next
    | with_reducible apply KeepN.fault
    | with_reducible apply KeepN.refused
    | (extract_lets +onlyGivenNames x
       first
         | (refine (fun (hx : Keep sB x) => ?_) ?_; clear_value x; rotate_left; subst x)
         | (refine (fun (hx : KeepN sB x) => ?_) ?_; clear_value x; rotate_left; subst x)
         | (have := fun a => x a; clear this; subst x)
         | clear_value x
         | subst x)
    | with_reducible apply Keep.ite
    | with_reducible apply KeepN.ite
    | split
    | (with_reducible apply KeepN.of_next; with_reducible assumption)
    | (with_reducible apply KeepN.un_next; with_reducible assumption)
    | (with_reducible apply Keep.ofMk; with_reducible apply Keep.fold)

theorem execPhaseError_keep {sB : State} {f : Fin 64} {s : State}
    (hs : Keep sB s) : KeepN sB (execPhaseError f s) := by
  unfold execPhaseError
  repeat' first
    | with_reducible assumption
    | with_reducible apply State.put_keep
    | with_reducible apply State.modErr_keep
    | with_reducible apply finish_keep
    | with_reducible apply KeepN.next
    | with_reducible apply KeepN.fault
    | with_reducible apply KeepN.refused
    | (with_reducible apply KeepN.of_next; with_reducible assumption)
    | (with_reducible apply KeepN.un_next; with_reducible assumption)

theorem requestFreq_keep {sB : State} {s : State} {m : Nat}
    (hs : Keep sB s) : Keep sB (requestFreq s m) := by
  unfold requestFreq
  repeat' first
    | with_reducible assumption
    | with_reducible apply State.put_keep
    | (extract_lets +onlyGivenNames x
       first
         | (refine (fun (hx : Keep sB x) => ?_) ?_; clear_value x; rotate_left; subst x)
         | (have := fun a => x a; clear this; subst x)
         | clear_value x
         | subst x)
    | with_reducible apply Keep.ite
    | split
    | (with_reducible apply Keep.ofMk; with_reducible apply Keep.fold)

theorem execFreqGo_keep {sB : State} {mhz : BitVec 12} {s : State}
    (hs : Keep sB s) : KeepN sB (execFreqGo mhz s) := by
  unfold execFreqGo
  repeat' first
    | with_reducible assumption
    | with_reducible apply State.put_keep
    | with_reducible apply finish_keep
    | with_reducible apply requestFreq_keep
    | with_reducible apply KeepN.next
    | with_reducible apply KeepN.fault
    | with_reducible apply KeepN.refused
    | with_reducible apply Keep.ite
    | with_reducible apply KeepN.ite
    | split
    | (with_reducible apply KeepN.of_next; with_reducible assumption)
    | (with_reducible apply KeepN.un_next; with_reducible assumption)

theorem beginChange_keep {sB : State} {s : State} {m : Nat} {backup : Bool} {restore : Bool}
    (hs : Keep sB s) : Keep sB (beginChange s m backup restore) := by
  unfold beginChange
  repeat' first
    | with_reducible assumption
    | with_reducible apply State.put_keep
    | (extract_lets +onlyGivenNames x
       first
         | (refine (fun (hx : Keep sB x) => ?_) ?_; clear_value x; rotate_left; subst x)
         | (have := fun a => x a; clear this; subst x)
         | clear_value x
         | subst x)
    | (with_reducible apply Keep.ofMk; with_reducible apply Keep.fold)

theorem execGoAccept_keep {sB : State} {s : State}
    (hs : Keep sB s) : KeepN sB (execGoAccept s) := by
  unfold execGoAccept
  repeat' first
    | with_reducible assumption
    | with_reducible apply beginChange_keep
    | with_reducible apply KeepN.next
    | with_reducible apply KeepN.fault
    | with_reducible apply KeepN.refused
    | (extract_lets +onlyGivenNames x
       first
         | (refine (fun (hx : Keep sB x) => ?_) ?_; clear_value x; rotate_left; subst x)
         | (refine (fun (hx : KeepN sB x) => ?_) ?_; clear_value x; rotate_left; subst x)
         | (have := fun a => x a; clear this; subst x)
         | clear_value x
         | subst x)
    | with_reducible apply Keep.ite
    | with_reducible apply KeepN.ite
    | split
    | (with_reducible apply KeepN.of_next; with_reducible assumption)
    | (with_reducible apply KeepN.un_next; with_reducible assumption)
    | (with_reducible apply Keep.ofMk; with_reducible apply Keep.fold)

theorem execFreqStop_keep {sB : State} {s : State}
    (hs : Keep sB s) : KeepN sB (execFreqStop s) := by
  unfold execFreqStop
  repeat' first
    | with_reducible assumption
    | intro _
    | with_reducible apply State.put_keep
    | with_reducible apply Keep.foldl
    | with_reducible apply KeepN.next
    | with_reducible apply KeepN.fault
    | with_reducible apply KeepN.refused
    | (extract_lets +onlyGivenNames x
       first
         | (refine (fun (hx : Keep sB x) => ?_) ?_; clear_value x; rotate_left; subst x)
         | (refine (fun (hx : KeepN sB x) => ?_) ?_; clear_value x; rotate_left; subst x)
         | (have := fun a => x a; clear this; subst x)
         | clear_value x
         | subst x)
    | with_reducible apply Keep.ite
    | with_reducible apply KeepN.ite
    | split
    | (with_reducible apply KeepN.of_next; with_reducible assumption)
    | (with_reducible apply KeepN.un_next; with_reducible assumption)
    | (with_reducible apply Keep.ofMk; with_reducible apply Keep.fold)

theorem shiftTimers_keep {sB : State} {s : State} {d : Nat}
    (hs : Keep sB s) : Keep sB (shiftTimers s d) := by
  unfold shiftTimers
  repeat' first
    | with_reducible assumption
    | intro _
    | (extract_lets +onlyGivenNames x
       first
         | (refine (fun (hx : Keep sB x) => ?_) ?_; clear_value x; rotate_left; subst x)
         | (have := fun a => x a; clear this; subst x)
         | clear_value x
         | subst x)
    | split
    | (with_reducible apply Keep.ofMk; with_reducible apply Keep.fold)

theorem relockAll_keep {sB : State} {s : State} {l : List Nat} {tree : Bool}
    (hs : Keep sB s) : Keep sB (relockAll s l tree) := by
  unfold relockAll
  repeat' first
    | with_reducible assumption
    | intro _
    | with_reducible apply State.put_keep
    | with_reducible apply Keep.foldl
    | (extract_lets +onlyGivenNames x
       first
         | (refine (fun (hx : Keep sB x) => ?_) ?_; clear_value x; rotate_left; subst x)
         | (have := fun a => x a; clear this; subst x)
         | clear_value x
         | subst x)
    | with_reducible apply Keep.ite
    | split

theorem syncHoldover_keep {sB : State} {s : State}
    (hs : Keep sB s) : Keep sB (syncHoldover s) := by
  unfold syncHoldover
  repeat' first
    | with_reducible assumption
    | intro _
    | with_reducible apply State.put_keep
    | split

theorem execFreqRestart_keep {sB : State} {unlocked : List (Fin 72)} {s : State}
    (hs : Keep sB s) : KeepN sB (execFreqRestart unlocked s) := by
  unfold execFreqRestart
  repeat' first
    | with_reducible assumption
    | intro _
    | with_reducible apply State.put_keep
    | with_reducible apply State.bump_keep
    | with_reducible apply noteMhz_keep
    | with_reducible apply State.modErr_keep
    | with_reducible apply finish_keep
    | with_reducible apply shiftTimers_keep
    | with_reducible apply relockAll_keep
    | with_reducible apply syncHoldover_keep
    | with_reducible apply KeepN.next
    | with_reducible apply KeepN.fault
    | with_reducible apply KeepN.refused
    | (extract_lets +onlyGivenNames x
       first
         | (refine (fun (hx : Keep sB x) => ?_) ?_; clear_value x; rotate_left; subst x)
         | (refine (fun (hx : KeepN sB x) => ?_) ?_; clear_value x; rotate_left; subst x)
         | (have := fun a => x a; clear this; subst x)
         | clear_value x
         | subst x)
    | with_reducible apply Keep.ite
    | with_reducible apply KeepN.ite
    | split
    | (with_reducible apply KeepN.of_next; with_reducible assumption)
    | (with_reducible apply KeepN.un_next; with_reducible assumption)
    | (with_reducible apply Keep.ofMk; with_reducible apply Keep.fold)

theorem State.setGen_keep {sB : State} {s : State} {g : Nat} {x : GenSt}
    (hs : Keep sB s) : Keep sB (State.setGen s g x) := by
  unfold State.setGen
  repeat' first
    | with_reducible assumption
    | (extract_lets +onlyGivenNames x
       first
         | (refine (fun (hx : Keep sB x) => ?_) ?_; clear_value x; rotate_left; subst x)
         | (have := fun a => x a; clear this; subst x)
         | clear_value x
         | subst x)
    | (with_reducible apply Keep.ofMk; with_reducible apply Keep.fold)

theorem clkCorr_keep {sB : State} {s : State} {g : Nat} {cause : Nat}
    (hs : Keep sB s) : Keep sB (clkCorr s g cause) := by
  unfold clkCorr
  repeat' first
    | with_reducible assumption
    | with_reducible apply State.logErr_keep

theorem noteLoss_keep {sB : State} {s : State} {g : Nat}
    (hs : Keep sB s) : Keep sB (noteLoss s g) := by
  unfold noteLoss
  repeat' first
    | with_reducible assumption
    | with_reducible apply State.put_keep
    | with_reducible apply State.bump_keep

theorem enterHold_keep {sB : State} {s : State} {g : Nat}
    (hs : Keep sB s) : Keep sB (enterHold s g) := by
  unfold enterHold
  repeat' first
    | with_reducible assumption
    | with_reducible apply State.put_keep
    | with_reducible apply syncHoldover_keep

theorem execReferenceLoss_keep {sB : State} {g : Fin 72} {tree : Bool} {s : State}
    (hs : Keep sB s) : KeepN sB (execReferenceLoss g tree s) := by
  unfold execReferenceLoss
  repeat' first
    | with_reducible assumption
    | with_reducible apply finish_keep
    | with_reducible apply State.setGen_keep
    | with_reducible apply clkCorr_keep
    | with_reducible apply noteLoss_keep
    | with_reducible apply enterHold_keep
    | with_reducible apply KeepN.next
    | with_reducible apply KeepN.fault
    | with_reducible apply KeepN.refused
    | (extract_lets +onlyGivenNames x
       first
         | (refine (fun (hx : Keep sB x) => ?_) ?_; clear_value x; rotate_left; subst x)
         | (refine (fun (hx : KeepN sB x) => ?_) ?_; clear_value x; rotate_left; subst x)
         | (have := fun a => x a; clear this; subst x)
         | clear_value x
         | subst x)
    | with_reducible apply Keep.ite
    | with_reducible apply KeepN.ite
    | split
    | (with_reducible apply KeepN.of_next; with_reducible assumption)
    | (with_reducible apply KeepN.un_next; with_reducible assumption)
    | (with_reducible apply Keep.ofMk; with_reducible apply Keep.fold)

theorem execReferenceReturn_keep {sB : State} {g : Fin 72} {tree : Bool} {s : State}
    (hs : Keep sB s) : KeepN sB (execReferenceReturn g tree s) := by
  unfold execReferenceReturn
  repeat' first
    | with_reducible assumption
    | with_reducible apply State.put_keep
    | with_reducible apply finish_keep
    | with_reducible apply syncHoldover_keep
    | with_reducible apply State.setGen_keep
    | with_reducible apply KeepN.next
    | with_reducible apply KeepN.fault
    | with_reducible apply KeepN.refused
    | (extract_lets +onlyGivenNames x
       first
         | (refine (fun (hx : Keep sB x) => ?_) ?_; clear_value x; rotate_left; subst x)
         | (refine (fun (hx : KeepN sB x) => ?_) ?_; clear_value x; rotate_left; subst x)
         | (have := fun a => x a; clear this; subst x)
         | clear_value x
         | subst x)
    | with_reducible apply Keep.ite
    | with_reducible apply KeepN.ite
    | split
    | (with_reducible apply KeepN.of_next; with_reducible assumption)
    | (with_reducible apply KeepN.un_next; with_reducible assumption)
    | (with_reducible apply Keep.ofMk; with_reducible apply Keep.fold)

theorem execHoldoverTimeout_keep {sB : State} {s : State}
    (hs : Keep sB s) : KeepN sB (execHoldoverTimeout s) := by
  unfold execHoldoverTimeout
  repeat' first
    | with_reducible assumption
    | intro _
    | with_reducible apply State.put_keep
    | with_reducible apply finish_keep
    | with_reducible apply beginChange_keep
    | with_reducible apply clkCorr_keep
    | with_reducible apply KeepN.next
    | with_reducible apply KeepN.fault
    | with_reducible apply KeepN.refused
    | (extract_lets +onlyGivenNames x
       first
         | (refine (fun (hx : Keep sB x) => ?_) ?_; clear_value x; rotate_left; subst x)
         | (refine (fun (hx : KeepN sB x) => ?_) ?_; clear_value x; rotate_left; subst x)
         | (have := fun a => x a; clear this; subst x)
         | clear_value x
         | subst x)
    | with_reducible apply Keep.ite
    | with_reducible apply KeepN.ite
    | split
    | (with_reducible apply KeepN.of_next; with_reducible assumption)
    | (with_reducible apply KeepN.un_next; with_reducible assumption)
    | (with_reducible apply Keep.ofMk; with_reducible apply Keep.fold)

theorem restoreClock_keep {sB : State} {s : State}
    (hs : Keep sB s) : Keep sB (restoreClock s) := by
  unfold restoreClock
  repeat' first
    | with_reducible assumption
    | with_reducible apply beginChange_keep
    | with_reducible apply clkCorr_keep
    | (extract_lets +onlyGivenNames x
       first
         | (refine (fun (hx : Keep sB x) => ?_) ?_; clear_value x; rotate_left; subst x)
         | (have := fun a => x a; clear this; subst x)
         | clear_value x
         | subst x)
    | with_reducible apply Keep.ite
    | split
    | (with_reducible apply Keep.ofMk; with_reducible apply Keep.fold)

theorem execRestore_keep {sB : State} {s : State}
    (hs : Keep sB s) : KeepN sB (execRestore s) := by
  unfold execRestore
  repeat' first
    | with_reducible assumption
    | with_reducible apply finish_keep
    | with_reducible apply restoreClock_keep
    | with_reducible apply KeepN.next
    | with_reducible apply KeepN.fault
    | with_reducible apply KeepN.refused
    | with_reducible apply Keep.ite
    | with_reducible apply KeepN.ite
    | split
    | (with_reducible apply KeepN.of_next; with_reducible assumption)
    | (with_reducible apply KeepN.un_next; with_reducible assumption)

theorem sampleClass_keep {sB : State} {s : State} {code : Nat}
    (hs : Keep sB s) : Keep sB (sampleClass s code) := by
  unfold sampleClass
  repeat' first
    | with_reducible assumption
    | with_reducible apply State.put_keep
    | (extract_lets +onlyGivenNames x
       first
         | (refine (fun (hx : Keep sB x) => ?_) ?_; clear_value x; rotate_left; subst x)
         | (have := fun a => x a; clear this; subst x)
         | clear_value x
         | subst x)
    | split
    | (with_reducible apply Keep.ofMk; with_reducible apply Keep.fold)

theorem execCoolIdSample_keep {sB : State} {code : BitVec 3} {s : State}
    (hs : Keep sB s) : KeepN sB (execCoolIdSample code s) := by
  unfold execCoolIdSample
  repeat' first
    | with_reducible assumption
    | with_reducible apply State.put_keep
    | with_reducible apply State.modErr_keep
    | with_reducible apply finish_keep
    | with_reducible apply KeepN.next
    | with_reducible apply KeepN.fault
    | with_reducible apply KeepN.refused
    | (extract_lets +onlyGivenNames x
       first
         | (refine (fun (hx : Keep sB x) => ?_) ?_; clear_value x; rotate_left; subst x)
         | (refine (fun (hx : KeepN sB x) => ?_) ?_; clear_value x; rotate_left; subst x)
         | (have := fun a => x a; clear this; subst x)
         | clear_value x
         | subst x)
    | with_reducible apply Keep.ite
    | with_reducible apply KeepN.ite
    | split
    | (with_reducible apply KeepN.of_next; with_reducible assumption)
    | (with_reducible apply KeepN.un_next; with_reducible assumption)
    | (with_reducible apply Keep.ofMk; with_reducible apply Keep.fold)

theorem execPwrCapUserWrite_keep {sB : State} {watts : BitVec 16} {s : State}
    (hs : Keep sB s) : KeepN sB (execPwrCapUserWrite watts s) := by
  unfold execPwrCapUserWrite
  repeat' first
    | with_reducible assumption
    | with_reducible apply State.put_keep
    | with_reducible apply KeepN.next
    | with_reducible apply KeepN.fault
    | with_reducible apply KeepN.refused
    | with_reducible apply Keep.ite
    | with_reducible apply KeepN.ite
    | split
    | (with_reducible apply KeepN.of_next; with_reducible assumption)
    | (with_reducible apply KeepN.un_next; with_reducible assumption)

theorem limitSample_keep {sB : State} {s : State} {inW : Nat} {dieW : Nat}
    (hs : Keep sB s) : Keep sB (limitSample s inW dieW) := by
  unfold limitSample
  repeat' first
    | with_reducible assumption
    | intro _
    | with_reducible apply State.put_keep
    | (extract_lets +onlyGivenNames x
       first
         | (refine (fun (hx : Keep sB x) => ?_) ?_; clear_value x; rotate_left; subst x)
         | (have := fun a => x a; clear this; subst x)
         | clear_value x
         | subst x)
    | with_reducible apply Keep.ite
    | split
    | (with_reducible apply Keep.ofMk; with_reducible apply Keep.fold)

theorem execFastLimiter_keep {sB : State} {inW : Nat} {dieW : Nat} {s : State}
    (hs : Keep sB s) : KeepN sB (execFastLimiter inW dieW s) := by
  unfold execFastLimiter
  repeat' first
    | with_reducible assumption
    | with_reducible apply limitSample_keep
    | with_reducible apply KeepN.next
    | with_reducible apply KeepN.fault
    | with_reducible apply KeepN.refused
    | with_reducible apply Keep.ite
    | with_reducible apply KeepN.ite
    | split
    | (with_reducible apply KeepN.of_next; with_reducible assumption)
    | (with_reducible apply KeepN.un_next; with_reducible assumption)

theorem learnPhase_keep {sB : State} {s : State} {m : Nat} {est : List Nat} {k : Nat} {p : Nat}
    (hs : Keep sB s) : Keep sB (learnPhase s m est k p) := by
  unfold learnPhase
  repeat' first
    | with_reducible assumption
    | intro _
    | with_reducible apply State.put_keep
    | (extract_lets +onlyGivenNames x
       first
         | (refine (fun (hx : Keep sB x) => ?_) ?_; clear_value x; rotate_left; subst x)
         | (have := fun a => x a; clear this; subst x)
         | clear_value x
         | subst x)
    | with_reducible apply Keep.ite
    | split

theorem learn_keep {sB : State} {s : State} {m : Meas} {k : Nat}
    (hs : Keep sB s) : Keep sB (learn s m k) := by
  unfold learn
  repeat' first
    | with_reducible assumption
    | intro _
    | with_reducible apply learnPhase_keep
    | with_reducible apply Keep.foldl
    | with_reducible apply Keep.ite
    | split

theorem evalThrottle_keep {sB : State} {s : State}
    (hs : Keep sB s) : Keep sB (evalThrottle s) := by
  unfold evalThrottle
  repeat' first
    | with_reducible assumption
    | with_reducible apply State.put_keep
    | with_reducible apply State.bump_keep
    | with_reducible apply State.logErr_keep
    | (extract_lets +onlyGivenNames x
       first
         | (refine (fun (hx : Keep sB x) => ?_) ?_; clear_value x; rotate_left; subst x)
         | (have := fun a => x a; clear this; subst x)
         | clear_value x
         | subst x)
    | with_reducible apply Keep.ite
    | split

theorem writeStatRec_keep {sB : State} {s : State} {k : Nat} {inW : Nat}
    (hs : Keep sB s) : Keep sB (writeStatRec s k inW) := by
  unfold writeStatRec
  repeat' first
    | with_reducible assumption
    | with_reducible apply devWrite_keep
    | with_reducible apply devWrite_keep_st
    | (extract_lets +onlyGivenNames x
       first
         | (refine (fun (hx : Keep sB x) => ?_) ?_; clear_value x; rotate_left; subst x)
         | (refine (fun (hx : KeepMem sB x) => ?_) ?_; clear_value x; have hx2 := KeepMem.proj hx; rotate_left; subst x)
         | (have := fun a => x a; clear this; subst x)
         | clear_value x
         | subst x)
    | with_reducible apply Keep.ite
    | with_reducible apply KeepMem.ite
    | split
    | with_reducible apply KeepMem.mk

theorem noteTemps_keep {sB : State} {s : State} {tj : List Nat}
    (hs : Keep sB s) : Keep sB (noteTemps s tj) := by
  unfold noteTemps
  repeat' first
    | with_reducible assumption
    | intro _
    | with_reducible apply State.put_keep
    | with_reducible apply State.logErr_keep
    | (extract_lets +onlyGivenNames x
       first
         | (refine (fun (hx : Keep sB x) => ?_) ?_; clear_value x; rotate_left; subst x)
         | (have := fun a => x a; clear this; subst x)
         | clear_value x
         | subst x)
    | with_reducible apply Keep.ite
    | split
    | (with_reducible apply Keep.ofMk; with_reducible apply Keep.fold)

theorem execGovernorInterval_keep {sB : State} {m : Meas} {s : State}
    (hs : Keep sB s) : KeepN sB (execGovernorInterval m s) := by
  unfold execGovernorInterval
  repeat' first
    | with_reducible assumption
    | with_reducible apply State.put_keep
    | with_reducible apply finish_keep
    | with_reducible apply requestFreq_keep
    | with_reducible apply limitSample_keep
    | with_reducible apply learn_keep
    | with_reducible apply evalThrottle_keep
    | with_reducible apply writeStatRec_keep
    | with_reducible apply noteTemps_keep
    | with_reducible apply KeepN.next
    | with_reducible apply KeepN.fault
    | with_reducible apply KeepN.refused
    | (extract_lets +onlyGivenNames x
       first
         | (refine (fun (hx : Keep sB x) => ?_) ?_; clear_value x; rotate_left; subst x)
         | (refine (fun (hx : KeepN sB x) => ?_) ?_; clear_value x; rotate_left; subst x)
         | (have := fun a => x a; clear this; subst x)
         | clear_value x
         | subst x)
    | with_reducible apply Keep.ite
    | with_reducible apply KeepN.ite
    | split
    | (with_reducible apply KeepN.of_next; with_reducible assumption)
    | (with_reducible apply KeepN.un_next; with_reducible assumption)
    | refine Keep.ite ?_ ?_
    | (with_reducible apply Keep.ofMk; with_reducible apply Keep.fold)

theorem execModelMismatch_keep {sB : State} {estW : Nat} {dieW : Nat} {s : State}
    (hs : Keep sB s) : KeepN sB (execModelMismatch estW dieW s) := by
  unfold execModelMismatch
  repeat' first
    | with_reducible assumption
    | with_reducible apply State.put_keep
    | with_reducible apply State.logErr_keep
    | with_reducible apply finish_keep
    | with_reducible apply KeepN.next
    | with_reducible apply KeepN.fault
    | with_reducible apply KeepN.refused
    | (extract_lets +onlyGivenNames x
       first
         | (refine (fun (hx : Keep sB x) => ?_) ?_; clear_value x; rotate_left; subst x)
         | (refine (fun (hx : KeepN sB x) => ?_) ?_; clear_value x; rotate_left; subst x)
         | (have := fun a => x a; clear this; subst x)
         | clear_value x
         | subst x)
    | with_reducible apply Keep.ite
    | with_reducible apply KeepN.ite
    | split
    | (with_reducible apply KeepN.of_next; with_reducible assumption)
    | (with_reducible apply KeepN.un_next; with_reducible assumption)
    | (with_reducible apply Keep.ofMk; with_reducible apply Keep.fold)

theorem stageOff_keep {sB : State} {s : State}
    (hs : Keep sB s) : Keep sB (stageOff s) := by
  unfold stageOff
  repeat' first
    | with_reducible assumption
    | with_reducible apply State.put_keep
    | (extract_lets +onlyGivenNames x
       first
         | (refine (fun (hx : Keep sB x) => ?_) ?_; clear_value x; rotate_left; subst x)
         | (have := fun a => x a; clear this; subst x)
         | clear_value x
         | subst x)
    | (with_reducible apply Keep.ofMk; with_reducible apply Keep.fold)

theorem execThermalTrip_keep {sB : State} {f : Fin 64} {tj : Nat} {s : State}
    (hs : Keep sB s) : KeepN sB (execThermalTrip f tj s) := by
  unfold execThermalTrip
  repeat' first
    | with_reducible assumption
    | with_reducible apply State.put_keep
    | with_reducible apply State.modErr_keep
    | with_reducible apply finish_keep
    | with_reducible apply stageOff_keep
    | with_reducible apply KeepN.next
    | with_reducible apply KeepN.fault
    | with_reducible apply KeepN.refused
    | (extract_lets +onlyGivenNames x
       first
         | (refine (fun (hx : Keep sB x) => ?_) ?_; clear_value x; rotate_left; subst x)
         | (refine (fun (hx : KeepN sB x) => ?_) ?_; clear_value x; rotate_left; subst x)
         | (have := fun a => x a; clear this; subst x)
         | clear_value x
         | subst x)
    | with_reducible apply Keep.ite
    | with_reducible apply KeepN.ite
    | split
    | (with_reducible apply KeepN.of_next; with_reducible assumption)
    | (with_reducible apply KeepN.un_next; with_reducible assumption)
    | (with_reducible apply Keep.ofMk; with_reducible apply Keep.fold)

theorem palReply_keep {sB : State} {m : MemRes} {sl : Nat} {addr : Nat}
    (hm : KeepMem sB m) : Keep sB (palReply m sl addr) := by
  have hm2 := KeepMem.proj hm
  unfold palReply
  repeat' first
    | with_reducible assumption
    | (extract_lets +onlyGivenNames x
       first
         | (refine (fun (hx : Keep sB x) => ?_) ?_; clear_value x; rotate_left; subst x)
         | (refine (fun (hx : KeepMem sB x) => ?_) ?_; clear_value x; have hx2 := KeepMem.proj hx; rotate_left; subst x)
         | (have := fun a => x a; clear this; subst x)
         | clear_value x
         | subst x)
    | with_reducible apply KeepMem.mk
    | (with_reducible apply Keep.ofMk; with_reducible apply Keep.fold)

theorem palServe_keep {sB : State} {s : State} {sl : Nat} {x : Access}
    (hs : Keep sB s) : Keep sB (palServe s sl x) := by
  unfold palServe
  repeat' first
    | with_reducible assumption
    | with_reducible apply lineRead_keep
    | with_reducible apply lineRead_keep_st
    | with_reducible apply lineWrite_keep
    | with_reducible apply lineWrite_keep_st
    | with_reducible apply palReply_keep
    | with_reducible apply Keep.ite
    | with_reducible apply KeepMem.ite
    | split
    | with_reducible apply KeepMem.mk

theorem palMiss_keep {sB : State} {s : State} {sl : Nat} {x : Access}
    (hs : Keep sB s) : Keep sB (palMiss s sl x) := by
  unfold palMiss
  repeat' first
    | with_reducible assumption
    | intro _
    | with_reducible apply palServe_keep
    | (extract_lets +onlyGivenNames x
       first
         | (refine (fun (hx : Keep sB x) => ?_) ?_; clear_value x; rotate_left; subst x)
         | (have := fun a => x a; clear this; subst x)
         | clear_value x
         | subst x)
    | with_reducible apply Keep.ite
    | split
    | (with_reducible apply Keep.ofMk; with_reducible apply Keep.fold)

theorem palCache_keep {sB : State} {s : State} {sl : Nat} {x : Access} {ecc : Ecc}
    (hs : Keep sB s) : Keep sB (palCache s sl x ecc) := by
  unfold palCache
  repeat' first
    | with_reducible assumption
    | with_reducible apply countAccess_keep
    | with_reducible apply palCheck_keep
    | with_reducible apply palCheck_keep_st
    | with_reducible apply palServe_keep
    | with_reducible apply palMiss_keep
    | (extract_lets +onlyGivenNames x
       first
         | (refine (fun (hx : Keep sB x) => ?_) ?_; clear_value x; rotate_left; subst x)
         | (refine (fun (hx : Keep1 sB x) => ?_) ?_; clear_value x; have hx2 := Keep1.proj hx; rotate_left; subst x)
         | (have := fun a => x a; clear this; subst x)
         | clear_value x
         | subst x)
    | with_reducible apply Keep.ite
    | with_reducible apply Keep1.ite
    | split
    | (with_reducible apply Keep1.elim; with_reducible assumption)
    | (with_reducible apply Keep1.elimM; with_reducible assumption)
    | with_reducible apply Keep1.mk

theorem palSpad_keep {sB : State} {s : State} {sl : Nat} {x : Access} {ecc : Ecc}
    (hs : Keep sB s) : Keep sB (palSpad s sl x ecc) := by
  unfold palSpad
  repeat' first
    | with_reducible assumption
    | with_reducible apply State.taskErr_keep
    | with_reducible apply unitRead_keep
    | with_reducible apply unitRead_keep_st
    | with_reducible apply unitWrite_keep
    | with_reducible apply unitWrite_keep_st
    | with_reducible apply palReply_keep
    | (extract_lets +onlyGivenNames x
       first
         | (refine (fun (hx : Keep sB x) => ?_) ?_; clear_value x; rotate_left; subst x)
         | (refine (fun (hx : KeepMem sB x) => ?_) ?_; clear_value x; have hx2 := KeepMem.proj hx; rotate_left; subst x)
         | (have := fun a => x a; clear this; subst x)
         | clear_value x
         | subst x)
    | with_reducible apply Keep.ite
    | with_reducible apply KeepMem.ite
    | split
    | with_reducible apply KeepMem.mk
    | (with_reducible apply Keep.ofMk; with_reducible apply Keep.fold)

theorem execPaletteAccess_keep {sB : State} {sl : Fin 64} {acc : Access} {ecc : Ecc} {s : State}
    (hs : Keep sB s) : KeepN sB (execPaletteAccess sl acc ecc s) := by
  unfold execPaletteAccess
  repeat' first
    | with_reducible assumption
    | with_reducible apply finish_keep
    | with_reducible apply palCache_keep
    | with_reducible apply palSpad_keep
    | with_reducible apply KeepN.next
    | with_reducible apply KeepN.fault
    | with_reducible apply KeepN.refused
    | (extract_lets +onlyGivenNames x
       first
         | (refine (fun (hx : Keep sB x) => ?_) ?_; clear_value x; rotate_left; subst x)
         | (refine (fun (hx : KeepN sB x) => ?_) ?_; clear_value x; rotate_left; subst x)
         | (have := fun a => x a; clear this; subst x)
         | clear_value x
         | subst x)
    | with_reducible apply Keep.ite
    | with_reducible apply KeepN.ite
    | split
    | (with_reducible apply KeepN.of_next; with_reducible assumption)
    | (with_reducible apply KeepN.un_next; with_reducible assumption)
    | (with_reducible apply Keep.ofMk; with_reducible apply Keep.fold)

theorem execLineFill_keep {sB : State} {sl : Fin 64} {ecc : Ecc} {s : State}
    (hs : Keep sB s) : KeepN sB (execLineFill sl ecc s) := by
  unfold execLineFill
  repeat' first
    | with_reducible assumption
    | intro _
    | with_reducible apply onClock_keep
    | with_reducible apply endMiss_keep
    | with_reducible apply finish_keep
    | with_reducible apply palWalk_keep
    | with_reducible apply palWalk_keep_st
    | with_reducible apply KeepN.next
    | with_reducible apply KeepN.fault
    | with_reducible apply KeepN.refused
    | (extract_lets +onlyGivenNames x
       first
         | (refine (fun (hx : Keep sB x) => ?_) ?_; clear_value x; rotate_left; subst x)
         | (refine (fun (hx : Keep1 sB x) => ?_) ?_; clear_value x; have hx2 := Keep1.proj hx; rotate_left; subst x)
         | (refine (fun (hx : KeepN sB x) => ?_) ?_; clear_value x; rotate_left; subst x)
         | (have := fun a => x a; clear this; subst x)
         | clear_value x
         | subst x)
    | with_reducible apply Keep.ite
    | with_reducible apply Keep1.ite
    | with_reducible apply KeepN.ite
    | split
    | (with_reducible apply Keep1.elim; with_reducible assumption)
    | (with_reducible apply Keep1.elimM; with_reducible assumption)
    | (with_reducible apply KeepN.of_next; with_reducible assumption)
    | (with_reducible apply KeepN.un_next; with_reducible assumption)
    | with_reducible apply Keep1.mk
    | (with_reducible apply Keep.ofMk; with_reducible apply Keep.fold)

theorem undefWay_keep {sB : State} {s : State} {sl : Nat} {w : Nat}
    (hs : Keep sB s) : Keep sB (undefWay s sl w) := by
  unfold undefWay
  repeat' first
    | with_reducible assumption
    | with_reducible apply State.tickFresh_keep
    | (extract_lets +onlyGivenNames x
       first
         | (refine (fun (hx : Keep sB x) => ?_) ?_; clear_value x; rotate_left; subst x)
         | (have := fun a => x a; clear this; subst x)
         | clear_value x
         | subst x)
    | split
    | (with_reducible apply Keep.ofMk; with_reducible apply Keep.fold)

theorem writeWays_keep {sB : State} {s : State} {sl : Nat} {v : Nat}
    (hs : Keep sB s) : Keep sB (writeWays s sl v) := by
  unfold writeWays
  repeat' first
    | with_reducible assumption
    | intro _
    | with_reducible apply State.put_keep
    | with_reducible apply State.logReg_keep
    | with_reducible apply undefWay_keep
    | with_reducible apply Keep.foldl
    | (extract_lets +onlyGivenNames x
       first
         | (refine (fun (hx : Keep sB x) => ?_) ?_; clear_value x; rotate_left; subst x)
         | (have := fun a => x a; clear this; subst x)
         | clear_value x
         | subst x)
    | with_reducible apply Keep.ite
    | split
    | (with_reducible apply Keep.ofMk; with_reducible apply Keep.fold)

theorem endRole_keep {sB : State} {s : State} {sl : Nat} {w : Nat}
    (hs : Keep sB s) : Keep sB (endRole s sl w) := by
  unfold endRole
  repeat' first
    | with_reducible assumption
    | intro _
    | with_reducible apply writeBack_keep
    | with_reducible apply undefWay_keep
    | with_reducible apply Keep.foldl
    | (extract_lets +onlyGivenNames x
       first
         | (refine (fun (hx : Keep sB x) => ?_) ?_; clear_value x; rotate_left; subst x)
         | (have := fun a => x a; clear this; subst x)
         | clear_value x
         | subst x)
    | with_reducible apply Keep.ite
    | split
    | (with_reducible apply Keep.ofMk; with_reducible apply Keep.fold)

theorem execWaysWrite_keep {sB : State} {sl : Fin 64} {value : BitVec 32} {s : State}
    (hs : Keep sB s) : KeepN sB (execWaysWrite sl value s) := by
  unfold execWaysWrite
  repeat' first
    | with_reducible assumption
    | with_reducible apply State.logReg_keep
    | with_reducible apply finish_keep
    | with_reducible apply writeWays_keep
    | with_reducible apply KeepN.next
    | with_reducible apply KeepN.fault
    | with_reducible apply KeepN.refused
    | with_reducible apply Keep.ite
    | with_reducible apply KeepN.ite
    | split
    | (with_reducible apply KeepN.of_next; with_reducible assumption)
    | (with_reducible apply KeepN.un_next; with_reducible assumption)

theorem execWayRoleChange_keep {sB : State} {sl : Fin 64} {ecc : Ecc} {s : State}
    (hs : Keep sB s) : KeepN sB (execWayRoleChange sl ecc s) := by
  unfold execWayRoleChange
  repeat' first
    | with_reducible assumption
    | intro _
    | with_reducible apply finish_keep
    | with_reducible apply palWalk_keep
    | with_reducible apply palWalk_keep_st
    | with_reducible apply endRole_keep
    | with_reducible apply KeepN.next
    | with_reducible apply KeepN.fault
    | with_reducible apply KeepN.refused
    | (extract_lets +onlyGivenNames x
       first
         | (refine (fun (hx : Keep sB x) => ?_) ?_; clear_value x; rotate_left; subst x)
         | (refine (fun (hx : Keep1 sB x) => ?_) ?_; clear_value x; have hx2 := Keep1.proj hx; rotate_left; subst x)
         | (refine (fun (hx : KeepN sB x) => ?_) ?_; clear_value x; rotate_left; subst x)
         | (have := fun a => x a; clear this; subst x)
         | clear_value x
         | subst x)
    | with_reducible apply Keep.ite
    | with_reducible apply Keep1.ite
    | with_reducible apply KeepN.ite
    | split
    | (with_reducible apply Keep1.elim; with_reducible assumption)
    | (with_reducible apply Keep1.elimM; with_reducible assumption)
    | (with_reducible apply KeepN.of_next; with_reducible assumption)
    | (with_reducible apply KeepN.un_next; with_reducible assumption)
    | with_reducible apply Keep1.mk
    | (with_reducible apply Keep.ofMk; with_reducible apply Keep.fold)

theorem beginFlush_keep {sB : State} {s : State} {x : FlushSt}
    (hs : Keep sB s) : Keep sB (beginFlush s x) := by
  unfold beginFlush
  repeat' first
    | with_reducible assumption
    | with_reducible apply State.put_keep
    | (extract_lets +onlyGivenNames x
       first
         | (refine (fun (hx : Keep sB x) => ?_) ?_; clear_value x; rotate_left; subst x)
         | (have := fun a => x a; clear this; subst x)
         | clear_value x
         | subst x)
    | (with_reducible apply Keep.ofMk; with_reducible apply Keep.fold)

theorem startFlush_keep {sB : State} {s : State} {op : Nat} {ranged : Bool}
    (hs : Keep sB s) : Keep sB (startFlush s op ranged) := by
  unfold startFlush
  repeat' first
    | with_reducible assumption
    | with_reducible apply State.logReg_keep
    | with_reducible apply beginFlush_keep
    | with_reducible apply Keep.ite
    | split

theorem palStart_keep {sB : State} {op : Nat} {ranged : Bool} {s : State}
    (hs : Keep sB s) : KeepN sB (palStart op ranged s) := by
  unfold palStart
  repeat' first
    | with_reducible assumption
    | with_reducible apply State.put_keep
    | with_reducible apply finish_keep
    | with_reducible apply startFlush_keep
    | with_reducible apply KeepN.next
    | with_reducible apply KeepN.fault
    | with_reducible apply KeepN.refused
    | with_reducible apply Keep.ite
    | with_reducible apply KeepN.ite
    | split
    | (with_reducible apply KeepN.of_next; with_reducible assumption)
    | (with_reducible apply KeepN.un_next; with_reducible assumption)

theorem execPaletteClean_keep {sB : State} {ranged : Bool} {s : State}
    (hs : Keep sB s) : KeepN sB (execPaletteClean ranged s) := by
  unfold execPaletteClean
  repeat' first
    | with_reducible assumption
    | with_reducible apply palStart_keep
    | with_reducible apply KeepN.next
    | with_reducible apply KeepN.fault
    | with_reducible apply KeepN.refused
    | (with_reducible apply KeepN.of_next; with_reducible assumption)
    | (with_reducible apply KeepN.un_next; with_reducible assumption)

theorem execPaletteInvalidate_keep {sB : State} {ranged : Bool} {s : State}
    (hs : Keep sB s) : KeepN sB (execPaletteInvalidate ranged s) := by
  unfold execPaletteInvalidate
  repeat' first
    | with_reducible assumption
    | with_reducible apply palStart_keep
    | with_reducible apply KeepN.next
    | with_reducible apply KeepN.fault
    | with_reducible apply KeepN.refused
    | (with_reducible apply KeepN.of_next; with_reducible assumption)
    | (with_reducible apply KeepN.un_next; with_reducible assumption)

theorem execPaletteCleanInvalidate_keep {sB : State} {ranged : Bool} {s : State}
    (hs : Keep sB s) : KeepN sB (execPaletteCleanInvalidate ranged s) := by
  unfold execPaletteCleanInvalidate
  repeat' first
    | with_reducible assumption
    | with_reducible apply palStart_keep
    | with_reducible apply KeepN.next
    | with_reducible apply KeepN.fault
    | with_reducible apply KeepN.refused
    | (with_reducible apply KeepN.of_next; with_reducible assumption)
    | (with_reducible apply KeepN.un_next; with_reducible assumption)

theorem flushLine_keep {sB : State} {x : FlushSt} {s : State} {k : Nat} {l : Line}
    (hs : Keep sB s) : Keep sB (flushLine x s k l) := by
  unfold flushLine
  repeat' first
    | with_reducible assumption
    | with_reducible apply writeBack_keep
    | (extract_lets +onlyGivenNames x
       first
         | (refine (fun (hx : Keep sB x) => ?_) ?_; clear_value x; rotate_left; subst x)
         | (have := fun a => x a; clear this; subst x)
         | clear_value x
         | subst x)
    | with_reducible apply Keep.ite
    | split
    | (with_reducible apply Keep.ofMk; with_reducible apply Keep.fold)

theorem setResult_keep {sB : State} {s : State} {n : Nat} {k : Nat} {status : Nat} {detail : Nat}
    (hs : Keep sB s) : Keep sB (setResult s n k status detail) := by
  unfold setResult
  repeat' first
    | with_reducible assumption
    | intro _
    | with_reducible apply State.setRing_keep
    | (extract_lets +onlyGivenNames x
       first
         | (refine (fun (hx : Keep sB x) => ?_) ?_; clear_value x; rotate_left; subst x)
         | (have := fun a => x a; clear this; subst x)
         | clear_value x
         | subst x)
    | with_reducible apply Keep.ite
    | split
    | (with_reducible apply Keep.ofMk; with_reducible apply Keep.fold)

theorem endFlush_keep {sB : State} {s : State} {x : FlushSt}
    (hs : Keep sB s) : Keep sB (endFlush s x) := by
  unfold endFlush
  repeat' first
    | with_reducible assumption
    | intro _
    | with_reducible apply State.put_keep
    | with_reducible apply flushLine_keep
    | with_reducible apply setResult_keep
    | with_reducible apply Keep.foldl
    | (extract_lets +onlyGivenNames x
       first
         | (refine (fun (hx : Keep sB x) => ?_) ?_; clear_value x; rotate_left; subst x)
         | (have := fun a => x a; clear this; subst x)
         | clear_value x
         | subst x)
    | split
    | (with_reducible apply Keep.ofMk; with_reducible apply Keep.fold)

theorem execPaletteFlushDone_keep {sB : State} {ecc : Ecc} {s : State}
    (hs : Keep sB s) : KeepN sB (execPaletteFlushDone ecc s) := by
  unfold execPaletteFlushDone
  repeat' first
    | with_reducible assumption
    | intro _
    | with_reducible apply finish_keep
    | with_reducible apply palWalk_keep
    | with_reducible apply palWalk_keep_st
    | with_reducible apply endFlush_keep
    | with_reducible apply KeepN.next
    | with_reducible apply KeepN.fault
    | with_reducible apply KeepN.refused
    | (extract_lets +onlyGivenNames x
       first
         | (refine (fun (hx : Keep sB x) => ?_) ?_; clear_value x; rotate_left; subst x)
         | (refine (fun (hx : Keep1 sB x) => ?_) ?_; clear_value x; have hx2 := Keep1.proj hx; rotate_left; subst x)
         | (refine (fun (hx : KeepN sB x) => ?_) ?_; clear_value x; rotate_left; subst x)
         | (have := fun a => x a; clear this; subst x)
         | clear_value x
         | subst x)
    | with_reducible apply Keep.ite
    | with_reducible apply Keep1.ite
    | with_reducible apply KeepN.ite
    | split
    | (with_reducible apply Keep1.elim; with_reducible assumption)
    | (with_reducible apply Keep1.elimM; with_reducible assumption)
    | (with_reducible apply KeepN.of_next; with_reducible assumption)
    | (with_reducible apply KeepN.un_next; with_reducible assumption)
    | with_reducible apply Keep1.mk
    | (with_reducible apply Keep.ofMk; with_reducible apply Keep.fold)

theorem execLpddrRead_keep {sB : State} {addr : BitVec 41} {errs : List Disturb} {s : State}
    (hs : Keep sB s) : KeepN sB (execLpddrRead addr errs s) := by
  unfold execLpddrRead
  repeat' first
    | with_reducible assumption
    | with_reducible apply State.bump_keep
    | with_reducible apply State.logErr_keep
    | with_reducible apply State.uncorrBlock_keep
    | with_reducible apply finish_keep
    | with_reducible apply palReply_keep
    | with_reducible apply KeepN.next
    | with_reducible apply KeepN.fault
    | with_reducible apply KeepN.refused
    | (extract_lets +onlyGivenNames x
       first
         | (refine (fun (hx : Keep sB x) => ?_) ?_; clear_value x; rotate_left; subst x)
         | (refine (fun (hx : KeepMem sB x) => ?_) ?_; clear_value x; have hx2 := KeepMem.proj hx; rotate_left; subst x)
         | (refine (fun (hx : KeepN sB x) => ?_) ?_; clear_value x; rotate_left; subst x)
         | (have := fun a => x a; clear this; subst x)
         | clear_value x
         | subst x)
    | with_reducible apply Keep.ite
    | with_reducible apply KeepMem.ite
    | with_reducible apply KeepN.ite
    | split
    | (with_reducible apply KeepN.of_next; with_reducible assumption)
    | (with_reducible apply KeepN.un_next; with_reducible assumption)
    | with_reducible apply KeepMem.mk
    | (with_reducible apply Keep.ofMk; with_reducible apply Keep.fold)

theorem execLpddrWrite_keep {sB : State} {addr : BitVec 41} {data : List Byte} {s : State}
    (hs : Keep sB s) : KeepN sB (execLpddrWrite addr data s) := by
  unfold execLpddrWrite
  repeat' first
    | with_reducible assumption
    | with_reducible apply chanWriteBlock_keep
    | with_reducible apply chanWriteBlock_keep_st
    | with_reducible apply queueWrite_keep
    | with_reducible apply finish_keep
    | with_reducible apply palReply_keep
    | with_reducible apply KeepN.next
    | with_reducible apply KeepN.fault
    | with_reducible apply KeepN.refused
    | (extract_lets +onlyGivenNames x
       first
         | (refine (fun (hx : Keep sB x) => ?_) ?_; clear_value x; rotate_left; subst x)
         | (refine (fun (hx : KeepMem sB x) => ?_) ?_; clear_value x; have hx2 := KeepMem.proj hx; rotate_left; subst x)
         | (refine (fun (hx : KeepN sB x) => ?_) ?_; clear_value x; rotate_left; subst x)
         | (have := fun a => x a; clear this; subst x)
         | clear_value x
         | subst x)
    | with_reducible apply Keep.ite
    | with_reducible apply KeepMem.ite
    | with_reducible apply KeepN.ite
    | split
    | (with_reducible apply KeepN.of_next; with_reducible assumption)
    | (with_reducible apply KeepN.un_next; with_reducible assumption)
    | with_reducible apply KeepMem.mk

theorem execRefresh_keep {sB : State} {ch : Fin 128} {bank : Nat} {s : State}
    (hs : Keep sB s) : KeepN sB (execRefresh ch bank s) := by
  unfold execRefresh
  repeat' first
    | with_reducible assumption
    | with_reducible apply KeepN.next
    | with_reducible apply KeepN.fault
    | with_reducible apply KeepN.refused
    | (extract_lets +onlyGivenNames x
       first
         | (refine (fun (hx : Keep sB x) => ?_) ?_; clear_value x; rotate_left; subst x)
         | (refine (fun (hx : KeepN sB x) => ?_) ?_; clear_value x; rotate_left; subst x)
         | (have := fun a => x a; clear this; subst x)
         | clear_value x
         | subst x)
    | with_reducible apply Keep.ite
    | with_reducible apply KeepN.ite
    | split
    | (with_reducible apply KeepN.of_next; with_reducible assumption)
    | (with_reducible apply KeepN.un_next; with_reducible assumption)
    | (with_reducible apply Keep.ofMk; with_reducible apply Keep.fold)

theorem execChannelRetrain_keep {sB : State} {ch : Fin 128} {s : State}
    (hs : Keep sB s) : KeepN sB (execChannelRetrain ch s) := by
  unfold execChannelRetrain
  repeat' first
    | with_reducible assumption
    | intro _
    | with_reducible apply State.put_keep
    | with_reducible apply KeepN.next
    | with_reducible apply KeepN.fault
    | with_reducible apply KeepN.refused
    | (extract_lets +onlyGivenNames x
       first
         | (refine (fun (hx : Keep sB x) => ?_) ?_; clear_value x; rotate_left; subst x)
         | (refine (fun (hx : KeepN sB x) => ?_) ?_; clear_value x; rotate_left; subst x)
         | (have := fun a => x a; clear this; subst x)
         | clear_value x
         | subst x)
    | with_reducible apply Keep.ite
    | with_reducible apply KeepN.ite
    | split
    | (with_reducible apply KeepN.of_next; with_reducible assumption)
    | (with_reducible apply KeepN.un_next; with_reducible assumption)
    | (with_reducible apply Keep.ofMk; with_reducible apply Keep.fold)

theorem State.setRepair_keep {sB : State} {s : State} {m : Nat} {r : Repair}
    (hs : Keep sB s) : Keep sB (State.setRepair s m r) := by
  unfold State.setRepair
  repeat' first
    | with_reducible assumption
    | (extract_lets +onlyGivenNames x
       first
         | (refine (fun (hx : Keep sB x) => ?_) ?_; clear_value x; rotate_left; subst x)
         | (have := fun a => x a; clear this; subst x)
         | clear_value x
         | subst x)
    | (with_reducible apply Keep.ofMk; with_reducible apply Keep.fold)

theorem execRetrainingEnd_keep {sB : State} {ch : Fin 128} {s : State}
    (hs : Keep sB s) : KeepN sB (execRetrainingEnd ch s) := by
  unfold execRetrainingEnd
  repeat' first
    | with_reducible assumption
    | with_reducible apply State.put_keep
    | with_reducible apply KeepN.next
    | with_reducible apply KeepN.fault
    | with_reducible apply KeepN.refused
    | (extract_lets +onlyGivenNames x
       first
         | (refine (fun (hx : Keep sB x) => ?_) ?_; clear_value x; rotate_left; subst x)
         | (refine (fun (hx : KeepN sB x) => ?_) ?_; clear_value x; rotate_left; subst x)
         | (have := fun a => x a; clear this; subst x)
         | clear_value x
         | subst x)
    | with_reducible apply Keep.ite
    | with_reducible apply KeepN.ite
    | split
    | (with_reducible apply KeepN.of_next; with_reducible assumption)
    | (with_reducible apply KeepN.un_next; with_reducible assumption)
    | (with_reducible apply Keep.ofMk; with_reducible apply Keep.fold)

theorem chanLog_keep {sB : State} {s : State} {c : Nat} {cause : Nat}
    (hs : Keep sB s) : Keep sB (chanLog s c cause) := by
  unfold chanLog
  repeat' first
    | with_reducible assumption
    | with_reducible apply State.logErr_keep

theorem startRepair_keep {sB : State} {s : State} {c : Nat}
    (hs : Keep sB s) : Keep sB (startRepair s c) := by
  unfold startRepair
  repeat' first
    | with_reducible assumption
    | with_reducible apply State.put_keep
    | with_reducible apply State.setRepair_keep
    | with_reducible apply chanLog_keep
    | (extract_lets +onlyGivenNames x
       first
         | (refine (fun (hx : Keep sB x) => ?_) ?_; clear_value x; rotate_left; subst x)
         | (have := fun a => x a; clear this; subst x)
         | clear_value x
         | subst x)
    | with_reducible apply Keep.ite
    | split

theorem execRepairAutoStart_keep {sB : State} {ch : Fin 128} {s : State}
    (hs : Keep sB s) : KeepN sB (execRepairAutoStart ch s) := by
  unfold execRepairAutoStart
  repeat' first
    | with_reducible assumption
    | with_reducible apply finish_keep
    | with_reducible apply startRepair_keep
    | with_reducible apply KeepN.next
    | with_reducible apply KeepN.fault
    | with_reducible apply KeepN.refused
    | (extract_lets +onlyGivenNames x
       first
         | (refine (fun (hx : Keep sB x) => ?_) ?_; clear_value x; rotate_left; subst x)
         | (refine (fun (hx : KeepN sB x) => ?_) ?_; clear_value x; rotate_left; subst x)
         | (have := fun a => x a; clear this; subst x)
         | clear_value x
         | subst x)
    | with_reducible apply Keep.ite
    | with_reducible apply KeepN.ite
    | split
    | (with_reducible apply KeepN.of_next; with_reducible assumption)
    | (with_reducible apply KeepN.un_next; with_reducible assumption)
    | (with_reducible apply Keep.ofMk; with_reducible apply Keep.fold)

theorem execRepairStart_keep {sB : State} {ch : Fin 128} {s : State}
    (hs : Keep sB s) : KeepN sB (execRepairStart ch s) := by
  unfold execRepairStart
  repeat' first
    | with_reducible assumption
    | with_reducible apply State.put_keep
    | with_reducible apply finish_keep
    | with_reducible apply startRepair_keep
    | with_reducible apply KeepN.next
    | with_reducible apply KeepN.fault
    | with_reducible apply KeepN.refused
    | with_reducible apply Keep.ite
    | with_reducible apply KeepN.ite
    | split
    | (with_reducible apply KeepN.of_next; with_reducible assumption)
    | (with_reducible apply KeepN.un_next; with_reducible assumption)

theorem dropRepair_keep {sB : State} {s : State} {m : Nat} {c : Nat}
    (hs : Keep sB s) : Keep sB (dropRepair s m c) := by
  unfold dropRepair
  repeat' first
    | with_reducible assumption
    | intro _
    | with_reducible apply State.put_keep
    | with_reducible apply State.setRepair_keep
    | (extract_lets +onlyGivenNames x
       first
         | (refine (fun (hx : Keep sB x) => ?_) ?_; clear_value x; rotate_left; subst x)
         | (have := fun a => x a; clear this; subst x)
         | clear_value x
         | subst x)
    | split
    | (with_reducible apply Keep.ofMk; with_reducible apply Keep.fold)

theorem execRepairCopy_keep {sB : State} {grp : Fin 8} {s : State}
    (hs : Keep sB s) : KeepN sB (execRepairCopy grp s) := by
  unfold execRepairCopy
  repeat' first
    | with_reducible assumption
    | with_reducible apply State.put_keep
    | with_reducible apply State.uncorrBlock_keep
    | with_reducible apply State.modErr_keep
    | with_reducible apply finish_keep
    | with_reducible apply State.setRepair_keep
    | with_reducible apply dropRepair_keep
    | with_reducible apply KeepN.next
    | with_reducible apply KeepN.fault
    | with_reducible apply KeepN.refused
    | (extract_lets +onlyGivenNames x
       first
         | (refine (fun (hx : Keep sB x) => ?_) ?_; clear_value x; rotate_left; subst x)
         | (refine (fun (hx : KeepN sB x) => ?_) ?_; clear_value x; rotate_left; subst x)
         | (have := fun a => x a; clear this; subst x)
         | clear_value x
         | subst x)
    | with_reducible apply Keep.ite
    | with_reducible apply KeepN.ite
    | split
    | (with_reducible apply KeepN.of_next; with_reducible assumption)
    | (with_reducible apply KeepN.un_next; with_reducible assumption)
    | (with_reducible apply Keep.ofMk; with_reducible apply Keep.fold)

theorem scanon_puts {α : Type} [DecidableEq α] (d : α) (l : List (Nat × α)) :
    ∀ (m : Sparse α), scanon d m = true → scanon d (l.foldl (fun m e => sput d m e.1 e.2) m) = true := by
  induction l with
  | nil => intro m h; exact h
  | cons x r ih => intro m h; exact ih _ (scanon_sput d _ _ _ h)

theorem fromSpare_keep {sB s : State} {c : Nat} (hs : Keep sB s) : Keep sB (fromSpare s c) :=
  hs.trans ⟨rfl, Burned.refl _, fun x => ⟨x.1, scanon_puts 0 _ _ (scanon_filter 0 _ _ x.2.1), x.2.2⟩⟩

theorem execMapSwitch_keep {sB : State} {grp : Fin 8} {s : State}
    (hs : Keep sB s) : KeepN sB (execMapSwitch grp s) := by
  unfold execMapSwitch
  repeat' first
    | with_reducible assumption
    | with_reducible apply State.put_keep
    | with_reducible apply finish_keep
    | with_reducible apply chanLog_keep
    | with_reducible apply dropRepair_keep
    | with_reducible apply fromSpare_keep
    | with_reducible apply KeepN.next
    | with_reducible apply KeepN.fault
    | with_reducible apply KeepN.refused
    | (extract_lets +onlyGivenNames x
       first
         | (refine (fun (hx : Keep sB x) => ?_) ?_; clear_value x; rotate_left; subst x)
         | (refine (fun (hx : KeepN sB x) => ?_) ?_; clear_value x; rotate_left; subst x)
         | (have := fun a => x a; clear this; subst x)
         | clear_value x
         | subst x)
    | with_reducible apply Keep.ite
    | with_reducible apply KeepN.ite
    | split
    | (with_reducible apply KeepN.of_next; with_reducible assumption)
    | (with_reducible apply KeepN.un_next; with_reducible assumption)
    | (with_reducible apply Keep.ofMk; with_reducible apply Keep.fold)

end Sys2Proof.Machine
end

