-- ==== Sys2Proof/Laws/KeepFlow.lean ====
section
/-! SUPPORT. The commands of the Ply adders and the Shuttles keep the relation. -/
namespace Sys2Proof.Machine

theorem plyFlag_keep {sB : State} {s : State} {r : Ref} {shard : Nat}
    (hs : Keep sB s) : Keep sB (plyFlag s r shard) := by
  unfold plyFlag
  repeat' first
    | with_reducible assumption
    | with_reducible apply State.put_keep
    | (extract_lets +onlyGivenNames x
       first
         | (refine (fun (hx : Keep sB x) => ?_) ?_; clear_value x; rotate_left; subst x)
         | (have := fun a => x a; clear this; subst x)
         | clear_value x
         | subst x)
    | with_reducible apply Keep.ite
    | split

theorem plyErr_keep {sB : State} {s : State} {r : Ref} {shard : Nat} {unit : Nat} {cause : Nat}
    (hs : Keep sB s) : Keep sB (plyErr s r shard unit cause) := by
  unfold plyErr
  repeat' first
    | with_reducible assumption
    | with_reducible apply State.stepErr_keep
    | with_reducible apply plyFlag_keep

theorem State.setStat_keep {sB : State} {s : State} {cl : Nat} {b : Nat} {x : StatSt}
    (hs : Keep sB s) : Keep sB (State.setStat s cl b x) := by
  unfold State.setStat
  repeat' first
    | with_reducible assumption
    | (extract_lets +onlyGivenNames x
       first
         | (refine (fun (hx : Keep sB x) => ?_) ?_; clear_value x; rotate_left; subst x)
         | (have := fun a => x a; clear this; subst x)
         | clear_value x
         | subst x)
    | (with_reducible apply Keep.ofMk; with_reducible apply Keep.fold)

theorem countPiece_keep {sB : State} {s : State} {sh : Shard} {p : Piece}
    (hs : Keep sB s) : Keep sB (countPiece s sh p) := by
  unfold countPiece
  repeat' first
    | with_reducible assumption
    | with_reducible apply State.bump_keep
    | with_reducible apply State.setStat_keep
    | (extract_lets +onlyGivenNames x
       first
         | (refine (fun (hx : Keep sB x) => ?_) ?_; clear_value x; rotate_left; subst x)
         | (have := fun a => x a; clear this; subst x)
         | clear_value x
         | subst x)
    | split
    | (with_reducible apply Keep.ofMk; with_reducible apply Keep.fold)

theorem addHeld_keep {sB : State} {s : State} {sh : Shard} {p : Piece} {ps : List Pair} {next : Nat} {fuel : Nat}
    (hs : Keep sB s) : Keep1 sB (addHeld s sh p ps next fuel) := by
  induction fuel generalizing s sh p ps next with
  | zero  =>
    first | rw [addHeld] | unfold addHeld
    repeat' first
      | with_reducible assumption
      | intro _
      | with_reducible apply countPiece_keep
      | (extract_lets +onlyGivenNames x
         first
           | (refine (fun (hx : Keep sB x) => ?_) ?_; clear_value x; rotate_left; subst x)
           | (refine (fun (hx : Keep1 sB x) => ?_) ?_; clear_value x; have hx2 := Keep1.proj hx; rotate_left; subst x)
           | (have := fun a => x a; clear this; subst x)
           | clear_value x
           | subst x)
      | split
      | (with_reducible apply Keep1.elim; with_reducible assumption)
      | (with_reducible apply Keep1.elimM; with_reducible assumption)
      | with_reducible apply Keep1.mk
      | (with_reducible apply Keep.ofMk; with_reducible apply Keep.fold)
  | succ n ih =>
    first | rw [addHeld] | unfold addHeld
    repeat' first
      | with_reducible assumption
      | with_reducible apply ih
      | intro _
      | with_reducible apply countPiece_keep
      | (extract_lets +onlyGivenNames x
         first
           | (refine (fun (hx : Keep sB x) => ?_) ?_; clear_value x; rotate_left; subst x)
           | (refine (fun (hx : Keep1 sB x) => ?_) ?_; clear_value x; have hx2 := Keep1.proj hx; rotate_left; subst x)
           | (have := fun a => x a; clear this; subst x)
           | clear_value x
           | subst x)
      | split
      | (with_reducible apply Keep1.elim; with_reducible assumption)
      | (with_reducible apply Keep1.elimM; with_reducible assumption)
      | with_reducible apply Keep1.mk
      | (with_reducible apply Keep.ofMk; with_reducible apply Keep.fold)


theorem addHeld_keep_st {sB : State} {s : State} {sh : Shard} {p : Piece} {ps : List Pair} {next : Nat} {fuel : Nat}
    (hs : Keep sB s) : Keep sB (addHeld s sh p ps next fuel).1 :=
  addHeld_keep hs
theorem lineDone'_keep {sB : State} {s : State} {sh : Shard} {p : Piece} {ps : List Pair}
    (hs : Keep sB s) : Keep sB (lineDone' s sh p ps) := by
  unfold lineDone'
  repeat' first
    | with_reducible assumption
    | intro _
    | with_reducible apply devWrite_keep
    | with_reducible apply devWrite_keep_st
    | with_reducible apply knotAddG_keep
    | with_reducible apply State.setStat_keep
    | with_reducible apply Keep.foldl
    | (extract_lets +onlyGivenNames x
       first
         | (refine (fun (hx : Keep sB x) => ?_) ?_; clear_value x; rotate_left; subst x)
         | (refine (fun (hx : KeepMem sB x) => ?_) ?_; clear_value x; have hx2 := KeepMem.proj hx; rotate_left; subst x)
         | (have := fun a => x a; clear this; subst x)
         | clear_value x
         | subst x)
    | with_reducible apply Keep.ite
    | with_reducible apply KeepMem.ite
    | split
    | with_reducible apply KeepMem.mk
    | (with_reducible apply Keep.ofMk; with_reducible apply Keep.fold)

theorem holdPiece_keep {sB : State} {s : State} {sh : Shard} {p : Piece}
    (hs : Keep sB s) : KeepPiece sB (holdPiece s sh p) := by
  unfold holdPiece
  repeat' first
    | with_reducible assumption
    | with_reducible apply KeepPiece.done
    | with_reducible apply KeepPiece.noSlot
    | (extract_lets +onlyGivenNames x
       first
         | (refine (fun (hx : Keep sB x) => ?_) ?_; clear_value x; rotate_left; subst x)
         | (refine (fun (hx : KeepPiece sB x) => ?_) ?_; clear_value x; rotate_left; subst x)
         | (have := fun a => x a; clear this; subst x)
         | clear_value x
         | subst x)
    | with_reducible apply Keep.ite
    | with_reducible apply KeepPiece.ite
    | split
    | (with_reducible apply KeepPiece.of_done; with_reducible assumption)
    | (with_reducible apply KeepPiece.un_done; with_reducible assumption)
    | (with_reducible apply Keep.ofMk; with_reducible apply Keep.fold)

theorem lineErr_keep {sB : State} {s : State} {sh : Shard} {p : Piece}
    (hs : Keep sB s) : Keep sB (lineErr s sh p) := by
  unfold lineErr
  repeat' first
    | with_reducible assumption
    | with_reducible apply plyErr_keep

theorem pieceByRank_keep {sB : State} {s : State} {sh : Shard} {p : Piece} {h : LineHdr}
    (hs : Keep sB s) : KeepPiece sB (pieceByRank s sh p h) := by
  unfold pieceByRank
  repeat' first
    | with_reducible assumption
    | intro _
    | with_reducible apply devRead_keep
    | with_reducible apply devRead_keep_st
    | with_reducible apply devWrite_keep
    | with_reducible apply devWrite_keep_st
    | with_reducible apply plyErr_keep
    | with_reducible apply countPiece_keep
    | with_reducible apply addHeld_keep
    | with_reducible apply addHeld_keep_st
    | with_reducible apply lineDone'_keep
    | with_reducible apply holdPiece_keep
    | with_reducible apply lineErr_keep
    | with_reducible apply KeepPiece.done
    | with_reducible apply KeepPiece.noSlot
    | (extract_lets +onlyGivenNames x
       first
         | (refine (fun (hx : Keep sB x) => ?_) ?_; clear_value x; rotate_left; subst x)
         | (refine (fun (hx : Keep1 sB x) => ?_) ?_; clear_value x; have hx2 := Keep1.proj hx; rotate_left; subst x)
         | (refine (fun (hx : KeepMem sB x) => ?_) ?_; clear_value x; have hx2 := KeepMem.proj hx; rotate_left; subst x)
         | (refine (fun (hx : KeepPiece sB x) => ?_) ?_; clear_value x; rotate_left; subst x)
         | (have := fun a => x a; clear this; subst x)
         | clear_value x
         | subst x)
    | with_reducible apply Keep.ite
    | with_reducible apply Keep1.ite
    | with_reducible apply KeepMem.ite
    | with_reducible apply KeepPiece.ite
    | split
    | (with_reducible apply Keep1.elim; with_reducible assumption)
    | (with_reducible apply Keep1.elimM; with_reducible assumption)
    | (with_reducible apply KeepPiece.of_done; with_reducible assumption)
    | (with_reducible apply KeepPiece.un_done; with_reducible assumption)
    | with_reducible apply Keep1.mk
    | with_reducible apply KeepMem.mk
    | (with_reducible apply Keep.ofMk; with_reducible apply Keep.fold)

theorem handlePiece_keep {sB : State} {s : State} {sh : Shard} {p : Piece}
    (hs : Keep sB s) : KeepPiece sB (handlePiece s sh p) := by
  unfold handlePiece
  repeat' first
    | with_reducible assumption
    | with_reducible apply State.bump_keep
    | with_reducible apply devRead_keep
    | with_reducible apply devRead_keep_st
    | with_reducible apply devWrite_keep
    | with_reducible apply devWrite_keep_st
    | with_reducible apply holdPiece_keep
    | with_reducible apply lineErr_keep
    | with_reducible apply pieceByRank_keep
    | with_reducible apply KeepPiece.done
    | with_reducible apply KeepPiece.noSlot
    | (extract_lets +onlyGivenNames x
       first
         | (refine (fun (hx : Keep sB x) => ?_) ?_; clear_value x; rotate_left; subst x)
         | (refine (fun (hx : KeepMem sB x) => ?_) ?_; clear_value x; have hx2 := KeepMem.proj hx; rotate_left; subst x)
         | (refine (fun (hx : KeepPiece sB x) => ?_) ?_; clear_value x; rotate_left; subst x)
         | (have := fun a => x a; clear this; subst x)
         | clear_value x
         | subst x)
    | with_reducible apply Keep.ite
    | with_reducible apply KeepMem.ite
    | with_reducible apply KeepPiece.ite
    | split
    | (with_reducible apply KeepPiece.of_done; with_reducible assumption)
    | (with_reducible apply KeepPiece.un_done; with_reducible assumption)
    | with_reducible apply KeepMem.mk
    | (with_reducible apply Keep.ofMk; with_reducible apply Keep.fold)

theorem drainEarly_keep {sB : State} {s : State} {sh : Shard} {line : Nat} {fuel : Nat}
    (hs : Keep sB s) : Keep sB (drainEarly s sh line fuel) := by
  induction fuel generalizing s sh line with
  | zero  =>
    first | rw [drainEarly] | unfold drainEarly
    repeat' first
      | with_reducible assumption
      | intro _
      | with_reducible apply handlePiece_keep
      | with_reducible apply Keep.foldl
      | with_reducible apply KeepPiece.done
      | with_reducible apply KeepPiece.noSlot
      | (extract_lets +onlyGivenNames x
         first
           | (refine (fun (hx : Keep sB x) => ?_) ?_; clear_value x; rotate_left; subst x)
           | (refine (fun (hx : KeepPiece sB x) => ?_) ?_; clear_value x; rotate_left; subst x)
           | (have := fun a => x a; clear this; subst x)
           | clear_value x
           | subst x)
      | with_reducible apply Keep.ite
      | with_reducible apply KeepPiece.ite
      | split
      | (with_reducible apply KeepPiece.of_done; with_reducible assumption)
      | (with_reducible apply KeepPiece.un_done; with_reducible assumption)
      | (with_reducible apply Keep.ofMk; with_reducible apply Keep.fold)
  | succ n ih =>
    first | rw [drainEarly] | unfold drainEarly
    repeat' first
      | with_reducible assumption
      | with_reducible apply ih
      | intro _
      | with_reducible apply handlePiece_keep
      | with_reducible apply Keep.foldl
      | with_reducible apply KeepPiece.done
      | with_reducible apply KeepPiece.noSlot
      | (extract_lets +onlyGivenNames x
         first
           | (refine (fun (hx : Keep sB x) => ?_) ?_; clear_value x; rotate_left; subst x)
           | (refine (fun (hx : KeepPiece sB x) => ?_) ?_; clear_value x; rotate_left; subst x)
           | (have := fun a => x a; clear this; subst x)
           | clear_value x
           | subst x)
      | with_reducible apply Keep.ite
      | with_reducible apply KeepPiece.ite
      | split
      | (with_reducible apply KeepPiece.of_done; with_reducible assumption)
      | (with_reducible apply KeepPiece.un_done; with_reducible assumption)
      | (with_reducible apply Keep.ofMk; with_reducible apply Keep.fold)

theorem takePiece_keep {sB : State} {s : State} {sh : Shard} {p : Piece}
    (hs : Keep sB s) : KeepPiece sB (takePiece s sh p) := by
  unfold takePiece
  repeat' first
    | with_reducible assumption
    | intro _
    | with_reducible apply handlePiece_keep
    | with_reducible apply drainEarly_keep
    | with_reducible apply KeepPiece.done
    | with_reducible apply KeepPiece.noSlot
    | (extract_lets +onlyGivenNames x
       first
         | (refine (fun (hx : Keep sB x) => ?_) ?_; clear_value x; rotate_left; subst x)
         | (refine (fun (hx : KeepPiece sB x) => ?_) ?_; clear_value x; rotate_left; subst x)
         | (have := fun a => x a; clear this; subst x)
         | clear_value x
         | subst x)
    | with_reducible apply Keep.ite
    | with_reducible apply KeepPiece.ite
    | split
    | (with_reducible apply KeepPiece.of_done; with_reducible assumption)
    | (with_reducible apply KeepPiece.un_done; with_reducible assumption)
    | (with_reducible apply Keep.ofMk; with_reducible apply Keep.fold)

theorem accPieces_keep {sB : State} {s : State} {sh : Shard} {r : Record} {fuel : Nat}
    (hs : Keep sB s) : Keep1 sB (accPieces s sh r fuel) := by
  induction fuel generalizing s sh r with
  | zero  =>
    first | rw [accPieces] | unfold accPieces
    repeat' first
      | with_reducible assumption
      | with_reducible apply takePiece_keep
      | with_reducible apply KeepPiece.done
      | with_reducible apply KeepPiece.noSlot
      | (extract_lets +onlyGivenNames x
         first
           | (refine (fun (hx : Keep sB x) => ?_) ?_; clear_value x; rotate_left; subst x)
           | (refine (fun (hx : Keep1 sB x) => ?_) ?_; clear_value x; have hx2 := Keep1.proj hx; rotate_left; subst x)
           | (refine (fun (hx : KeepPiece sB x) => ?_) ?_; clear_value x; rotate_left; subst x)
           | (have := fun a => x a; clear this; subst x)
           | clear_value x
           | subst x)
      | with_reducible apply Keep.ite
      | with_reducible apply Keep1.ite
      | with_reducible apply KeepPiece.ite
      | split
      | (with_reducible apply Keep1.elim; with_reducible assumption)
      | (with_reducible apply Keep1.elimM; with_reducible assumption)
      | (with_reducible apply KeepPiece.of_done; with_reducible assumption)
      | (with_reducible apply KeepPiece.un_done; with_reducible assumption)
      | with_reducible apply Keep1.mk
      | (with_reducible apply Keep.ofMk; with_reducible apply Keep.fold)
  | succ n ih =>
    first | rw [accPieces] | unfold accPieces
    repeat' first
      | with_reducible assumption
      | with_reducible apply ih
      | with_reducible apply takePiece_keep
      | with_reducible apply KeepPiece.done
      | with_reducible apply KeepPiece.noSlot
      | (extract_lets +onlyGivenNames x
         first
           | (refine (fun (hx : Keep sB x) => ?_) ?_; clear_value x; rotate_left; subst x)
           | (refine (fun (hx : Keep1 sB x) => ?_) ?_; clear_value x; have hx2 := Keep1.proj hx; rotate_left; subst x)
           | (refine (fun (hx : KeepPiece sB x) => ?_) ?_; clear_value x; rotate_left; subst x)
           | (have := fun a => x a; clear this; subst x)
           | clear_value x
           | subst x)
      | with_reducible apply Keep.ite
      | with_reducible apply Keep1.ite
      | with_reducible apply KeepPiece.ite
      | split
      | (with_reducible apply Keep1.elim; with_reducible assumption)
      | (with_reducible apply Keep1.elimM; with_reducible assumption)
      | (with_reducible apply KeepPiece.of_done; with_reducible assumption)
      | (with_reducible apply KeepPiece.un_done; with_reducible assumption)
      | with_reducible apply Keep1.mk
      | (with_reducible apply Keep.ofMk; with_reducible apply Keep.fold)


theorem accPieces_keep_st {sB : State} {s : State} {sh : Shard} {r : Record} {fuel : Nat}
    (hs : Keep sB s) : Keep sB (accPieces s sh r fuel).1 :=
  accPieces_keep hs
theorem answered_keep {sB : State} {s : State} {who : Origin} {key : Nat}
    (hs : Keep sB s) : Keep sB (answered s who key) := by
  unfold answered
  repeat' first
    | with_reducible assumption
    | with_reducible apply State.setSh_keep
    | with_reducible apply syncBusy_keep
    | (extract_lets +onlyGivenNames x
       first
         | (refine (fun (hx : Keep sB x) => ?_) ?_; clear_value x; rotate_left; subst x)
         | (have := fun a => x a; clear this; subst x)
         | clear_value x
         | subst x)
    | split
    | (with_reducible apply Keep.ofMk; with_reducible apply Keep.fold)

theorem accAck_keep {sB : State} {s : State} {w : Withheld}
    (hs : Keep sB s) : Keep sB (accAck s w) := by
  unfold accAck
  repeat' first
    | with_reducible assumption
    | intro _
    | with_reducible apply replyTo_keep
    | with_reducible apply rxTake_keep
    | with_reducible apply answered_keep
    | (extract_lets +onlyGivenNames x
       first
         | (refine (fun (hx : Keep sB x) => ?_) ?_; clear_value x; rotate_left; subst x)
         | (have := fun a => x a; clear this; subst x)
         | clear_value x
         | subst x)
    | split
    | (with_reducible apply Keep.ofMk; with_reducible apply Keep.fold)

theorem accTake_keep {sB : State} {s : State} {w : Withheld}
    (hs : Keep sB s) : Keep1 sB (accTake s w) := by
  unfold accTake
  repeat' first
    | with_reducible assumption
    | with_reducible apply accPieces_keep
    | with_reducible apply accPieces_keep_st
    | with_reducible apply accAck_keep
    | (extract_lets +onlyGivenNames x
       first
         | (refine (fun (hx : Keep sB x) => ?_) ?_; clear_value x; rotate_left; subst x)
         | (refine (fun (hx : Keep1 sB x) => ?_) ?_; clear_value x; have hx2 := Keep1.proj hx; rotate_left; subst x)
         | (have := fun a => x a; clear this; subst x)
         | clear_value x
         | subst x)
    | split
    | (with_reducible apply Keep1.elim; with_reducible assumption)
    | (with_reducible apply Keep1.elimM; with_reducible assumption)
    | with_reducible apply Keep1.mk
    | (with_reducible apply Keep.ofMk; with_reducible apply Keep.fold)


theorem accTake_keep_st {sB : State} {s : State} {w : Withheld}
    (hs : Keep sB s) : Keep sB (accTake s w).1 :=
  accTake_keep hs
theorem accRetryOnce_keep {sB : State} {s : State} {l : List Withheld}
    (hs : Keep sB s) : Keep sB (accRetryOnce s l) := by
  induction l generalizing s with
  | nil  =>
    first | rw [accRetryOnce] | unfold accRetryOnce
    repeat' first
      | with_reducible assumption
      | with_reducible apply accTake_keep
      | with_reducible apply accTake_keep_st
      | (extract_lets +onlyGivenNames x
         first
           | (refine (fun (hx : Keep sB x) => ?_) ?_; clear_value x; rotate_left; subst x)
           | (refine (fun (hx : Keep1 sB x) => ?_) ?_; clear_value x; have hx2 := Keep1.proj hx; rotate_left; subst x)
           | (have := fun a => x a; clear this; subst x)
           | clear_value x
           | subst x)
      | split
      | (with_reducible apply Keep1.elim; with_reducible assumption)
      | (with_reducible apply Keep1.elimM; with_reducible assumption)
      | with_reducible apply Keep1.mk
      | (with_reducible apply Keep.ofMk; with_reducible apply Keep.fold)
  | cons y r ih =>
    first | rw [accRetryOnce] | unfold accRetryOnce
    repeat' first
      | with_reducible assumption
      | with_reducible apply ih
      | with_reducible apply accTake_keep
      | with_reducible apply accTake_keep_st
      | (extract_lets +onlyGivenNames x
         first
           | (refine (fun (hx : Keep sB x) => ?_) ?_; clear_value x; rotate_left; subst x)
           | (refine (fun (hx : Keep1 sB x) => ?_) ?_; clear_value x; have hx2 := Keep1.proj hx; rotate_left; subst x)
           | (have := fun a => x a; clear this; subst x)
           | clear_value x
           | subst x)
      | split
      | (with_reducible apply Keep1.elim; with_reducible assumption)
      | (with_reducible apply Keep1.elimM; with_reducible assumption)
      | with_reducible apply Keep1.mk
      | (with_reducible apply Keep.ofMk; with_reducible apply Keep.fold)

theorem accRetry_keep {sB : State} {s : State} {fuel : Nat}
    (hs : Keep sB s) : Keep sB (accRetry s fuel) := by
  induction fuel generalizing s with
  | zero  =>
    first | rw [accRetry] | unfold accRetry
    repeat' first
      | with_reducible assumption
      | with_reducible apply accRetryOnce_keep
      | (extract_lets +onlyGivenNames x
         first
           | (refine (fun (hx : Keep sB x) => ?_) ?_; clear_value x; rotate_left; subst x)
           | (have := fun a => x a; clear this; subst x)
           | clear_value x
           | subst x)
      | with_reducible apply Keep.ite
      | split
      | (with_reducible apply Keep.ofMk; with_reducible apply Keep.fold)
  | succ n ih =>
    first | rw [accRetry] | unfold accRetry
    repeat' first
      | with_reducible assumption
      | with_reducible apply ih
      | with_reducible apply accRetryOnce_keep
      | (extract_lets +onlyGivenNames x
         first
           | (refine (fun (hx : Keep sB x) => ?_) ?_; clear_value x; rotate_left; subst x)
           | (have := fun a => x a; clear this; subst x)
           | clear_value x
           | subst x)
      | with_reducible apply Keep.ite
      | split
      | (with_reducible apply Keep.ofMk; with_reducible apply Keep.fold)

theorem accept_keep {sB : State} {s : State} {w : Withheld}
    (hs : Keep sB s) : Keep sB (accept s w) := by
  unfold accept
  repeat' first
    | with_reducible assumption
    | with_reducible apply accTake_keep
    | with_reducible apply accTake_keep_st
    | with_reducible apply accRetry_keep
    | (extract_lets +onlyGivenNames x
       first
         | (refine (fun (hx : Keep sB x) => ?_) ?_; clear_value x; rotate_left; subst x)
         | (refine (fun (hx : Keep1 sB x) => ?_) ?_; clear_value x; have hx2 := Keep1.proj hx; rotate_left; subst x)
         | (have := fun a => x a; clear this; subst x)
         | clear_value x
         | subst x)
    | split
    | (with_reducible apply Keep1.elim; with_reducible assumption)
    | (with_reducible apply Keep1.elimM; with_reducible assumption)
    | with_reducible apply Keep1.mk
    | (with_reducible apply Keep.ofMk; with_reducible apply Keep.fold)

theorem ShRes.next_keep {α β : Type} {s0 : State} {r : ShRes α} {k : State → α → ShRes β} (hr : KeepSh s0 r)
    (hk : ∀ s v, Keep s0 s → KeepSh s0 (k s v)) : KeepSh s0 (r.next k) := by
  cases r with
  | ok s v => exact hk s v hr
  | bad s c a => exact hr
  | wait s => exact hr

theorem readHere_keep {sB : State} {s : State} {a : Nat} {n : Nat} {resp : Resp} {ecc : Ecc}
    (hs : Keep sB s) : Keep1 sB (readHere s a n resp ecc) := by
  unfold readHere
  repeat' first
    | with_reducible assumption
    | intro _
    | with_reducible apply unitRead_keep
    | with_reducible apply unitRead_keep_st
    | (extract_lets +onlyGivenNames x
       first
         | (refine (fun (hx : Keep sB x) => ?_) ?_; clear_value x; rotate_left; subst x)
         | (refine (fun (hx : Keep1 sB x) => ?_) ?_; clear_value x; have hx2 := Keep1.proj hx; rotate_left; subst x)
         | (refine (fun (hx : KeepMem sB x) => ?_) ?_; clear_value x; have hx2 := KeepMem.proj hx; rotate_left; subst x)
         | (have := fun a => x a; clear this; subst x)
         | clear_value x
         | subst x)
    | with_reducible apply Keep.ite
    | with_reducible apply Keep1.ite
    | with_reducible apply KeepMem.ite
    | split
    | (with_reducible apply Keep1.elim; with_reducible assumption)
    | (with_reducible apply Keep1.elimM; with_reducible assumption)
    | with_reducible apply Keep1.mk
    | with_reducible apply KeepMem.mk
    | (with_reducible apply Keep.ofMk; with_reducible apply Keep.fold)


theorem readHere_keep_st {sB : State} {s : State} {a : Nat} {n : Nat} {resp : Resp} {ecc : Ecc}
    (hs : Keep sB s) : Keep sB (readHere s a n resp ecc).1 :=
  readHere_keep hs
theorem writeHere_keep {sB : State} {s : State} {a : Nat} {bs : List Byte}
    (hs : Keep sB s) : Keep1 sB (writeHere s a bs) := by
  unfold writeHere
  repeat' first
    | with_reducible assumption
    | intro _
    | with_reducible apply devWrite_keep
    | with_reducible apply devWrite_keep_st
    | (extract_lets +onlyGivenNames x
       first
         | (refine (fun (hx : Keep sB x) => ?_) ?_; clear_value x; rotate_left; subst x)
         | (refine (fun (hx : Keep1 sB x) => ?_) ?_; clear_value x; have hx2 := Keep1.proj hx; rotate_left; subst x)
         | (refine (fun (hx : KeepMem sB x) => ?_) ?_; clear_value x; have hx2 := KeepMem.proj hx; rotate_left; subst x)
         | (have := fun a => x a; clear this; subst x)
         | clear_value x
         | subst x)
    | with_reducible apply Keep.ite
    | with_reducible apply Keep1.ite
    | with_reducible apply KeepMem.ite
    | split
    | (with_reducible apply Keep1.elim; with_reducible assumption)
    | (with_reducible apply Keep1.elimM; with_reducible assumption)
    | with_reducible apply Keep1.mk
    | with_reducible apply KeepMem.mk


theorem writeHere_keep_st {sB : State} {s : State} {a : Nat} {bs : List Byte}
    (hs : Keep sB s) : Keep sB (writeHere s a bs).1 :=
  writeHere_keep hs
theorem rdLocal_keep {sB : State} {s : State} {x : Span} {resp : Resp} {ecc : Ecc}
    (hs : Keep sB s) : KeepSh sB (rdLocal s x resp ecc) := by
  unfold rdLocal
  repeat' first
    | with_reducible assumption
    | with_reducible apply readHere_keep
    | with_reducible apply readHere_keep_st
    | with_reducible apply KeepSh.ok
    | with_reducible apply KeepSh.bad
    | with_reducible apply KeepSh.wait
    | (extract_lets +onlyGivenNames x
       first
         | (refine (fun (hx : Keep sB x) => ?_) ?_; clear_value x; rotate_left; subst x)
         | (refine (fun (hx : Keep1 sB x) => ?_) ?_; clear_value x; have hx2 := Keep1.proj hx; rotate_left; subst x)
         | (refine (fun (hx : KeepSh sB x) => ?_) ?_; clear_value x; rotate_left; subst x)
         | (have := fun a => x a; clear this; subst x)
         | clear_value x
         | subst x)
    | with_reducible apply Keep.ite
    | with_reducible apply Keep1.ite
    | with_reducible apply KeepSh.ite
    | split
    | (with_reducible apply Keep1.elim; with_reducible assumption)
    | (with_reducible apply Keep1.elimM; with_reducible assumption)
    | (with_reducible apply KeepSh.of_ok; with_reducible assumption)
    | (with_reducible apply KeepSh.un_ok; with_reducible assumption)
    | (with_reducible apply KeepSh.of_bad; with_reducible assumption)
    | (with_reducible apply KeepSh.un_bad; with_reducible assumption)
    | (with_reducible apply KeepSh.of_wait; with_reducible assumption)
    | (with_reducible apply KeepSh.un_wait; with_reducible assumption)
    | with_reducible apply Keep1.mk
    | (with_reducible apply Keep.ofMk; with_reducible apply Keep.fold)

theorem sendRecord_keep {sB : State} {s : State} {f : Nat} {j : Nat} {r : Record}
    (hs : Keep sB s) : Keep1 sB (sendRecord s f j r) := by
  unfold sendRecord
  repeat' first
    | with_reducible assumption
    | intro _
    | with_reducible apply noteReject_keep
    | with_reducible apply meshSend_keep
    | (extract_lets +onlyGivenNames x
       first
         | (refine (fun (hx : Keep sB x) => ?_) ?_; clear_value x; rotate_left; subst x)
         | (refine (fun (hx : Keep1 sB x) => ?_) ?_; clear_value x; have hx2 := Keep1.proj hx; rotate_left; subst x)
         | (have := fun a => x a; clear this; subst x)
         | clear_value x
         | subst x)
    | split
    | (with_reducible apply Keep1.elim; with_reducible assumption)
    | (with_reducible apply Keep1.elimM; with_reducible assumption)
    | with_reducible apply Keep1.mk
    | (with_reducible apply Keep.ofMk; with_reducible apply Keep.fold)


theorem sendRecord_keep_st {sB : State} {s : State} {f : Nat} {j : Nat} {r : Record}
    (hs : Keep sB s) : Keep sB (sendRecord s f j r).1 :=
  sendRecord_keep hs
theorem askAll_keep {sB : State} {s : State} {f : Nat} {j : Nat} {l : List Span}
    (hs : Keep sB s) : KeepSh sB (askAll s f j l) := by
  induction l generalizing s f j with
  | nil  =>
    first | rw [askAll] | unfold askAll
    repeat' first
      | with_reducible assumption
      | with_reducible apply State.setSh_keep
      | with_reducible apply meshSend_keep
      | with_reducible apply sendRecord_keep
      | with_reducible apply sendRecord_keep_st
      | with_reducible apply KeepSh.ok
      | with_reducible apply KeepSh.bad
      | with_reducible apply KeepSh.wait
      | (extract_lets +onlyGivenNames x
         first
           | (refine (fun (hx : Keep sB x) => ?_) ?_; clear_value x; rotate_left; subst x)
           | (refine (fun (hx : Keep1 sB x) => ?_) ?_; clear_value x; have hx2 := Keep1.proj hx; rotate_left; subst x)
           | (refine (fun (hx : KeepSh sB x) => ?_) ?_; clear_value x; rotate_left; subst x)
           | (have := fun a => x a; clear this; subst x)
           | clear_value x
           | subst x)
      | with_reducible apply Keep.ite
      | with_reducible apply Keep1.ite
      | with_reducible apply KeepSh.ite
      | split
      | (with_reducible apply Keep1.elim; with_reducible assumption)
      | (with_reducible apply Keep1.elimM; with_reducible assumption)
      | (with_reducible apply KeepSh.of_ok; with_reducible assumption)
      | (with_reducible apply KeepSh.un_ok; with_reducible assumption)
      | (with_reducible apply KeepSh.of_bad; with_reducible assumption)
      | (with_reducible apply KeepSh.un_bad; with_reducible assumption)
      | (with_reducible apply KeepSh.of_wait; with_reducible assumption)
      | (with_reducible apply KeepSh.un_wait; with_reducible assumption)
      | with_reducible apply Keep1.mk
      | (with_reducible apply Keep.ofMk; with_reducible apply Keep.fold)
  | cons y r ih =>
    first | rw [askAll] | unfold askAll
    repeat' first
      | with_reducible assumption
      | with_reducible apply ih
      | with_reducible apply State.setSh_keep
      | with_reducible apply meshSend_keep
      | with_reducible apply sendRecord_keep
      | with_reducible apply sendRecord_keep_st
      | with_reducible apply KeepSh.ok
      | with_reducible apply KeepSh.bad
      | with_reducible apply KeepSh.wait
      | (extract_lets +onlyGivenNames x
         first
           | (refine (fun (hx : Keep sB x) => ?_) ?_; clear_value x; rotate_left; subst x)
           | (refine (fun (hx : Keep1 sB x) => ?_) ?_; clear_value x; have hx2 := Keep1.proj hx; rotate_left; subst x)
           | (refine (fun (hx : KeepSh sB x) => ?_) ?_; clear_value x; rotate_left; subst x)
           | (have := fun a => x a; clear this; subst x)
           | clear_value x
           | subst x)
      | with_reducible apply Keep.ite
      | with_reducible apply Keep1.ite
      | with_reducible apply KeepSh.ite
      | split
      | (with_reducible apply Keep1.elim; with_reducible assumption)
      | (with_reducible apply Keep1.elimM; with_reducible assumption)
      | (with_reducible apply KeepSh.of_ok; with_reducible assumption)
      | (with_reducible apply KeepSh.un_ok; with_reducible assumption)
      | (with_reducible apply KeepSh.of_bad; with_reducible assumption)
      | (with_reducible apply KeepSh.un_bad; with_reducible assumption)
      | (with_reducible apply KeepSh.of_wait; with_reducible assumption)
      | (with_reducible apply KeepSh.un_wait; with_reducible assumption)
      | with_reducible apply Keep1.mk
      | (with_reducible apply Keep.ofMk; with_reducible apply Keep.fold)

theorem needRemote_keep {sB : State} {s : State} {f : Nat} {j : Nat} {l : List Span}
    (hs : Keep sB s) : KeepSh sB (needRemote s f j l) := by
  unfold needRemote
  repeat' first
    | with_reducible assumption
    | intro _
    | with_reducible apply askAll_keep
    | with_reducible apply KeepSh.ok
    | with_reducible apply KeepSh.bad
    | with_reducible apply KeepSh.wait
    | (extract_lets +onlyGivenNames x
       first
         | (refine (fun (hx : Keep sB x) => ?_) ?_; clear_value x; rotate_left; subst x)
         | (refine (fun (hx : KeepSh sB x) => ?_) ?_; clear_value x; rotate_left; subst x)
         | (have := fun a => x a; clear this; subst x)
         | clear_value x
         | subst x)
    | with_reducible apply Keep.ite
    | with_reducible apply KeepSh.ite
    | split
    | (with_reducible apply KeepSh.of_ok; with_reducible assumption)
    | (with_reducible apply KeepSh.un_ok; with_reducible assumption)
    | (with_reducible apply KeepSh.of_bad; with_reducible assumption)
    | (with_reducible apply KeepSh.un_bad; with_reducible assumption)
    | (with_reducible apply KeepSh.of_wait; with_reducible assumption)
    | (with_reducible apply KeepSh.un_wait; with_reducible assumption)
    | (with_reducible apply Keep.ofMk; with_reducible apply Keep.fold)

theorem readBursts_keep {sB : State} {s : State} {f : Nat} {j : Nat} {l : List Span} {resp : Resp} {ecc : Ecc} {m : ByteMap}
    (hs : Keep sB s) : KeepSh sB (readBursts s f j l resp ecc m) := by
  induction l generalizing s f j resp ecc m with
  | nil  =>
    first | rw [readBursts] | unfold readBursts
    repeat' first
      | with_reducible assumption
      | with_reducible apply rdLocal_keep
      | with_reducible apply KeepSh.ok
      | with_reducible apply KeepSh.bad
      | with_reducible apply KeepSh.wait
      | (extract_lets +onlyGivenNames x
         first
           | (refine (fun (hx : Keep sB x) => ?_) ?_; clear_value x; rotate_left; subst x)
           | (refine (fun (hx : KeepSh sB x) => ?_) ?_; clear_value x; rotate_left; subst x)
           | (have := fun a => x a; clear this; subst x)
           | clear_value x
           | subst x)
      | with_reducible apply Keep.ite
      | with_reducible apply KeepSh.ite
      | split
      | (with_reducible apply KeepSh.of_ok; with_reducible assumption)
      | (with_reducible apply KeepSh.un_ok; with_reducible assumption)
      | (with_reducible apply KeepSh.of_bad; with_reducible assumption)
      | (with_reducible apply KeepSh.un_bad; with_reducible assumption)
      | (with_reducible apply KeepSh.of_wait; with_reducible assumption)
      | (with_reducible apply KeepSh.un_wait; with_reducible assumption)
      | (with_reducible apply Keep.ofMk; with_reducible apply Keep.fold)
  | cons y r ih =>
    first | rw [readBursts] | unfold readBursts
    repeat' first
      | with_reducible assumption
      | with_reducible apply ih
      | with_reducible apply rdLocal_keep
      | with_reducible apply KeepSh.ok
      | with_reducible apply KeepSh.bad
      | with_reducible apply KeepSh.wait
      | (extract_lets +onlyGivenNames x
         first
           | (refine (fun (hx : Keep sB x) => ?_) ?_; clear_value x; rotate_left; subst x)
           | (refine (fun (hx : KeepSh sB x) => ?_) ?_; clear_value x; rotate_left; subst x)
           | (have := fun a => x a; clear this; subst x)
           | clear_value x
           | subst x)
      | with_reducible apply Keep.ite
      | with_reducible apply KeepSh.ite
      | split
      | (with_reducible apply KeepSh.of_ok; with_reducible assumption)
      | (with_reducible apply KeepSh.un_ok; with_reducible assumption)
      | (with_reducible apply KeepSh.of_bad; with_reducible assumption)
      | (with_reducible apply KeepSh.un_bad; with_reducible assumption)
      | (with_reducible apply KeepSh.of_wait; with_reducible assumption)
      | (with_reducible apply KeepSh.un_wait; with_reducible assumption)
      | (with_reducible apply Keep.ofMk; with_reducible apply Keep.fold)

theorem countMerged_keep {sB : State} {s : State} {f : Nat} {l : List Span}
    (hs : Keep sB s) : Keep sB (countMerged s f l) := by
  unfold countMerged
  repeat' first
    | with_reducible assumption
    | intro _
    | with_reducible apply State.bump_keep
    | split

theorem readSpans_keep {sB : State} {s : State} {f : Nat} {j : Nat} {l : List Span} {resp : Resp} {ecc : Ecc}
    (hs : Keep sB s) : KeepSh sB (readSpans s f j l resp ecc) := by
  unfold readSpans
  repeat' first
    | with_reducible assumption
    | intro _
    | with_reducible apply ShRes.next_keep
    | with_reducible apply needRemote_keep
    | with_reducible apply readBursts_keep
    | with_reducible apply countMerged_keep
    | with_reducible apply KeepSh.ok
    | with_reducible apply KeepSh.bad
    | with_reducible apply KeepSh.wait
    | (extract_lets +onlyGivenNames x
       first
         | (refine (fun (hx : Keep sB x) => ?_) ?_; clear_value x; rotate_left; subst x)
         | (refine (fun (hx : KeepSh sB x) => ?_) ?_; clear_value x; rotate_left; subst x)
         | (have := fun a => x a; clear this; subst x)
         | clear_value x
         | subst x)
    | split
    | (with_reducible apply KeepSh.of_ok; with_reducible assumption)
    | (with_reducible apply KeepSh.un_ok; with_reducible assumption)
    | (with_reducible apply KeepSh.of_bad; with_reducible assumption)
    | (with_reducible apply KeepSh.un_bad; with_reducible assumption)
    | (with_reducible apply KeepSh.of_wait; with_reducible assumption)
    | (with_reducible apply KeepSh.un_wait; with_reducible assumption)

theorem places_keep {sB : State} {s : State} {f : Nat} {j : Nat} {d : List Byte} {xp : Bool} {lam : Nat} {n : Nat} {resp : Resp} {ecc : ShEcc}
    (hs : Keep sB s) : KeepSh sB (places s f j d xp lam n resp ecc) := by
  unfold places
  repeat' first
    | with_reducible assumption
    | intro _
    | with_reducible apply ShRes.next_keep
    | with_reducible apply readSpans_keep
    | with_reducible apply KeepSh.ok
    | with_reducible apply KeepSh.bad
    | with_reducible apply KeepSh.wait
    | (extract_lets +onlyGivenNames x
       first
         | (refine (fun (hx : Keep sB x) => ?_) ?_; clear_value x; rotate_left; subst x)
         | (refine (fun (hx : KeepSh sB x) => ?_) ?_; clear_value x; rotate_left; subst x)
         | (have := fun a => x a; clear this; subst x)
         | clear_value x
         | subst x)
    | split
    | (with_reducible apply KeepSh.of_ok; with_reducible assumption)
    | (with_reducible apply KeepSh.un_ok; with_reducible assumption)
    | (with_reducible apply KeepSh.of_bad; with_reducible assumption)
    | (with_reducible apply KeepSh.un_bad; with_reducible assumption)
    | (with_reducible apply KeepSh.of_wait; with_reducible assumption)
    | (with_reducible apply KeepSh.un_wait; with_reducible assumption)

theorem noteOob_keep {sB : State} {s : State} {f : Nat} {n : Nat}
    (hs : Keep sB s) : Keep sB (noteOob s f n) := by
  unfold noteOob
  repeat' first
    | with_reducible assumption
    | with_reducible apply State.bump_keep

theorem readElems_keep {sB : State} {s : State} {f : Nat} {j : Nat} {d : List Byte} {xp : Bool} {c64 : Bool} {lam : Nat} {ps : List (Option EPlace)} {resp : Resp} {ecc : ShEcc}
    (hs : Keep sB s) : KeepSh sB (readElems s f j d xp c64 lam ps resp ecc) := by
  unfold readElems
  repeat' first
    | with_reducible assumption
    | intro _
    | with_reducible apply ShRes.next_keep
    | with_reducible apply needRemote_keep
    | with_reducible apply readSpans_keep
    | with_reducible apply KeepSh.ok
    | with_reducible apply KeepSh.bad
    | with_reducible apply KeepSh.wait
    | (extract_lets +onlyGivenNames x
       first
         | (refine (fun (hx : Keep sB x) => ?_) ?_; clear_value x; rotate_left; subst x)
         | (refine (fun (hx : KeepSh sB x) => ?_) ?_; clear_value x; rotate_left; subst x)
         | (have := fun a => x a; clear this; subst x)
         | clear_value x
         | subst x)
    | with_reducible apply Keep.ite
    | with_reducible apply KeepSh.ite
    | split
    | (with_reducible apply KeepSh.of_ok; with_reducible assumption)
    | (with_reducible apply KeepSh.un_ok; with_reducible assumption)
    | (with_reducible apply KeepSh.of_bad; with_reducible assumption)
    | (with_reducible apply KeepSh.un_bad; with_reducible assumption)
    | (with_reducible apply KeepSh.of_wait; with_reducible assumption)
    | (with_reducible apply KeepSh.un_wait; with_reducible assumption)
    | (with_reducible apply Keep.ofMk; with_reducible apply Keep.fold)

theorem noteWrite_keep {sB : State} {s : State} {f : Nat} {j : Nat} {key : Nat} {timed : Bool}
    (hs : Keep sB s) : Keep sB (noteWrite s f j key timed) := by
  unfold noteWrite
  repeat' first
    | with_reducible assumption
    | with_reducible apply State.setSh_keep
    | (extract_lets +onlyGivenNames x
       first
         | (refine (fun (hx : Keep sB x) => ?_) ?_; clear_value x; rotate_left; subst x)
         | (have := fun a => x a; clear this; subst x)
         | clear_value x
         | subst x)
    | (with_reducible apply Keep.ofMk; with_reducible apply Keep.fold)

theorem mcastWrite_keep {sB : State} {s : State} {f : Nat} {j : Nat} {grp : Nat} {addr : Nat} {bs : List Byte}
    (hs : Keep sB s) : KeepSh sB (mcastWrite s f j grp addr bs) := by
  unfold mcastWrite
  repeat' first
    | with_reducible assumption
    | intro _
    | with_reducible apply noteReject_keep
    | with_reducible apply meshSend_keep
    | with_reducible apply noteWrite_keep
    | with_reducible apply KeepSh.ok
    | with_reducible apply KeepSh.bad
    | with_reducible apply KeepSh.wait
    | (extract_lets +onlyGivenNames x
       first
         | (refine (fun (hx : Keep sB x) => ?_) ?_; clear_value x; rotate_left; subst x)
         | (refine (fun (hx : KeepSh sB x) => ?_) ?_; clear_value x; rotate_left; subst x)
         | (have := fun a => x a; clear this; subst x)
         | clear_value x
         | subst x)
    | with_reducible apply Keep.ite
    | with_reducible apply KeepSh.ite
    | split
    | (with_reducible apply KeepSh.of_ok; with_reducible assumption)
    | (with_reducible apply KeepSh.un_ok; with_reducible assumption)
    | (with_reducible apply KeepSh.of_bad; with_reducible assumption)
    | (with_reducible apply KeepSh.un_bad; with_reducible assumption)
    | (with_reducible apply KeepSh.of_wait; with_reducible assumption)
    | (with_reducible apply KeepSh.un_wait; with_reducible assumption)
    | (with_reducible apply Keep.ofMk; with_reducible apply Keep.fold)

theorem writeSpan_keep {sB : State} {s : State} {f : Nat} {j : Nat} {g : Seg} {x : Span} {bs : List Byte}
    (hs : Keep sB s) : KeepSh sB (writeSpan s f j g x bs) := by
  unfold writeSpan
  repeat' first
    | with_reducible assumption
    | with_reducible apply meshSend_keep
    | with_reducible apply writeHere_keep
    | with_reducible apply writeHere_keep_st
    | with_reducible apply sendRecord_keep
    | with_reducible apply sendRecord_keep_st
    | with_reducible apply noteWrite_keep
    | with_reducible apply mcastWrite_keep
    | with_reducible apply KeepSh.ok
    | with_reducible apply KeepSh.bad
    | with_reducible apply KeepSh.wait
    | (extract_lets +onlyGivenNames x
       first
         | (refine (fun (hx : Keep sB x) => ?_) ?_; clear_value x; rotate_left; subst x)
         | (refine (fun (hx : Keep1 sB x) => ?_) ?_; clear_value x; have hx2 := Keep1.proj hx; rotate_left; subst x)
         | (refine (fun (hx : KeepSh sB x) => ?_) ?_; clear_value x; rotate_left; subst x)
         | (have := fun a => x a; clear this; subst x)
         | clear_value x
         | subst x)
    | with_reducible apply Keep.ite
    | with_reducible apply Keep1.ite
    | with_reducible apply KeepSh.ite
    | split
    | (with_reducible apply Keep1.elim; with_reducible assumption)
    | (with_reducible apply Keep1.elimM; with_reducible assumption)
    | (with_reducible apply KeepSh.of_ok; with_reducible assumption)
    | (with_reducible apply KeepSh.un_ok; with_reducible assumption)
    | (with_reducible apply KeepSh.of_bad; with_reducible assumption)
    | (with_reducible apply KeepSh.un_bad; with_reducible assumption)
    | (with_reducible apply KeepSh.of_wait; with_reducible assumption)
    | (with_reducible apply KeepSh.un_wait; with_reducible assumption)
    | with_reducible apply Keep1.mk
    | (with_reducible apply Keep.ofMk; with_reducible apply Keep.fold)

theorem writeAll_keep {sB : State} {s : State} {f : Nat} {j : Nat} {g : Seg} {m : ByteMap} {l : List Span}
    (hs : Keep sB s) : KeepSh sB (writeAll s f j g m l) := by
  induction l generalizing s f j g m with
  | nil  =>
    first | rw [writeAll] | unfold writeAll
    repeat' first
      | with_reducible assumption
      | intro _
      | with_reducible apply ShRes.next_keep
      | with_reducible apply writeSpan_keep
      | with_reducible apply KeepSh.ok
      | with_reducible apply KeepSh.bad
      | with_reducible apply KeepSh.wait
      | (extract_lets +onlyGivenNames x
         first
           | (refine (fun (hx : Keep sB x) => ?_) ?_; clear_value x; rotate_left; subst x)
           | (refine (fun (hx : KeepSh sB x) => ?_) ?_; clear_value x; rotate_left; subst x)
           | (have := fun a => x a; clear this; subst x)
           | clear_value x
           | subst x)
      | split
      | (with_reducible apply KeepSh.of_ok; with_reducible assumption)
      | (with_reducible apply KeepSh.un_ok; with_reducible assumption)
      | (with_reducible apply KeepSh.of_bad; with_reducible assumption)
      | (with_reducible apply KeepSh.un_bad; with_reducible assumption)
      | (with_reducible apply KeepSh.of_wait; with_reducible assumption)
      | (with_reducible apply KeepSh.un_wait; with_reducible assumption)
      | (with_reducible apply Keep.ofMk; with_reducible apply Keep.fold)
  | cons y r ih =>
    first | rw [writeAll] | unfold writeAll
    repeat' first
      | with_reducible assumption
      | with_reducible apply ih
      | intro _
      | with_reducible apply ShRes.next_keep
      | with_reducible apply writeSpan_keep
      | with_reducible apply KeepSh.ok
      | with_reducible apply KeepSh.bad
      | with_reducible apply KeepSh.wait
      | (extract_lets +onlyGivenNames x
         first
           | (refine (fun (hx : Keep sB x) => ?_) ?_; clear_value x; rotate_left; subst x)
           | (refine (fun (hx : KeepSh sB x) => ?_) ?_; clear_value x; rotate_left; subst x)
           | (have := fun a => x a; clear this; subst x)
           | clear_value x
           | subst x)
      | split
      | (with_reducible apply KeepSh.of_ok; with_reducible assumption)
      | (with_reducible apply KeepSh.un_ok; with_reducible assumption)
      | (with_reducible apply KeepSh.of_bad; with_reducible assumption)
      | (with_reducible apply KeepSh.un_bad; with_reducible assumption)
      | (with_reducible apply KeepSh.of_wait; with_reducible assumption)
      | (with_reducible apply KeepSh.un_wait; with_reducible assumption)
      | (with_reducible apply Keep.ofMk; with_reducible apply Keep.fold)

theorem storeCodes_keep {sB : State} {s : State} {f : Nat} {j : Nat} {d : List Byte} {g : Seg} {l : List (EPlace × Nat)} {resp : Resp} {ecc : ShEcc}
    (hs : Keep sB s) : KeepSh sB (storeCodes s f j d g l resp ecc) := by
  unfold storeCodes
  repeat' first
    | with_reducible assumption
    | intro _
    | with_reducible apply ShRes.next_keep
    | with_reducible apply countMerged_keep
    | with_reducible apply readSpans_keep
    | with_reducible apply writeAll_keep
    | with_reducible apply Keep.foldl
    | with_reducible apply KeepSh.ok
    | with_reducible apply KeepSh.bad
    | with_reducible apply KeepSh.wait
    | (extract_lets +onlyGivenNames x
       first
         | (refine (fun (hx : Keep sB x) => ?_) ?_; clear_value x; rotate_left; subst x)
         | (refine (fun (hx : KeepSh sB x) => ?_) ?_; clear_value x; rotate_left; subst x)
         | (have := fun a => x a; clear this; subst x)
         | clear_value x
         | subst x)
    | with_reducible apply Keep.ite
    | with_reducible apply KeepSh.ite
    | split
    | (with_reducible apply KeepSh.of_ok; with_reducible assumption)
    | (with_reducible apply KeepSh.un_ok; with_reducible assumption)
    | (with_reducible apply KeepSh.of_bad; with_reducible assumption)
    | (with_reducible apply KeepSh.un_bad; with_reducible assumption)
    | (with_reducible apply KeepSh.of_wait; with_reducible assumption)
    | (with_reducible apply KeepSh.un_wait; with_reducible assumption)
    | (with_reducible apply Keep.ofMk; with_reducible apply Keep.fold)

theorem cvtAll_keep {sB : State} {s : State} {f : Nat} {j : Nat} {t : Nat} {sat : Bool} {sr : Bool} {l : List (Nat × EPlace × XVal)} {acc : List (EPlace × Nat)}
    (hs : Keep sB s) : Keep1 sB (cvtAll s f j t sat sr l acc) := by
  induction l generalizing s f j t sat sr acc with
  | nil  =>
    first | rw [cvtAll] | unfold cvtAll
    repeat' first
      | with_reducible assumption
      | with_reducible apply cvtLane_keep
      | with_reducible apply cvtLane_keep_st
      | (extract_lets +onlyGivenNames x
         first
           | (refine (fun (hx : Keep sB x) => ?_) ?_; clear_value x; rotate_left; subst x)
           | (refine (fun (hx : Keep1 sB x) => ?_) ?_; clear_value x; have hx2 := Keep1.proj hx; rotate_left; subst x)
           | (have := fun a => x a; clear this; subst x)
           | clear_value x
           | subst x)
      | split
      | (with_reducible apply Keep1.elim; with_reducible assumption)
      | (with_reducible apply Keep1.elimM; with_reducible assumption)
      | with_reducible apply Keep1.mk
      | (with_reducible apply Keep.ofMk; with_reducible apply Keep.fold)
  | cons y r ih =>
    first | rw [cvtAll] | unfold cvtAll
    repeat' first
      | with_reducible assumption
      | with_reducible apply ih
      | with_reducible apply cvtLane_keep
      | with_reducible apply cvtLane_keep_st
      | (extract_lets +onlyGivenNames x
         first
           | (refine (fun (hx : Keep sB x) => ?_) ?_; clear_value x; rotate_left; subst x)
           | (refine (fun (hx : Keep1 sB x) => ?_) ?_; clear_value x; have hx2 := Keep1.proj hx; rotate_left; subst x)
           | (have := fun a => x a; clear this; subst x)
           | clear_value x
           | subst x)
      | split
      | (with_reducible apply Keep1.elim; with_reducible assumption)
      | (with_reducible apply Keep1.elimM; with_reducible assumption)
      | with_reducible apply Keep1.mk
      | (with_reducible apply Keep.ofMk; with_reducible apply Keep.fold)


theorem cvtAll_keep_st {sB : State} {s : State} {f : Nat} {j : Nat} {t : Nat} {sat : Bool} {sr : Bool} {l : List (Nat × EPlace × XVal)} {acc : List (EPlace × Nat)}
    (hs : Keep sB s) : Keep sB (cvtAll s f j t sat sr l acc).1 :=
  cvtAll_keep hs
theorem quantAll_keep {sB : State} {s : State} {f : Nat} {j : Nat} {d : List Byte} {sr : Bool} {all : List (Nat × EPlace × XVal)} {l : List (Nat × EPlace × XVal)} {acc : List (EPlace × Nat)} {scs : Sparse (Option Byte)}
    (hs : Keep sB s) : Keep1 sB (quantAll s f j d sr all l acc scs) := by
  induction l generalizing s f j d sr all acc scs with
  | nil  =>
    first | rw [quantAll] | unfold quantAll
    repeat' first
      | with_reducible assumption
      | intro _
      | with_reducible apply quantLane_keep
      | with_reducible apply quantLane_keep_st
      | (extract_lets +onlyGivenNames x
         first
           | (refine (fun (hx : Keep sB x) => ?_) ?_; clear_value x; rotate_left; subst x)
           | (refine (fun (hx : Keep1 sB x) => ?_) ?_; clear_value x; have hx2 := Keep1.proj hx; rotate_left; subst x)
           | (have := fun a => x a; clear this; subst x)
           | clear_value x
           | subst x)
      | split
      | (with_reducible apply Keep1.elim; with_reducible assumption)
      | (with_reducible apply Keep1.elimM; with_reducible assumption)
      | with_reducible apply Keep1.mk
      | (with_reducible apply Keep.ofMk; with_reducible apply Keep.fold)
  | cons y r ih =>
    first | rw [quantAll] | unfold quantAll
    repeat' first
      | with_reducible assumption
      | with_reducible apply ih
      | intro _
      | with_reducible apply quantLane_keep
      | with_reducible apply quantLane_keep_st
      | (extract_lets +onlyGivenNames x
         first
           | (refine (fun (hx : Keep sB x) => ?_) ?_; clear_value x; rotate_left; subst x)
           | (refine (fun (hx : Keep1 sB x) => ?_) ?_; clear_value x; have hx2 := Keep1.proj hx; rotate_left; subst x)
           | (have := fun a => x a; clear this; subst x)
           | clear_value x
           | subst x)
      | split
      | (with_reducible apply Keep1.elim; with_reducible assumption)
      | (with_reducible apply Keep1.elimM; with_reducible assumption)
      | with_reducible apply Keep1.mk
      | (with_reducible apply Keep.ofMk; with_reducible apply Keep.fold)


theorem quantAll_keep_st {sB : State} {s : State} {f : Nat} {j : Nat} {d : List Byte} {sr : Bool} {all : List (Nat × EPlace × XVal)} {l : List (Nat × EPlace × XVal)} {acc : List (EPlace × Nat)} {scs : Sparse (Option Byte)}
    (hs : Keep sB s) : Keep sB (quantAll s f j d sr all l acc scs).1 :=
  quantAll_keep hs
theorem storeScales_keep {sB : State} {s : State} {f : Nat} {j : Nat} {d : List Byte} {l : Sparse (Option Byte)}
    (hs : Keep sB s) : KeepSh sB (storeScales s f j d l) := by
  unfold storeScales
  repeat' first
    | with_reducible assumption
    | intro _
    | with_reducible apply countMerged_keep
    | with_reducible apply writeAll_keep
    | with_reducible apply Keep.foldl
    | with_reducible apply KeepSh.ok
    | with_reducible apply KeepSh.bad
    | with_reducible apply KeepSh.wait
    | (extract_lets +onlyGivenNames x
       first
         | (refine (fun (hx : Keep sB x) => ?_) ?_; clear_value x; rotate_left; subst x)
         | (refine (fun (hx : KeepSh sB x) => ?_) ?_; clear_value x; rotate_left; subst x)
         | (have := fun a => x a; clear this; subst x)
         | clear_value x
         | subst x)
    | split
    | (with_reducible apply KeepSh.of_ok; with_reducible assumption)
    | (with_reducible apply KeepSh.un_ok; with_reducible assumption)
    | (with_reducible apply KeepSh.of_bad; with_reducible assumption)
    | (with_reducible apply KeepSh.un_bad; with_reducible assumption)
    | (with_reducible apply KeepSh.of_wait; with_reducible assumption)
    | (with_reducible apply KeepSh.un_wait; with_reducible assumption)

theorem addCode_keep {sB : State} {s : State} {f : Nat} {t : Nat} {sat : Bool} {old : Val} {x : Val}
    (hs : Keep sB s) : Keep1 sB (addCode s f t sat old x) := by
  unfold addCode
  repeat' first
    | with_reducible assumption
    | with_reducible apply State.bump_keep
    | with_reducible apply noteCvt_keep
    | (extract_lets +onlyGivenNames x
       first
         | (refine (fun (hx : Keep sB x) => ?_) ?_; clear_value x; rotate_left; subst x)
         | (refine (fun (hx : Keep1 sB x) => ?_) ?_; clear_value x; have hx2 := Keep1.proj hx; rotate_left; subst x)
         | (have := fun a => x a; clear this; subst x)
         | clear_value x
         | subst x)
    | with_reducible apply Keep.ite
    | with_reducible apply Keep1.ite
    | split
    | (with_reducible apply Keep1.elim; with_reducible assumption)
    | (with_reducible apply Keep1.elimM; with_reducible assumption)
    | with_reducible apply Keep1.mk
    | (with_reducible apply Keep.ofMk; with_reducible apply Keep.fold)


theorem addCode_keep_st {sB : State} {s : State} {f : Nat} {t : Nat} {sat : Bool} {old : Val} {x : Val}
    (hs : Keep sB s) : Keep sB (addCode s f t sat old x).1 :=
  addCode_keep hs
theorem addHere_keep {sB : State} {s : State} {f : Nat} {a : Nat} {t : Nat} {sat : Bool} {x : Val} {ecc : Ecc}
    (hs : Keep sB s) : Keep1 sB (addHere s f a t sat x ecc) := by
  unfold addHere
  repeat' first
    | with_reducible assumption
    | with_reducible apply readHere_keep
    | with_reducible apply readHere_keep_st
    | with_reducible apply writeHere_keep
    | with_reducible apply writeHere_keep_st
    | with_reducible apply addCode_keep
    | with_reducible apply addCode_keep_st
    | (extract_lets +onlyGivenNames x
       first
         | (refine (fun (hx : Keep sB x) => ?_) ?_; clear_value x; rotate_left; subst x)
         | (refine (fun (hx : Keep1 sB x) => ?_) ?_; clear_value x; have hx2 := Keep1.proj hx; rotate_left; subst x)
         | (have := fun a => x a; clear this; subst x)
         | clear_value x
         | subst x)
    | split
    | (with_reducible apply Keep1.elim; with_reducible assumption)
    | (with_reducible apply Keep1.elimM; with_reducible assumption)
    | with_reducible apply Keep1.mk
    | (with_reducible apply Keep.ofMk; with_reducible apply Keep.fold)


theorem addHere_keep_st {sB : State} {s : State} {f : Nat} {a : Nat} {t : Nat} {sat : Bool} {x : Val} {ecc : Ecc}
    (hs : Keep sB s) : Keep sB (addHere s f a t sat x ecc).1 :=
  addHere_keep hs
theorem addOne_keep {sB : State} {s : State} {f : Nat} {j : Nat} {d : List Byte} {p : EPlace} {sat : Bool} {x : Val} {ecc : Ecc}
    (hs : Keep sB s) : KeepSh sB (addOne s f j d p sat x ecc) := by
  unfold addOne
  repeat' first
    | with_reducible assumption
    | with_reducible apply meshSend_keep
    | with_reducible apply noteWrite_keep
    | with_reducible apply addHere_keep
    | with_reducible apply addHere_keep_st
    | with_reducible apply KeepSh.ok
    | with_reducible apply KeepSh.bad
    | with_reducible apply KeepSh.wait
    | (extract_lets +onlyGivenNames x
       first
         | (refine (fun (hx : Keep sB x) => ?_) ?_; clear_value x; rotate_left; subst x)
         | (refine (fun (hx : Keep1 sB x) => ?_) ?_; clear_value x; have hx2 := Keep1.proj hx; rotate_left; subst x)
         | (refine (fun (hx : KeepSh sB x) => ?_) ?_; clear_value x; rotate_left; subst x)
         | (have := fun a => x a; clear this; subst x)
         | clear_value x
         | subst x)
    | split
    | (with_reducible apply Keep1.elim; with_reducible assumption)
    | (with_reducible apply Keep1.elimM; with_reducible assumption)
    | (with_reducible apply KeepSh.of_ok; with_reducible assumption)
    | (with_reducible apply KeepSh.un_ok; with_reducible assumption)
    | (with_reducible apply KeepSh.of_bad; with_reducible assumption)
    | (with_reducible apply KeepSh.un_bad; with_reducible assumption)
    | (with_reducible apply KeepSh.of_wait; with_reducible assumption)
    | (with_reducible apply KeepSh.un_wait; with_reducible assumption)
    | with_reducible apply Keep1.mk
    | (with_reducible apply Keep.ofMk; with_reducible apply Keep.fold)

theorem addAll_keep {sB : State} {s : State} {f : Nat} {j : Nat} {d : List Byte} {sat : Bool} {ety : Nat} {l : List (Nat × EPlace × XVal)} {ecc : Ecc}
    (hs : Keep sB s) : KeepSh sB (addAll s f j d sat ety l ecc) := by
  induction l generalizing s f j d sat ety ecc with
  | nil  =>
    first | rw [addAll] | unfold addAll
    repeat' first
      | with_reducible assumption
      | intro _
      | with_reducible apply ShRes.next_keep
      | with_reducible apply addOne_keep
      | with_reducible apply KeepSh.ok
      | with_reducible apply KeepSh.bad
      | with_reducible apply KeepSh.wait
      | (extract_lets +onlyGivenNames x
         first
           | (refine (fun (hx : Keep sB x) => ?_) ?_; clear_value x; rotate_left; subst x)
           | (refine (fun (hx : KeepSh sB x) => ?_) ?_; clear_value x; rotate_left; subst x)
           | (have := fun a => x a; clear this; subst x)
           | clear_value x
           | subst x)
      | with_reducible apply Keep.ite
      | with_reducible apply KeepSh.ite
      | split
      | (with_reducible apply KeepSh.of_ok; with_reducible assumption)
      | (with_reducible apply KeepSh.un_ok; with_reducible assumption)
      | (with_reducible apply KeepSh.of_bad; with_reducible assumption)
      | (with_reducible apply KeepSh.un_bad; with_reducible assumption)
      | (with_reducible apply KeepSh.of_wait; with_reducible assumption)
      | (with_reducible apply KeepSh.un_wait; with_reducible assumption)
      | (with_reducible apply Keep.ofMk; with_reducible apply Keep.fold)
  | cons y r ih =>
    first | rw [addAll] | unfold addAll
    repeat' first
      | with_reducible assumption
      | with_reducible apply ih
      | intro _
      | with_reducible apply ShRes.next_keep
      | with_reducible apply addOne_keep
      | with_reducible apply KeepSh.ok
      | with_reducible apply KeepSh.bad
      | with_reducible apply KeepSh.wait
      | (extract_lets +onlyGivenNames x
         first
           | (refine (fun (hx : Keep sB x) => ?_) ?_; clear_value x; rotate_left; subst x)
           | (refine (fun (hx : KeepSh sB x) => ?_) ?_; clear_value x; rotate_left; subst x)
           | (have := fun a => x a; clear this; subst x)
           | clear_value x
           | subst x)
      | with_reducible apply Keep.ite
      | with_reducible apply KeepSh.ite
      | split
      | (with_reducible apply KeepSh.of_ok; with_reducible assumption)
      | (with_reducible apply KeepSh.un_ok; with_reducible assumption)
      | (with_reducible apply KeepSh.of_bad; with_reducible assumption)
      | (with_reducible apply KeepSh.un_bad; with_reducible assumption)
      | (with_reducible apply KeepSh.of_wait; with_reducible assumption)
      | (with_reducible apply KeepSh.un_wait; with_reducible assumption)
      | (with_reducible apply Keep.ofMk; with_reducible apply Keep.fold)

theorem sendContribs_keep {sB : State} {s : State} {f : Nat} {j : Nat} {sh : Shard} {rank : Nat} {l : List (Nat × Nat × Nat × List Byte)}
    (hs : Keep sB s) : KeepSh sB (sendContribs s f j sh rank l) := by
  induction l generalizing s f j sh rank with
  | nil  =>
    first | rw [sendContribs] | unfold sendContribs
    repeat' first
      | with_reducible assumption
      | with_reducible apply State.accept_keep
      | with_reducible apply noteReject_keep
      | with_reducible apply accept_keep
      | with_reducible apply sendRecord_keep
      | with_reducible apply sendRecord_keep_st
      | with_reducible apply noteWrite_keep
      | with_reducible apply KeepSh.ok
      | with_reducible apply KeepSh.bad
      | with_reducible apply KeepSh.wait
      | (extract_lets +onlyGivenNames x
         first
           | (refine (fun (hx : Keep sB x) => ?_) ?_; clear_value x; rotate_left; subst x)
           | (refine (fun (hx : Keep1 sB x) => ?_) ?_; clear_value x; have hx2 := Keep1.proj hx; rotate_left; subst x)
           | (refine (fun (hx : KeepSh sB x) => ?_) ?_; clear_value x; rotate_left; subst x)
           | (have := fun a => x a; clear this; subst x)
           | clear_value x
           | subst x)
      | with_reducible apply Keep.ite
      | with_reducible apply Keep1.ite
      | with_reducible apply KeepSh.ite
      | split
      | (with_reducible apply Keep1.elim; with_reducible assumption)
      | (with_reducible apply Keep1.elimM; with_reducible assumption)
      | (with_reducible apply KeepSh.of_ok; with_reducible assumption)
      | (with_reducible apply KeepSh.un_ok; with_reducible assumption)
      | (with_reducible apply KeepSh.of_bad; with_reducible assumption)
      | (with_reducible apply KeepSh.un_bad; with_reducible assumption)
      | (with_reducible apply KeepSh.of_wait; with_reducible assumption)
      | (with_reducible apply KeepSh.un_wait; with_reducible assumption)
      | with_reducible apply Keep1.mk
      | (with_reducible apply Keep.ofMk; with_reducible apply Keep.fold)
  | cons y r ih =>
    first | rw [sendContribs] | unfold sendContribs
    repeat' first
      | with_reducible assumption
      | with_reducible apply ih
      | with_reducible apply State.accept_keep
      | with_reducible apply noteReject_keep
      | with_reducible apply accept_keep
      | with_reducible apply sendRecord_keep
      | with_reducible apply sendRecord_keep_st
      | with_reducible apply noteWrite_keep
      | with_reducible apply KeepSh.ok
      | with_reducible apply KeepSh.bad
      | with_reducible apply KeepSh.wait
      | (extract_lets +onlyGivenNames x
         first
           | (refine (fun (hx : Keep sB x) => ?_) ?_; clear_value x; rotate_left; subst x)
           | (refine (fun (hx : Keep1 sB x) => ?_) ?_; clear_value x; have hx2 := Keep1.proj hx; rotate_left; subst x)
           | (refine (fun (hx : KeepSh sB x) => ?_) ?_; clear_value x; rotate_left; subst x)
           | (have := fun a => x a; clear this; subst x)
           | clear_value x
           | subst x)
      | with_reducible apply Keep.ite
      | with_reducible apply Keep1.ite
      | with_reducible apply KeepSh.ite
      | split
      | (with_reducible apply Keep1.elim; with_reducible assumption)
      | (with_reducible apply Keep1.elimM; with_reducible assumption)
      | (with_reducible apply KeepSh.of_ok; with_reducible assumption)
      | (with_reducible apply KeepSh.un_ok; with_reducible assumption)
      | (with_reducible apply KeepSh.of_bad; with_reducible assumption)
      | (with_reducible apply KeepSh.un_bad; with_reducible assumption)
      | (with_reducible apply KeepSh.of_wait; with_reducible assumption)
      | (with_reducible apply KeepSh.un_wait; with_reducible assumption)
      | with_reducible apply Keep1.mk
      | (with_reducible apply Keep.ofMk; with_reducible apply Keep.fold)

theorem contribute_keep {sB : State} {s : State} {f : Nat} {j : Nat} {d : List Byte} {g : Seg} {l : List (EPlace × Nat)}
    (hs : Keep sB s) : KeepSh sB (contribute s f j d g l) := by
  unfold contribute
  repeat' first
    | with_reducible assumption
    | intro _
    | with_reducible apply sendContribs_keep
    | with_reducible apply KeepSh.ok
    | with_reducible apply KeepSh.bad
    | with_reducible apply KeepSh.wait
    | (extract_lets +onlyGivenNames x
       first
         | (refine (fun (hx : Keep sB x) => ?_) ?_; clear_value x; rotate_left; subst x)
         | (refine (fun (hx : KeepSh sB x) => ?_) ?_; clear_value x; rotate_left; subst x)
         | (have := fun a => x a; clear this; subst x)
         | clear_value x
         | subst x)
    | split
    | (with_reducible apply KeepSh.of_ok; with_reducible assumption)
    | (with_reducible apply KeepSh.un_ok; with_reducible assumption)
    | (with_reducible apply KeepSh.of_bad; with_reducible assumption)
    | (with_reducible apply KeepSh.un_bad; with_reducible assumption)
    | (with_reducible apply KeepSh.of_wait; with_reducible assumption)
    | (with_reducible apply KeepSh.un_wait; with_reducible assumption)
    | (with_reducible apply Keep.ofMk; with_reducible apply Keep.fold)

theorem writeElems_keep {sB : State} {s : State} {f : Nat} {j : Nat} {w : Nat} {d : List Byte} {ety : Nat} {first : Bool} {l : List (Nat × EPlace × XVal)} {moved : Option (List Nat)} {resp : Resp} {ecc : ShEcc}
    (hs : Keep sB s) : KeepSh sB (writeElems s f j w d ety first l moved resp ecc) := by
  unfold writeElems
  repeat' first
    | with_reducible assumption
    | intro _
    | with_reducible apply ShRes.next_keep
    | with_reducible apply storeCodes_keep
    | with_reducible apply cvtAll_keep
    | with_reducible apply cvtAll_keep_st
    | with_reducible apply quantAll_keep
    | with_reducible apply quantAll_keep_st
    | with_reducible apply storeScales_keep
    | with_reducible apply addAll_keep
    | with_reducible apply contribute_keep
    | with_reducible apply KeepSh.ok
    | with_reducible apply KeepSh.bad
    | with_reducible apply KeepSh.wait
    | (extract_lets +onlyGivenNames x
       first
         | (refine (fun (hx : Keep sB x) => ?_) ?_; clear_value x; rotate_left; subst x)
         | (refine (fun (hx : Keep1 sB x) => ?_) ?_; clear_value x; have hx2 := Keep1.proj hx; rotate_left; subst x)
         | (refine (fun (hx : KeepSh sB x) => ?_) ?_; clear_value x; rotate_left; subst x)
         | (have := fun a => x a; clear this; subst x)
         | clear_value x
         | subst x)
    | with_reducible apply Keep.ite
    | with_reducible apply Keep1.ite
    | with_reducible apply KeepSh.ite
    | split
    | (with_reducible apply Keep1.elim; with_reducible assumption)
    | (with_reducible apply Keep1.elimM; with_reducible assumption)
    | (with_reducible apply KeepSh.of_ok; with_reducible assumption)
    | (with_reducible apply KeepSh.un_ok; with_reducible assumption)
    | (with_reducible apply KeepSh.of_bad; with_reducible assumption)
    | (with_reducible apply KeepSh.un_bad; with_reducible assumption)
    | (with_reducible apply KeepSh.of_wait; with_reducible assumption)
    | (with_reducible apply KeepSh.un_wait; with_reducible assumption)
    | with_reducible apply Keep1.mk
    | (with_reducible apply Keep.ofMk; with_reducible apply Keep.fold)

theorem shFault_keep {sB : State} {s : State} {f : Nat} {j : Nat} {cause : Nat} {addr : Nat} {item : Nat}
    (hs : Keep sB s) : Keep sB (shFault s f j cause addr item) := by
  unfold shFault
  repeat' first
    | with_reducible assumption
    | with_reducible apply cancelQueue_keep
    | with_reducible apply keepShFault_keep
    | with_reducible apply State.taskErr_keep
    | (extract_lets +onlyGivenNames x
       first
         | (refine (fun (hx : Keep sB x) => ?_) ?_; clear_value x; rotate_left; subst x)
         | (have := fun a => x a; clear this; subst x)
         | clear_value x
         | subst x)
    | with_reducible apply Keep.ite
    | split

theorem endItem_keep {sB : State} {s : State} {f : Nat} {j : Nat}
    (hs : Keep sB s) : Keep sB (endItem s f j) := by
  unfold endItem
  repeat' first
    | with_reducible assumption
    | with_reducible apply State.setSh_keep
    | (extract_lets +onlyGivenNames x
       first
         | (refine (fun (hx : Keep sB x) => ?_) ?_; clear_value x; rotate_left; subst x)
         | (have := fun a => x a; clear this; subst x)
         | clear_value x
         | subst x)
    | split
    | (with_reducible apply Keep.ofMk; with_reducible apply Keep.fold)

theorem runSent_keep {sB : State} {s : State} {z : Nat} {f : Nat}
    (hs : Keep sB s) : Keep sB (runSent s z f) := by
  unfold runSent
  repeat' first
    | with_reducible assumption
    | with_reducible apply endItem_keep
    | (extract_lets +onlyGivenNames x
       first
         | (refine (fun (hx : Keep sB x) => ?_) ?_; clear_value x; rotate_left; subst x)
         | (have := fun a => x a; clear this; subst x)
         | clear_value x
         | subst x)
    | with_reducible apply Keep.ite
    | split
    | (with_reducible apply Keep.ofMk; with_reducible apply Keep.fold)

theorem injFill_keep {sB : State} {s : State} {z : Nat} {f : Nat} {fuel : Nat}
    (hs : Keep sB s) : Keep sB (injFill s z f fuel) := by
  induction fuel generalizing s z f with
  | zero  =>
    first | rw [injFill] | unfold injFill
    repeat' first
      | with_reducible assumption
      | with_reducible apply State.setStage_keep
      | with_reducible apply State.setInj_keep
      | with_reducible apply runSent_keep
      | (extract_lets +onlyGivenNames x
         first
           | (refine (fun (hx : Keep sB x) => ?_) ?_; clear_value x; rotate_left; subst x)
           | (have := fun a => x a; clear this; subst x)
           | clear_value x
           | subst x)
      | with_reducible apply Keep.ite
      | split
      | (with_reducible apply Keep.ofMk; with_reducible apply Keep.fold)
  | succ n ih =>
    first | rw [injFill] | unfold injFill
    repeat' first
      | with_reducible assumption
      | with_reducible apply ih
      | with_reducible apply State.setStage_keep
      | with_reducible apply State.setInj_keep
      | with_reducible apply runSent_keep
      | (extract_lets +onlyGivenNames x
         first
           | (refine (fun (hx : Keep sB x) => ?_) ?_; clear_value x; rotate_left; subst x)
           | (have := fun a => x a; clear this; subst x)
           | clear_value x
           | subst x)
      | with_reducible apply Keep.ite
      | split
      | (with_reducible apply Keep.ofMk; with_reducible apply Keep.fold)

theorem wholeItem_keep {sB : State} {s : State} {f : Nat} {j : Nat} {w : Nat} {d : List Byte} {again : Bool} {resp : Resp} {ecc : ShEcc}
    (hs : Keep sB s) : KeepSh sB (wholeItem s f j w d again resp ecc) := by
  unfold wholeItem
  repeat' first
    | with_reducible assumption
    | intro _
    | with_reducible apply ShRes.next_keep
    | with_reducible apply places_keep
    | with_reducible apply noteOob_keep
    | with_reducible apply readElems_keep
    | with_reducible apply KeepSh.ok
    | with_reducible apply KeepSh.bad
    | with_reducible apply KeepSh.wait
    | (extract_lets +onlyGivenNames x
       first
         | (refine (fun (hx : Keep sB x) => ?_) ?_; clear_value x; rotate_left; subst x)
         | (refine (fun (hx : KeepSh sB x) => ?_) ?_; clear_value x; rotate_left; subst x)
         | (have := fun a => x a; clear this; subst x)
         | clear_value x
         | subst x)
    | with_reducible apply Keep.ite
    | with_reducible apply KeepSh.ite
    | split
    | (with_reducible apply KeepSh.of_ok; with_reducible assumption)
    | (with_reducible apply KeepSh.un_ok; with_reducible assumption)
    | (with_reducible apply KeepSh.of_bad; with_reducible assumption)
    | (with_reducible apply KeepSh.un_bad; with_reducible assumption)
    | (with_reducible apply KeepSh.of_wait; with_reducible assumption)
    | (with_reducible apply KeepSh.un_wait; with_reducible assumption)
    | (with_reducible apply Keep.ofMk; with_reducible apply Keep.fold)

theorem itemRun_keep {sB : State} {s : State} {f : Nat} {j : Nat} {w : Nat} {d : List Byte} {seq : Nat} {redo : Bool} {n : Nat} {resp : Resp} {ecc : ShEcc}
    (hs : Keep sB s) : KeepSh sB (itemRun s f j w d seq redo n resp ecc) := by
  unfold itemRun
  repeat' first
    | with_reducible assumption
    | intro _
    | with_reducible apply ShRes.next_keep
    | with_reducible apply wholeItem_keep
    | with_reducible apply KeepSh.ok
    | with_reducible apply KeepSh.bad
    | with_reducible apply KeepSh.wait
    | split
    | (with_reducible apply KeepSh.of_ok; with_reducible assumption)
    | (with_reducible apply KeepSh.un_ok; with_reducible assumption)
    | (with_reducible apply KeepSh.of_bad; with_reducible assumption)
    | (with_reducible apply KeepSh.un_bad; with_reducible assumption)
    | (with_reducible apply KeepSh.of_wait; with_reducible assumption)
    | (with_reducible apply KeepSh.un_wait; with_reducible assumption)

theorem accSet_keep {sB : State} {s : State} {f : Nat} {n : Nat} {a : Nat} {v : W32}
    (hs : Keep sB s) : Keep sB (accSet s f n a v) := by
  unfold accSet
  repeat' first
    | with_reducible assumption
    | with_reducible apply State.setSpin_keep
    | (extract_lets +onlyGivenNames x
       first
         | (refine (fun (hx : Keep sB x) => ?_) ?_; clear_value x; rotate_left; subst x)
         | (have := fun a => x a; clear this; subst x)
         | clear_value x
         | subst x)
    | (with_reducible apply Keep.ofMk; with_reducible apply Keep.fold)

theorem blockSet_keep {sB : State} {s : State} {f : Nat} {u : SpinUnit} {base : Nat} {t : Nat} {m : Nat} {vs : List W32}
    (hs : Keep sB s) : Keep sB (blockSet s f u base t m vs) := by
  unfold blockSet
  repeat' first
    | with_reducible assumption
    | intro _
    | with_reducible apply accSet_keep
    | with_reducible apply Keep.foldl
    | (extract_lets +onlyGivenNames x
       first
         | (refine (fun (hx : Keep sB x) => ?_) ?_; clear_value x; rotate_left; subst x)
         | (have := fun a => x a; clear this; subst x)
         | clear_value x
         | subst x)
    | split

theorem pairsSet_keep {sB : State} {s : State} {f : Nat} {u : SpinUnit} {base : Nat} {t : Nat} {m : Nat} {vs : List Pair}
    (hs : Keep sB s) : Keep sB (pairsSet s f u base t m vs) := by
  unfold pairsSet
  repeat' first
    | with_reducible assumption
    | intro _
    | with_reducible apply accSet_keep
    | with_reducible apply Keep.foldl
    | (extract_lets +onlyGivenNames x
       first
         | (refine (fun (hx : Keep sB x) => ?_) ?_; clear_value x; rotate_left; subst x)
         | (have := fun a => x a; clear this; subst x)
         | clear_value x
         | subst x)
    | split

theorem setBlock_keep {sB : State} {s : State} {f : Nat} {u : SpinUnit} {base : Nat} {r : BlockRec}
    (hs : Keep sB s) : Keep sB (setBlock s f u base r) := by
  unfold setBlock
  repeat' first
    | with_reducible assumption
    | intro _
    | with_reducible apply State.setSpin_keep
    | with_reducible apply Keep.foldl
    | (extract_lets +onlyGivenNames x
       first
         | (refine (fun (hx : Keep sB x) => ?_) ?_; clear_value x; rotate_left; subst x)
         | (have := fun a => x a; clear this; subst x)
         | clear_value x
         | subst x)
    | split
    | (with_reducible apply Keep.ofMk; with_reducible apply Keep.fold)

theorem releaseItems_keep {sB : State} {s : State} {f : Nat} {j : Nat} {n : Nat}
    (hs : Keep sB s) : Keep sB (releaseItems s f j n) := by
  unfold releaseItems
  repeat' first
    | with_reducible assumption
    | with_reducible apply State.setSh_keep
    | (extract_lets +onlyGivenNames x
       first
         | (refine (fun (hx : Keep sB x) => ?_) ?_; clear_value x; rotate_left; subst x)
         | (have := fun a => x a; clear this; subst x)
         | clear_value x
         | subst x)
    | split
    | (with_reducible apply Keep.ofMk; with_reducible apply Keep.fold)

theorem dropStream_keep {sB : State} {s : State} {f : Nat} {j : Nat} {n : Nat}
    (hs : Keep sB s) : Keep sB (dropStream s f j n) := by
  unfold dropStream
  repeat' first
    | with_reducible assumption
    | intro _
    | with_reducible apply State.setSh_keep
    | (extract_lets +onlyGivenNames x
       first
         | (refine (fun (hx : Keep sB x) => ?_) ?_; clear_value x; rotate_left; subst x)
         | (have := fun a => x a; clear this; subst x)
         | clear_value x
         | subst x)
    | split
    | (with_reducible apply Keep.ofMk; with_reducible apply Keep.fold)

theorem shBad_keep {sB : State} {s : State} {f : Nat} {j : Nat} {cause : Nat} {addr : Nat}
    (hs : Keep sB s) : KeepN sB (shBad s f j cause addr) := by
  unfold shBad
  repeat' first
    | with_reducible assumption
    | with_reducible apply finish_keep
    | with_reducible apply shFault_keep
    | with_reducible apply KeepN.next
    | with_reducible apply KeepN.fault
    | with_reducible apply KeepN.refused
    | (with_reducible apply KeepN.of_next; with_reducible assumption)
    | (with_reducible apply KeepN.un_next; with_reducible assumption)

theorem startWord_keep {sB : State} {s : State} {f : Nat} {j : Nat}
    (hs : Keep sB s) : Keep sB (startWord s f j) := by
  unfold startWord
  repeat' first
    | with_reducible assumption
    | with_reducible apply State.setQueue_keep
    | with_reducible apply State.setSh_keep
    | with_reducible apply shFault_keep
    | (extract_lets +onlyGivenNames x
       first
         | (refine (fun (hx : Keep sB x) => ?_) ?_; clear_value x; rotate_left; subst x)
         | (have := fun a => x a; clear this; subst x)
         | clear_value x
         | subst x)
    | with_reducible apply Keep.ite
    | split
    | (with_reducible apply Keep.ofMk; with_reducible apply Keep.fold)

theorem execSxfer_keep {sB : State} {f : Fin 64} {j : Fin 16} {s : State}
    (hs : Keep sB s) : KeepN sB (execSxfer f j s) := by
  unfold execSxfer
  repeat' first
    | with_reducible assumption
    | intro _
    | with_reducible apply onClock_keep
    | with_reducible apply State.setSh_keep
    | with_reducible apply finish_keep
    | with_reducible apply ShRes.next_keep
    | with_reducible apply startWord_keep
    | with_reducible apply KeepN.next
    | with_reducible apply KeepN.fault
    | with_reducible apply KeepN.refused
    | with_reducible apply KeepSh.ok
    | with_reducible apply KeepSh.bad
    | with_reducible apply KeepSh.wait
    | (extract_lets +onlyGivenNames x
       first
         | (refine (fun (hx : Keep sB x) => ?_) ?_; clear_value x; rotate_left; subst x)
         | (refine (fun (hx : KeepN sB x) => ?_) ?_; clear_value x; rotate_left; subst x)
         | (refine (fun (hx : KeepSh sB x) => ?_) ?_; clear_value x; rotate_left; subst x)
         | (have := fun a => x a; clear this; subst x)
         | clear_value x
         | subst x)
    | with_reducible apply Keep.ite
    | with_reducible apply KeepN.ite
    | with_reducible apply KeepSh.ite
    | split
    | (with_reducible apply KeepN.of_next; with_reducible assumption)
    | (with_reducible apply KeepN.un_next; with_reducible assumption)
    | (with_reducible apply KeepSh.of_ok; with_reducible assumption)
    | (with_reducible apply KeepSh.un_ok; with_reducible assumption)
    | (with_reducible apply KeepSh.of_bad; with_reducible assumption)
    | (with_reducible apply KeepSh.un_bad; with_reducible assumption)
    | (with_reducible apply KeepSh.of_wait; with_reducible assumption)
    | (with_reducible apply KeepSh.un_wait; with_reducible assumption)
    | (with_reducible apply Keep.ofMk; with_reducible apply Keep.fold)

theorem execSxferComplete_keep {sB : State} {f : Fin 64} {j : Fin 16} {s : State}
    (hs : Keep sB s) : KeepN sB (execSxferComplete f j s) := by
  unfold execSxferComplete
  repeat' first
    | with_reducible assumption
    | intro _
    | with_reducible apply onClock_keep
    | with_reducible apply State.setSh_keep
    | with_reducible apply completeWord_keep
    | with_reducible apply finish_keep
    | with_reducible apply ShRes.next_keep
    | with_reducible apply KeepN.next
    | with_reducible apply KeepN.fault
    | with_reducible apply KeepN.refused
    | with_reducible apply KeepSh.ok
    | with_reducible apply KeepSh.bad
    | with_reducible apply KeepSh.wait
    | (extract_lets +onlyGivenNames x
       first
         | (refine (fun (hx : Keep sB x) => ?_) ?_; clear_value x; rotate_left; subst x)
         | (refine (fun (hx : KeepN sB x) => ?_) ?_; clear_value x; rotate_left; subst x)
         | (refine (fun (hx : KeepSh sB x) => ?_) ?_; clear_value x; rotate_left; subst x)
         | (have := fun a => x a; clear this; subst x)
         | clear_value x
         | subst x)
    | with_reducible apply Keep.ite
    | with_reducible apply KeepN.ite
    | with_reducible apply KeepSh.ite
    | split
    | (with_reducible apply KeepN.of_next; with_reducible assumption)
    | (with_reducible apply KeepN.un_next; with_reducible assumption)
    | (with_reducible apply KeepSh.of_ok; with_reducible assumption)
    | (with_reducible apply KeepSh.un_ok; with_reducible assumption)
    | (with_reducible apply KeepSh.of_bad; with_reducible assumption)
    | (with_reducible apply KeepSh.un_bad; with_reducible assumption)
    | (with_reducible apply KeepSh.of_wait; with_reducible assumption)
    | (with_reducible apply KeepSh.un_wait; with_reducible assumption)
    | (with_reducible apply Keep.ofMk; with_reducible apply Keep.fold)

theorem execDescriptorBatch_keep {sB : State} {f : Fin 64} {j : Fin 16} {resp : Resp} {ecc : Ecc} {s : State}
    (hs : Keep sB s) : KeepN sB (execDescriptorBatch f j resp ecc s) := by
  unfold execDescriptorBatch
  repeat' first
    | with_reducible assumption
    | intro _
    | with_reducible apply onClock_keep
    | with_reducible apply State.setSh_keep
    | with_reducible apply ShRes.next_keep
    | with_reducible apply readSpans_keep
    | with_reducible apply shBad_keep
    | with_reducible apply KeepN.next
    | with_reducible apply KeepN.fault
    | with_reducible apply KeepN.refused
    | with_reducible apply KeepSh.ok
    | with_reducible apply KeepSh.bad
    | with_reducible apply KeepSh.wait
    | (extract_lets +onlyGivenNames x
       first
         | (refine (fun (hx : Keep sB x) => ?_) ?_; clear_value x; rotate_left; subst x)
         | (refine (fun (hx : KeepN sB x) => ?_) ?_; clear_value x; rotate_left; subst x)
         | (refine (fun (hx : KeepSh sB x) => ?_) ?_; clear_value x; rotate_left; subst x)
         | (have := fun a => x a; clear this; subst x)
         | clear_value x
         | subst x)
    | with_reducible apply Keep.ite
    | with_reducible apply KeepN.ite
    | with_reducible apply KeepSh.ite
    | split
    | (with_reducible apply KeepN.of_next; with_reducible assumption)
    | (with_reducible apply KeepN.un_next; with_reducible assumption)
    | (with_reducible apply KeepSh.of_ok; with_reducible assumption)
    | (with_reducible apply KeepSh.un_ok; with_reducible assumption)
    | (with_reducible apply KeepSh.of_bad; with_reducible assumption)
    | (with_reducible apply KeepSh.un_bad; with_reducible assumption)
    | (with_reducible apply KeepSh.of_wait; with_reducible assumption)
    | (with_reducible apply KeepSh.un_wait; with_reducible assumption)
    | (with_reducible apply Keep.ofMk; with_reducible apply Keep.fold)

theorem noteGather_keep {sB : State} {s : State} {f : Nat} {w : Nat} {it : ItemSt}
    (hs : Keep sB s) : Keep sB (noteGather s f w it) := by
  unfold noteGather
  repeat' first
    | with_reducible assumption
    | (extract_lets +onlyGivenNames x
       first
         | (refine (fun (hx : Keep sB x) => ?_) ?_; clear_value x; rotate_left; subst x)
         | (have := fun a => x a; clear this; subst x)
         | clear_value x
         | subst x)
    | with_reducible apply Keep.ite
    | split
    | (with_reducible apply Keep.ofMk; with_reducible apply Keep.fold)

theorem execItemDecode_keep {sB : State} {f : Fin 64} {j : Fin 16} {s : State}
    (hs : Keep sB s) : KeepN sB (execItemDecode f j s) := by
  unfold execItemDecode
  repeat' first
    | with_reducible assumption
    | intro _
    | with_reducible apply onClock_keep
    | with_reducible apply State.setSh_keep
    | with_reducible apply plyFlag_keep
    | with_reducible apply ShRes.next_keep
    | with_reducible apply shBad_keep
    | with_reducible apply noteGather_keep
    | with_reducible apply KeepN.next
    | with_reducible apply KeepN.fault
    | with_reducible apply KeepN.refused
    | with_reducible apply KeepSh.ok
    | with_reducible apply KeepSh.bad
    | with_reducible apply KeepSh.wait
    | (extract_lets +onlyGivenNames x
       first
         | (refine (fun (hx : Keep sB x) => ?_) ?_; clear_value x; rotate_left; subst x)
         | (refine (fun (hx : KeepN sB x) => ?_) ?_; clear_value x; rotate_left; subst x)
         | (refine (fun (hx : KeepSh sB x) => ?_) ?_; clear_value x; rotate_left; subst x)
         | (have := fun a => x a; clear this; subst x)
         | clear_value x
         | subst x)
    | with_reducible apply Keep.ite
    | with_reducible apply KeepN.ite
    | with_reducible apply KeepSh.ite
    | split
    | (with_reducible apply KeepN.of_next; with_reducible assumption)
    | (with_reducible apply KeepN.un_next; with_reducible assumption)
    | (with_reducible apply KeepSh.of_ok; with_reducible assumption)
    | (with_reducible apply KeepSh.un_ok; with_reducible assumption)
    | (with_reducible apply KeepSh.of_bad; with_reducible assumption)
    | (with_reducible apply KeepSh.un_bad; with_reducible assumption)
    | (with_reducible apply KeepSh.of_wait; with_reducible assumption)
    | (with_reducible apply KeepSh.un_wait; with_reducible assumption)
    | (with_reducible apply Keep.ofMk; with_reducible apply Keep.fold)

theorem noteGrant_keep {sB : State} {s : State} {f : Nat} {j : Nat}
    (hs : Keep sB s) : Keep sB (noteGrant s f j) := by
  unfold noteGrant
  repeat' first
    | with_reducible assumption
    | (extract_lets +onlyGivenNames x
       first
         | (refine (fun (hx : Keep sB x) => ?_) ?_; clear_value x; rotate_left; subst x)
         | (have := fun a => x a; clear this; subst x)
         | clear_value x
         | subst x)
    | with_reducible apply Keep.ite
    | split
    | (with_reducible apply Keep.ofMk; with_reducible apply Keep.fold)

theorem advanceItem_keep {sB : State} {s : State} {f : Nat} {j : Nat} {w : Nat} {n : Nat} {total : Nat}
    (hs : Keep sB s) : Keep sB (advanceItem s f j w n total) := by
  unfold advanceItem
  repeat' first
    | with_reducible assumption
    | with_reducible apply State.setSh_keep
    | with_reducible apply endItem_keep
    | (extract_lets +onlyGivenNames x
       first
         | (refine (fun (hx : Keep sB x) => ?_) ?_; clear_value x; rotate_left; subst x)
         | (have := fun a => x a; clear this; subst x)
         | clear_value x
         | subst x)
    | with_reducible apply Keep.ite
    | split
    | (with_reducible apply Keep.ofMk; with_reducible apply Keep.fold)

theorem stretchEnds_keep {sB : State} {s : State} {n : Nat} {flt : Option (Nat × Nat)}
    (hs : Keep sB s) : KeepSh sB (stretchEnds s n flt) := by
  unfold stretchEnds
  repeat' first
    | with_reducible assumption
    | with_reducible apply KeepSh.ok
    | with_reducible apply KeepSh.bad
    | with_reducible apply KeepSh.wait
    | (extract_lets +onlyGivenNames x
       first
         | (refine (fun (hx : Keep sB x) => ?_) ?_; clear_value x; rotate_left; subst x)
         | (refine (fun (hx : KeepSh sB x) => ?_) ?_; clear_value x; rotate_left; subst x)
         | (have := fun a => x a; clear this; subst x)
         | clear_value x
         | subst x)
    | split
    | (with_reducible apply KeepSh.of_ok; with_reducible assumption)
    | (with_reducible apply KeepSh.un_ok; with_reducible assumption)
    | (with_reducible apply KeepSh.of_bad; with_reducible assumption)
    | (with_reducible apply KeepSh.un_bad; with_reducible assumption)
    | (with_reducible apply KeepSh.of_wait; with_reducible assumption)
    | (with_reducible apply KeepSh.un_wait; with_reducible assumption)
    | (with_reducible apply Keep.ofMk; with_reducible apply Keep.fold)

theorem moveStretch_keep {sB : State} {s : State} {f : Nat} {j : Nat} {w : Nat} {it : ItemSt} {lam : Nat} {n : Nat} {resp : Resp} {ecc : ShEcc}
    (hs : Keep sB s) : KeepSh sB (moveStretch s f j w it lam n resp ecc) := by
  unfold moveStretch
  repeat' first
    | with_reducible assumption
    | intro _
    | with_reducible apply ShRes.next_keep
    | with_reducible apply places_keep
    | with_reducible apply noteOob_keep
    | with_reducible apply readElems_keep
    | with_reducible apply writeElems_keep
    | with_reducible apply stretchEnds_keep
    | with_reducible apply KeepSh.ok
    | with_reducible apply KeepSh.bad
    | with_reducible apply KeepSh.wait
    | (extract_lets +onlyGivenNames x
       first
         | (refine (fun (hx : Keep sB x) => ?_) ?_; clear_value x; rotate_left; subst x)
         | (refine (fun (hx : KeepSh sB x) => ?_) ?_; clear_value x; rotate_left; subst x)
         | (have := fun a => x a; clear this; subst x)
         | clear_value x
         | subst x)
    | with_reducible apply Keep.ite
    | with_reducible apply KeepSh.ite
    | split
    | (with_reducible apply KeepSh.of_ok; with_reducible assumption)
    | (with_reducible apply KeepSh.un_ok; with_reducible assumption)
    | (with_reducible apply KeepSh.of_bad; with_reducible assumption)
    | (with_reducible apply KeepSh.un_bad; with_reducible assumption)
    | (with_reducible apply KeepSh.of_wait; with_reducible assumption)
    | (with_reducible apply KeepSh.un_wait; with_reducible assumption)

theorem takeStretch_keep {sB : State} {s : State} {f : Nat} {j : Nat} {w : Nat} {it : ItemSt} {lam : Nat} {n : Nat} {resp : Resp} {ecc : ShEcc}
    (hs : Keep sB s) : KeepSh sB (takeStretch s f j w it lam n resp ecc) := by
  unfold takeStretch
  repeat' first
    | with_reducible assumption
    | intro _
    | with_reducible apply State.setSh_keep
    | with_reducible apply ShRes.next_keep
    | with_reducible apply places_keep
    | with_reducible apply noteOob_keep
    | with_reducible apply writeElems_keep
    | with_reducible apply stretchEnds_keep
    | with_reducible apply KeepSh.ok
    | with_reducible apply KeepSh.bad
    | with_reducible apply KeepSh.wait
    | (extract_lets +onlyGivenNames x
       first
         | (refine (fun (hx : Keep sB x) => ?_) ?_; clear_value x; rotate_left; subst x)
         | (refine (fun (hx : KeepSh sB x) => ?_) ?_; clear_value x; rotate_left; subst x)
         | (have := fun a => x a; clear this; subst x)
         | clear_value x
         | subst x)
    | with_reducible apply Keep.ite
    | with_reducible apply KeepSh.ite
    | split
    | (with_reducible apply KeepSh.of_ok; with_reducible assumption)
    | (with_reducible apply KeepSh.un_ok; with_reducible assumption)
    | (with_reducible apply KeepSh.of_bad; with_reducible assumption)
    | (with_reducible apply KeepSh.un_bad; with_reducible assumption)
    | (with_reducible apply KeepSh.of_wait; with_reducible assumption)
    | (with_reducible apply KeepSh.un_wait; with_reducible assumption)
    | (with_reducible apply Keep.ofMk; with_reducible apply Keep.fold)

theorem feedStretch_keep {sB : State} {s : State} {f : Nat} {j : Nat} {w : Nat} {it : ItemSt} {lam : Nat} {n : Nat} {resp : Resp} {ecc : ShEcc}
    (hs : Keep sB s) : KeepSh sB (feedStretch s f j w it lam n resp ecc) := by
  unfold feedStretch
  repeat' first
    | with_reducible assumption
    | intro _
    | with_reducible apply State.setSh_keep
    | with_reducible apply ShRes.next_keep
    | with_reducible apply places_keep
    | with_reducible apply noteOob_keep
    | with_reducible apply readElems_keep
    | with_reducible apply stretchEnds_keep
    | with_reducible apply KeepSh.ok
    | with_reducible apply KeepSh.bad
    | with_reducible apply KeepSh.wait
    | (extract_lets +onlyGivenNames x
       first
         | (refine (fun (hx : Keep sB x) => ?_) ?_; clear_value x; rotate_left; subst x)
         | (refine (fun (hx : KeepSh sB x) => ?_) ?_; clear_value x; rotate_left; subst x)
         | (have := fun a => x a; clear this; subst x)
         | clear_value x
         | subst x)
    | with_reducible apply Keep.ite
    | with_reducible apply KeepSh.ite
    | split
    | (with_reducible apply KeepSh.of_ok; with_reducible assumption)
    | (with_reducible apply KeepSh.un_ok; with_reducible assumption)
    | (with_reducible apply KeepSh.of_bad; with_reducible assumption)
    | (with_reducible apply KeepSh.un_bad; with_reducible assumption)
    | (with_reducible apply KeepSh.of_wait; with_reducible assumption)
    | (with_reducible apply KeepSh.un_wait; with_reducible assumption)
    | (with_reducible apply Keep.ofMk; with_reducible apply Keep.fold)

theorem injectItem_keep {sB : State} {s : State} {f : Nat} {j : Nat} {w : Nat} {it : ItemSt} {resp : Resp} {ecc : ShEcc}
    (hs : Keep sB s) : KeepSh sB (injectItem s f j w it resp ecc) := by
  unfold injectItem
  repeat' first
    | with_reducible assumption
    | intro _
    | with_reducible apply State.setInj_keep
    | with_reducible apply ShRes.next_keep
    | with_reducible apply injFill_keep
    | with_reducible apply itemRun_keep
    | with_reducible apply KeepSh.ok
    | with_reducible apply KeepSh.bad
    | with_reducible apply KeepSh.wait
    | (extract_lets +onlyGivenNames x
       first
         | (refine (fun (hx : Keep sB x) => ?_) ?_; clear_value x; rotate_left; subst x)
         | (refine (fun (hx : KeepSh sB x) => ?_) ?_; clear_value x; rotate_left; subst x)
         | (have := fun a => x a; clear this; subst x)
         | clear_value x
         | subst x)
    | split
    | (with_reducible apply KeepSh.of_ok; with_reducible assumption)
    | (with_reducible apply KeepSh.un_ok; with_reducible assumption)
    | (with_reducible apply KeepSh.of_bad; with_reducible assumption)
    | (with_reducible apply KeepSh.un_bad; with_reducible assumption)
    | (with_reducible apply KeepSh.of_wait; with_reducible assumption)
    | (with_reducible apply KeepSh.un_wait; with_reducible assumption)
    | (with_reducible apply Keep.ofMk; with_reducible apply Keep.fold)

theorem lateRecord_keep {sB : State} {s : State} {f : Nat} {j : Nat}
    (hs : Keep sB s) : Keep sB (lateRecord s f j) := by
  unfold lateRecord
  repeat' first
    | with_reducible assumption
    | with_reducible apply State.logErr_keep

theorem lateResponse_keep {sB : State} {s : State} {f : Nat} {j : Nat} {resp : Resp} {ecc : Ecc}
    (hs : Keep sB s) : Keep sB (lateResponse s f j resp ecc) := by
  unfold lateResponse
  repeat' first
    | with_reducible assumption
    | with_reducible apply State.setSh_keep
    | with_reducible apply syncBusy_keep
    | with_reducible apply lateRecord_keep
    | (extract_lets +onlyGivenNames x
       first
         | (refine (fun (hx : Keep sB x) => ?_) ?_; clear_value x; rotate_left; subst x)
         | (have := fun a => x a; clear this; subst x)
         | clear_value x
         | subst x)
    | with_reducible apply Keep.ite
    | split
    | (with_reducible apply Keep.ofMk; with_reducible apply Keep.fold)

theorem runStretch_keep {sB : State} {s : State} {f : Nat} {j : Nat} {w : Nat} {it : ItemSt} {m : Nat} {resp : Resp} {ecc : ShEcc}
    (hs : Keep sB s) : KeepSh sB (runStretch s f j w it m resp ecc) := by
  unfold runStretch
  repeat' first
    | with_reducible assumption
    | with_reducible apply moveStretch_keep
    | with_reducible apply takeStretch_keep
    | with_reducible apply feedStretch_keep
    | with_reducible apply injectItem_keep
    | with_reducible apply KeepSh.ok
    | with_reducible apply KeepSh.bad
    | with_reducible apply KeepSh.wait
    | (extract_lets +onlyGivenNames x
       first
         | (refine (fun (hx : Keep sB x) => ?_) ?_; clear_value x; rotate_left; subst x)
         | (refine (fun (hx : KeepSh sB x) => ?_) ?_; clear_value x; rotate_left; subst x)
         | (have := fun a => x a; clear this; subst x)
         | clear_value x
         | subst x)
    | with_reducible apply Keep.ite
    | with_reducible apply KeepSh.ite
    | split
    | (with_reducible apply KeepSh.of_ok; with_reducible assumption)
    | (with_reducible apply KeepSh.un_ok; with_reducible assumption)
    | (with_reducible apply KeepSh.of_bad; with_reducible assumption)
    | (with_reducible apply KeepSh.un_bad; with_reducible assumption)
    | (with_reducible apply KeepSh.of_wait; with_reducible assumption)
    | (with_reducible apply KeepSh.un_wait; with_reducible assumption)

theorem unmerged_keep {sB : State} {s0 : State} {s : State} {f : Nat}
    (hs0 : Keep sB s0) (hs : Keep sB s) : Keep sB (unmerged s0 s f) := by
  unfold unmerged
  repeat' first
    | with_reducible assumption
    | with_reducible apply State.put_keep

theorem execShuttleResponse_keep {sB : State} {f : Fin 64} {j : Fin 16} {n : Nat} {resp : Resp} {ecc : Ecc} {part : ShRead} {s : State}
    (hs : Keep sB s) : KeepN sB (execShuttleResponse f j n resp ecc part s) := by
  unfold execShuttleResponse
  repeat' first
    | with_reducible assumption
    | intro _
    | with_reducible apply onClock_keep
    | with_reducible apply finish_keep
    | with_reducible apply ShRes.next_keep
    | with_reducible apply endItem_keep
    | with_reducible apply shBad_keep
    | with_reducible apply noteGrant_keep
    | with_reducible apply advanceItem_keep
    | with_reducible apply lateResponse_keep
    | with_reducible apply runStretch_keep
    | with_reducible apply unmerged_keep
    | with_reducible apply KeepN.next
    | with_reducible apply KeepN.fault
    | with_reducible apply KeepN.refused
    | with_reducible apply KeepSh.ok
    | with_reducible apply KeepSh.bad
    | with_reducible apply KeepSh.wait
    | (extract_lets +onlyGivenNames x
       first
         | (refine (fun (hx : Keep sB x) => ?_) ?_; clear_value x; rotate_left; subst x)
         | (refine (fun (hx : KeepN sB x) => ?_) ?_; clear_value x; rotate_left; subst x)
         | (refine (fun (hx : KeepSh sB x) => ?_) ?_; clear_value x; rotate_left; subst x)
         | (have := fun a => x a; clear this; subst x)
         | clear_value x
         | subst x)
    | with_reducible apply Keep.ite
    | with_reducible apply KeepN.ite
    | with_reducible apply KeepSh.ite
    | split
    | (with_reducible apply KeepN.of_next; with_reducible assumption)
    | (with_reducible apply KeepN.un_next; with_reducible assumption)
    | (with_reducible apply KeepSh.of_ok; with_reducible assumption)
    | (with_reducible apply KeepSh.un_ok; with_reducible assumption)
    | (with_reducible apply KeepSh.of_bad; with_reducible assumption)
    | (with_reducible apply KeepSh.un_bad; with_reducible assumption)
    | (with_reducible apply KeepSh.of_wait; with_reducible assumption)
    | (with_reducible apply KeepSh.un_wait; with_reducible assumption)
    | (with_reducible apply Keep.ofMk; with_reducible apply Keep.fold)

theorem execQueueCancel_keep {sB : State} {f : Fin 64} {j : Fin 16} {s : State}
    (hs : Keep sB s) : KeepN sB (execQueueCancel f j s) := by
  unfold execQueueCancel
  repeat' first
    | with_reducible assumption
    | intro _
    | with_reducible apply viaCtl_keep
    | with_reducible apply finish_keep
    | with_reducible apply cancelWithStarved_keep
    | with_reducible apply ShRes.next_keep
    | with_reducible apply KeepN.next
    | with_reducible apply KeepN.fault
    | with_reducible apply KeepN.refused
    | with_reducible apply KeepSh.ok
    | with_reducible apply KeepSh.bad
    | with_reducible apply KeepSh.wait
    | with_reducible apply Keep.ite
    | with_reducible apply KeepN.ite
    | with_reducible apply KeepSh.ite
    | split
    | (with_reducible apply KeepN.of_next; with_reducible assumption)
    | (with_reducible apply KeepN.un_next; with_reducible assumption)
    | (with_reducible apply KeepSh.of_ok; with_reducible assumption)
    | (with_reducible apply KeepSh.un_ok; with_reducible assumption)
    | (with_reducible apply KeepSh.of_bad; with_reducible assumption)
    | (with_reducible apply KeepSh.un_bad; with_reducible assumption)
    | (with_reducible apply KeepSh.of_wait; with_reducible assumption)
    | (with_reducible apply KeepSh.un_wait; with_reducible assumption)

theorem execRequestTimeout_keep {sB : State} {f : Fin 64} {j : Fin 16} {s : State}
    (hs : Keep sB s) : KeepN sB (execRequestTimeout f j s) := by
  unfold execRequestTimeout
  repeat' first
    | with_reducible assumption
    | intro _
    | with_reducible apply State.setSh_keep
    | with_reducible apply syncBusy_keep
    | with_reducible apply finish_keep
    | with_reducible apply ShRes.next_keep
    | with_reducible apply shBad_keep
    | with_reducible apply lateRecord_keep
    | with_reducible apply KeepN.next
    | with_reducible apply KeepN.fault
    | with_reducible apply KeepN.refused
    | with_reducible apply KeepSh.ok
    | with_reducible apply KeepSh.bad
    | with_reducible apply KeepSh.wait
    | (extract_lets +onlyGivenNames x
       first
         | (refine (fun (hx : Keep sB x) => ?_) ?_; clear_value x; rotate_left; subst x)
         | (refine (fun (hx : KeepN sB x) => ?_) ?_; clear_value x; rotate_left; subst x)
         | (refine (fun (hx : KeepSh sB x) => ?_) ?_; clear_value x; rotate_left; subst x)
         | (have := fun a => x a; clear this; subst x)
         | clear_value x
         | subst x)
    | with_reducible apply Keep.ite
    | with_reducible apply KeepN.ite
    | with_reducible apply KeepSh.ite
    | split
    | (with_reducible apply KeepN.of_next; with_reducible assumption)
    | (with_reducible apply KeepN.un_next; with_reducible assumption)
    | (with_reducible apply KeepSh.of_ok; with_reducible assumption)
    | (with_reducible apply KeepSh.un_ok; with_reducible assumption)
    | (with_reducible apply KeepSh.of_bad; with_reducible assumption)
    | (with_reducible apply KeepSh.un_bad; with_reducible assumption)
    | (with_reducible apply KeepSh.of_wait; with_reducible assumption)
    | (with_reducible apply KeepSh.un_wait; with_reducible assumption)
    | (with_reducible apply Keep.ofMk; with_reducible apply Keep.fold)

theorem tickRequest_keep {sB : State} {s : State} {f : Nat} {j : Nat}
    (hs : Keep sB s) : Keep sB (tickRequest s f j) := by
  unfold tickRequest
  repeat' first
    | with_reducible assumption
    | with_reducible apply State.setSh_keep
    | (extract_lets +onlyGivenNames x
       first
         | (refine (fun (hx : Keep sB x) => ?_) ?_; clear_value x; rotate_left; subst x)
         | (have := fun a => x a; clear this; subst x)
         | clear_value x
         | subst x)
    | with_reducible apply Keep.ite
    | split
    | (with_reducible apply Keep.ofMk; with_reducible apply Keep.fold)

theorem reqRejected_keep {sB : State} {s : State} {who : Origin} {typ : Nat} {dest : Nat} {addr : Nat} {cause : Nat} {port : Nat} {mod : Nat}
    (hs : Keep sB s) : Keep sB (reqRejected s who typ dest addr cause port mod) := by
  unfold reqRejected
  repeat' first
    | with_reducible assumption
    | intro _
    | with_reducible apply noteReject_keep
    | with_reducible apply State.setSh_keep
    | with_reducible apply syncBusy_keep
    | with_reducible apply shFault_keep
    | with_reducible apply lateRecord_keep
    | (extract_lets +onlyGivenNames x
       first
         | (refine (fun (hx : Keep sB x) => ?_) ?_; clear_value x; rotate_left; subst x)
         | (have := fun a => x a; clear this; subst x)
         | clear_value x
         | subst x)
    | with_reducible apply Keep.ite
    | split
    | (with_reducible apply Keep.ofMk; with_reducible apply Keep.fold)

theorem gotData_keep {sB : State} {s : State} {f : Nat} {j : Nat} {key : Nat} {d : List Byte}
    (hs : Keep sB s) : Keep sB (gotData s f j key d) := by
  unfold gotData
  repeat' first
    | with_reducible assumption
    | with_reducible apply State.setSh_keep
    | with_reducible apply syncBusy_keep
    | (extract_lets +onlyGivenNames x
       first
         | (refine (fun (hx : Keep sB x) => ?_) ?_; clear_value x; rotate_left; subst x)
         | (have := fun a => x a; clear this; subst x)
         | clear_value x
         | subst x)
    | with_reducible apply Keep.ite
    | split
    | (with_reducible apply Keep.ofMk; with_reducible apply Keep.fold)

theorem gotFault_keep {sB : State} {s : State} {f : Nat} {j : Nat} {key : Nat} {cause : Nat} {addr : Nat}
    (hs : Keep sB s) : Keep sB (gotFault s f j key cause addr) := by
  unfold gotFault
  repeat' first
    | with_reducible assumption
    | with_reducible apply State.setSh_keep
    | with_reducible apply syncBusy_keep
    | with_reducible apply shFault_keep
    | with_reducible apply lateRecord_keep
    | (extract_lets +onlyGivenNames x
       first
         | (refine (fun (hx : Keep sB x) => ?_) ?_; clear_value x; rotate_left; subst x)
         | (have := fun a => x a; clear this; subst x)
         | clear_value x
         | subst x)
    | with_reducible apply Keep.ite
    | split
    | (with_reducible apply Keep.ofMk; with_reducible apply Keep.fold)

theorem edgePump_keep {sB : State} {s : State} {p : Nat}
    (hs : Keep sB s) : Keep sB (edgePump s p) := by
  unfold edgePump
  repeat' first
    | with_reducible assumption
    | intro _
    | with_reducible apply State.setMeshQ_keep
    | (extract_lets +onlyGivenNames x
       first
         | (refine (fun (hx : Keep sB x) => ?_) ?_; clear_value x; rotate_left; subst x)
         | (have := fun a => x a; clear this; subst x)
         | clear_value x
         | subst x)
    | with_reducible apply Keep.ite
    | split
    | (with_reducible apply Keep.ofMk; with_reducible apply Keep.fold)

theorem fromWeft_keep {sB : State} {s : State} {p : Nat} {x : MeshPkt}
    (hs : Keep sB s) : Keep sB (fromWeft s p x) := by
  unfold fromWeft
  repeat' first
    | with_reducible assumption
    | with_reducible apply edgePump_keep
    | (extract_lets +onlyGivenNames x
       first
         | (refine (fun (hx : Keep sB x) => ?_) ?_; clear_value x; rotate_left; subst x)
         | (have := fun a => x a; clear this; subst x)
         | clear_value x
         | subst x)
    | (with_reducible apply Keep.ofMk; with_reducible apply Keep.fold)

theorem dropEdge_keep {sB : State} {s : State} {p : Nat}
    (hs : Keep sB s) : Keep sB (dropEdge s p) := by
  unfold dropEdge
  repeat' first
    | with_reducible assumption
    | (extract_lets +onlyGivenNames x
       first
         | (refine (fun (hx : Keep sB x) => ?_) ?_; clear_value x; rotate_left; subst x)
         | (have := fun a => x a; clear this; subst x)
         | clear_value x
         | subst x)
    | (with_reducible apply Keep.ofMk; with_reducible apply Keep.fold)

theorem mcastBlocked_keep {sB : State} {s : State} {p : Nat} {r : Record} {w : MeshWho}
    (hs : Keep sB s) : Keep sB (mcastBlocked s p r w) := by
  unfold mcastBlocked
  repeat' first
    | with_reducible assumption
    | intro _
    | with_reducible apply sendResp_keep
    | with_reducible apply reqRejected_keep
    | (extract_lets +onlyGivenNames x
       first
         | (refine (fun (hx : Keep sB x) => ?_) ?_; clear_value x; rotate_left; subst x)
         | (have := fun a => x a; clear this; subst x)
         | clear_value x
         | subst x)
    | with_reducible apply Keep.ite
    | split
    | (with_reducible apply Keep.ofMk; with_reducible apply Keep.fold)

theorem edgeStep_keep {sB : State} {s : State} {p : Nat}
    (hs : Keep sB s) : KeepO sB (edgeStep s p) := by
  unfold edgeStep
  repeat' first
    | with_reducible assumption
    | intro _
    | with_reducible apply KeepO.map
    | with_reducible apply KeepO.getD
    | with_reducible apply sendReq_keep
    | with_reducible apply mcastOut_keep
    | with_reducible apply partDone_keep
    | with_reducible apply reqRejected_keep
    | with_reducible apply dropEdge_keep
    | with_reducible apply mcastBlocked_keep
    | with_reducible apply Keep.foldl
    | with_reducible apply KeepO.some
    | with_reducible apply KeepO.none
    | with_reducible apply KeepSend.sent
    | with_reducible apply KeepSend.refused
    | (extract_lets +onlyGivenNames x
       first
         | (refine (fun (hx : Keep sB x) => ?_) ?_; clear_value x; rotate_left; subst x)
         | (refine (fun (hx : KeepO sB x) => ?_) ?_; clear_value x; rotate_left; subst x)
         | (refine (fun (hx : KeepSend sB x) => ?_) ?_; clear_value x; rotate_left; subst x)
         | (have := fun a => x a; clear this; subst x)
         | clear_value x
         | subst x)
    | with_reducible apply Keep.ite
    | with_reducible apply KeepO.ite
    | with_reducible apply KeepSend.ite
    | split
    | (with_reducible apply KeepO.of_some; with_reducible assumption)
    | (with_reducible apply KeepO.un_some; with_reducible assumption)
    | (with_reducible apply KeepSend.of_sent; with_reducible assumption)
    | (with_reducible apply KeepSend.un_sent; with_reducible assumption)
    | (with_reducible apply Keep.ofMk; with_reducible apply Keep.fold)

theorem edgeGo_keep {sB : State} {s : State} {p : Nat} {fuel : Nat}
    (hs : Keep sB s) : Keep sB (edgeGo s p fuel) := by
  induction fuel generalizing s p with
  | zero  =>
    first | rw [edgeGo] | unfold edgeGo
    repeat' first
      | with_reducible assumption
      | with_reducible apply KeepO.map
      | with_reducible apply KeepO.getD
      | with_reducible apply edgeStep_keep
      | with_reducible apply KeepO.some
      | with_reducible apply KeepO.none
      | (extract_lets +onlyGivenNames x
         first
           | (refine (fun (hx : Keep sB x) => ?_) ?_; clear_value x; rotate_left; subst x)
           | (refine (fun (hx : KeepO sB x) => ?_) ?_; clear_value x; rotate_left; subst x)
           | (have := fun a => x a; clear this; subst x)
           | clear_value x
           | subst x)
      | split
      | (with_reducible apply KeepO.of_some; with_reducible assumption)
      | (with_reducible apply KeepO.un_some; with_reducible assumption)
      | (with_reducible apply Keep.ofMk; with_reducible apply Keep.fold)
  | succ n ih =>
    first | rw [edgeGo] | unfold edgeGo
    repeat' first
      | with_reducible assumption
      | with_reducible apply ih
      | with_reducible apply KeepO.map
      | with_reducible apply KeepO.getD
      | with_reducible apply edgeStep_keep
      | with_reducible apply KeepO.some
      | with_reducible apply KeepO.none
      | (extract_lets +onlyGivenNames x
         first
           | (refine (fun (hx : Keep sB x) => ?_) ?_; clear_value x; rotate_left; subst x)
           | (refine (fun (hx : KeepO sB x) => ?_) ?_; clear_value x; rotate_left; subst x)
           | (have := fun a => x a; clear this; subst x)
           | clear_value x
           | subst x)
      | split
      | (with_reducible apply KeepO.of_some; with_reducible assumption)
      | (with_reducible apply KeepO.un_some; with_reducible assumption)
      | (with_reducible apply Keep.ofMk; with_reducible apply Keep.fold)

theorem edgeDrain_keep {sB : State} {s : State} {p : Nat}
    (hs : Keep sB s) : Keep sB (edgeDrain s p) := by
  unfold edgeDrain
  repeat' first
    | with_reducible assumption
    | with_reducible apply edgeGo_keep

theorem edgesDrain_keep {sB : State} {s : State}
    (hs : Keep sB s) : Keep sB (edgesDrain s) := by
  unfold edgesDrain
  repeat' first
    | with_reducible assumption
    | intro _
    | with_reducible apply edgeDrain_keep
    | with_reducible apply Keep.foldl

theorem respond_keep {sB : State} {s : State} {f : Nat} {p : MeshPkt} {op : MeshOp}
    (hs : Keep sB s) : Keep sB (respond s f p op) := by
  unfold respond
  repeat' first
    | with_reducible assumption
    | with_reducible apply meshSend_keep
    | (extract_lets +onlyGivenNames x
       first
         | (refine (fun (hx : Keep sB x) => ?_) ?_; clear_value x; rotate_left; subst x)
         | (have := fun a => x a; clear this; subst x)
         | clear_value x
         | subst x)
    | split
    | (with_reducible apply Keep.ofMk; with_reducible apply Keep.fold)

theorem badPayload_keep {sB : State} {s : State} {f : Nat} {addr : Nat} {p : MeshPkt}
    (hs : Keep sB s) : Keep sB (badPayload s f addr p) := by
  unfold badPayload
  repeat' first
    | with_reducible assumption
    | with_reducible apply State.taskErr_keep

theorem ackWrite_keep {sB : State} {s : State} {f : Nat} {p : MeshPkt} {addr : Nat} {err : Option Nat}
    (hs : Keep sB s) : Keep sB (ackWrite s f p addr err) := by
  unfold ackWrite
  repeat' first
    | with_reducible assumption
    | with_reducible apply respond_keep

theorem serveWrite_keep {sB : State} {s : State} {f : Nat} {p : MeshPkt} {addr : Nat} {d : List Byte}
    (hs : Keep sB s) : Keep sB (serveWrite s f p addr d) := by
  unfold serveWrite
  repeat' first
    | with_reducible assumption
    | with_reducible apply writeHere_keep
    | with_reducible apply writeHere_keep_st
    | with_reducible apply badPayload_keep
    | with_reducible apply ackWrite_keep
    | (extract_lets +onlyGivenNames x
       first
         | (refine (fun (hx : Keep sB x) => ?_) ?_; clear_value x; rotate_left; subst x)
         | (refine (fun (hx : Keep1 sB x) => ?_) ?_; clear_value x; have hx2 := Keep1.proj hx; rotate_left; subst x)
         | (have := fun a => x a; clear this; subst x)
         | clear_value x
         | subst x)
    | with_reducible apply Keep.ite
    | with_reducible apply Keep1.ite
    | split
    | (with_reducible apply Keep1.elim; with_reducible assumption)
    | (with_reducible apply Keep1.elimM; with_reducible assumption)
    | with_reducible apply Keep1.mk

theorem serve_keep {sB : State} {s : State} {f : Nat} {p : MeshPkt} {mem : Ecc}
    (hs : Keep sB s) : Keep sB (serve s f p mem) := by
  unfold serve
  repeat' first
    | with_reducible assumption
    | with_reducible apply State.setCore_keep
    | with_reducible apply State.setGreg_keep
    | with_reducible apply State.taskErr_keep
    | with_reducible apply knotAddG_keep
    | with_reducible apply advance_keep
    | with_reducible apply answered_keep
    | with_reducible apply readHere_keep
    | with_reducible apply readHere_keep_st
    | with_reducible apply writeHere_keep
    | with_reducible apply writeHere_keep_st
    | with_reducible apply addHere_keep
    | with_reducible apply addHere_keep_st
    | with_reducible apply shFault_keep
    | with_reducible apply gotData_keep
    | with_reducible apply gotFault_keep
    | with_reducible apply respond_keep
    | with_reducible apply badPayload_keep
    | with_reducible apply ackWrite_keep
    | with_reducible apply serveWrite_keep
    | (extract_lets +onlyGivenNames x
       first
         | (refine (fun (hx : Keep sB x) => ?_) ?_; clear_value x; rotate_left; subst x)
         | (refine (fun (hx : Keep1 sB x) => ?_) ?_; clear_value x; have hx2 := Keep1.proj hx; rotate_left; subst x)
         | (have := fun a => x a; clear this; subst x)
         | clear_value x
         | subst x)
    | with_reducible apply Keep.ite
    | with_reducible apply Keep1.ite
    | split
    | (with_reducible apply Keep1.elim; with_reducible assumption)
    | (with_reducible apply Keep1.elimM; with_reducible assumption)
    | with_reducible apply Keep1.mk
    | (with_reducible apply Keep.ofMk; with_reducible apply Keep.fold)

theorem sendOn_keep {sB : State} {s : State} {f : Nat} {v : Nat} {p : MeshPkt} {mem : Ecc}
    (hs : Keep sB s) : Keep sB (sendOn s f v p mem) := by
  unfold sendOn
  repeat' first
    | with_reducible assumption
    | intro _
    | with_reducible apply meshPut_keep
    | with_reducible apply edgeDrain_keep
    | with_reducible apply serve_keep
    | with_reducible apply Keep.foldl
    | (extract_lets +onlyGivenNames x
       first
         | (refine (fun (hx : Keep sB x) => ?_) ?_; clear_value x; rotate_left; subst x)
         | (have := fun a => x a; clear this; subst x)
         | clear_value x
         | subst x)
    | split
    | (with_reducible apply Keep.ofMk; with_reducible apply Keep.fold)

theorem meshErrPort_keep {sB : State} {s : State} {f : Nat} {port : Nat}
    (hs : Keep sB s) : Keep sB (meshErrPort s f port) := by
  unfold meshErrPort
  repeat' first
    | with_reducible assumption
    | with_reducible apply State.put_keep
    | with_reducible apply Keep.ite
    | split

theorem payloadCheck_keep {sB : State} {s : State} {f : Nat} {ecc : Ecc}
    (hs : Keep sB s) : Keep sB (payloadCheck s f ecc) := by
  unfold payloadCheck
  repeat' first
    | with_reducible assumption
    | with_reducible apply State.bump_keep
    | with_reducible apply State.logErr_keep
    | (extract_lets +onlyGivenNames x
       first
         | (refine (fun (hx : Keep sB x) => ?_) ?_; clear_value x; rotate_left; subst x)
         | (have := fun a => x a; clear this; subst x)
         | clear_value x
         | subst x)
    | split
    | (with_reducible apply Keep.ofMk; with_reducible apply Keep.fold)

theorem refill_keep {sB : State} {s : State} {f : Nat} {port : Nat} {v : Nat}
    (hs : Keep sB s) : Keep sB (refill s f port v) := by
  unfold refill
  repeat' first
    | with_reducible assumption
    | intro _
    | with_reducible apply meshPump_keep
    | with_reducible apply edgePump_keep
    | with_reducible apply Keep.foldl
    | with_reducible apply Keep.ite
    | split

theorem execMeshPacket_keep {sB : State} {f : Fin 64} {port : Fin 6} {vc : Fin 3} {ecc : Ecc} {mem : Ecc} {s : State}
    (hs : Keep sB s) : KeepN sB (execMeshPacket f port vc ecc mem s) := by
  unfold execMeshPacket
  repeat' first
    | with_reducible assumption
    | intro _
    | with_reducible apply State.put_keep
    | with_reducible apply State.bump_keep
    | with_reducible apply State.modErr_keep
    | with_reducible apply finish_keep
    | with_reducible apply State.setMeshQ_keep
    | with_reducible apply ShRes.next_keep
    | with_reducible apply sendOn_keep
    | with_reducible apply meshErrPort_keep
    | with_reducible apply payloadCheck_keep
    | with_reducible apply refill_keep
    | with_reducible apply KeepN.next
    | with_reducible apply KeepN.fault
    | with_reducible apply KeepN.refused
    | with_reducible apply KeepSh.ok
    | with_reducible apply KeepSh.bad
    | with_reducible apply KeepSh.wait
    | (extract_lets +onlyGivenNames x
       first
         | (refine (fun (hx : Keep sB x) => ?_) ?_; clear_value x; rotate_left; subst x)
         | (refine (fun (hx : KeepN sB x) => ?_) ?_; clear_value x; rotate_left; subst x)
         | (refine (fun (hx : KeepSh sB x) => ?_) ?_; clear_value x; rotate_left; subst x)
         | (have := fun a => x a; clear this; subst x)
         | clear_value x
         | subst x)
    | with_reducible apply Keep.ite
    | with_reducible apply KeepN.ite
    | with_reducible apply KeepSh.ite
    | split
    | (with_reducible apply KeepN.of_next; with_reducible assumption)
    | (with_reducible apply KeepN.un_next; with_reducible assumption)
    | (with_reducible apply KeepSh.of_ok; with_reducible assumption)
    | (with_reducible apply KeepSh.un_ok; with_reducible assumption)
    | (with_reducible apply KeepSh.of_bad; with_reducible assumption)
    | (with_reducible apply KeepSh.un_bad; with_reducible assumption)
    | (with_reducible apply KeepSh.of_wait; with_reducible assumption)
    | (with_reducible apply KeepSh.un_wait; with_reducible assumption)
    | (with_reducible apply Keep.ofMk; with_reducible apply Keep.fold)

theorem pauseEdge_keep {sB : State} {s : State} {p : Nat} {d : Nat}
    (hs : Keep sB s) : Keep sB (pauseEdge s p d) := by
  unfold pauseEdge
  repeat' first
    | with_reducible assumption
    | intro _
    | (extract_lets +onlyGivenNames x
       first
         | (refine (fun (hx : Keep sB x) => ?_) ?_; clear_value x; rotate_left; subst x)
         | (have := fun a => x a; clear this; subst x)
         | clear_value x
         | subst x)
    | with_reducible apply Keep.ite
    | split
    | (with_reducible apply Keep.ofMk; with_reducible apply Keep.fold)

theorem execMeshWatchdog_keep {sB : State} {f : Fin 64} {port : Fin 6} {s : State}
    (hs : Keep sB s) : KeepN sB (execMeshWatchdog f port s) := by
  unfold execMeshWatchdog
  repeat' first
    | with_reducible assumption
    | intro _
    | with_reducible apply State.put_keep
    | with_reducible apply State.modErr_keep
    | with_reducible apply finish_keep
    | with_reducible apply ShRes.next_keep
    | with_reducible apply meshErrPort_keep
    | with_reducible apply KeepN.next
    | with_reducible apply KeepN.fault
    | with_reducible apply KeepN.refused
    | with_reducible apply KeepSh.ok
    | with_reducible apply KeepSh.bad
    | with_reducible apply KeepSh.wait
    | (extract_lets +onlyGivenNames x
       first
         | (refine (fun (hx : Keep sB x) => ?_) ?_; clear_value x; rotate_left; subst x)
         | (refine (fun (hx : KeepN sB x) => ?_) ?_; clear_value x; rotate_left; subst x)
         | (refine (fun (hx : KeepSh sB x) => ?_) ?_; clear_value x; rotate_left; subst x)
         | (have := fun a => x a; clear this; subst x)
         | clear_value x
         | subst x)
    | with_reducible apply Keep.ite
    | with_reducible apply KeepN.ite
    | with_reducible apply KeepSh.ite
    | split
    | (with_reducible apply KeepN.of_next; with_reducible assumption)
    | (with_reducible apply KeepN.un_next; with_reducible assumption)
    | (with_reducible apply KeepSh.of_ok; with_reducible assumption)
    | (with_reducible apply KeepSh.un_ok; with_reducible assumption)
    | (with_reducible apply KeepSh.of_bad; with_reducible assumption)
    | (with_reducible apply KeepSh.un_bad; with_reducible assumption)
    | (with_reducible apply KeepSh.of_wait; with_reducible assumption)
    | (with_reducible apply KeepSh.un_wait; with_reducible assumption)
    | (with_reducible apply Keep.ofMk; with_reducible apply Keep.fold)

end Sys2Proof.Machine
end

