-- ==== Sys2Proof/Laws/KeepEng.lean ====
section
/-! SUPPORT. The commands of the Spindles, the rings, the Brush and the Easel keep the relation. -/
namespace Sys2Proof.Machine

theorem spinErrAt_keep {sB : State} {s : State} {f : Nat} {q : Nat} {n : Nat} {cause : Nat}
    (hs : Keep sB s) : Keep sB (spinErrAt s f q n cause) := by
  unfold spinErrAt
  repeat' first
    | with_reducible assumption
    | with_reducible apply State.setQueue_keep
    | with_reducible apply State.taskErr_keep
    | (extract_lets +onlyGivenNames x
       first
         | (refine (fun (hx : Keep sB x) => ?_) ?_; clear_value x; rotate_left; subst x)
         | (have := fun a => x a; clear this; subst x)
         | clear_value x
         | subst x)
    | split
    | (with_reducible apply Keep.ofMk; with_reducible apply Keep.fold)

theorem spinErr_keep {sB : State} {s : State} {f : Nat} {q : Nat} {cause : Nat}
    (hs : Keep sB s) : Keep sB (spinErr s f q cause) := by
  unfold spinErr
  repeat' first
    | with_reducible assumption
    | with_reducible apply spinErrAt_keep

theorem drainPort_keep {sB : State} {s : State} {z : Nat} {i : Nat}
    (hs : Keep sB s) : Keep sB (drainPort s z i) := by
  unfold drainPort
  repeat' first
    | with_reducible assumption
    | with_reducible apply State.setRport_keep
    | (extract_lets +onlyGivenNames x
       first
         | (refine (fun (hx : Keep sB x) => ?_) ?_; clear_value x; rotate_left; subst x)
         | (have := fun a => x a; clear this; subst x)
         | clear_value x
         | subst x)
    | split
    | (with_reducible apply Keep.ofMk; with_reducible apply Keep.fold)

theorem landWords_keep {sB : State} {s : State} {f : Nat} {ps : List (Nat × Nat)} {vs : List W32}
    (hs : Keep sB s) : KeepO sB (landWords s f ps vs) := by
  unfold landWords
  repeat' first
    | with_reducible assumption
    | intro _
    | with_reducible apply KeepO.map
    | with_reducible apply KeepO.getD
    | with_reducible apply accSet_keep
    | with_reducible apply Keep.foldl
    | with_reducible apply KeepO.some
    | with_reducible apply KeepO.none
    | with_reducible apply Keep.ite
    | with_reducible apply KeepO.ite
    | split
    | (with_reducible apply KeepO.of_some; with_reducible assumption)
    | (with_reducible apply KeepO.un_some; with_reducible assumption)

theorem landNext_keep {sB : State} {s : State} {z : Nat} {i : Nat} {f : Nat} {q : Nat} {u : SpinUnit} {b : Beat}
    (hs : Keep sB s) : KeepLand sB (landNext s z i f q u b) := by
  unfold landNext
  repeat' first
    | with_reducible assumption
    | intro _
    | with_reducible apply KeepO.map
    | with_reducible apply KeepO.getD
    | with_reducible apply State.setRport_keep
    | with_reducible apply startPass_keep
    | with_reducible apply landWords_keep
    | with_reducible apply KeepO.some
    | with_reducible apply KeepO.none
    | with_reducible apply KeepLand.done
    | with_reducible apply KeepLand.wait
    | with_reducible apply KeepLand.proto
    | with_reducible apply KeepLand.over
    | (extract_lets +onlyGivenNames x
       first
         | (refine (fun (hx : Keep sB x) => ?_) ?_; clear_value x; rotate_left; subst x)
         | (refine (fun (hx : KeepO sB x) => ?_) ?_; clear_value x; rotate_left; subst x)
         | (refine (fun (hx : KeepLand sB x) => ?_) ?_; clear_value x; rotate_left; subst x)
         | (have := fun a => x a; clear this; subst x)
         | clear_value x
         | subst x)
    | with_reducible apply Keep.ite
    | with_reducible apply KeepO.ite
    | with_reducible apply KeepLand.ite
    | split
    | (with_reducible apply KeepO.of_some; with_reducible assumption)
    | (with_reducible apply KeepO.un_some; with_reducible assumption)
    | (with_reducible apply KeepLand.of_done; with_reducible assumption)
    | (with_reducible apply KeepLand.un_done; with_reducible assumption)
    | (with_reducible apply Keep.ofMk; with_reducible apply Keep.fold)

theorem cutShort_keep {sB : State} {s : State} {z : Nat} {i : Nat} {f : Nat} {q : Nat} {u : SpinUnit}
    (hs : Keep sB s) : Keep sB (cutShort s z i f q u) := by
  unfold cutShort
  repeat' first
    | with_reducible assumption
    | with_reducible apply State.setRport_keep
    | (extract_lets +onlyGivenNames x
       first
         | (refine (fun (hx : Keep sB x) => ?_) ?_; clear_value x; rotate_left; subst x)
         | (have := fun a => x a; clear this; subst x)
         | clear_value x
         | subst x)
    | with_reducible apply Keep.ite
    | split
    | (with_reducible apply Keep.ofMk; with_reducible apply Keep.fold)

theorem landBeat_keep {sB : State} {s : State} {z : Nat} {i : Nat} {f : Nat} {q : Nat} {n : Nat} {b : Beat}
    (hs : Keep sB s) : KeepLand sB (landBeat s z i f q n b) := by
  unfold landBeat
  repeat' first
    | with_reducible assumption
    | intro _
    | with_reducible apply KeepO.map
    | with_reducible apply KeepO.getD
    | with_reducible apply State.setRport_keep
    | with_reducible apply landWords_keep
    | with_reducible apply landNext_keep
    | with_reducible apply cutShort_keep
    | with_reducible apply KeepO.some
    | with_reducible apply KeepO.none
    | with_reducible apply KeepLand.done
    | with_reducible apply KeepLand.wait
    | with_reducible apply KeepLand.proto
    | with_reducible apply KeepLand.over
    | (extract_lets +onlyGivenNames x
       first
         | (refine (fun (hx : Keep sB x) => ?_) ?_; clear_value x; rotate_left; subst x)
         | (refine (fun (hx : KeepO sB x) => ?_) ?_; clear_value x; rotate_left; subst x)
         | (refine (fun (hx : KeepLand sB x) => ?_) ?_; clear_value x; rotate_left; subst x)
         | (have := fun a => x a; clear this; subst x)
         | clear_value x
         | subst x)
    | with_reducible apply Keep.ite
    | with_reducible apply KeepO.ite
    | with_reducible apply KeepLand.ite
    | split
    | (with_reducible apply KeepO.of_some; with_reducible assumption)
    | (with_reducible apply KeepO.un_some; with_reducible assumption)
    | (with_reducible apply KeepLand.of_done; with_reducible assumption)
    | (with_reducible apply KeepLand.un_done; with_reducible assumption)
    | (with_reducible apply Keep.ofMk; with_reducible apply Keep.fold)

theorem landPort_keep {sB : State} {s : State} {z : Nat} {i : Nat} {fuel : Nat}
    (hs : Keep sB s) : Keep sB (landPort s z i fuel) := by
  induction fuel generalizing s z i with
  | zero  =>
    first | rw [landPort] | unfold landPort
    repeat' first
      | with_reducible assumption
      | with_reducible apply State.setRport_keep
      | with_reducible apply segError_keep
      | with_reducible apply spinErr_keep
      | with_reducible apply landBeat_keep
      | with_reducible apply KeepLand.done
      | with_reducible apply KeepLand.wait
      | with_reducible apply KeepLand.proto
      | with_reducible apply KeepLand.over
      | (extract_lets +onlyGivenNames x
         first
           | (refine (fun (hx : Keep sB x) => ?_) ?_; clear_value x; rotate_left; subst x)
           | (refine (fun (hx : KeepLand sB x) => ?_) ?_; clear_value x; rotate_left; subst x)
           | (have := fun a => x a; clear this; subst x)
           | clear_value x
           | subst x)
      | with_reducible apply Keep.ite
      | with_reducible apply KeepLand.ite
      | split
      | (with_reducible apply KeepLand.of_done; with_reducible assumption)
      | (with_reducible apply KeepLand.un_done; with_reducible assumption)
      | (with_reducible apply Keep.ofMk; with_reducible apply Keep.fold)
  | succ n ih =>
    first | rw [landPort] | unfold landPort
    repeat' first
      | with_reducible assumption
      | with_reducible apply ih
      | with_reducible apply State.setRport_keep
      | with_reducible apply segError_keep
      | with_reducible apply spinErr_keep
      | with_reducible apply landBeat_keep
      | with_reducible apply KeepLand.done
      | with_reducible apply KeepLand.wait
      | with_reducible apply KeepLand.proto
      | with_reducible apply KeepLand.over
      | (extract_lets +onlyGivenNames x
         first
           | (refine (fun (hx : Keep sB x) => ?_) ?_; clear_value x; rotate_left; subst x)
           | (refine (fun (hx : KeepLand sB x) => ?_) ?_; clear_value x; rotate_left; subst x)
           | (have := fun a => x a; clear this; subst x)
           | clear_value x
           | subst x)
      | with_reducible apply Keep.ite
      | with_reducible apply KeepLand.ite
      | split
      | (with_reducible apply KeepLand.of_done; with_reducible assumption)
      | (with_reducible apply KeepLand.un_done; with_reducible assumption)
      | (with_reducible apply Keep.ofMk; with_reducible apply Keep.fold)

theorem SpinOut.state_keep {sB : State} {o : SpinOut} {f : Nat} {q : Nat}
    (ho : KeepSpin sB o) : Keep sB (SpinOut.state o f q) := by
  unfold SpinOut.state
  repeat' first
    | with_reducible assumption
    | with_reducible apply segError_keep
    | with_reducible apply shFault_keep
    | with_reducible apply spinErr_keep
    | (extract_lets +onlyGivenNames x
       first
         | (refine (fun (hx : Keep sB x) => ?_) ?_; clear_value x; rotate_left; subst x)
         | (refine (fun (hx : KeepSpin sB x) => ?_) ?_; clear_value x; rotate_left; subst x)
         | (have := fun a => x a; clear this; subst x)
         | clear_value x
         | subst x)
    | split
    | (with_reducible apply KeepSpin.of_wait; with_reducible assumption)
    | (with_reducible apply KeepSpin.un_wait; with_reducible assumption)
    | (with_reducible apply KeepSpin.of_bad; with_reducible assumption)
    | (with_reducible apply KeepSpin.un_bad; with_reducible assumption)
    | (with_reducible apply KeepSpin.of_seg; with_reducible assumption)
    | (with_reducible apply KeepSpin.un_seg; with_reducible assumption)
    | (with_reducible apply KeepSpin.of_fault; with_reducible assumption)
    | (with_reducible apply KeepSpin.un_fault; with_reducible assumption)
    | (with_reducible apply KeepSpin.of_done; with_reducible assumption)
    | (with_reducible apply KeepSpin.un_done; with_reducible assumption)
    | (with_reducible apply Keep.ofMk; with_reducible apply Keep.fold)

theorem spinRow_keep {sB : State} {s : State} {f : Nat} {q : Nat} {op : Nat} {body : State → Nat → SpinUnit → SpinOut}
    (hs : Keep sB s) (hbody : ∀ t0 t1 t2, Keep sB t0 → KeepSpin sB (body t0 t1 t2)) : KeepN sB (spinRow s f q op body) := by
  unfold spinRow
  repeat' first
    | with_reducible assumption
    | intro _
    | with_reducible apply hbody
    | with_reducible apply onClock_keep
    | with_reducible apply finish_keep
    | with_reducible apply ShRes.next_keep
    | with_reducible apply spinErr_keep
    | with_reducible apply SpinOut.state_keep
    | with_reducible apply KeepN.next
    | with_reducible apply KeepN.fault
    | with_reducible apply KeepN.refused
    | with_reducible apply KeepSh.ok
    | with_reducible apply KeepSh.bad
    | with_reducible apply KeepSh.wait
    | (extract_lets +onlyGivenNames x
       first
         | (refine (fun (hx : Keep sB x) => ?_) ?_; clear_value x; rotate_left; subst x)
         | (refine (fun (hx : KeepN sB x) => ?_) ?_; clear_value x; rotate_left; subst x)
         | (refine (fun (hx : KeepSh sB x) => ?_) ?_; clear_value x; rotate_left; subst x)
         | (refine (fun (hx : KeepSpin sB x) => ?_) ?_; clear_value x; rotate_left; subst x)
         | (have := fun a => x a; clear this; subst x)
         | clear_value x
         | subst x)
    | split
    | (with_reducible apply KeepN.of_next; with_reducible assumption)
    | (with_reducible apply KeepN.un_next; with_reducible assumption)
    | (with_reducible apply KeepSh.of_ok; with_reducible assumption)
    | (with_reducible apply KeepSh.un_ok; with_reducible assumption)
    | (with_reducible apply KeepSh.of_bad; with_reducible assumption)
    | (with_reducible apply KeepSh.un_bad; with_reducible assumption)
    | (with_reducible apply KeepSh.of_wait; with_reducible assumption)
    | (with_reducible apply KeepSh.un_wait; with_reducible assumption)
    | (with_reducible apply KeepSpin.of_wait; with_reducible assumption)
    | (with_reducible apply KeepSpin.un_wait; with_reducible assumption)
    | (with_reducible apply KeepSpin.of_bad; with_reducible assumption)
    | (with_reducible apply KeepSpin.un_bad; with_reducible assumption)
    | (with_reducible apply KeepSpin.of_seg; with_reducible assumption)
    | (with_reducible apply KeepSpin.un_seg; with_reducible assumption)
    | (with_reducible apply KeepSpin.of_fault; with_reducible assumption)
    | (with_reducible apply KeepSpin.un_fault; with_reducible assumption)
    | (with_reducible apply KeepSpin.of_done; with_reducible assumption)
    | (with_reducible apply KeepSpin.un_done; with_reducible assumption)
    | (with_reducible apply Keep.ofMk; with_reducible apply Keep.fold)

theorem spinCorr_keep {sB : State} {s : State} {f : Nat} {n : Nat}
    (hs : Keep sB s) : Keep sB (spinCorr s f n) := by
  unfold spinCorr
  repeat' first
    | with_reducible assumption
    | with_reducible apply State.bump_keep
    | with_reducible apply State.logErr_keep

theorem spinEccOut_keep {sB : State} {s : State} {f : Nat} {q : Nat} {w : Nat} {u : SpinUnit} {ecc : SpinEcc} {run : Option Nat → SpinOut}
    (hs : Keep sB s) (hrun : ∀ t0, KeepSpin sB (run t0)) : Keep sB (spinEccOut s f q w u ecc run) := by
  unfold spinEccOut
  repeat' first
    | with_reducible assumption
    | with_reducible apply hrun
    | with_reducible apply State.bump_keep
    | with_reducible apply spinErrAt_keep
    | with_reducible apply SpinOut.state_keep
    | with_reducible apply spinCorr_keep
    | (extract_lets +onlyGivenNames x
       first
         | (refine (fun (hx : Keep sB x) => ?_) ?_; clear_value x; rotate_left; subst x)
         | (refine (fun (hx : KeepSpin sB x) => ?_) ?_; clear_value x; rotate_left; subst x)
         | (have := fun a => x a; clear this; subst x)
         | clear_value x
         | subst x)
    | split
    | (with_reducible apply KeepSpin.of_wait; with_reducible assumption)
    | (with_reducible apply KeepSpin.un_wait; with_reducible assumption)
    | (with_reducible apply KeepSpin.of_bad; with_reducible assumption)
    | (with_reducible apply KeepSpin.un_bad; with_reducible assumption)
    | (with_reducible apply KeepSpin.of_seg; with_reducible assumption)
    | (with_reducible apply KeepSpin.un_seg; with_reducible assumption)
    | (with_reducible apply KeepSpin.of_fault; with_reducible assumption)
    | (with_reducible apply KeepSpin.un_fault; with_reducible assumption)
    | (with_reducible apply KeepSpin.of_done; with_reducible assumption)
    | (with_reducible apply KeepSpin.un_done; with_reducible assumption)
    | (with_reducible apply Keep.ofMk; with_reducible apply Keep.fold)

theorem spinRowEcc_keep {sB : State} {s : State} {f : Nat} {q : Nat} {op : Nat} {ecc : SpinEcc} {body : Option Nat → State → Nat → SpinUnit → SpinOut}
    (hs : Keep sB s) (hbody : ∀ t0 t1 t2 t3, Keep sB t1 → KeepSpin sB (body t0 t1 t2 t3)) : KeepN sB (spinRowEcc s f q op ecc body) := by
  unfold spinRowEcc
  repeat' first
    | with_reducible assumption
    | intro _
    | with_reducible apply hbody
    | with_reducible apply onClock_keep
    | with_reducible apply finish_keep
    | with_reducible apply ShRes.next_keep
    | with_reducible apply spinErr_keep
    | with_reducible apply spinEccOut_keep
    | with_reducible apply KeepN.next
    | with_reducible apply KeepN.fault
    | with_reducible apply KeepN.refused
    | with_reducible apply KeepSh.ok
    | with_reducible apply KeepSh.bad
    | with_reducible apply KeepSh.wait
    | (extract_lets +onlyGivenNames x
       first
         | (refine (fun (hx : Keep sB x) => ?_) ?_; clear_value x; rotate_left; subst x)
         | (refine (fun (hx : KeepN sB x) => ?_) ?_; clear_value x; rotate_left; subst x)
         | (refine (fun (hx : KeepSh sB x) => ?_) ?_; clear_value x; rotate_left; subst x)
         | (refine (fun (hx : KeepSpin sB x) => ?_) ?_; clear_value x; rotate_left; subst x)
         | (have := fun a => x a; clear this; subst x)
         | clear_value x
         | subst x)
    | split
    | (with_reducible apply KeepN.of_next; with_reducible assumption)
    | (with_reducible apply KeepN.un_next; with_reducible assumption)
    | (with_reducible apply KeepSh.of_ok; with_reducible assumption)
    | (with_reducible apply KeepSh.un_ok; with_reducible assumption)
    | (with_reducible apply KeepSh.of_bad; with_reducible assumption)
    | (with_reducible apply KeepSh.un_bad; with_reducible assumption)
    | (with_reducible apply KeepSh.of_wait; with_reducible assumption)
    | (with_reducible apply KeepSh.un_wait; with_reducible assumption)
    | (with_reducible apply KeepSpin.of_wait; with_reducible assumption)
    | (with_reducible apply KeepSpin.un_wait; with_reducible assumption)
    | (with_reducible apply KeepSpin.of_bad; with_reducible assumption)
    | (with_reducible apply KeepSpin.un_bad; with_reducible assumption)
    | (with_reducible apply KeepSpin.of_seg; with_reducible assumption)
    | (with_reducible apply KeepSpin.un_seg; with_reducible assumption)
    | (with_reducible apply KeepSpin.of_fault; with_reducible assumption)
    | (with_reducible apply KeepSpin.un_fault; with_reducible assumption)
    | (with_reducible apply KeepSpin.of_done; with_reducible assumption)
    | (with_reducible apply KeepSpin.un_done; with_reducible assumption)
    | (with_reducible apply Keep.ofMk; with_reducible apply Keep.fold)

theorem wordRan_keep {sB : State} {s : State} {f : Nat} {q : Nat}
    (hs : Keep sB s) : Keep sB (wordRan s f q) := by
  unfold wordRan
  repeat' first
    | with_reducible assumption
    | with_reducible apply State.setQueue_keep
    | with_reducible apply State.setSpin_keep
    | with_reducible apply startPass_keep
    | (extract_lets +onlyGivenNames x
       first
         | (refine (fun (hx : Keep sB x) => ?_) ?_; clear_value x; rotate_left; subst x)
         | (have := fun a => x a; clear this; subst x)
         | clear_value x
         | subst x)
    | split
    | (with_reducible apply Keep.ofMk; with_reducible apply Keep.fold)

theorem putTile_keep {sB : State} {s : State} {f : Nat} {u : SpinUnit} {w : Nat} {ts : W32}
    (hs : Keep sB s) : Keep sB (putTile s f u w ts) := by
  unfold putTile
  repeat' first
    | with_reducible assumption
    | intro _
    | with_reducible apply State.setSpin_keep
    | with_reducible apply Keep.foldl
    | (extract_lets +onlyGivenNames x
       first
         | (refine (fun (hx : Keep sB x) => ?_) ?_; clear_value x; rotate_left; subst x)
         | (have := fun a => x a; clear this; subst x)
         | clear_value x
         | subst x)
    | split
    | (with_reducible apply Keep.ofMk; with_reducible apply Keep.fold)

theorem putValues_keep {sB : State} {s : State} {f : Nat} {u : SpinUnit} {w : Nat} {l : List SElem}
    (hs : Keep sB s) : Keep sB (putValues s f u w l) := by
  unfold putValues
  repeat' first
    | with_reducible assumption
    | intro _
    | with_reducible apply State.setSpin_keep
    | with_reducible apply Keep.foldl
    | (extract_lets +onlyGivenNames x
       first
         | (refine (fun (hx : Keep sB x) => ?_) ?_; clear_value x; rotate_left; subst x)
         | (have := fun a => x a; clear this; subst x)
         | clear_value x
         | subst x)
    | split
    | (with_reducible apply Keep.ofMk; with_reducible apply Keep.fold)

theorem putScales_keep {sB : State} {s : State} {f : Nat} {u : SpinUnit} {w : Nat} {l : List Nat}
    (hs : Keep sB s) : Keep sB (putScales s f u w l) := by
  unfold putScales
  repeat' first
    | with_reducible assumption
    | intro _
    | with_reducible apply State.setSpin_keep
    | with_reducible apply Keep.foldl
    | (extract_lets +onlyGivenNames x
       first
         | (refine (fun (hx : Keep sB x) => ?_) ?_; clear_value x; rotate_left; subst x)
         | (have := fun a => x a; clear this; subst x)
         | clear_value x
         | subst x)
    | split
    | (with_reducible apply Keep.ofMk; with_reducible apply Keep.fold)

theorem sloadBody_keep {sB : State} {f : Nat} {q : Nat} {s : State} {w : Nat} {u : SpinUnit}
    (hs : Keep sB s) : KeepSpin sB (sloadBody f q s w u) := by
  unfold sloadBody
  repeat' first
    | with_reducible assumption
    | intro _
    | with_reducible apply releaseItems_keep
    | with_reducible apply dropStream_keep
    | with_reducible apply wordRan_keep
    | with_reducible apply putTile_keep
    | with_reducible apply putValues_keep
    | with_reducible apply putScales_keep
    | with_reducible apply KeepSpin.wait
    | with_reducible apply KeepSpin.bad
    | with_reducible apply KeepSpin.seg
    | with_reducible apply KeepSpin.fault
    | with_reducible apply KeepSpin.done
    | (extract_lets +onlyGivenNames x
       first
         | (refine (fun (hx : Keep sB x) => ?_) ?_; clear_value x; rotate_left; subst x)
         | (refine (fun (hx : KeepSpin sB x) => ?_) ?_; clear_value x; rotate_left; subst x)
         | (have := fun a => x a; clear this; subst x)
         | clear_value x
         | subst x)
    | with_reducible apply Keep.ite
    | with_reducible apply KeepSpin.ite
    | split
    | (with_reducible apply KeepSpin.of_wait; with_reducible assumption)
    | (with_reducible apply KeepSpin.un_wait; with_reducible assumption)
    | (with_reducible apply KeepSpin.of_bad; with_reducible assumption)
    | (with_reducible apply KeepSpin.un_bad; with_reducible assumption)
    | (with_reducible apply KeepSpin.of_seg; with_reducible assumption)
    | (with_reducible apply KeepSpin.un_seg; with_reducible assumption)
    | (with_reducible apply KeepSpin.of_fault; with_reducible assumption)
    | (with_reducible apply KeepSpin.un_fault; with_reducible assumption)
    | (with_reducible apply KeepSpin.of_done; with_reducible assumption)
    | (with_reducible apply KeepSpin.un_done; with_reducible assumption)
    | (with_reducible apply Keep.ofMk; with_reducible apply Keep.fold)

theorem execSload_keep {sB : State} {f : Fin 64} {q : Fin 9} {s : State}
    (hs : Keep sB s) : KeepN sB (execSload f q s) := by
  unfold execSload
  repeat' first
    | with_reducible assumption
    | intro _
    | with_reducible apply spinRow_keep
    | with_reducible apply sloadBody_keep
    | with_reducible apply KeepN.next
    | with_reducible apply KeepN.fault
    | with_reducible apply KeepN.refused
    | with_reducible apply KeepSpin.wait
    | with_reducible apply KeepSpin.bad
    | with_reducible apply KeepSpin.seg
    | with_reducible apply KeepSpin.fault
    | with_reducible apply KeepSpin.done
    | (with_reducible apply KeepN.of_next; with_reducible assumption)
    | (with_reducible apply KeepN.un_next; with_reducible assumption)
    | (with_reducible apply KeepSpin.of_wait; with_reducible assumption)
    | (with_reducible apply KeepSpin.un_wait; with_reducible assumption)
    | (with_reducible apply KeepSpin.of_bad; with_reducible assumption)
    | (with_reducible apply KeepSpin.un_bad; with_reducible assumption)
    | (with_reducible apply KeepSpin.of_seg; with_reducible assumption)
    | (with_reducible apply KeepSpin.un_seg; with_reducible assumption)
    | (with_reducible apply KeepSpin.of_fault; with_reducible assumption)
    | (with_reducible apply KeepSpin.un_fault; with_reducible assumption)
    | (with_reducible apply KeepSpin.of_done; with_reducible assumption)
    | (with_reducible apply KeepSpin.un_done; with_reducible assumption)

theorem runOperand_keep {sB : State} {s : State} {f : Nat} {q : Nat} {w : Nat} {n : Nat} {kr : Nat} {redo : Option (Nat × Nat)}
    (hs : Keep sB s) : KeepOperand sB (runOperand s f q w n kr redo) := by
  unfold runOperand
  repeat' first
    | with_reducible assumption
    | with_reducible apply State.setRport_keep
    | with_reducible apply drainPort_keep
    | with_reducible apply KeepOperand.ok
    | with_reducible apply KeepOperand.wait
    | with_reducible apply KeepOperand.bad
    | with_reducible apply KeepOperand.seg
    | (extract_lets +onlyGivenNames x
       first
         | (refine (fun (hx : Keep sB x) => ?_) ?_; clear_value x; rotate_left; subst x)
         | (refine (fun (hx : KeepOperand sB x) => ?_) ?_; clear_value x; rotate_left; subst x)
         | (have := fun a => x a; clear this; subst x)
         | clear_value x
         | subst x)
    | with_reducible apply Keep.ite
    | with_reducible apply KeepOperand.ite
    | split
    | (with_reducible apply KeepOperand.of_ok; with_reducible assumption)
    | (with_reducible apply KeepOperand.un_ok; with_reducible assumption)
    | (with_reducible apply KeepOperand.of_wait; with_reducible assumption)
    | (with_reducible apply KeepOperand.un_wait; with_reducible assumption)
    | (with_reducible apply Keep.ofMk; with_reducible apply Keep.fold)

theorem operandOf_keep {sB : State} {s : State} {f : Nat} {q : Nat} {w : Nat} {n : Nat} {kr : Nat}
    (hs : Keep sB s) : KeepOperand sB (operandOf s f q w n kr) := by
  unfold operandOf
  repeat' first
    | with_reducible assumption
    | with_reducible apply dropStream_keep
    | with_reducible apply runOperand_keep
    | with_reducible apply KeepOperand.ok
    | with_reducible apply KeepOperand.wait
    | with_reducible apply KeepOperand.bad
    | with_reducible apply KeepOperand.seg
    | (extract_lets +onlyGivenNames x
       first
         | (refine (fun (hx : Keep sB x) => ?_) ?_; clear_value x; rotate_left; subst x)
         | (refine (fun (hx : KeepOperand sB x) => ?_) ?_; clear_value x; rotate_left; subst x)
         | (have := fun a => x a; clear this; subst x)
         | clear_value x
         | subst x)
    | with_reducible apply Keep.ite
    | with_reducible apply KeepOperand.ite
    | split
    | (with_reducible apply KeepOperand.of_ok; with_reducible assumption)
    | (with_reducible apply KeepOperand.un_ok; with_reducible assumption)
    | (with_reducible apply KeepOperand.of_wait; with_reducible assumption)
    | (with_reducible apply KeepOperand.un_wait; with_reducible assumption)
    | (with_reducible apply Keep.ofMk; with_reducible apply Keep.fold)

theorem notePass_keep {sB : State} {s : State} {f : Nat} {inf : Bool} {sat : Bool} {exh : Bool}
    (hs : Keep sB s) : Keep sB (notePass s f inf sat exh) := by
  unfold notePass
  repeat' first
    | with_reducible assumption
    | with_reducible apply noteSat_keep
    | with_reducible apply noteInf_keep
    | with_reducible apply noteExh_keep
    | (extract_lets +onlyGivenNames x
       first
         | (refine (fun (hx : Keep sB x) => ?_) ?_; clear_value x; rotate_left; subst x)
         | (have := fun a => x a; clear this; subst x)
         | clear_value x
         | subst x)
    | with_reducible apply Keep.ite
    | split

theorem checkpoint_keep {sB : State} {s : State} {f : Nat} {u : SpinUnit} {base : Nat} {m : Nat} {l : List ((Nat × Nat) × W32)}
    (hs : Keep sB s) : Keep sB (checkpoint s f u base m l) := by
  unfold checkpoint
  repeat' first
    | with_reducible assumption
    | intro _
    | with_reducible apply accSet_keep
    | with_reducible apply Keep.foldl
    | (extract_lets +onlyGivenNames x
       first
         | (refine (fun (hx : Keep sB x) => ?_) ?_; clear_value x; rotate_left; subst x)
         | (have := fun a => x a; clear this; subst x)
         | clear_value x
         | subst x)
    | split

theorem landPairs_keep {sB : State} {s : State} {f : Nat} {w : Nat} {dst : SpinUnit} {p : PassShape} {vs : List W32}
    (hs : Keep sB s) : Keep1 sB (landPairs s f w dst p vs) := by
  unfold landPairs
  repeat' first
    | with_reducible assumption
    | intro _
    | with_reducible apply pairsSet_keep
    | (extract_lets +onlyGivenNames x
       first
         | (refine (fun (hx : Keep sB x) => ?_) ?_; clear_value x; rotate_left; subst x)
         | (refine (fun (hx : Keep1 sB x) => ?_) ?_; clear_value x; have hx2 := Keep1.proj hx; rotate_left; subst x)
         | (have := fun a => x a; clear this; subst x)
         | clear_value x
         | subst x)
    | with_reducible apply Keep.ite
    | with_reducible apply Keep1.ite
    | split
    | (with_reducible apply Keep1.elim; with_reducible assumption)
    | (with_reducible apply Keep1.elimM; with_reducible assumption)
    | with_reducible apply Keep1.mk


theorem landPairs_keep_st {sB : State} {s : State} {f : Nat} {w : Nat} {dst : SpinUnit} {p : PassShape} {vs : List W32}
    (hs : Keep sB s) : Keep sB (landPairs s f w dst p vs).1 :=
  landPairs_keep hs
theorem landPass_keep {sB : State} {s : State} {f : Nat} {w : Nat} {u : SpinUnit} {p : PassShape} {n : Nat} {fac : Option W32} {sat : Bool} {vs : List W32}
    (hs : Keep sB s) : Keep1 sB (landPass s f w u p n fac sat vs) := by
  unfold landPass
  repeat' first
    | with_reducible assumption
    | intro _
    | with_reducible apply blockSet_keep
    | with_reducible apply setBlock_keep
    | with_reducible apply landPairs_keep
    | with_reducible apply landPairs_keep_st
    | (extract_lets +onlyGivenNames x
       first
         | (refine (fun (hx : Keep sB x) => ?_) ?_; clear_value x; rotate_left; subst x)
         | (refine (fun (hx : Keep1 sB x) => ?_) ?_; clear_value x; have hx2 := Keep1.proj hx; rotate_left; subst x)
         | (have := fun a => x a; clear this; subst x)
         | clear_value x
         | subst x)
    | with_reducible apply Keep.ite
    | with_reducible apply Keep1.ite
    | split
    | (with_reducible apply Keep1.elim; with_reducible assumption)
    | (with_reducible apply Keep1.elimM; with_reducible assumption)
    | with_reducible apply Keep1.mk


theorem landPass_keep_st {sB : State} {s : State} {f : Nat} {w : Nat} {u : SpinUnit} {p : PassShape} {n : Nat} {fac : Option W32} {sat : Bool} {vs : List W32}
    (hs : Keep sB s) : Keep sB (landPass s f w u p n fac sat vs).1 :=
  landPass_keep hs
theorem passBroken_keep {sB : State} {s : State} {f : Nat} {w : Nat} {u : SpinUnit} {p : PassShape} {n : Nat} {k : Nat} {cs : List Chunk} {start : List W32}
    (hs : Keep sB s) : Keep sB (passBroken s f w u p n k cs start) := by
  unfold passBroken
  repeat' first
    | with_reducible assumption
    | intro _
    | with_reducible apply blockSet_keep
    | with_reducible apply pairsSet_keep
    | with_reducible apply checkpoint_keep
    | (extract_lets +onlyGivenNames x
       first
         | (refine (fun (hx : Keep sB x) => ?_) ?_; clear_value x; rotate_left; subst x)
         | (have := fun a => x a; clear this; subst x)
         | clear_value x
         | subst x)
    | with_reducible apply Keep.ite
    | split

theorem sendNotice_keep {sB : State} {s : State} {z : Nat} {i : Nat} {kind : NoticeKind} {sid : Nat} {part : Nat} {seq : Nat} {n : Nat}
    (hs : Keep sB s) : Keep sB (sendNotice s z i kind sid part seq n) := by
  unfold sendNotice
  repeat' first
    | with_reducible assumption
    | with_reducible apply State.setNotice_keep

theorem emitBlock_keep {sB : State} {s : State} {z : Nat} {i : Nat} {sel : Nat} {seq : Nat} {redo : Bool} {n : Nat} {ovf : Bool} {vs : List W32}
    (hs : Keep sB s) : Keep sB (emitBlock s z i sel seq redo n ovf vs) := by
  unfold emitBlock
  repeat' first
    | with_reducible assumption
    | with_reducible apply State.setRport_keep
    | (extract_lets +onlyGivenNames x
       first
         | (refine (fun (hx : Keep sB x) => ?_) ?_; clear_value x; rotate_left; subst x)
         | (have := fun a => x a; clear this; subst x)
         | clear_value x
         | subst x)
    | with_reducible apply Keep.ite
    | split
    | (with_reducible apply Keep.ofMk; with_reducible apply Keep.fold)

theorem askRedo_keep {sB : State} {s : State} {f : Nat} {q : Nat} {w : Nat} {seq : Nat} {n : Nat} {sel : Nat}
    (hs : Keep sB s) : Keep sB (askRedo s f q w seq n sel) := by
  unfold askRedo
  repeat' first
    | with_reducible assumption
    | with_reducible apply sendNotice_keep
    | with_reducible apply Keep.ite
    | split

theorem reduceRun_keep {sB : State} {s : State} {f : Nat} {q : Nat} {w : Nat} {z : Nat} {u : SpinUnit} {p : PassShape} {seq : Nat} {n : Nat} {sel : Nat} {inOvf : Bool} {start : List W32} {sums : List (W32 × Bool)} {fac : Option W32}
    (hs : Keep sB s) : Keep1 sB (reduceRun s f q w z u p seq n sel inOvf start sums fac) := by
  unfold reduceRun
  repeat' first
    | with_reducible assumption
    | with_reducible apply blockSet_keep
    | with_reducible apply setBlock_keep
    | with_reducible apply notePass_keep
    | with_reducible apply landPass_keep
    | with_reducible apply landPass_keep_st
    | with_reducible apply sendNotice_keep
    | with_reducible apply emitBlock_keep
    | (extract_lets +onlyGivenNames x
       first
         | (refine (fun (hx : Keep sB x) => ?_) ?_; clear_value x; rotate_left; subst x)
         | (refine (fun (hx : Keep1 sB x) => ?_) ?_; clear_value x; have hx2 := Keep1.proj hx; rotate_left; subst x)
         | (have := fun a => x a; clear this; subst x)
         | clear_value x
         | subst x)
    | with_reducible apply Keep.ite
    | with_reducible apply Keep1.ite
    | split
    | (with_reducible apply Keep1.elim; with_reducible assumption)
    | (with_reducible apply Keep1.elimM; with_reducible assumption)
    | with_reducible apply Keep1.mk


theorem reduceRun_keep_st {sB : State} {s : State} {f : Nat} {q : Nat} {w : Nat} {z : Nat} {u : SpinUnit} {p : PassShape} {seq : Nat} {n : Nat} {sel : Nat} {inOvf : Bool} {start : List W32} {sums : List (W32 × Bool)} {fac : Option W32}
    (hs : Keep sB s) : Keep sB (reduceRun s f q w z u p seq n sel inOvf start sums fac).1 :=
  reduceRun_keep hs
theorem usePartial_keep {sB : State} {s : State} {z : Nat} {i : Nat}
    (hs : Keep sB s) : Keep sB (usePartial s z i) := by
  unfold usePartial
  repeat' first
    | with_reducible assumption
    | with_reducible apply State.setRport_keep
    | (extract_lets +onlyGivenNames x
       first
         | (refine (fun (hx : Keep sB x) => ?_) ?_; clear_value x; rotate_left; subst x)
         | (have := fun a => x a; clear this; subst x)
         | clear_value x
         | subst x)
    | (with_reducible apply Keep.ofMk; with_reducible apply Keep.fold)

theorem reducePass_keep {sB : State} {f : Nat} {q : Nat} {w : Nat} {z : Nat} {u : SpinUnit} {p : PassShape} {sel : Nat} {s0 : State} {s : State} {seq : Nat} {start : List W32} {sums : List (W32 × Bool)} {fac : Option W32} {rel : State → State}
    (hs0 : Keep sB s0) (hs : Keep sB s) (hrel : ∀ t0, Keep sB t0 → Keep sB (rel t0)) : Keep sB (reducePass f q w z u p sel s0 s seq start sums fac rel) := by
  unfold reducePass
  repeat' first
    | with_reducible assumption
    | with_reducible apply hrel
    | with_reducible apply State.setQueue_keep
    | with_reducible apply State.setSpin_keep
    | with_reducible apply startPass_keep
    | with_reducible apply blockSet_keep
    | with_reducible apply setBlock_keep
    | with_reducible apply wordRan_keep
    | with_reducible apply notePass_keep
    | with_reducible apply landPass_keep
    | with_reducible apply landPass_keep_st
    | with_reducible apply emitBlock_keep
    | with_reducible apply reduceRun_keep
    | with_reducible apply reduceRun_keep_st
    | with_reducible apply usePartial_keep
    | (extract_lets +onlyGivenNames x
       first
         | (refine (fun (hx : Keep sB x) => ?_) ?_; clear_value x; rotate_left; subst x)
         | (refine (fun (hx : Keep1 sB x) => ?_) ?_; clear_value x; have hx2 := Keep1.proj hx; rotate_left; subst x)
         | (have := fun a => x a; clear this; subst x)
         | clear_value x
         | subst x)
    | with_reducible apply Keep.ite
    | with_reducible apply Keep1.ite
    | split
    | (with_reducible apply Keep1.elim; with_reducible assumption)
    | (with_reducible apply Keep1.elimM; with_reducible assumption)
    | with_reducible apply Keep1.mk
    | (with_reducible apply Keep.ofMk; with_reducible apply Keep.fold)

theorem passRun_keep {sB : State} {f : Nat} {q : Nat} {w : Nat} {u : SpinUnit} {p : PassShape} {sel : Nat} {lim : Option Nat} {s0 : State} {s : State} {cs : List Chunk} {used : Nat} {seq : Nat}
    (hs0 : Keep sB s0) (hs : Keep sB s) : Keep sB (passRun f q w u p sel lim s0 s cs used seq) := by
  unfold passRun
  repeat' first
    | with_reducible assumption
    | intro _
    | with_reducible apply State.setSpin_keep
    | with_reducible apply noteNan_keep
    | with_reducible apply releaseItems_keep
    | with_reducible apply wordRan_keep
    | with_reducible apply notePass_keep
    | with_reducible apply checkpoint_keep
    | with_reducible apply landPass_keep
    | with_reducible apply landPass_keep_st
    | with_reducible apply passBroken_keep
    | with_reducible apply askRedo_keep
    | with_reducible apply reducePass_keep
    | (extract_lets +onlyGivenNames x
       first
         | (refine (fun (hx : Keep sB x) => ?_) ?_; clear_value x; rotate_left; subst x)
         | (refine (fun (hx : Keep1 sB x) => ?_) ?_; clear_value x; have hx2 := Keep1.proj hx; rotate_left; subst x)
         | (have := fun a => x a; clear this; subst x)
         | clear_value x
         | subst x)
    | with_reducible apply Keep.ite
    | with_reducible apply Keep1.ite
    | split
    | (with_reducible apply Keep1.elim; with_reducible assumption)
    | (with_reducible apply Keep1.elimM; with_reducible assumption)
    | with_reducible apply Keep1.mk
    | (with_reducible apply Keep.ofMk; with_reducible apply Keep.fold)

theorem sampled_keep {sB : State} {s : State} {f : Nat} {q : Nat}
    (hs : Keep sB s) : Keep1 sB (sampled s f q) := by
  unfold sampled
  repeat' first
    | with_reducible assumption
    | with_reducible apply startPass_keep
    | (extract_lets +onlyGivenNames x
       first
         | (refine (fun (hx : Keep sB x) => ?_) ?_; clear_value x; rotate_left; subst x)
         | (refine (fun (hx : Keep1 sB x) => ?_) ?_; clear_value x; have hx2 := Keep1.proj hx; rotate_left; subst x)
         | (have := fun a => x a; clear this; subst x)
         | clear_value x
         | subst x)
    | split
    | (with_reducible apply Keep1.elim; with_reducible assumption)
    | (with_reducible apply Keep1.elimM; with_reducible assumption)
    | with_reducible apply Keep1.mk


theorem sampled_keep_st {sB : State} {s : State} {f : Nat} {q : Nat}
    (hs : Keep sB s) : Keep sB (sampled s f q).1 :=
  sampled_keep hs
theorem spassBody_keep {sB : State} {f : Nat} {q : Nat} {lim : Option Nat} {s : State} {w : Nat} {u : SpinUnit}
    (hs : Keep sB s) : KeepSpin sB (spassBody f q lim s w u) := by
  unfold spassBody
  repeat' first
    | with_reducible assumption
    | with_reducible apply landPort_keep
    | with_reducible apply operandOf_keep
    | with_reducible apply passRun_keep
    | with_reducible apply sampled_keep
    | with_reducible apply sampled_keep_st
    | with_reducible apply KeepSpin.wait
    | with_reducible apply KeepSpin.bad
    | with_reducible apply KeepSpin.seg
    | with_reducible apply KeepSpin.fault
    | with_reducible apply KeepSpin.done
    | with_reducible apply KeepOperand.ok
    | with_reducible apply KeepOperand.wait
    | with_reducible apply KeepOperand.bad
    | with_reducible apply KeepOperand.seg
    | (extract_lets +onlyGivenNames x
       first
         | (refine (fun (hx : Keep sB x) => ?_) ?_; clear_value x; rotate_left; subst x)
         | (refine (fun (hx : Keep1 sB x) => ?_) ?_; clear_value x; have hx2 := Keep1.proj hx; rotate_left; subst x)
         | (refine (fun (hx : KeepSpin sB x) => ?_) ?_; clear_value x; rotate_left; subst x)
         | (refine (fun (hx : KeepOperand sB x) => ?_) ?_; clear_value x; rotate_left; subst x)
         | (have := fun a => x a; clear this; subst x)
         | clear_value x
         | subst x)
    | with_reducible apply Keep.ite
    | with_reducible apply Keep1.ite
    | with_reducible apply KeepSpin.ite
    | with_reducible apply KeepOperand.ite
    | split
    | (with_reducible apply Keep1.elim; with_reducible assumption)
    | (with_reducible apply Keep1.elimM; with_reducible assumption)
    | (with_reducible apply KeepSpin.of_wait; with_reducible assumption)
    | (with_reducible apply KeepSpin.un_wait; with_reducible assumption)
    | (with_reducible apply KeepSpin.of_bad; with_reducible assumption)
    | (with_reducible apply KeepSpin.un_bad; with_reducible assumption)
    | (with_reducible apply KeepSpin.of_seg; with_reducible assumption)
    | (with_reducible apply KeepSpin.un_seg; with_reducible assumption)
    | (with_reducible apply KeepSpin.of_fault; with_reducible assumption)
    | (with_reducible apply KeepSpin.un_fault; with_reducible assumption)
    | (with_reducible apply KeepSpin.of_done; with_reducible assumption)
    | (with_reducible apply KeepSpin.un_done; with_reducible assumption)
    | (with_reducible apply KeepOperand.of_ok; with_reducible assumption)
    | (with_reducible apply KeepOperand.un_ok; with_reducible assumption)
    | (with_reducible apply KeepOperand.of_wait; with_reducible assumption)
    | (with_reducible apply KeepOperand.un_wait; with_reducible assumption)
    | with_reducible apply Keep1.mk
    | (with_reducible apply Keep.ofMk; with_reducible apply Keep.fold)

theorem execSpass_keep {sB : State} {f : Fin 64} {q : Fin 9} {ecc : SpinEcc} {s : State}
    (hs : Keep sB s) : KeepN sB (execSpass f q ecc s) := by
  unfold execSpass
  repeat' first
    | with_reducible assumption
    | intro _
    | with_reducible apply spinRowEcc_keep
    | with_reducible apply spassBody_keep
    | with_reducible apply KeepN.next
    | with_reducible apply KeepN.fault
    | with_reducible apply KeepN.refused
    | with_reducible apply KeepSpin.wait
    | with_reducible apply KeepSpin.bad
    | with_reducible apply KeepSpin.seg
    | with_reducible apply KeepSpin.fault
    | with_reducible apply KeepSpin.done
    | (with_reducible apply KeepN.of_next; with_reducible assumption)
    | (with_reducible apply KeepN.un_next; with_reducible assumption)
    | (with_reducible apply KeepSpin.of_wait; with_reducible assumption)
    | (with_reducible apply KeepSpin.un_wait; with_reducible assumption)
    | (with_reducible apply KeepSpin.of_bad; with_reducible assumption)
    | (with_reducible apply KeepSpin.un_bad; with_reducible assumption)
    | (with_reducible apply KeepSpin.of_seg; with_reducible assumption)
    | (with_reducible apply KeepSpin.un_seg; with_reducible assumption)
    | (with_reducible apply KeepSpin.of_fault; with_reducible assumption)
    | (with_reducible apply KeepSpin.un_fault; with_reducible assumption)
    | (with_reducible apply KeepSpin.of_done; with_reducible assumption)
    | (with_reducible apply KeepSpin.un_done; with_reducible assumption)

theorem flushSub_keep {sB : State} {s : State} {f : Nat} {w : Nat} {p : PassShape} {n : Nat} {fac : Option W32} {l : List (Nat × Nat × W32 × Bool)}
    (hs : Keep sB s) : Keep1 sB (flushSub s f w p n fac l) := by
  unfold flushSub
  repeat' first
    | with_reducible assumption
    | intro _
    | with_reducible apply State.setSpin_keep
    | with_reducible apply Keep.foldl
    | with_reducible apply Keep1.foldl
    | with_reducible apply Keep1.foldl_st
    | (extract_lets +onlyGivenNames x
       first
         | (refine (fun (hx : Keep sB x) => ?_) ?_; clear_value x; rotate_left; subst x)
         | (refine (fun (hx : Keep1 sB x) => ?_) ?_; clear_value x; have hx2 := Keep1.proj hx; rotate_left; subst x)
         | (have := fun a => x a; clear this; subst x)
         | clear_value x
         | subst x)
    | with_reducible apply Keep.ite
    | with_reducible apply Keep1.ite
    | split
    | (with_reducible apply Keep1.elim; with_reducible assumption)
    | (with_reducible apply Keep1.elimM; with_reducible assumption)
    | with_reducible apply Keep1.mk
    | (with_reducible apply Keep.ofMk; with_reducible apply Keep.fold)


theorem flushSub_keep_st {sB : State} {s : State} {f : Nat} {w : Nat} {p : PassShape} {n : Nat} {fac : Option W32} {l : List (Nat × Nat × W32 × Bool)}
    (hs : Keep sB s) : Keep sB (flushSub s f w p n fac l).1 :=
  flushSub_keep hs
theorem weightGo_keep {sB : State} {f : Nat} {q : Nat} {w : Nat} {p : PassShape} {r : RetrySt} {sel : Nat} {fac : Option W32} {s : State} {x : Nat} {fuel : Nat}
    (hs : Keep sB s) : Keep1 sB (weightGo f q w p r sel fac s x fuel) := by
  induction fuel generalizing f q w p r sel fac s x with
  | zero  =>
    first | rw [weightGo] | unfold weightGo
    repeat' first
      | with_reducible assumption
      | intro _
      | with_reducible apply noteNan_keep
      | with_reducible apply flushSub_keep
      | with_reducible apply flushSub_keep_st
      | (extract_lets +onlyGivenNames x
         first
           | (refine (fun (hx : Keep sB x) => ?_) ?_; clear_value x; rotate_left; subst x)
           | (refine (fun (hx : Keep1 sB x) => ?_) ?_; clear_value x; have hx2 := Keep1.proj hx; rotate_left; subst x)
           | (have := fun a => x a; clear this; subst x)
           | clear_value x
           | subst x)
      | with_reducible apply Keep.ite
      | with_reducible apply Keep1.ite
      | split
      | (with_reducible apply Keep1.elim; with_reducible assumption)
      | (with_reducible apply Keep1.elimM; with_reducible assumption)
      | with_reducible apply Keep1.mk
      | (with_reducible apply Keep.ofMk; with_reducible apply Keep.fold)
  | succ n ih =>
    first | rw [weightGo] | unfold weightGo
    repeat' first
      | with_reducible assumption
      | with_reducible apply ih
      | intro _
      | with_reducible apply noteNan_keep
      | with_reducible apply flushSub_keep
      | with_reducible apply flushSub_keep_st
      | (extract_lets +onlyGivenNames x
         first
           | (refine (fun (hx : Keep sB x) => ?_) ?_; clear_value x; rotate_left; subst x)
           | (refine (fun (hx : Keep1 sB x) => ?_) ?_; clear_value x; have hx2 := Keep1.proj hx; rotate_left; subst x)
           | (have := fun a => x a; clear this; subst x)
           | clear_value x
           | subst x)
      | with_reducible apply Keep.ite
      | with_reducible apply Keep1.ite
      | split
      | (with_reducible apply Keep1.elim; with_reducible assumption)
      | (with_reducible apply Keep1.elimM; with_reducible assumption)
      | with_reducible apply Keep1.mk
      | (with_reducible apply Keep.ofMk; with_reducible apply Keep.fold)


theorem weightGo_keep_st {sB : State} {f : Nat} {q : Nat} {w : Nat} {p : PassShape} {r : RetrySt} {sel : Nat} {fac : Option W32} {s : State} {x : Nat} {fuel : Nat}
    (hs : Keep sB s) : Keep sB (weightGo f q w p r sel fac s x fuel).1 :=
  weightGo_keep hs
theorem weightRun_keep {sB : State} {f : Nat} {q : Nat} {w : Nat} {p : PassShape} {r : RetrySt} {sel : Nat} {s : State} {x : Nat}
    (hs : Keep sB s) : Keep1 sB (weightRun f q w p r sel s x) := by
  unfold weightRun
  repeat' first
    | with_reducible assumption
    | with_reducible apply State.setSpin_keep
    | with_reducible apply notePass_keep
    | with_reducible apply askRedo_keep
    | with_reducible apply weightGo_keep
    | with_reducible apply weightGo_keep_st
    | (extract_lets +onlyGivenNames x
       first
         | (refine (fun (hx : Keep sB x) => ?_) ?_; clear_value x; rotate_left; subst x)
         | (refine (fun (hx : Keep1 sB x) => ?_) ?_; clear_value x; have hx2 := Keep1.proj hx; rotate_left; subst x)
         | (have := fun a => x a; clear this; subst x)
         | clear_value x
         | subst x)
    | split
    | (with_reducible apply Keep1.elim; with_reducible assumption)
    | (with_reducible apply Keep1.elimM; with_reducible assumption)
    | with_reducible apply Keep1.mk
    | (with_reducible apply Keep.ofMk; with_reducible apply Keep.fold)


theorem weightRun_keep_st {sB : State} {f : Nat} {q : Nat} {w : Nat} {p : PassShape} {r : RetrySt} {sel : Nat} {s : State} {x : Nat}
    (hs : Keep sB s) : Keep sB (weightRun f q w p r sel s x).1 :=
  weightRun_keep hs
theorem weightBroken_keep {sB : State} {f : Nat} {q : Nat} {w : Nat} {p : PassShape} {r : RetrySt} {sel : Nat} {s : State} {x : Nat} {k : Nat}
    (hs : Keep sB s) : Keep sB (weightBroken f q w p r sel s x k) := by
  unfold weightBroken
  repeat' first
    | with_reducible assumption
    | with_reducible apply weightGo_keep
    | with_reducible apply weightGo_keep_st
    | (with_reducible apply Keep1.elim; with_reducible assumption)
    | (with_reducible apply Keep1.elimM; with_reducible assumption)
    | with_reducible apply Keep1.mk

theorem frozenSkip_keep {sB : State} {s : State} {f : Nat} {u : SpinUnit}
    (hs : Keep sB s) : Keep sB (frozenSkip s f u) := by
  unfold frozenSkip
  repeat' first
    | with_reducible assumption
    | intro _
    | with_reducible apply State.bump_keep
    | with_reducible apply Keep.foldl
    | with_reducible apply Keep.ite
    | split

theorem swpassBody_keep {sB : State} {f : Nat} {q : Nat} {lim : Option Nat} {s : State} {w : Nat} {u : SpinUnit}
    (hs : Keep sB s) : KeepSpin sB (swpassBody f q lim s w u) := by
  unfold swpassBody
  repeat' first
    | with_reducible assumption
    | with_reducible apply releaseItems_keep
    | with_reducible apply wordRan_keep
    | with_reducible apply operandOf_keep
    | with_reducible apply sampled_keep
    | with_reducible apply sampled_keep_st
    | with_reducible apply weightRun_keep
    | with_reducible apply weightRun_keep_st
    | with_reducible apply weightBroken_keep
    | with_reducible apply frozenSkip_keep
    | with_reducible apply KeepSpin.wait
    | with_reducible apply KeepSpin.bad
    | with_reducible apply KeepSpin.seg
    | with_reducible apply KeepSpin.fault
    | with_reducible apply KeepSpin.done
    | with_reducible apply KeepOperand.ok
    | with_reducible apply KeepOperand.wait
    | with_reducible apply KeepOperand.bad
    | with_reducible apply KeepOperand.seg
    | (extract_lets +onlyGivenNames x
       first
         | (refine (fun (hx : Keep sB x) => ?_) ?_; clear_value x; rotate_left; subst x)
         | (refine (fun (hx : Keep1 sB x) => ?_) ?_; clear_value x; have hx2 := Keep1.proj hx; rotate_left; subst x)
         | (refine (fun (hx : KeepSpin sB x) => ?_) ?_; clear_value x; rotate_left; subst x)
         | (refine (fun (hx : KeepOperand sB x) => ?_) ?_; clear_value x; rotate_left; subst x)
         | (have := fun a => x a; clear this; subst x)
         | clear_value x
         | subst x)
    | with_reducible apply Keep.ite
    | with_reducible apply Keep1.ite
    | with_reducible apply KeepSpin.ite
    | with_reducible apply KeepOperand.ite
    | split
    | (with_reducible apply Keep1.elim; with_reducible assumption)
    | (with_reducible apply Keep1.elimM; with_reducible assumption)
    | (with_reducible apply KeepSpin.of_wait; with_reducible assumption)
    | (with_reducible apply KeepSpin.un_wait; with_reducible assumption)
    | (with_reducible apply KeepSpin.of_bad; with_reducible assumption)
    | (with_reducible apply KeepSpin.un_bad; with_reducible assumption)
    | (with_reducible apply KeepSpin.of_seg; with_reducible assumption)
    | (with_reducible apply KeepSpin.un_seg; with_reducible assumption)
    | (with_reducible apply KeepSpin.of_fault; with_reducible assumption)
    | (with_reducible apply KeepSpin.un_fault; with_reducible assumption)
    | (with_reducible apply KeepSpin.of_done; with_reducible assumption)
    | (with_reducible apply KeepSpin.un_done; with_reducible assumption)
    | (with_reducible apply KeepOperand.of_ok; with_reducible assumption)
    | (with_reducible apply KeepOperand.un_ok; with_reducible assumption)
    | (with_reducible apply KeepOperand.of_wait; with_reducible assumption)
    | (with_reducible apply KeepOperand.un_wait; with_reducible assumption)
    | with_reducible apply Keep1.mk
    | (with_reducible apply Keep.ofMk; with_reducible apply Keep.fold)

theorem execSwpass_keep {sB : State} {f : Fin 64} {q : Fin 9} {ecc : SpinEcc} {s : State}
    (hs : Keep sB s) : KeepN sB (execSwpass f q ecc s) := by
  unfold execSwpass
  repeat' first
    | with_reducible assumption
    | intro _
    | with_reducible apply spinRowEcc_keep
    | with_reducible apply swpassBody_keep
    | with_reducible apply KeepN.next
    | with_reducible apply KeepN.fault
    | with_reducible apply KeepN.refused
    | with_reducible apply KeepSpin.wait
    | with_reducible apply KeepSpin.bad
    | with_reducible apply KeepSpin.seg
    | with_reducible apply KeepSpin.fault
    | with_reducible apply KeepSpin.done
    | (with_reducible apply KeepN.of_next; with_reducible assumption)
    | (with_reducible apply KeepN.un_next; with_reducible assumption)
    | (with_reducible apply KeepSpin.of_wait; with_reducible assumption)
    | (with_reducible apply KeepSpin.un_wait; with_reducible assumption)
    | (with_reducible apply KeepSpin.of_bad; with_reducible assumption)
    | (with_reducible apply KeepSpin.un_bad; with_reducible assumption)
    | (with_reducible apply KeepSpin.of_seg; with_reducible assumption)
    | (with_reducible apply KeepSpin.un_seg; with_reducible assumption)
    | (with_reducible apply KeepSpin.of_fault; with_reducible assumption)
    | (with_reducible apply KeepSpin.un_fault; with_reducible assumption)
    | (with_reducible apply KeepSpin.of_done; with_reducible assumption)
    | (with_reducible apply KeepSpin.un_done; with_reducible assumption)

theorem toQueue_keep {sB : State} {s : State} {f : Nat} {j : Nat} {l : List EElem}
    (hs : Keep sB s) : Keep sB (toQueue s f j l) := by
  unfold toQueue
  repeat' first
    | with_reducible assumption
    | with_reducible apply State.setSh_keep
    | (extract_lets +onlyGivenNames x
       first
         | (refine (fun (hx : Keep sB x) => ?_) ?_; clear_value x; rotate_left; subst x)
         | (have := fun a => x a; clear this; subst x)
         | clear_value x
         | subst x)
    | (with_reducible apply Keep.ofMk; with_reducible apply Keep.fold)

theorem toBrush_keep {sB : State} {s : State} {f : Nat} {l : List EElem}
    (hs : Keep sB s) : Keep sB (toBrush s f l) := by
  unfold toBrush
  repeat' first
    | with_reducible assumption
    | (extract_lets +onlyGivenNames x
       first
         | (refine (fun (hx : Keep sB x) => ?_) ?_; clear_value x; rotate_left; subst x)
         | (have := fun a => x a; clear this; subst x)
         | clear_value x
         | subst x)
    | (with_reducible apply Keep.ofMk; with_reducible apply Keep.fold)

theorem toEasel_keep {sB : State} {s : State} {f : Nat} {l : List (List EElem)}
    (hs : Keep sB s) : Keep sB (toEasel s f l) := by
  unfold toEasel
  repeat' first
    | with_reducible assumption
    | (extract_lets +onlyGivenNames x
       first
         | (refine (fun (hx : Keep sB x) => ?_) ?_; clear_value x; rotate_left; subst x)
         | (have := fun a => x a; clear this; subst x)
         | clear_value x
         | subst x)
    | (with_reducible apply Keep.ofMk; with_reducible apply Keep.fold)

theorem clearBlock_keep {sB : State} {s : State} {f : Nat} {u : SpinUnit} {base : Nat} {b : BlockRec} {k : Nat}
    (hs : Keep sB s) : Keep sB (clearBlock s f u base b k) := by
  unfold clearBlock
  repeat' first
    | with_reducible assumption
    | with_reducible apply blockSet_keep
    | with_reducible apply pairsSet_keep
    | with_reducible apply Keep.ite
    | split

theorem sdrainBody_keep {sB : State} {f : Nat} {q : Nat} {lim : Option Nat} {s : State} {w : Nat} {u : SpinUnit}
    (hs : Keep sB s) : KeepSpin sB (sdrainBody f q lim s w u) := by
  unfold sdrainBody
  repeat' first
    | with_reducible assumption
    | intro _
    | with_reducible apply setBlock_keep
    | with_reducible apply wordRan_keep
    | with_reducible apply toQueue_keep
    | with_reducible apply toBrush_keep
    | with_reducible apply toEasel_keep
    | with_reducible apply clearBlock_keep
    | with_reducible apply KeepSpin.wait
    | with_reducible apply KeepSpin.bad
    | with_reducible apply KeepSpin.seg
    | with_reducible apply KeepSpin.fault
    | with_reducible apply KeepSpin.done
    | (extract_lets +onlyGivenNames x
       first
         | (refine (fun (hx : Keep sB x) => ?_) ?_; clear_value x; rotate_left; subst x)
         | (refine (fun (hx : KeepSpin sB x) => ?_) ?_; clear_value x; rotate_left; subst x)
         | (have := fun a => x a; clear this; subst x)
         | clear_value x
         | subst x)
    | with_reducible apply Keep.ite
    | with_reducible apply KeepSpin.ite
    | split
    | (with_reducible apply KeepSpin.of_wait; with_reducible assumption)
    | (with_reducible apply KeepSpin.un_wait; with_reducible assumption)
    | (with_reducible apply KeepSpin.of_bad; with_reducible assumption)
    | (with_reducible apply KeepSpin.un_bad; with_reducible assumption)
    | (with_reducible apply KeepSpin.of_seg; with_reducible assumption)
    | (with_reducible apply KeepSpin.un_seg; with_reducible assumption)
    | (with_reducible apply KeepSpin.of_fault; with_reducible assumption)
    | (with_reducible apply KeepSpin.un_fault; with_reducible assumption)
    | (with_reducible apply KeepSpin.of_done; with_reducible assumption)
    | (with_reducible apply KeepSpin.un_done; with_reducible assumption)
    | (with_reducible apply Keep.ofMk; with_reducible apply Keep.fold)

theorem execSdrain_keep {sB : State} {f : Fin 64} {q : Fin 9} {ecc : SpinEcc} {s : State}
    (hs : Keep sB s) : KeepN sB (execSdrain f q ecc s) := by
  unfold execSdrain
  repeat' first
    | with_reducible assumption
    | intro _
    | with_reducible apply spinRowEcc_keep
    | with_reducible apply sdrainBody_keep
    | with_reducible apply KeepN.next
    | with_reducible apply KeepN.fault
    | with_reducible apply KeepN.refused
    | with_reducible apply KeepSpin.wait
    | with_reducible apply KeepSpin.bad
    | with_reducible apply KeepSpin.seg
    | with_reducible apply KeepSpin.fault
    | with_reducible apply KeepSpin.done
    | (with_reducible apply KeepN.of_next; with_reducible assumption)
    | (with_reducible apply KeepN.un_next; with_reducible assumption)
    | (with_reducible apply KeepSpin.of_wait; with_reducible assumption)
    | (with_reducible apply KeepSpin.un_wait; with_reducible assumption)
    | (with_reducible apply KeepSpin.of_bad; with_reducible assumption)
    | (with_reducible apply KeepSpin.un_bad; with_reducible assumption)
    | (with_reducible apply KeepSpin.of_seg; with_reducible assumption)
    | (with_reducible apply KeepSpin.un_seg; with_reducible assumption)
    | (with_reducible apply KeepSpin.of_fault; with_reducible assumption)
    | (with_reducible apply KeepSpin.un_fault; with_reducible assumption)
    | (with_reducible apply KeepSpin.of_done; with_reducible assumption)
    | (with_reducible apply KeepSpin.un_done; with_reducible assumption)

theorem clearWide_keep {sB : State} {s : State} {f : Nat} {u : SpinUnit} {lo : Nat} {n : Nat}
    (hs : Keep sB s) : Keep sB (clearWide s f u lo n) := by
  unfold clearWide
  repeat' first
    | with_reducible assumption
    | with_reducible apply State.setSpin_keep
    | (extract_lets +onlyGivenNames x
       first
         | (refine (fun (hx : Keep sB x) => ?_) ?_; clear_value x; rotate_left; subst x)
         | (have := fun a => x a; clear this; subst x)
         | clear_value x
         | subst x)
    | (with_reducible apply Keep.ofMk; with_reducible apply Keep.fold)

theorem swdrainBody_keep {sB : State} {f : Nat} {q : Nat} {lim : Option Nat} {s : State} {w : Nat} {u : SpinUnit}
    (hs : Keep sB s) : KeepSpin sB (swdrainBody f q lim s w u) := by
  unfold swdrainBody
  repeat' first
    | with_reducible assumption
    | intro _
    | with_reducible apply wordRan_keep
    | with_reducible apply frozenSkip_keep
    | with_reducible apply toQueue_keep
    | with_reducible apply toBrush_keep
    | with_reducible apply clearWide_keep
    | with_reducible apply KeepSpin.wait
    | with_reducible apply KeepSpin.bad
    | with_reducible apply KeepSpin.seg
    | with_reducible apply KeepSpin.fault
    | with_reducible apply KeepSpin.done
    | (extract_lets +onlyGivenNames x
       first
         | (refine (fun (hx : Keep sB x) => ?_) ?_; clear_value x; rotate_left; subst x)
         | (refine (fun (hx : KeepSpin sB x) => ?_) ?_; clear_value x; rotate_left; subst x)
         | (have := fun a => x a; clear this; subst x)
         | clear_value x
         | subst x)
    | with_reducible apply Keep.ite
    | with_reducible apply KeepSpin.ite
    | split
    | (with_reducible apply KeepSpin.of_wait; with_reducible assumption)
    | (with_reducible apply KeepSpin.un_wait; with_reducible assumption)
    | (with_reducible apply KeepSpin.of_bad; with_reducible assumption)
    | (with_reducible apply KeepSpin.un_bad; with_reducible assumption)
    | (with_reducible apply KeepSpin.of_seg; with_reducible assumption)
    | (with_reducible apply KeepSpin.un_seg; with_reducible assumption)
    | (with_reducible apply KeepSpin.of_fault; with_reducible assumption)
    | (with_reducible apply KeepSpin.un_fault; with_reducible assumption)
    | (with_reducible apply KeepSpin.of_done; with_reducible assumption)
    | (with_reducible apply KeepSpin.un_done; with_reducible assumption)
    | (with_reducible apply Keep.ofMk; with_reducible apply Keep.fold)

theorem execSwdrain_keep {sB : State} {f : Fin 64} {q : Fin 9} {ecc : SpinEcc} {s : State}
    (hs : Keep sB s) : KeepN sB (execSwdrain f q ecc s) := by
  unfold execSwdrain
  repeat' first
    | with_reducible assumption
    | intro _
    | with_reducible apply spinRowEcc_keep
    | with_reducible apply swdrainBody_keep
    | with_reducible apply KeepN.next
    | with_reducible apply KeepN.fault
    | with_reducible apply KeepN.refused
    | with_reducible apply KeepSpin.wait
    | with_reducible apply KeepSpin.bad
    | with_reducible apply KeepSpin.seg
    | with_reducible apply KeepSpin.fault
    | with_reducible apply KeepSpin.done
    | (with_reducible apply KeepN.of_next; with_reducible assumption)
    | (with_reducible apply KeepN.un_next; with_reducible assumption)
    | (with_reducible apply KeepSpin.of_wait; with_reducible assumption)
    | (with_reducible apply KeepSpin.un_wait; with_reducible assumption)
    | (with_reducible apply KeepSpin.of_bad; with_reducible assumption)
    | (with_reducible apply KeepSpin.un_bad; with_reducible assumption)
    | (with_reducible apply KeepSpin.of_seg; with_reducible assumption)
    | (with_reducible apply KeepSpin.un_seg; with_reducible assumption)
    | (with_reducible apply KeepSpin.of_fault; with_reducible assumption)
    | (with_reducible apply KeepSpin.un_fault; with_reducible assumption)
    | (with_reducible apply KeepSpin.of_done; with_reducible assumption)
    | (with_reducible apply KeepSpin.un_done; with_reducible assumption)

theorem swclrBody_keep {sB : State} {f : Nat} {q : Nat} {s : State} {w : Nat} {u : SpinUnit}
    (hs : Keep sB s) : KeepSpin sB (swclrBody f q s w u) := by
  unfold swclrBody
  repeat' first
    | with_reducible assumption
    | with_reducible apply wordRan_keep
    | with_reducible apply frozenSkip_keep
    | with_reducible apply clearWide_keep
    | with_reducible apply KeepSpin.wait
    | with_reducible apply KeepSpin.bad
    | with_reducible apply KeepSpin.seg
    | with_reducible apply KeepSpin.fault
    | with_reducible apply KeepSpin.done
    | (extract_lets +onlyGivenNames x
       first
         | (refine (fun (hx : Keep sB x) => ?_) ?_; clear_value x; rotate_left; subst x)
         | (refine (fun (hx : KeepSpin sB x) => ?_) ?_; clear_value x; rotate_left; subst x)
         | (have := fun a => x a; clear this; subst x)
         | clear_value x
         | subst x)
    | with_reducible apply Keep.ite
    | with_reducible apply KeepSpin.ite
    | split
    | (with_reducible apply KeepSpin.of_wait; with_reducible assumption)
    | (with_reducible apply KeepSpin.un_wait; with_reducible assumption)
    | (with_reducible apply KeepSpin.of_bad; with_reducible assumption)
    | (with_reducible apply KeepSpin.un_bad; with_reducible assumption)
    | (with_reducible apply KeepSpin.of_seg; with_reducible assumption)
    | (with_reducible apply KeepSpin.un_seg; with_reducible assumption)
    | (with_reducible apply KeepSpin.of_fault; with_reducible assumption)
    | (with_reducible apply KeepSpin.un_fault; with_reducible assumption)
    | (with_reducible apply KeepSpin.of_done; with_reducible assumption)
    | (with_reducible apply KeepSpin.un_done; with_reducible assumption)

theorem execSwclr_keep {sB : State} {f : Fin 64} {q : Fin 9} {s : State}
    (hs : Keep sB s) : KeepN sB (execSwclr f q s) := by
  unfold execSwclr
  repeat' first
    | with_reducible assumption
    | intro _
    | with_reducible apply spinRow_keep
    | with_reducible apply swclrBody_keep
    | with_reducible apply KeepN.next
    | with_reducible apply KeepN.fault
    | with_reducible apply KeepN.refused
    | with_reducible apply KeepSpin.wait
    | with_reducible apply KeepSpin.bad
    | with_reducible apply KeepSpin.seg
    | with_reducible apply KeepSpin.fault
    | with_reducible apply KeepSpin.done
    | (with_reducible apply KeepN.of_next; with_reducible assumption)
    | (with_reducible apply KeepN.un_next; with_reducible assumption)
    | (with_reducible apply KeepSpin.of_wait; with_reducible assumption)
    | (with_reducible apply KeepSpin.un_wait; with_reducible assumption)
    | (with_reducible apply KeepSpin.of_bad; with_reducible assumption)
    | (with_reducible apply KeepSpin.un_bad; with_reducible assumption)
    | (with_reducible apply KeepSpin.of_seg; with_reducible assumption)
    | (with_reducible apply KeepSpin.un_seg; with_reducible assumption)
    | (with_reducible apply KeepSpin.of_fault; with_reducible assumption)
    | (with_reducible apply KeepSpin.un_fault; with_reducible assumption)
    | (with_reducible apply KeepSpin.of_done; with_reducible assumption)
    | (with_reducible apply KeepSpin.un_done; with_reducible assumption)

theorem setGang_keep {sB : State} {s : State} {f : Nat} {q : Nat} {size : Nat} {deep : Nat} {lead : Bool}
    (hs : Keep sB s) : Keep sB (setGang s f q size deep lead) := by
  unfold setGang
  repeat' first
    | with_reducible assumption
    | with_reducible apply State.put_keep
    | (extract_lets +onlyGivenNames x
       first
         | (refine (fun (hx : Keep sB x) => ?_) ?_; clear_value x; rotate_left; subst x)
         | (have := fun a => x a; clear this; subst x)
         | clear_value x
         | subst x)
    | split

theorem sgangBody_keep {sB : State} {f : Nat} {q : Nat} {s : State} {w : Nat} {u : SpinUnit}
    (hs : Keep sB s) : KeepSpin sB (sgangBody f q s w u) := by
  unfold sgangBody
  repeat' first
    | with_reducible assumption
    | intro _
    | with_reducible apply wordRan_keep
    | with_reducible apply setGang_keep
    | with_reducible apply Keep.foldl
    | with_reducible apply KeepSpin.wait
    | with_reducible apply KeepSpin.bad
    | with_reducible apply KeepSpin.seg
    | with_reducible apply KeepSpin.fault
    | with_reducible apply KeepSpin.done
    | (extract_lets +onlyGivenNames x
       first
         | (refine (fun (hx : Keep sB x) => ?_) ?_; clear_value x; rotate_left; subst x)
         | (refine (fun (hx : KeepSpin sB x) => ?_) ?_; clear_value x; rotate_left; subst x)
         | (have := fun a => x a; clear this; subst x)
         | clear_value x
         | subst x)
    | with_reducible apply Keep.ite
    | with_reducible apply KeepSpin.ite
    | split
    | (with_reducible apply KeepSpin.of_wait; with_reducible assumption)
    | (with_reducible apply KeepSpin.un_wait; with_reducible assumption)
    | (with_reducible apply KeepSpin.of_bad; with_reducible assumption)
    | (with_reducible apply KeepSpin.un_bad; with_reducible assumption)
    | (with_reducible apply KeepSpin.of_seg; with_reducible assumption)
    | (with_reducible apply KeepSpin.un_seg; with_reducible assumption)
    | (with_reducible apply KeepSpin.of_fault; with_reducible assumption)
    | (with_reducible apply KeepSpin.un_fault; with_reducible assumption)
    | (with_reducible apply KeepSpin.of_done; with_reducible assumption)
    | (with_reducible apply KeepSpin.un_done; with_reducible assumption)

theorem execSgang_keep {sB : State} {f : Fin 64} {q : Fin 9} {s : State}
    (hs : Keep sB s) : KeepN sB (execSgang f q s) := by
  unfold execSgang
  repeat' first
    | with_reducible assumption
    | intro _
    | with_reducible apply spinRow_keep
    | with_reducible apply sgangBody_keep
    | with_reducible apply KeepN.next
    | with_reducible apply KeepN.fault
    | with_reducible apply KeepN.refused
    | with_reducible apply KeepSpin.wait
    | with_reducible apply KeepSpin.bad
    | with_reducible apply KeepSpin.seg
    | with_reducible apply KeepSpin.fault
    | with_reducible apply KeepSpin.done
    | (with_reducible apply KeepN.of_next; with_reducible assumption)
    | (with_reducible apply KeepN.un_next; with_reducible assumption)
    | (with_reducible apply KeepSpin.of_wait; with_reducible assumption)
    | (with_reducible apply KeepSpin.un_wait; with_reducible assumption)
    | (with_reducible apply KeepSpin.of_bad; with_reducible assumption)
    | (with_reducible apply KeepSpin.un_bad; with_reducible assumption)
    | (with_reducible apply KeepSpin.of_seg; with_reducible assumption)
    | (with_reducible apply KeepSpin.un_seg; with_reducible assumption)
    | (with_reducible apply KeepSpin.of_fault; with_reducible assumption)
    | (with_reducible apply KeepSpin.un_fault; with_reducible assumption)
    | (with_reducible apply KeepSpin.of_done; with_reducible assumption)
    | (with_reducible apply KeepSpin.un_done; with_reducible assumption)

theorem execSpindleCmdComplete_keep {sB : State} {f : Fin 64} {q : Fin 9} {s : State}
    (hs : Keep sB s) : KeepN sB (execSpindleCmdComplete f q s) := by
  unfold execSpindleCmdComplete
  repeat' first
    | with_reducible assumption
    | intro _
    | with_reducible apply onClock_keep
    | with_reducible apply State.setQueue_keep
    | with_reducible apply completeWord_keep
    | with_reducible apply finish_keep
    | with_reducible apply ShRes.next_keep
    | with_reducible apply KeepN.next
    | with_reducible apply KeepN.fault
    | with_reducible apply KeepN.refused
    | with_reducible apply KeepSh.ok
    | with_reducible apply KeepSh.bad
    | with_reducible apply KeepSh.wait
    | (extract_lets +onlyGivenNames x
       first
         | (refine (fun (hx : Keep sB x) => ?_) ?_; clear_value x; rotate_left; subst x)
         | (refine (fun (hx : KeepN sB x) => ?_) ?_; clear_value x; rotate_left; subst x)
         | (refine (fun (hx : KeepSh sB x) => ?_) ?_; clear_value x; rotate_left; subst x)
         | (have := fun a => x a; clear this; subst x)
         | clear_value x
         | subst x)
    | with_reducible apply Keep.ite
    | with_reducible apply KeepN.ite
    | with_reducible apply KeepSh.ite
    | split
    | (with_reducible apply KeepN.of_next; with_reducible assumption)
    | (with_reducible apply KeepN.un_next; with_reducible assumption)
    | (with_reducible apply KeepSh.of_ok; with_reducible assumption)
    | (with_reducible apply KeepSh.un_ok; with_reducible assumption)
    | (with_reducible apply KeepSh.of_bad; with_reducible assumption)
    | (with_reducible apply KeepSh.un_bad; with_reducible assumption)
    | (with_reducible apply KeepSh.of_wait; with_reducible assumption)
    | (with_reducible apply KeepSh.un_wait; with_reducible assumption)
    | (with_reducible apply Keep.ofMk; with_reducible apply Keep.fold)

theorem rereadItems_keep {sB : State} {s : State} {f : Nat} {j : Nat} {l : List ItemSt} {acc : List SElem}
    (hs : Keep sB s) : KeepSh sB (rereadItems s f j l acc) := by
  induction l generalizing s f j acc with
  | nil  =>
    first | rw [rereadItems] | unfold rereadItems
    repeat' first
      | with_reducible assumption
      | intro _
      | with_reducible apply ShRes.next_keep
      | with_reducible apply wholeItem_keep
      | with_reducible apply KeepSh.ok
      | with_reducible apply KeepSh.bad
      | with_reducible apply KeepSh.wait
      | (extract_lets +onlyGivenNames x
         first
           | (refine (fun (hx : Keep sB x) => ?_) ?_; clear_value x; rotate_left; subst x)
           | (refine (fun (hx : KeepSh sB x) => ?_) ?_; clear_value x; rotate_left; subst x)
           | (have := fun a => x a; clear this; subst x)
           | clear_value x
           | subst x)
      | split
      | (with_reducible apply KeepSh.of_ok; with_reducible assumption)
      | (with_reducible apply KeepSh.un_ok; with_reducible assumption)
      | (with_reducible apply KeepSh.of_bad; with_reducible assumption)
      | (with_reducible apply KeepSh.un_bad; with_reducible assumption)
      | (with_reducible apply KeepSh.of_wait; with_reducible assumption)
      | (with_reducible apply KeepSh.un_wait; with_reducible assumption)
      | (with_reducible apply Keep.ofMk; with_reducible apply Keep.fold)
  | cons y r ih =>
    first | rw [rereadItems] | unfold rereadItems
    repeat' first
      | with_reducible assumption
      | with_reducible apply ih
      | intro _
      | with_reducible apply ShRes.next_keep
      | with_reducible apply wholeItem_keep
      | with_reducible apply KeepSh.ok
      | with_reducible apply KeepSh.bad
      | with_reducible apply KeepSh.wait
      | (extract_lets +onlyGivenNames x
         first
           | (refine (fun (hx : Keep sB x) => ?_) ?_; clear_value x; rotate_left; subst x)
           | (refine (fun (hx : KeepSh sB x) => ?_) ?_; clear_value x; rotate_left; subst x)
           | (have := fun a => x a; clear this; subst x)
           | clear_value x
           | subst x)
      | split
      | (with_reducible apply KeepSh.of_ok; with_reducible assumption)
      | (with_reducible apply KeepSh.un_ok; with_reducible assumption)
      | (with_reducible apply KeepSh.of_bad; with_reducible assumption)
      | (with_reducible apply KeepSh.un_bad; with_reducible assumption)
      | (with_reducible apply KeepSh.of_wait; with_reducible assumption)
      | (with_reducible apply KeepSh.un_wait; with_reducible assumption)
      | (with_reducible apply Keep.ofMk; with_reducible apply Keep.fold)

theorem redoOperand_keep {sB : State} {s : State} {f : Nat} {q : Nat} {w : Nat} {n : Nat} {kr : Nat} {items : List ItemSt} {skip : Nat} {seq : Nat} {k : Nat}
    (hs : Keep sB s) : KeepES sB (redoOperand s f q w n kr items skip seq k) := by
  unfold redoOperand
  repeat' first
    | with_reducible assumption
    | with_reducible apply runOperand_keep
    | with_reducible apply rereadItems_keep
    | with_reducible apply KeepSh.ok
    | with_reducible apply KeepSh.bad
    | with_reducible apply KeepSh.wait
    | with_reducible apply KeepSpin.wait
    | with_reducible apply KeepSpin.bad
    | with_reducible apply KeepSpin.seg
    | with_reducible apply KeepSpin.fault
    | with_reducible apply KeepSpin.done
    | with_reducible apply KeepOperand.ok
    | with_reducible apply KeepOperand.wait
    | with_reducible apply KeepOperand.bad
    | with_reducible apply KeepOperand.seg
    | with_reducible apply KeepES.ok
    | with_reducible apply KeepES.error
    | (extract_lets +onlyGivenNames x
       first
         | (refine (fun (hx : Keep sB x) => ?_) ?_; clear_value x; rotate_left; subst x)
         | (refine (fun (hx : KeepSh sB x) => ?_) ?_; clear_value x; rotate_left; subst x)
         | (refine (fun (hx : KeepOperand sB x) => ?_) ?_; clear_value x; rotate_left; subst x)
         | (refine (fun (hx : KeepES sB x) => ?_) ?_; clear_value x; rotate_left; subst x)
         | (have := fun a => x a; clear this; subst x)
         | clear_value x
         | subst x)
    | with_reducible apply Keep.ite
    | with_reducible apply Keep1.ite
    | with_reducible apply KeepSh.ite
    | with_reducible apply KeepOperand.ite
    | with_reducible apply KeepES.ite
    | split
    | (with_reducible apply Keep1.elim; with_reducible assumption)
    | (with_reducible apply Keep1.elimM; with_reducible assumption)
    | (with_reducible apply KeepES.ok_pair; with_reducible assumption)
    | (with_reducible apply KeepSh.of_ok; with_reducible assumption)
    | (with_reducible apply KeepSh.un_ok; with_reducible assumption)
    | (with_reducible apply KeepSh.of_bad; with_reducible assumption)
    | (with_reducible apply KeepSh.un_bad; with_reducible assumption)
    | (with_reducible apply KeepSh.of_wait; with_reducible assumption)
    | (with_reducible apply KeepSh.un_wait; with_reducible assumption)
    | (with_reducible apply KeepOperand.of_ok; with_reducible assumption)
    | (with_reducible apply KeepOperand.un_ok; with_reducible assumption)
    | (with_reducible apply KeepES.of_ok; with_reducible assumption)
    | (with_reducible apply KeepES.un_ok; with_reducible assumption)
    | (with_reducible apply KeepES.of_error; with_reducible assumption)
    | (with_reducible apply KeepES.un_error; with_reducible assumption)
    | (with_reducible apply KeepOperand.of_wait; with_reducible assumption)
    | (with_reducible apply KeepOperand.un_wait; with_reducible assumption)
    | with_reducible apply Keep1.mk
    | (with_reducible apply Keep.ofMk; with_reducible apply Keep.fold)

theorem retryPass_keep {sB : State} {f : Nat} {q : Nat} {w : Nat} {u : SpinUnit} {p : PassShape} {r : RetrySt} {lim : Option Nat} {s : State}
    (hs : Keep sB s) : KeepSpin sB (retryPass f q w u p r lim s) := by
  unfold retryPass
  repeat' first
    | with_reducible assumption
    | with_reducible apply State.setSpin_keep
    | with_reducible apply noteRetry_keep
    | with_reducible apply releaseItems_keep
    | with_reducible apply wordRan_keep
    | with_reducible apply notePass_keep
    | with_reducible apply landPass_keep
    | with_reducible apply landPass_keep_st
    | with_reducible apply passBroken_keep
    | with_reducible apply askRedo_keep
    | with_reducible apply redoOperand_keep
    | with_reducible apply KeepSpin.wait
    | with_reducible apply KeepSpin.bad
    | with_reducible apply KeepSpin.seg
    | with_reducible apply KeepSpin.fault
    | with_reducible apply KeepSpin.done
    | with_reducible apply KeepES.ok
    | with_reducible apply KeepES.error
    | (extract_lets +onlyGivenNames x
       first
         | (refine (fun (hx : Keep sB x) => ?_) ?_; clear_value x; rotate_left; subst x)
         | (refine (fun (hx : Keep1 sB x) => ?_) ?_; clear_value x; have hx2 := Keep1.proj hx; rotate_left; subst x)
         | (refine (fun (hx : KeepSpin sB x) => ?_) ?_; clear_value x; rotate_left; subst x)
         | (refine (fun (hx : KeepES sB x) => ?_) ?_; clear_value x; rotate_left; subst x)
         | (have := fun a => x a; clear this; subst x)
         | clear_value x
         | subst x)
    | with_reducible apply Keep.ite
    | with_reducible apply Keep1.ite
    | with_reducible apply KeepSpin.ite
    | with_reducible apply KeepES.ite
    | split
    | (with_reducible apply Keep1.elim; with_reducible assumption)
    | (with_reducible apply Keep1.elimM; with_reducible assumption)
    | (with_reducible apply KeepES.ok_pair; with_reducible assumption)
    | (with_reducible apply KeepSpin.of_wait; with_reducible assumption)
    | (with_reducible apply KeepSpin.un_wait; with_reducible assumption)
    | (with_reducible apply KeepSpin.of_bad; with_reducible assumption)
    | (with_reducible apply KeepSpin.un_bad; with_reducible assumption)
    | (with_reducible apply KeepSpin.of_seg; with_reducible assumption)
    | (with_reducible apply KeepSpin.un_seg; with_reducible assumption)
    | (with_reducible apply KeepSpin.of_fault; with_reducible assumption)
    | (with_reducible apply KeepSpin.un_fault; with_reducible assumption)
    | (with_reducible apply KeepSpin.of_done; with_reducible assumption)
    | (with_reducible apply KeepSpin.un_done; with_reducible assumption)
    | (with_reducible apply KeepES.of_ok; with_reducible assumption)
    | (with_reducible apply KeepES.un_ok; with_reducible assumption)
    | (with_reducible apply KeepES.of_error; with_reducible assumption)
    | (with_reducible apply KeepES.un_error; with_reducible assumption)
    | with_reducible apply Keep1.mk
    | (with_reducible apply Keep.ofMk; with_reducible apply Keep.fold)

theorem retryWeight_keep {sB : State} {f : Nat} {q : Nat} {w : Nat} {p : PassShape} {r : RetrySt} {lim : Option Nat} {s : State}
    (hs : Keep sB s) : KeepSpin sB (retryWeight f q w p r lim s) := by
  unfold retryWeight
  repeat' first
    | with_reducible assumption
    | intro _
    | with_reducible apply State.setSpin_keep
    | with_reducible apply noteRetry_keep
    | with_reducible apply releaseItems_keep
    | with_reducible apply wordRan_keep
    | with_reducible apply askRedo_keep
    | with_reducible apply flushSub_keep
    | with_reducible apply flushSub_keep_st
    | with_reducible apply weightRun_keep
    | with_reducible apply weightRun_keep_st
    | with_reducible apply weightBroken_keep
    | with_reducible apply redoOperand_keep
    | with_reducible apply KeepSpin.wait
    | with_reducible apply KeepSpin.bad
    | with_reducible apply KeepSpin.seg
    | with_reducible apply KeepSpin.fault
    | with_reducible apply KeepSpin.done
    | with_reducible apply KeepES.ok
    | with_reducible apply KeepES.error
    | (extract_lets +onlyGivenNames x
       first
         | (refine (fun (hx : Keep sB x) => ?_) ?_; clear_value x; rotate_left; subst x)
         | (refine (fun (hx : Keep1 sB x) => ?_) ?_; clear_value x; have hx2 := Keep1.proj hx; rotate_left; subst x)
         | (refine (fun (hx : KeepSpin sB x) => ?_) ?_; clear_value x; rotate_left; subst x)
         | (refine (fun (hx : KeepES sB x) => ?_) ?_; clear_value x; rotate_left; subst x)
         | (have := fun a => x a; clear this; subst x)
         | clear_value x
         | subst x)
    | with_reducible apply Keep.ite
    | with_reducible apply Keep1.ite
    | with_reducible apply KeepSpin.ite
    | with_reducible apply KeepES.ite
    | split
    | (with_reducible apply Keep1.elim; with_reducible assumption)
    | (with_reducible apply Keep1.elimM; with_reducible assumption)
    | (with_reducible apply KeepES.ok_pair; with_reducible assumption)
    | (with_reducible apply KeepSpin.of_wait; with_reducible assumption)
    | (with_reducible apply KeepSpin.un_wait; with_reducible assumption)
    | (with_reducible apply KeepSpin.of_bad; with_reducible assumption)
    | (with_reducible apply KeepSpin.un_bad; with_reducible assumption)
    | (with_reducible apply KeepSpin.of_seg; with_reducible assumption)
    | (with_reducible apply KeepSpin.un_seg; with_reducible assumption)
    | (with_reducible apply KeepSpin.of_fault; with_reducible assumption)
    | (with_reducible apply KeepSpin.un_fault; with_reducible assumption)
    | (with_reducible apply KeepSpin.of_done; with_reducible assumption)
    | (with_reducible apply KeepSpin.un_done; with_reducible assumption)
    | (with_reducible apply KeepES.of_ok; with_reducible assumption)
    | (with_reducible apply KeepES.un_ok; with_reducible assumption)
    | (with_reducible apply KeepES.of_error; with_reducible assumption)
    | (with_reducible apply KeepES.un_error; with_reducible assumption)
    | with_reducible apply Keep1.mk
    | (with_reducible apply Keep.ofMk; with_reducible apply Keep.fold)

theorem setOpen_keep {sB : State} {s : State} {f : Nat} {n : Nat} {seq : Nat} {o : Option OpenPass}
    (hs : Keep sB s) : Keep sB (setOpen s f n seq o) := by
  unfold setOpen
  repeat' first
    | with_reducible assumption
    | intro _
    | with_reducible apply State.setSpin_keep
    | (extract_lets +onlyGivenNames x
       first
         | (refine (fun (hx : Keep sB x) => ?_) ?_; clear_value x; rotate_left; subst x)
         | (have := fun a => x a; clear this; subst x)
         | clear_value x
         | subst x)
    | with_reducible apply Keep.ite
    | split
    | (with_reducible apply Keep.ofMk; with_reducible apply Keep.fold)

theorem retryOpen_keep {sB : State} {f : Nat} {q : Nat} {u : SpinUnit} {o : OpenPass} {n : Nat} {lim : Option Nat} {s : State}
    (hs : Keep sB s) : KeepSpin sB (retryOpen f q u o n lim s) := by
  unfold retryOpen
  repeat' first
    | with_reducible assumption
    | with_reducible apply State.setQueue_keep
    | with_reducible apply State.setRport_keep
    | with_reducible apply noteRetry_keep
    | with_reducible apply landPort_keep
    | with_reducible apply passBroken_keep
    | with_reducible apply reduceRun_keep
    | with_reducible apply reduceRun_keep_st
    | with_reducible apply redoOperand_keep
    | with_reducible apply setOpen_keep
    | with_reducible apply KeepSpin.wait
    | with_reducible apply KeepSpin.bad
    | with_reducible apply KeepSpin.seg
    | with_reducible apply KeepSpin.fault
    | with_reducible apply KeepSpin.done
    | with_reducible apply KeepES.ok
    | with_reducible apply KeepES.error
    | (extract_lets +onlyGivenNames x
       first
         | (refine (fun (hx : Keep sB x) => ?_) ?_; clear_value x; rotate_left; subst x)
         | (refine (fun (hx : Keep1 sB x) => ?_) ?_; clear_value x; have hx2 := Keep1.proj hx; rotate_left; subst x)
         | (refine (fun (hx : KeepSpin sB x) => ?_) ?_; clear_value x; rotate_left; subst x)
         | (refine (fun (hx : KeepES sB x) => ?_) ?_; clear_value x; rotate_left; subst x)
         | (have := fun a => x a; clear this; subst x)
         | clear_value x
         | subst x)
    | with_reducible apply Keep.ite
    | with_reducible apply Keep1.ite
    | with_reducible apply KeepSpin.ite
    | with_reducible apply KeepES.ite
    | split
    | (with_reducible apply Keep1.elim; with_reducible assumption)
    | (with_reducible apply Keep1.elimM; with_reducible assumption)
    | (with_reducible apply KeepES.ok_pair; with_reducible assumption)
    | (with_reducible apply KeepSpin.of_wait; with_reducible assumption)
    | (with_reducible apply KeepSpin.un_wait; with_reducible assumption)
    | (with_reducible apply KeepSpin.of_bad; with_reducible assumption)
    | (with_reducible apply KeepSpin.un_bad; with_reducible assumption)
    | (with_reducible apply KeepSpin.of_seg; with_reducible assumption)
    | (with_reducible apply KeepSpin.un_seg; with_reducible assumption)
    | (with_reducible apply KeepSpin.of_fault; with_reducible assumption)
    | (with_reducible apply KeepSpin.un_fault; with_reducible assumption)
    | (with_reducible apply KeepSpin.of_done; with_reducible assumption)
    | (with_reducible apply KeepSpin.un_done; with_reducible assumption)
    | (with_reducible apply KeepES.of_ok; with_reducible assumption)
    | (with_reducible apply KeepES.un_ok; with_reducible assumption)
    | (with_reducible apply KeepES.of_error; with_reducible assumption)
    | (with_reducible apply KeepES.un_error; with_reducible assumption)
    | with_reducible apply Keep1.mk
    | (with_reducible apply Keep.ofMk; with_reducible apply Keep.fold)

theorem execScaleRetry_keep {sB : State} {f : Fin 64} {q : Fin 9} {ecc : SpinEcc} {s : State}
    (hs : Keep sB s) : KeepN sB (execScaleRetry f q ecc s) := by
  unfold execScaleRetry
  repeat' first
    | with_reducible assumption
    | intro _
    | with_reducible apply onClock_keep
    | with_reducible apply finish_keep
    | with_reducible apply ShRes.next_keep
    | with_reducible apply spinEccOut_keep
    | with_reducible apply retryPass_keep
    | with_reducible apply retryWeight_keep
    | with_reducible apply retryOpen_keep
    | with_reducible apply KeepN.next
    | with_reducible apply KeepN.fault
    | with_reducible apply KeepN.refused
    | with_reducible apply KeepSh.ok
    | with_reducible apply KeepSh.bad
    | with_reducible apply KeepSh.wait
    | with_reducible apply KeepSpin.wait
    | with_reducible apply KeepSpin.bad
    | with_reducible apply KeepSpin.seg
    | with_reducible apply KeepSpin.fault
    | with_reducible apply KeepSpin.done
    | (extract_lets +onlyGivenNames x
       first
         | (refine (fun (hx : Keep sB x) => ?_) ?_; clear_value x; rotate_left; subst x)
         | (refine (fun (hx : KeepN sB x) => ?_) ?_; clear_value x; rotate_left; subst x)
         | (refine (fun (hx : KeepSh sB x) => ?_) ?_; clear_value x; rotate_left; subst x)
         | (refine (fun (hx : KeepSpin sB x) => ?_) ?_; clear_value x; rotate_left; subst x)
         | (have := fun a => x a; clear this; subst x)
         | clear_value x
         | subst x)
    | with_reducible apply Keep.ite
    | with_reducible apply KeepN.ite
    | with_reducible apply KeepSh.ite
    | with_reducible apply KeepSpin.ite
    | split
    | (with_reducible apply KeepN.of_next; with_reducible assumption)
    | (with_reducible apply KeepN.un_next; with_reducible assumption)
    | (with_reducible apply KeepSh.of_ok; with_reducible assumption)
    | (with_reducible apply KeepSh.un_ok; with_reducible assumption)
    | (with_reducible apply KeepSh.of_bad; with_reducible assumption)
    | (with_reducible apply KeepSh.un_bad; with_reducible assumption)
    | (with_reducible apply KeepSh.of_wait; with_reducible assumption)
    | (with_reducible apply KeepSh.un_wait; with_reducible assumption)
    | (with_reducible apply KeepSpin.of_wait; with_reducible assumption)
    | (with_reducible apply KeepSpin.un_wait; with_reducible assumption)
    | (with_reducible apply KeepSpin.of_bad; with_reducible assumption)
    | (with_reducible apply KeepSpin.un_bad; with_reducible assumption)
    | (with_reducible apply KeepSpin.of_seg; with_reducible assumption)
    | (with_reducible apply KeepSpin.un_seg; with_reducible assumption)
    | (with_reducible apply KeepSpin.of_fault; with_reducible assumption)
    | (with_reducible apply KeepSpin.un_fault; with_reducible assumption)
    | (with_reducible apply KeepSpin.of_done; with_reducible assumption)
    | (with_reducible apply KeepSpin.un_done; with_reducible assumption)
    | (with_reducible apply Keep.ofMk; with_reducible apply Keep.fold)

theorem flexSend_keep {sB : State} {s : State} {z : Nat} {p : Nat} {b : Beat}
    (hs : Keep sB s) : Keep sB (flexSend s z p b) := by
  unfold flexSend
  repeat' first
    | with_reducible assumption
    | with_reducible apply putStream_keep
    | (extract_lets +onlyGivenNames x
       first
         | (refine (fun (hx : Keep sB x) => ?_) ?_; clear_value x; rotate_left; subst x)
         | (have := fun a => x a; clear this; subst x)
         | clear_value x
         | subst x)
    | split
    | (with_reducible apply Keep.ofMk; with_reducible apply Keep.fold)

theorem flexCredit_keep {sB : State} {s : State} {z : Nat} {i : Nat}
    (hs : Keep sB s) : Keep sB (flexCredit s z i) := by
  unfold flexCredit
  repeat' first
    | with_reducible assumption
    | with_reducible apply putStream_keep
    | (extract_lets +onlyGivenNames x
       first
         | (refine (fun (hx : Keep sB x) => ?_) ?_; clear_value x; rotate_left; subst x)
         | (have := fun a => x a; clear this; subst x)
         | clear_value x
         | subst x)
    | split
    | (with_reducible apply Keep.ofMk; with_reducible apply Keep.fold)

theorem flexUnit_keep {sB : State} {s : State} {p : Nat} {x : Nat} {data : List Byte}
    (hs : Keep sB s) : Keep sB (flexUnit s p x data) := by
  unfold flexUnit
  repeat' first
    | with_reducible assumption
    | with_reducible apply State.setStage_keep
    | with_reducible apply State.setNotice_keep
    | (extract_lets +onlyGivenNames x
       first
         | (refine (fun (hx : Keep sB x) => ?_) ?_; clear_value x; rotate_left; subst x)
         | (have := fun a => x a; clear this; subst x)
         | clear_value x
         | subst x)
    | with_reducible apply Keep.ite
    | split
    | (with_reducible apply Keep.ofMk; with_reducible apply Keep.fold)

theorem passOn_keep {sB : State} {s : State} {z : Nat} {i : Nat} {b : Beat}
    (hs : Keep sB s) : KeepO sB (passOn s z i b) := by
  unfold passOn
  repeat' first
    | with_reducible assumption
    | with_reducible apply KeepO.map
    | with_reducible apply KeepO.getD
    | with_reducible apply State.setStage_keep
    | with_reducible apply flexSend_keep
    | with_reducible apply KeepO.some
    | with_reducible apply KeepO.none
    | (extract_lets +onlyGivenNames x
       first
         | (refine (fun (hx : Keep sB x) => ?_) ?_; clear_value x; rotate_left; subst x)
         | (refine (fun (hx : KeepO sB x) => ?_) ?_; clear_value x; rotate_left; subst x)
         | (have := fun a => x a; clear this; subst x)
         | clear_value x
         | subst x)
    | with_reducible apply Keep.ite
    | with_reducible apply KeepO.ite
    | split
    | (with_reducible apply KeepO.of_some; with_reducible assumption)
    | (with_reducible apply KeepO.un_some; with_reducible assumption)
    | (with_reducible apply Keep.ofMk; with_reducible apply Keep.fold)

theorem popStage_keep {sB : State} {s : State} {z : Nat} {i : Nat}
    (hs : Keep sB s) : Keep sB (popStage s z i) := by
  unfold popStage
  repeat' first
    | with_reducible assumption
    | with_reducible apply State.setStage_keep
    | with_reducible apply injFill_keep
    | with_reducible apply flexCredit_keep
    | (extract_lets +onlyGivenNames x
       first
         | (refine (fun (hx : Keep sB x) => ?_) ?_; clear_value x; rotate_left; subst x)
         | (have := fun a => x a; clear this; subst x)
         | clear_value x
         | subst x)
    | split

theorem moveBeat_keep {sB : State} {s : State} {z : Nat} {i : Nat} {b : Beat}
    (hs : Keep sB s) : KeepO sB (moveBeat s z i b) := by
  unfold moveBeat
  repeat' first
    | with_reducible assumption
    | intro _
    | with_reducible apply KeepO.map
    | with_reducible apply KeepO.getD
    | with_reducible apply State.setRport_keep
    | with_reducible apply segError_keep
    | with_reducible apply passOn_keep
    | with_reducible apply popStage_keep
    | with_reducible apply KeepO.some
    | with_reducible apply KeepO.none
    | (extract_lets +onlyGivenNames x
       first
         | (refine (fun (hx : Keep sB x) => ?_) ?_; clear_value x; rotate_left; subst x)
         | (refine (fun (hx : KeepO sB x) => ?_) ?_; clear_value x; rotate_left; subst x)
         | (have := fun a => x a; clear this; subst x)
         | clear_value x
         | subst x)
    | with_reducible apply Keep.ite
    | with_reducible apply KeepO.ite
    | split
    | (with_reducible apply KeepO.of_some; with_reducible assumption)
    | (with_reducible apply KeepO.un_some; with_reducible assumption)
    | (with_reducible apply Keep.ofMk; with_reducible apply Keep.fold)

theorem sendOwn_keep {sB : State} {s : State} {z : Nat} {i : Nat}
    (hs : Keep sB s) : KeepO sB (sendOwn s z i) := by
  unfold sendOwn
  repeat' first
    | with_reducible assumption
    | intro _
    | with_reducible apply KeepO.map
    | with_reducible apply KeepO.getD
    | with_reducible apply State.setRport_keep
    | with_reducible apply passOn_keep
    | with_reducible apply KeepO.some
    | with_reducible apply KeepO.none
    | (extract_lets +onlyGivenNames x
       first
         | (refine (fun (hx : Keep sB x) => ?_) ?_; clear_value x; rotate_left; subst x)
         | (refine (fun (hx : KeepO sB x) => ?_) ?_; clear_value x; rotate_left; subst x)
         | (have := fun a => x a; clear this; subst x)
         | clear_value x
         | subst x)
    | split
    | (with_reducible apply KeepO.of_some; with_reducible assumption)
    | (with_reducible apply KeepO.un_some; with_reducible assumption)
    | (with_reducible apply Keep.ofMk; with_reducible apply Keep.fold)

theorem stageBeat_keep {sB : State} {s : State} {z : Nat} {i : Nat} {ecc : Ecc}
    (hs : Keep sB s) : Keep sB (stageBeat s z i ecc) := by
  unfold stageBeat
  repeat' first
    | with_reducible assumption
    | with_reducible apply KeepO.map
    | with_reducible apply KeepO.getD
    | with_reducible apply State.logErr_keep
    | with_reducible apply segError_keep
    | with_reducible apply moveBeat_keep
    | with_reducible apply sendOwn_keep
    | with_reducible apply KeepO.some
    | with_reducible apply KeepO.none
    | (extract_lets +onlyGivenNames x
       first
         | (refine (fun (hx : Keep sB x) => ?_) ?_; clear_value x; rotate_left; subst x)
         | (refine (fun (hx : KeepO sB x) => ?_) ?_; clear_value x; rotate_left; subst x)
         | (have := fun a => x a; clear this; subst x)
         | clear_value x
         | subst x)
    | with_reducible apply Keep.ite
    | with_reducible apply KeepO.ite
    | split
    | (with_reducible apply KeepO.of_some; with_reducible assumption)
    | (with_reducible apply KeepO.un_some; with_reducible assumption)
    | (with_reducible apply Keep.ofMk; with_reducible apply Keep.fold)

theorem execRingBeat_keep {sB : State} {ring : Ring} {i : Fin 512} {ecc : Ecc} {s : State}
    (hs : Keep sB s) : KeepN sB (execRingBeat ring i ecc s) := by
  unfold execRingBeat
  repeat' first
    | with_reducible assumption
    | with_reducible apply onClock_keep
    | with_reducible apply finish_keep
    | with_reducible apply landPort_keep
    | with_reducible apply stageBeat_keep
    | with_reducible apply KeepN.next
    | with_reducible apply KeepN.fault
    | with_reducible apply KeepN.refused
    | (extract_lets +onlyGivenNames x
       first
         | (refine (fun (hx : Keep sB x) => ?_) ?_; clear_value x; rotate_left; subst x)
         | (refine (fun (hx : KeepN sB x) => ?_) ?_; clear_value x; rotate_left; subst x)
         | (have := fun a => x a; clear this; subst x)
         | clear_value x
         | subst x)
    | split
    | (with_reducible apply KeepN.of_next; with_reducible assumption)
    | (with_reducible apply KeepN.un_next; with_reducible assumption)

theorem noticeOn_keep {sB : State} {s : State} {z : Nat} {i : Nat} {n : Notice}
    (hs : Keep sB s) : Keep sB (noticeOn s z i n) := by
  unfold noticeOn
  repeat' first
    | with_reducible assumption
    | with_reducible apply State.setNotice_keep
    | with_reducible apply putStream_keep
    | (extract_lets +onlyGivenNames x
       first
         | (refine (fun (hx : Keep sB x) => ?_) ?_; clear_value x; rotate_left; subst x)
         | (have := fun a => x a; clear this; subst x)
         | clear_value x
         | subst x)
    | with_reducible apply Keep.ite
    | split
    | (with_reducible apply Keep.ofMk; with_reducible apply Keep.fold)

theorem redoAsked_keep {sB : State} {s : State} {z : Nat} {f : Nat} {i : Nat} {n : Notice}
    (hs : Keep sB s) : Keep sB (redoAsked s z f i n) := by
  unfold redoAsked
  repeat' first
    | with_reducible assumption
    | intro _
    | with_reducible apply State.setInj_keep
    | with_reducible apply segError_keep
    | (extract_lets +onlyGivenNames x
       first
         | (refine (fun (hx : Keep sB x) => ?_) ?_; clear_value x; rotate_left; subst x)
         | (have := fun a => x a; clear this; subst x)
         | clear_value x
         | subst x)
    | with_reducible apply Keep.ite
    | split
    | (with_reducible apply Keep.ofMk; with_reducible apply Keep.fold)

theorem execRedoReq_keep {sB : State} {ring : Ring} {f : Fin 64} {s : State}
    (hs : Keep sB s) : KeepN sB (execRedoReq ring f s) := by
  unfold execRedoReq
  repeat' first
    | with_reducible assumption
    | intro _
    | with_reducible apply onClock_keep
    | with_reducible apply State.setNotice_keep
    | with_reducible apply finish_keep
    | with_reducible apply ShRes.next_keep
    | with_reducible apply noticeOn_keep
    | with_reducible apply redoAsked_keep
    | with_reducible apply KeepN.next
    | with_reducible apply KeepN.fault
    | with_reducible apply KeepN.refused
    | with_reducible apply KeepSh.ok
    | with_reducible apply KeepSh.bad
    | with_reducible apply KeepSh.wait
    | (extract_lets +onlyGivenNames x
       first
         | (refine (fun (hx : Keep sB x) => ?_) ?_; clear_value x; rotate_left; subst x)
         | (refine (fun (hx : KeepN sB x) => ?_) ?_; clear_value x; rotate_left; subst x)
         | (refine (fun (hx : KeepSh sB x) => ?_) ?_; clear_value x; rotate_left; subst x)
         | (have := fun a => x a; clear this; subst x)
         | clear_value x
         | subst x)
    | with_reducible apply Keep.ite
    | with_reducible apply KeepN.ite
    | with_reducible apply KeepSh.ite
    | split
    | (with_reducible apply KeepN.of_next; with_reducible assumption)
    | (with_reducible apply KeepN.un_next; with_reducible assumption)
    | (with_reducible apply KeepSh.of_ok; with_reducible assumption)
    | (with_reducible apply KeepSh.un_ok; with_reducible assumption)
    | (with_reducible apply KeepSh.of_bad; with_reducible assumption)
    | (with_reducible apply KeepSh.un_bad; with_reducible assumption)
    | (with_reducible apply KeepSh.of_wait; with_reducible assumption)
    | (with_reducible apply KeepSh.un_wait; with_reducible assumption)
    | (with_reducible apply Keep.ofMk; with_reducible apply Keep.fold)

theorem execRedoRun_keep {sB : State} {ring : Ring} {f : Fin 64} {s : State}
    (hs : Keep sB s) : KeepN sB (execRedoRun ring f s) := by
  unfold execRedoRun
  repeat' first
    | with_reducible assumption
    | intro _
    | with_reducible apply onClock_keep
    | with_reducible apply State.setInj_keep
    | with_reducible apply segError_keep
    | with_reducible apply finish_keep
    | with_reducible apply ShRes.next_keep
    | with_reducible apply shFault_keep
    | with_reducible apply injFill_keep
    | with_reducible apply itemRun_keep
    | with_reducible apply KeepN.next
    | with_reducible apply KeepN.fault
    | with_reducible apply KeepN.refused
    | with_reducible apply KeepSh.ok
    | with_reducible apply KeepSh.bad
    | with_reducible apply KeepSh.wait
    | (extract_lets +onlyGivenNames x
       first
         | (refine (fun (hx : Keep sB x) => ?_) ?_; clear_value x; rotate_left; subst x)
         | (refine (fun (hx : KeepN sB x) => ?_) ?_; clear_value x; rotate_left; subst x)
         | (refine (fun (hx : KeepSh sB x) => ?_) ?_; clear_value x; rotate_left; subst x)
         | (have := fun a => x a; clear this; subst x)
         | clear_value x
         | subst x)
    | split
    | (with_reducible apply KeepN.of_next; with_reducible assumption)
    | (with_reducible apply KeepN.un_next; with_reducible assumption)
    | (with_reducible apply KeepSh.of_ok; with_reducible assumption)
    | (with_reducible apply KeepSh.un_ok; with_reducible assumption)
    | (with_reducible apply KeepSh.of_bad; with_reducible assumption)
    | (with_reducible apply KeepSh.un_bad; with_reducible assumption)
    | (with_reducible apply KeepSh.of_wait; with_reducible assumption)
    | (with_reducible apply KeepSh.un_wait; with_reducible assumption)
    | (with_reducible apply Keep.ofMk; with_reducible apply Keep.fold)

theorem retryMember_keep {sB : State} {s : State} {z : Nat} {i : Nat} {n : Notice}
    (hs : Keep sB s) : Keep sB (retryMember s z i n) := by
  unfold retryMember
  repeat' first
    | with_reducible assumption
    | intro _
    | with_reducible apply State.setRport_keep
    | with_reducible apply askRedo_keep
    | with_reducible apply setOpen_keep
    | (extract_lets +onlyGivenNames x
       first
         | (refine (fun (hx : Keep sB x) => ?_) ?_; clear_value x; rotate_left; subst x)
         | (have := fun a => x a; clear this; subst x)
         | clear_value x
         | subst x)
    | split
    | (with_reducible apply Keep.ofMk; with_reducible apply Keep.fold)

theorem execRetry_keep {sB : State} {ring : Ring} {i : Fin 512} {s : State}
    (hs : Keep sB s) : KeepN sB (execRetry ring i s) := by
  unfold execRetry
  repeat' first
    | with_reducible assumption
    | intro _
    | with_reducible apply onClock_keep
    | with_reducible apply State.setNotice_keep
    | with_reducible apply finish_keep
    | with_reducible apply ShRes.next_keep
    | with_reducible apply noticeOn_keep
    | with_reducible apply retryMember_keep
    | with_reducible apply KeepN.next
    | with_reducible apply KeepN.fault
    | with_reducible apply KeepN.refused
    | with_reducible apply KeepSh.ok
    | with_reducible apply KeepSh.bad
    | with_reducible apply KeepSh.wait
    | (extract_lets +onlyGivenNames x
       first
         | (refine (fun (hx : Keep sB x) => ?_) ?_; clear_value x; rotate_left; subst x)
         | (refine (fun (hx : KeepN sB x) => ?_) ?_; clear_value x; rotate_left; subst x)
         | (refine (fun (hx : KeepSh sB x) => ?_) ?_; clear_value x; rotate_left; subst x)
         | (have := fun a => x a; clear this; subst x)
         | clear_value x
         | subst x)
    | split
    | (with_reducible apply KeepN.of_next; with_reducible assumption)
    | (with_reducible apply KeepN.un_next; with_reducible assumption)
    | (with_reducible apply KeepSh.of_ok; with_reducible assumption)
    | (with_reducible apply KeepSh.un_ok; with_reducible assumption)
    | (with_reducible apply KeepSh.of_bad; with_reducible assumption)
    | (with_reducible apply KeepSh.un_bad; with_reducible assumption)
    | (with_reducible apply KeepSh.of_wait; with_reducible assumption)
    | (with_reducible apply KeepSh.un_wait; with_reducible assumption)
    | (with_reducible apply Keep.ofMk; with_reducible apply Keep.fold)

theorem confirmMember_keep {sB : State} {s : State} {z : Nat} {i : Nat} {n : Notice}
    (hs : Keep sB s) : Keep sB (confirmMember s z i n) := by
  unfold confirmMember
  repeat' first
    | with_reducible assumption
    | intro _
    | with_reducible apply State.setQueue_keep
    | with_reducible apply setOpen_keep
    | (extract_lets +onlyGivenNames x
       first
         | (refine (fun (hx : Keep sB x) => ?_) ?_; clear_value x; rotate_left; subst x)
         | (have := fun a => x a; clear this; subst x)
         | clear_value x
         | subst x)
    | split
    | (with_reducible apply Keep.ofMk; with_reducible apply Keep.fold)

theorem execConfirm_keep {sB : State} {ring : Ring} {i : Fin 512} {s : State}
    (hs : Keep sB s) : KeepN sB (execConfirm ring i s) := by
  unfold execConfirm
  repeat' first
    | with_reducible assumption
    | intro _
    | with_reducible apply onClock_keep
    | with_reducible apply State.setNotice_keep
    | with_reducible apply finish_keep
    | with_reducible apply ShRes.next_keep
    | with_reducible apply noticeOn_keep
    | with_reducible apply confirmMember_keep
    | with_reducible apply KeepN.next
    | with_reducible apply KeepN.fault
    | with_reducible apply KeepN.refused
    | with_reducible apply KeepSh.ok
    | with_reducible apply KeepSh.bad
    | with_reducible apply KeepSh.wait
    | (extract_lets +onlyGivenNames x
       first
         | (refine (fun (hx : Keep sB x) => ?_) ?_; clear_value x; rotate_left; subst x)
         | (refine (fun (hx : KeepN sB x) => ?_) ?_; clear_value x; rotate_left; subst x)
         | (refine (fun (hx : KeepSh sB x) => ?_) ?_; clear_value x; rotate_left; subst x)
         | (have := fun a => x a; clear this; subst x)
         | clear_value x
         | subst x)
    | split
    | (with_reducible apply KeepN.of_next; with_reducible assumption)
    | (with_reducible apply KeepN.un_next; with_reducible assumption)
    | (with_reducible apply KeepSh.of_ok; with_reducible assumption)
    | (with_reducible apply KeepSh.un_ok; with_reducible assumption)
    | (with_reducible apply KeepSh.of_bad; with_reducible assumption)
    | (with_reducible apply KeepSh.un_bad; with_reducible assumption)
    | (with_reducible apply KeepSh.of_wait; with_reducible assumption)
    | (with_reducible apply KeepSh.un_wait; with_reducible assumption)
    | (with_reducible apply Keep.ofMk; with_reducible apply Keep.fold)

theorem pauseHops_keep {sB : State} {s : State} {p : Nat} {d : Nat}
    (hs : Keep sB s) : Keep sB (pauseHops s p d) := by
  unfold pauseHops
  repeat' first
    | with_reducible assumption
    | intro _
    | (extract_lets +onlyGivenNames x
       first
         | (refine (fun (hx : Keep sB x) => ?_) ?_; clear_value x; rotate_left; subst x)
         | (have := fun a => x a; clear this; subst x)
         | clear_value x
         | subst x)
    | with_reducible apply Keep.ite
    | split
    | (with_reducible apply Keep.ofMk; with_reducible apply Keep.fold)

theorem glazeFails_keep {sB : State} {s : State}
    (hs : Keep sB s) : Keep sB (glazeFails s) := by
  unfold glazeFails
  repeat' first
    | with_reducible assumption
    | with_reducible apply refuseGlaze_keep
    | (extract_lets +onlyGivenNames x
       first
         | (refine (fun (hx : Keep sB x) => ?_) ?_; clear_value x; rotate_left; subst x)
         | (have := fun a => x a; clear this; subst x)
         | clear_value x
         | subst x)
    | split
    | (with_reducible apply Keep.ofMk; with_reducible apply Keep.fold)

theorem execHopWatchdog_keep {sB : State} {ring : Ring} {i : Fin 512} {s : State}
    (hs : Keep sB s) : KeepN sB (execHopWatchdog ring i s) := by
  unfold execHopWatchdog
  repeat' first
    | with_reducible assumption
    | intro _
    | with_reducible apply segError_keep
    | with_reducible apply finish_keep
    | with_reducible apply ShRes.next_keep
    | with_reducible apply glazeFails_keep
    | with_reducible apply KeepN.next
    | with_reducible apply KeepN.fault
    | with_reducible apply KeepN.refused
    | with_reducible apply KeepSh.ok
    | with_reducible apply KeepSh.bad
    | with_reducible apply KeepSh.wait
    | (extract_lets +onlyGivenNames x
       first
         | (refine (fun (hx : Keep sB x) => ?_) ?_; clear_value x; rotate_left; subst x)
         | (refine (fun (hx : KeepN sB x) => ?_) ?_; clear_value x; rotate_left; subst x)
         | (refine (fun (hx : KeepSh sB x) => ?_) ?_; clear_value x; rotate_left; subst x)
         | (have := fun a => x a; clear this; subst x)
         | clear_value x
         | subst x)
    | with_reducible apply Keep.ite
    | with_reducible apply KeepN.ite
    | with_reducible apply KeepSh.ite
    | split
    | (with_reducible apply KeepN.of_next; with_reducible assumption)
    | (with_reducible apply KeepN.un_next; with_reducible assumption)
    | (with_reducible apply KeepSh.of_ok; with_reducible assumption)
    | (with_reducible apply KeepSh.un_ok; with_reducible assumption)
    | (with_reducible apply KeepSh.of_bad; with_reducible assumption)
    | (with_reducible apply KeepSh.un_bad; with_reducible assumption)
    | (with_reducible apply KeepSh.of_wait; with_reducible assumption)
    | (with_reducible apply KeepSh.un_wait; with_reducible assumption)

theorem engErr_keep {sB : State} {s : State} {f : Nat} {q : Nat} {unit : Nat} {cause : Nat} {idx : Nat} {d0 : Nat}
    (hs : Keep sB s) : Keep sB (engErr s f q unit cause idx d0) := by
  unfold engErr
  repeat' first
    | with_reducible assumption
    | with_reducible apply State.setQueue_keep
    | with_reducible apply State.taskErr_keep
    | (extract_lets +onlyGivenNames x
       first
         | (refine (fun (hx : Keep sB x) => ?_) ?_; clear_value x; rotate_left; subst x)
         | (have := fun a => x a; clear this; subst x)
         | clear_value x
         | subst x)
    | split
    | (with_reducible apply Keep.ofMk; with_reducible apply Keep.fold)

theorem engRan_keep {sB : State} {s : State} {f : Nat} {q : Nat}
    (hs : Keep sB s) : Keep sB (engRan s f q) := by
  unfold engRan
  repeat' first
    | with_reducible assumption
    | with_reducible apply State.setQueue_keep
    | (extract_lets +onlyGivenNames x
       first
         | (refine (fun (hx : Keep sB x) => ?_) ?_; clear_value x; rotate_left; subst x)
         | (have := fun a => x a; clear this; subst x)
         | clear_value x
         | subst x)
    | split

theorem eccCorr_keep {sB : State} {s : State} {f : Nat} {l : List (Bool × Ecc)}
    (hs : Keep sB s) : Keep sB (eccCorr s f l) := by
  unfold eccCorr
  repeat' first
    | with_reducible assumption
    | intro _
    | with_reducible apply State.bump_keep
    | with_reducible apply State.logErr_keep
    | with_reducible apply Keep.foldl
    | with_reducible apply Keep.ite
    | split

theorem engRow_keep {sB : State} {s : State} {f : Nat} {q : Nat} {op : Nat} {ok : Nat → Bool} {eccs : List (Bool × Ecc)} {body : State → Nat → EngOut}
    (hs : Keep sB s) (hbody : ∀ t0 t1, Keep sB t0 → KeepEng sB (body t0 t1)) : KeepN sB (engRow s f q op ok eccs body) := by
  unfold engRow
  repeat' first
    | with_reducible assumption
    | intro _
    | with_reducible apply hbody
    | with_reducible apply State.bump_keep
    | with_reducible apply onClock_keep
    | with_reducible apply finish_keep
    | with_reducible apply ShRes.next_keep
    | with_reducible apply engErr_keep
    | with_reducible apply engRan_keep
    | with_reducible apply eccCorr_keep
    | with_reducible apply KeepN.next
    | with_reducible apply KeepN.fault
    | with_reducible apply KeepN.refused
    | with_reducible apply KeepSh.ok
    | with_reducible apply KeepSh.bad
    | with_reducible apply KeepSh.wait
    | (extract_lets +onlyGivenNames x
       first
         | (refine (fun (hx : Keep sB x) => ?_) ?_; clear_value x; rotate_left; subst x)
         | (refine (fun (hx : KeepN sB x) => ?_) ?_; clear_value x; rotate_left; subst x)
         | (refine (fun (hx : KeepEng sB x) => ?_) ?_; clear_value x; rotate_left; subst x)
         | (refine (fun (hx : KeepSh sB x) => ?_) ?_; clear_value x; rotate_left; subst x)
         | (have := fun a => x a; clear this; subst x)
         | clear_value x
         | subst x)
    | with_reducible apply Keep.ite
    | with_reducible apply KeepN.ite
    | with_reducible apply KeepEng.ite
    | with_reducible apply KeepSh.ite
    | split
    | (with_reducible apply KeepN.of_next; with_reducible assumption)
    | (with_reducible apply KeepN.un_next; with_reducible assumption)
    | (with_reducible apply KeepEng.of_done; with_reducible assumption)
    | (with_reducible apply KeepEng.un_done; with_reducible assumption)
    | (with_reducible apply KeepSh.of_ok; with_reducible assumption)
    | (with_reducible apply KeepSh.un_ok; with_reducible assumption)
    | (with_reducible apply KeepSh.of_bad; with_reducible assumption)
    | (with_reducible apply KeepSh.un_bad; with_reducible assumption)
    | (with_reducible apply KeepSh.of_wait; with_reducible assumption)
    | (with_reducible apply KeepSh.un_wait; with_reducible assumption)
    | (with_reducible apply Keep.ofMk; with_reducible apply Keep.fold)

theorem brushCvt_keep {sB : State} {s : State} {f : Nat} {t : Nat} {sat : Bool} {sr : Bool} {j : Nat} {vs : List Val} {acc : List Nat}
    (hs : Keep sB s) : Keep1 sB (brushCvt s f t sat sr j vs acc) := by
  induction vs generalizing s f t sat sr j acc with
  | nil  =>
    first | rw [brushCvt] | unfold brushCvt
    repeat' first
      | with_reducible assumption
      | with_reducible apply cvtLane_keep
      | with_reducible apply cvtLane_keep_st
      | (extract_lets +onlyGivenNames x
         first
           | (refine (fun (hx : Keep sB x) => ?_) ?_; clear_value x; rotate_left; subst x)
           | (refine (fun (hx : Keep1 sB x) => ?_) ?_; clear_value x; have hx2 := Keep1.proj hx; rotate_left; subst x)
           | (have := fun a => x a; clear this; subst x)
           | clear_value x
           | subst x)
      | split
      | (with_reducible apply Keep1.elim; with_reducible assumption)
      | (with_reducible apply Keep1.elimM; with_reducible assumption)
      | with_reducible apply Keep1.mk
      | (with_reducible apply Keep.ofMk; with_reducible apply Keep.fold)
  | cons y r ih =>
    first | rw [brushCvt] | unfold brushCvt
    repeat' first
      | with_reducible assumption
      | with_reducible apply ih
      | with_reducible apply cvtLane_keep
      | with_reducible apply cvtLane_keep_st
      | (extract_lets +onlyGivenNames x
         first
           | (refine (fun (hx : Keep sB x) => ?_) ?_; clear_value x; rotate_left; subst x)
           | (refine (fun (hx : Keep1 sB x) => ?_) ?_; clear_value x; have hx2 := Keep1.proj hx; rotate_left; subst x)
           | (have := fun a => x a; clear this; subst x)
           | clear_value x
           | subst x)
      | split
      | (with_reducible apply Keep1.elim; with_reducible assumption)
      | (with_reducible apply Keep1.elimM; with_reducible assumption)
      | with_reducible apply Keep1.mk
      | (with_reducible apply Keep.ofMk; with_reducible apply Keep.fold)


theorem brushCvt_keep_st {sB : State} {s : State} {f : Nat} {t : Nat} {sat : Bool} {sr : Bool} {j : Nat} {vs : List Val} {acc : List Nat}
    (hs : Keep sB s) : Keep sB (brushCvt s f t sat sr j vs acc).1 :=
  brushCvt_keep hs
theorem brushQuantBlock_keep {sB : State} {s : State} {f : Nat} {st : Nat} {t : Nat} {sc : Nat} {ts : W32} {sr : Bool} {j : Nat} {vs : List Val} {acc : List Nat}
    (hs : Keep sB s) : Keep1 sB (brushQuantBlock s f st t sc ts sr j vs acc) := by
  induction vs generalizing s f st t sc ts sr j acc with
  | nil  =>
    first | rw [brushQuantBlock] | unfold brushQuantBlock
    repeat' first
      | with_reducible assumption
      | with_reducible apply quantLane_keep
      | with_reducible apply quantLane_keep_st
      | (extract_lets +onlyGivenNames x
         first
           | (refine (fun (hx : Keep sB x) => ?_) ?_; clear_value x; rotate_left; subst x)
           | (refine (fun (hx : Keep1 sB x) => ?_) ?_; clear_value x; have hx2 := Keep1.proj hx; rotate_left; subst x)
           | (have := fun a => x a; clear this; subst x)
           | clear_value x
           | subst x)
      | split
      | (with_reducible apply Keep1.elim; with_reducible assumption)
      | (with_reducible apply Keep1.elimM; with_reducible assumption)
      | with_reducible apply Keep1.mk
      | (with_reducible apply Keep.ofMk; with_reducible apply Keep.fold)
  | cons y r ih =>
    first | rw [brushQuantBlock] | unfold brushQuantBlock
    repeat' first
      | with_reducible assumption
      | with_reducible apply ih
      | with_reducible apply quantLane_keep
      | with_reducible apply quantLane_keep_st
      | (extract_lets +onlyGivenNames x
         first
           | (refine (fun (hx : Keep sB x) => ?_) ?_; clear_value x; rotate_left; subst x)
           | (refine (fun (hx : Keep1 sB x) => ?_) ?_; clear_value x; have hx2 := Keep1.proj hx; rotate_left; subst x)
           | (have := fun a => x a; clear this; subst x)
           | clear_value x
           | subst x)
      | split
      | (with_reducible apply Keep1.elim; with_reducible assumption)
      | (with_reducible apply Keep1.elimM; with_reducible assumption)
      | with_reducible apply Keep1.mk
      | (with_reducible apply Keep.ofMk; with_reducible apply Keep.fold)


theorem brushQuantBlock_keep_st {sB : State} {s : State} {f : Nat} {st : Nat} {t : Nat} {sc : Nat} {ts : W32} {sr : Bool} {j : Nat} {vs : List Val} {acc : List Nat}
    (hs : Keep sB s) : Keep sB (brushQuantBlock s f st t sc ts sr j vs acc).1 :=
  brushQuantBlock_keep hs
theorem brushQuant_keep {sB : State} {s : State} {f : Nat} {st : Nat} {t : Nat} {ts : W32} {sr : Bool} {j : Nat} {bl : List (List Val)} {cs : List Nat} {scs : List Nat}
    (hs : Keep sB s) : Keep1 sB (brushQuant s f st t ts sr j bl cs scs) := by
  induction bl generalizing s f st t ts sr j cs scs with
  | nil  =>
    first | rw [brushQuant] | unfold brushQuant
    repeat' first
      | with_reducible assumption
      | with_reducible apply brushQuantBlock_keep
      | with_reducible apply brushQuantBlock_keep_st
      | (extract_lets +onlyGivenNames x
         first
           | (refine (fun (hx : Keep sB x) => ?_) ?_; clear_value x; rotate_left; subst x)
           | (refine (fun (hx : Keep1 sB x) => ?_) ?_; clear_value x; have hx2 := Keep1.proj hx; rotate_left; subst x)
           | (have := fun a => x a; clear this; subst x)
           | clear_value x
           | subst x)
      | split
      | (with_reducible apply Keep1.elim; with_reducible assumption)
      | (with_reducible apply Keep1.elimM; with_reducible assumption)
      | with_reducible apply Keep1.mk
      | (with_reducible apply Keep.ofMk; with_reducible apply Keep.fold)
  | cons y r ih =>
    first | rw [brushQuant] | unfold brushQuant
    repeat' first
      | with_reducible assumption
      | with_reducible apply ih
      | with_reducible apply brushQuantBlock_keep
      | with_reducible apply brushQuantBlock_keep_st
      | (extract_lets +onlyGivenNames x
         first
           | (refine (fun (hx : Keep sB x) => ?_) ?_; clear_value x; rotate_left; subst x)
           | (refine (fun (hx : Keep1 sB x) => ?_) ?_; clear_value x; have hx2 := Keep1.proj hx; rotate_left; subst x)
           | (have := fun a => x a; clear this; subst x)
           | clear_value x
           | subst x)
      | split
      | (with_reducible apply Keep1.elim; with_reducible assumption)
      | (with_reducible apply Keep1.elimM; with_reducible assumption)
      | with_reducible apply Keep1.mk
      | (with_reducible apply Keep.ofMk; with_reducible apply Keep.fold)


theorem brushQuant_keep_st {sB : State} {s : State} {f : Nat} {st : Nat} {t : Nat} {ts : W32} {sr : Bool} {j : Nat} {bl : List (List Val)} {cs : List Nat} {scs : List Nat}
    (hs : Keep sB s) : Keep sB (brushQuant s f st t ts sr j bl cs scs).1 :=
  brushQuant_keep hs
theorem storePacked_keep {sB : State} {s : State} {f : Nat} {o : Nat} {t : Nat} {cs : List Nat}
    (hs : Keep sB s) : Keep sB (storePacked s f o t cs) := by
  unfold storePacked
  repeat' first
    | with_reducible assumption
    | intro _
    | with_reducible apply State.setFm_keep
    | (extract_lets +onlyGivenNames x
       first
         | (refine (fun (hx : Keep sB x) => ?_) ?_; clear_value x; rotate_left; subst x)
         | (have := fun a => x a; clear this; subst x)
         | clear_value x
         | subst x)
    | split

theorem brushOut_keep {sB : State} {s : State} {f : Nat} {w : Nat} {a : BrushArg} {o : Option Nat} {vs : List Val}
    (hs : Keep sB s) : Keep sB (brushOut s f w a o vs) := by
  unfold brushOut
  repeat' first
    | with_reducible assumption
    | intro _
    | with_reducible apply State.setFm_keep
    | with_reducible apply toQueue_keep
    | with_reducible apply brushCvt_keep
    | with_reducible apply brushCvt_keep_st
    | with_reducible apply brushQuant_keep
    | with_reducible apply brushQuant_keep_st
    | with_reducible apply storePacked_keep
    | (extract_lets +onlyGivenNames x
       first
         | (refine (fun (hx : Keep sB x) => ?_) ?_; clear_value x; rotate_left; subst x)
         | (refine (fun (hx : Keep1 sB x) => ?_) ?_; clear_value x; have hx2 := Keep1.proj hx; rotate_left; subst x)
         | (have := fun a => x a; clear this; subst x)
         | clear_value x
         | subst x)
    | with_reducible apply Keep.ite
    | with_reducible apply Keep1.ite
    | split
    | (with_reducible apply Keep1.elim; with_reducible assumption)
    | (with_reducible apply Keep1.elimM; with_reducible assumption)
    | with_reducible apply Keep1.mk
    | (with_reducible apply Keep.ofMk; with_reducible apply Keep.fold)

theorem putWords_keep {sB : State} {s : State} {f : Nat} {o : Nat} {ws : List W32}
    (hs : Keep sB s) : Keep sB (putWords s f o ws) := by
  unfold putWords
  repeat' first
    | with_reducible assumption
    | intro _
    | with_reducible apply State.setFm_keep
    | with_reducible apply Keep.ite
    | split

theorem brushIn1_keep {sB : State} {s : State} {f : Nat} {w : Nat} {a : BrushArg} {i : Nat}
    (hs : Keep sB s) : KeepEE sB (brushIn1 s f w a i) := by
  unfold brushIn1
  repeat' first
    | with_reducible assumption
    | intro _
    | with_reducible apply releaseItems_keep
    | with_reducible apply dropStream_keep
    | with_reducible apply KeepEng.done
    | with_reducible apply KeepEng.wait
    | with_reducible apply KeepEng.bad
    | with_reducible apply KeepEE.ok
    | with_reducible apply KeepEE.error
    | (extract_lets +onlyGivenNames x
       first
         | (refine (fun (hx : Keep sB x) => ?_) ?_; clear_value x; rotate_left; subst x)
         | (refine (fun (hx : KeepEE sB x) => ?_) ?_; clear_value x; rotate_left; subst x)
         | (have := fun a => x a; clear this; subst x)
         | clear_value x
         | subst x)
    | with_reducible apply Keep.ite
    | with_reducible apply Keep1.ite
    | with_reducible apply KeepEE.ite
    | split
    | (with_reducible apply Keep1.elim; with_reducible assumption)
    | (with_reducible apply Keep1.elimM; with_reducible assumption)
    | (with_reducible apply KeepEE.ok_pair; with_reducible assumption)
    | (with_reducible apply KeepEE.of_ok; with_reducible assumption)
    | (with_reducible apply KeepEE.un_ok; with_reducible assumption)
    | (with_reducible apply KeepEE.of_error; with_reducible assumption)
    | (with_reducible apply KeepEE.un_error; with_reducible assumption)
    | with_reducible apply Keep1.mk
    | (with_reducible apply Keep.ofMk; with_reducible apply Keep.fold)

theorem brushInputs_keep {sB : State} {s : State} {f : Nat} {w : Nat} {a : BrushArg} {l : List Nat}
    (hs : Keep sB s) : KeepEE sB (brushInputs s f w a l) := by
  induction l generalizing s f w a with
  | nil  =>
    first | rw [brushInputs] | unfold brushInputs
    repeat' first
      | with_reducible assumption
      | with_reducible apply brushIn1_keep
      | with_reducible apply KeepEng.done
      | with_reducible apply KeepEng.wait
      | with_reducible apply KeepEng.bad
      | with_reducible apply KeepEE.ok
      | with_reducible apply KeepEE.error
      | (extract_lets +onlyGivenNames x
         first
           | (refine (fun (hx : Keep sB x) => ?_) ?_; clear_value x; rotate_left; subst x)
           | (refine (fun (hx : KeepEE sB x) => ?_) ?_; clear_value x; rotate_left; subst x)
           | (have := fun a => x a; clear this; subst x)
           | clear_value x
           | subst x)
      | split
      | (with_reducible apply Keep1.elim; with_reducible assumption)
      | (with_reducible apply Keep1.elimM; with_reducible assumption)
      | (with_reducible apply KeepEE.ok_pair; with_reducible assumption)
      | (with_reducible apply KeepEE.of_ok; with_reducible assumption)
      | (with_reducible apply KeepEE.un_ok; with_reducible assumption)
      | (with_reducible apply KeepEE.of_error; with_reducible assumption)
      | (with_reducible apply KeepEE.un_error; with_reducible assumption)
      | with_reducible apply Keep1.mk
      | (with_reducible apply Keep.ofMk; with_reducible apply Keep.fold)
  | cons y r ih =>
    first | rw [brushInputs] | unfold brushInputs
    repeat' first
      | with_reducible assumption
      | with_reducible apply ih
      | with_reducible apply brushIn1_keep
      | with_reducible apply KeepEng.done
      | with_reducible apply KeepEng.wait
      | with_reducible apply KeepEng.bad
      | with_reducible apply KeepEE.ok
      | with_reducible apply KeepEE.error
      | (extract_lets +onlyGivenNames x
         first
           | (refine (fun (hx : Keep sB x) => ?_) ?_; clear_value x; rotate_left; subst x)
           | (refine (fun (hx : KeepEE sB x) => ?_) ?_; clear_value x; rotate_left; subst x)
           | (have := fun a => x a; clear this; subst x)
           | clear_value x
           | subst x)
      | split
      | (with_reducible apply Keep1.elim; with_reducible assumption)
      | (with_reducible apply Keep1.elimM; with_reducible assumption)
      | (with_reducible apply KeepEE.ok_pair; with_reducible assumption)
      | (with_reducible apply KeepEE.of_ok; with_reducible assumption)
      | (with_reducible apply KeepEE.un_ok; with_reducible assumption)
      | (with_reducible apply KeepEE.of_error; with_reducible assumption)
      | (with_reducible apply KeepEE.un_error; with_reducible assumption)
      | with_reducible apply Keep1.mk
      | (with_reducible apply Keep.ofMk; with_reducible apply Keep.fold)

theorem brushBody_keep {sB : State} {f : Nat} {k : State → Nat → BrushArg → List (Val × Val × Val × Val) → State} {s : State} {w : Nat}
    (hs : Keep sB s) (hk : ∀ t0 t1 t2 t3, Keep sB t0 → Keep sB (k t0 t1 t2 t3)) : KeepEng sB (brushBody f k s w) := by
  unfold brushBody
  repeat' first
    | with_reducible assumption
    | with_reducible apply hk
    | with_reducible apply brushInputs_keep
    | with_reducible apply KeepEng.done
    | with_reducible apply KeepEng.wait
    | with_reducible apply KeepEng.bad
    | with_reducible apply KeepEE.ok
    | with_reducible apply KeepEE.error
    | (extract_lets +onlyGivenNames x
       first
         | (refine (fun (hx : Keep sB x) => ?_) ?_; clear_value x; rotate_left; subst x)
         | (refine (fun (hx : KeepEng sB x) => ?_) ?_; clear_value x; rotate_left; subst x)
         | (refine (fun (hx : KeepEE sB x) => ?_) ?_; clear_value x; rotate_left; subst x)
         | (have := fun a => x a; clear this; subst x)
         | clear_value x
         | subst x)
    | with_reducible apply Keep.ite
    | with_reducible apply Keep1.ite
    | with_reducible apply KeepEng.ite
    | with_reducible apply KeepEE.ite
    | split
    | (with_reducible apply Keep1.elim; with_reducible assumption)
    | (with_reducible apply Keep1.elimM; with_reducible assumption)
    | (with_reducible apply KeepEE.ok_pair; with_reducible assumption)
    | (with_reducible apply KeepEng.of_done; with_reducible assumption)
    | (with_reducible apply KeepEng.un_done; with_reducible assumption)
    | (with_reducible apply KeepEE.of_ok; with_reducible assumption)
    | (with_reducible apply KeepEE.un_ok; with_reducible assumption)
    | (with_reducible apply KeepEE.of_error; with_reducible assumption)
    | (with_reducible apply KeepEE.un_error; with_reducible assumption)
    | with_reducible apply Keep1.mk
    | (with_reducible apply Keep.ofMk; with_reducible apply Keep.fold)

theorem execBop_keep {sB : State} {f : Fin 64} {ecc : Ecc} {s : State}
    (hs : Keep sB s) : KeepN sB (execBop f ecc s) := by
  unfold execBop
  repeat' first
    | with_reducible assumption
    | intro _
    | with_reducible apply engRow_keep
    | with_reducible apply brushOut_keep
    | with_reducible apply brushBody_keep
    | with_reducible apply KeepN.next
    | with_reducible apply KeepN.fault
    | with_reducible apply KeepN.refused
    | with_reducible apply KeepEng.done
    | with_reducible apply KeepEng.wait
    | with_reducible apply KeepEng.bad
    | split
    | (with_reducible apply KeepN.of_next; with_reducible assumption)
    | (with_reducible apply KeepN.un_next; with_reducible assumption)
    | (with_reducible apply KeepEng.of_done; with_reducible assumption)
    | (with_reducible apply KeepEng.un_done; with_reducible assumption)

theorem execBact_keep {sB : State} {f : Fin 64} {ecc : Ecc} {s : State}
    (hs : Keep sB s) : KeepN sB (execBact f ecc s) := by
  unfold execBact
  repeat' first
    | with_reducible assumption
    | intro _
    | with_reducible apply engRow_keep
    | with_reducible apply brushOut_keep
    | with_reducible apply brushBody_keep
    | with_reducible apply KeepN.next
    | with_reducible apply KeepN.fault
    | with_reducible apply KeepN.refused
    | with_reducible apply KeepEng.done
    | with_reducible apply KeepEng.wait
    | with_reducible apply KeepEng.bad
    | split
    | (with_reducible apply KeepN.of_next; with_reducible assumption)
    | (with_reducible apply KeepN.un_next; with_reducible assumption)
    | (with_reducible apply KeepEng.of_done; with_reducible assumption)
    | (with_reducible apply KeepEng.un_done; with_reducible assumption)

theorem execDact_keep {sB : State} {f : Fin 64} {ecc : Ecc} {s : State}
    (hs : Keep sB s) : KeepN sB (execDact f ecc s) := by
  unfold execDact
  repeat' first
    | with_reducible assumption
    | intro _
    | with_reducible apply engRow_keep
    | with_reducible apply brushOut_keep
    | with_reducible apply putWords_keep
    | with_reducible apply brushBody_keep
    | with_reducible apply KeepN.next
    | with_reducible apply KeepN.fault
    | with_reducible apply KeepN.refused
    | with_reducible apply KeepEng.done
    | with_reducible apply KeepEng.wait
    | with_reducible apply KeepEng.bad
    | (extract_lets +onlyGivenNames x
       first
         | (refine (fun (hx : Keep sB x) => ?_) ?_; clear_value x; rotate_left; subst x)
         | (refine (fun (hx : KeepN sB x) => ?_) ?_; clear_value x; rotate_left; subst x)
         | (refine (fun (hx : KeepEng sB x) => ?_) ?_; clear_value x; rotate_left; subst x)
         | (have := fun a => x a; clear this; subst x)
         | clear_value x
         | subst x)
    | with_reducible apply Keep.ite
    | with_reducible apply KeepN.ite
    | with_reducible apply KeepEng.ite
    | split
    | (with_reducible apply KeepN.of_next; with_reducible assumption)
    | (with_reducible apply KeepN.un_next; with_reducible assumption)
    | (with_reducible apply KeepEng.of_done; with_reducible assumption)
    | (with_reducible apply KeepEng.un_done; with_reducible assumption)

theorem execBcvt_keep {sB : State} {f : Fin 64} {ecc : Ecc} {s : State}
    (hs : Keep sB s) : KeepN sB (execBcvt f ecc s) := by
  unfold execBcvt
  repeat' first
    | with_reducible assumption
    | intro _
    | with_reducible apply engRow_keep
    | with_reducible apply brushOut_keep
    | with_reducible apply brushBody_keep
    | with_reducible apply KeepN.next
    | with_reducible apply KeepN.fault
    | with_reducible apply KeepN.refused
    | with_reducible apply KeepEng.done
    | with_reducible apply KeepEng.wait
    | with_reducible apply KeepEng.bad
    | split
    | (with_reducible apply KeepN.of_next; with_reducible assumption)
    | (with_reducible apply KeepN.un_next; with_reducible assumption)
    | (with_reducible apply KeepEng.of_done; with_reducible assumption)
    | (with_reducible apply KeepEng.un_done; with_reducible assumption)

theorem execBred_keep {sB : State} {f : Fin 64} {ecc : Ecc} {s : State}
    (hs : Keep sB s) : KeepN sB (execBred f ecc s) := by
  unfold execBred
  repeat' first
    | with_reducible assumption
    | intro _
    | with_reducible apply toQueue_keep
    | with_reducible apply engRow_keep
    | with_reducible apply putWords_keep
    | with_reducible apply brushBody_keep
    | with_reducible apply KeepN.next
    | with_reducible apply KeepN.fault
    | with_reducible apply KeepN.refused
    | with_reducible apply KeepEng.done
    | with_reducible apply KeepEng.wait
    | with_reducible apply KeepEng.bad
    | (extract_lets +onlyGivenNames x
       first
         | (refine (fun (hx : Keep sB x) => ?_) ?_; clear_value x; rotate_left; subst x)
         | (refine (fun (hx : KeepN sB x) => ?_) ?_; clear_value x; rotate_left; subst x)
         | (refine (fun (hx : KeepEng sB x) => ?_) ?_; clear_value x; rotate_left; subst x)
         | (have := fun a => x a; clear this; subst x)
         | clear_value x
         | subst x)
    | with_reducible apply Keep.ite
    | with_reducible apply KeepN.ite
    | with_reducible apply KeepEng.ite
    | split
    | (with_reducible apply KeepN.of_next; with_reducible assumption)
    | (with_reducible apply KeepN.un_next; with_reducible assumption)
    | (with_reducible apply KeepEng.of_done; with_reducible assumption)
    | (with_reducible apply KeepEng.un_done; with_reducible assumption)

theorem execBopt_keep {sB : State} {f : Fin 64} {ecc : Ecc} {s : State}
    (hs : Keep sB s) : KeepN sB (execBopt f ecc s) := by
  unfold execBopt
  repeat' first
    | with_reducible assumption
    | intro _
    | with_reducible apply toQueue_keep
    | with_reducible apply engRow_keep
    | with_reducible apply brushOut_keep
    | with_reducible apply putWords_keep
    | with_reducible apply brushBody_keep
    | with_reducible apply KeepN.next
    | with_reducible apply KeepN.fault
    | with_reducible apply KeepN.refused
    | with_reducible apply KeepEng.done
    | with_reducible apply KeepEng.wait
    | with_reducible apply KeepEng.bad
    | (extract_lets +onlyGivenNames x
       first
         | (refine (fun (hx : Keep sB x) => ?_) ?_; clear_value x; rotate_left; subst x)
         | (refine (fun (hx : KeepN sB x) => ?_) ?_; clear_value x; rotate_left; subst x)
         | (refine (fun (hx : KeepEng sB x) => ?_) ?_; clear_value x; rotate_left; subst x)
         | (have := fun a => x a; clear this; subst x)
         | clear_value x
         | subst x)
    | with_reducible apply Keep.ite
    | with_reducible apply KeepN.ite
    | with_reducible apply KeepEng.ite
    | split
    | (with_reducible apply KeepN.of_next; with_reducible assumption)
    | (with_reducible apply KeepN.un_next; with_reducible assumption)
    | (with_reducible apply KeepEng.of_done; with_reducible assumption)
    | (with_reducible apply KeepEng.un_done; with_reducible assumption)

theorem engComplete_keep {sB : State} {s : State} {f : Nat} {q : Nat}
    (hs : Keep sB s) : KeepN sB (engComplete s f q) := by
  unfold engComplete
  repeat' first
    | with_reducible assumption
    | intro _
    | with_reducible apply onClock_keep
    | with_reducible apply State.setQueue_keep
    | with_reducible apply completeWord_keep
    | with_reducible apply finish_keep
    | with_reducible apply ShRes.next_keep
    | with_reducible apply KeepN.next
    | with_reducible apply KeepN.fault
    | with_reducible apply KeepN.refused
    | with_reducible apply KeepSh.ok
    | with_reducible apply KeepSh.bad
    | with_reducible apply KeepSh.wait
    | (extract_lets +onlyGivenNames x
       first
         | (refine (fun (hx : Keep sB x) => ?_) ?_; clear_value x; rotate_left; subst x)
         | (refine (fun (hx : KeepN sB x) => ?_) ?_; clear_value x; rotate_left; subst x)
         | (refine (fun (hx : KeepSh sB x) => ?_) ?_; clear_value x; rotate_left; subst x)
         | (have := fun a => x a; clear this; subst x)
         | clear_value x
         | subst x)
    | with_reducible apply Keep.ite
    | with_reducible apply KeepN.ite
    | with_reducible apply KeepSh.ite
    | split
    | (with_reducible apply KeepN.of_next; with_reducible assumption)
    | (with_reducible apply KeepN.un_next; with_reducible assumption)
    | (with_reducible apply KeepSh.of_ok; with_reducible assumption)
    | (with_reducible apply KeepSh.un_ok; with_reducible assumption)
    | (with_reducible apply KeepSh.of_bad; with_reducible assumption)
    | (with_reducible apply KeepSh.un_bad; with_reducible assumption)
    | (with_reducible apply KeepSh.of_wait; with_reducible assumption)
    | (with_reducible apply KeepSh.un_wait; with_reducible assumption)
    | (with_reducible apply Keep.ofMk; with_reducible apply Keep.fold)

theorem execBrushCmdComplete_keep {sB : State} {f : Fin 64} {s : State}
    (hs : Keep sB s) : KeepN sB (execBrushCmdComplete f s) := by
  unfold execBrushCmdComplete
  repeat' first
    | with_reducible assumption
    | with_reducible apply engComplete_keep
    | with_reducible apply KeepN.next
    | with_reducible apply KeepN.fault
    | with_reducible apply KeepN.refused
    | (with_reducible apply KeepN.of_next; with_reducible assumption)
    | (with_reducible apply KeepN.un_next; with_reducible assumption)

theorem outRow_keep {sB : State} {s : State} {f : Nat} {t : Nat} {l : List (Option W32)} {acc : List Nat}
    (hs : Keep sB s) : Keep1 sB (outRow s f t l acc) := by
  induction l generalizing s f t acc with
  | nil  =>
    first | rw [outRow] | unfold outRow
    repeat' first
      | with_reducible assumption
      | with_reducible apply noteCvt_keep
      | (extract_lets +onlyGivenNames x
         first
           | (refine (fun (hx : Keep sB x) => ?_) ?_; clear_value x; rotate_left; subst x)
           | (refine (fun (hx : Keep1 sB x) => ?_) ?_; clear_value x; have hx2 := Keep1.proj hx; rotate_left; subst x)
           | (have := fun a => x a; clear this; subst x)
           | clear_value x
           | subst x)
      | split
      | (with_reducible apply Keep1.elim; with_reducible assumption)
      | (with_reducible apply Keep1.elimM; with_reducible assumption)
      | with_reducible apply Keep1.mk
      | (with_reducible apply Keep.ofMk; with_reducible apply Keep.fold)
  | cons y r ih =>
    first | rw [outRow] | unfold outRow
    repeat' first
      | with_reducible assumption
      | with_reducible apply ih
      | with_reducible apply noteCvt_keep
      | (extract_lets +onlyGivenNames x
         first
           | (refine (fun (hx : Keep sB x) => ?_) ?_; clear_value x; rotate_left; subst x)
           | (refine (fun (hx : Keep1 sB x) => ?_) ?_; clear_value x; have hx2 := Keep1.proj hx; rotate_left; subst x)
           | (have := fun a => x a; clear this; subst x)
           | clear_value x
           | subst x)
      | split
      | (with_reducible apply Keep1.elim; with_reducible assumption)
      | (with_reducible apply Keep1.elimM; with_reducible assumption)
      | with_reducible apply Keep1.mk
      | (with_reducible apply Keep.ofMk; with_reducible apply Keep.fold)


theorem outRow_keep_st {sB : State} {s : State} {f : Nat} {t : Nat} {l : List (Option W32)} {acc : List Nat}
    (hs : Keep sB s) : Keep sB (outRow s f t l acc).1 :=
  outRow_keep hs
theorem putRow_keep {sB : State} {s : State} {f : Nat} {w : Nat} {a : EaselArg} {r : Nat} {l : List (Option W32)}
    (hs : Keep sB s) : Keep sB (putRow s f w a r l) := by
  unfold putRow
  repeat' first
    | with_reducible assumption
    | with_reducible apply State.setFm_keep
    | with_reducible apply toQueue_keep
    | with_reducible apply outRow_keep
    | with_reducible apply outRow_keep_st
    | (extract_lets +onlyGivenNames x
       first
         | (refine (fun (hx : Keep sB x) => ?_) ?_; clear_value x; rotate_left; subst x)
         | (refine (fun (hx : Keep1 sB x) => ?_) ?_; clear_value x; have hx2 := Keep1.proj hx; rotate_left; subst x)
         | (have := fun a => x a; clear this; subst x)
         | clear_value x
         | subst x)
    | with_reducible apply Keep.ite
    | with_reducible apply Keep1.ite
    | split
    | (with_reducible apply Keep1.elim; with_reducible assumption)
    | (with_reducible apply Keep1.elimM; with_reducible assumption)
    | with_reducible apply Keep1.mk

theorem statSet_keep {sB : State} {s : State} {f : Nat} {h : Nat} {w0 : W32} {w1 : W32}
    (hs : Keep sB s) : Keep sB (statSet s f h w0 w1) := by
  unfold statSet
  repeat' first
    | with_reducible assumption
    | (extract_lets +onlyGivenNames x
       first
         | (refine (fun (hx : Keep sB x) => ?_) ?_; clear_value x; rotate_left; subst x)
         | (have := fun a => x a; clear this; subst x)
         | clear_value x
         | subst x)
    | (with_reducible apply Keep.ofMk; with_reducible apply Keep.fold)

theorem addPairs_keep {sB : State} {s : State} {f : Nat} {o : Nat} {l : List (Option W32)}
    (hs : Keep sB s) : Keep sB (addPairs s f o l) := by
  unfold addPairs
  repeat' first
    | with_reducible assumption
    | intro _
    | with_reducible apply State.setFm_keep
    | with_reducible apply Keep.foldl
    | (extract_lets +onlyGivenNames x
       first
         | (refine (fun (hx : Keep sB x) => ?_) ?_; clear_value x; rotate_left; subst x)
         | (have := fun a => x a; clear this; subst x)
         | clear_value x
         | subst x)
    | split
    | (with_reducible apply Keep.ofMk; with_reducible apply Keep.fold)

theorem drainRows_keep {sB : State} {s : State} {f : Nat} {w : Nat}
    (hs : Keep sB s) : KeepEE sB (drainRows s f w) := by
  unfold drainRows
  repeat' first
    | with_reducible assumption
    | intro _
    | with_reducible apply KeepEng.done
    | with_reducible apply KeepEng.wait
    | with_reducible apply KeepEng.bad
    | with_reducible apply KeepEE.ok
    | with_reducible apply KeepEE.error
    | (extract_lets +onlyGivenNames x
       first
         | (refine (fun (hx : Keep sB x) => ?_) ?_; clear_value x; rotate_left; subst x)
         | (refine (fun (hx : KeepEE sB x) => ?_) ?_; clear_value x; rotate_left; subst x)
         | (have := fun a => x a; clear this; subst x)
         | clear_value x
         | subst x)
    | with_reducible apply Keep.ite
    | with_reducible apply Keep1.ite
    | with_reducible apply KeepEE.ite
    | split
    | (with_reducible apply Keep1.elim; with_reducible assumption)
    | (with_reducible apply Keep1.elimM; with_reducible assumption)
    | (with_reducible apply KeepEE.ok_pair; with_reducible assumption)
    | (with_reducible apply KeepEE.of_ok; with_reducible assumption)
    | (with_reducible apply KeepEE.un_ok; with_reducible assumption)
    | (with_reducible apply KeepEE.of_error; with_reducible assumption)
    | (with_reducible apply KeepEE.un_error; with_reducible assumption)
    | with_reducible apply Keep1.mk
    | (with_reducible apply Keep.ofMk; with_reducible apply Keep.fold)

theorem copyRow_keep {sB : State} {s : State} {f : Nat} {w : Nat} {a : EaselArg} {r : Nat} {l : List EElem}
    (hs : Keep sB s) : Keep sB (copyRow s f w a r l) := by
  unfold copyRow
  repeat' first
    | with_reducible assumption
    | intro _
    | with_reducible apply State.setFm_keep
    | with_reducible apply outRow_keep
    | with_reducible apply outRow_keep_st
    | (extract_lets +onlyGivenNames x
       first
         | (refine (fun (hx : Keep sB x) => ?_) ?_; clear_value x; rotate_left; subst x)
         | (refine (fun (hx : Keep1 sB x) => ?_) ?_; clear_value x; have hx2 := Keep1.proj hx; rotate_left; subst x)
         | (have := fun a => x a; clear this; subst x)
         | clear_value x
         | subst x)
    | split
    | (with_reducible apply Keep1.elim; with_reducible assumption)
    | (with_reducible apply Keep1.elimM; with_reducible assumption)
    | with_reducible apply Keep1.mk

theorem fwdOne_keep {sB : State} {f : Nat} {w : Nat} {a : EaselArg} {rows : List (List EElem)} {s : State} {r : Nat}
    (hs : Keep sB s) : Keep sB (fwdOne f w a rows s r) := by
  unfold fwdOne
  repeat' first
    | with_reducible assumption
    | with_reducible apply State.bump_keep
    | with_reducible apply putRow_keep
    | with_reducible apply statSet_keep
    | with_reducible apply copyRow_keep
    | (extract_lets +onlyGivenNames x
       first
         | (refine (fun (hx : Keep sB x) => ?_) ?_; clear_value x; rotate_left; subst x)
         | (have := fun a => x a; clear this; subst x)
         | clear_value x
         | subst x)
    | with_reducible apply Keep.ite
    | split

theorem easelBody_keep {sB : State} {f : Nat} {row : Nat → Nat → EaselArg → List (List EElem) → State → Nat → State} {s : State} {w : Nat}
    (hs : Keep sB s) (hrow : ∀ t0 t1 t2 t3 t4 t5, Keep sB t4 → Keep sB (row t0 t1 t2 t3 t4 t5)) : KeepEng sB (easelBody f row s w) := by
  unfold easelBody
  repeat' first
    | with_reducible assumption
    | intro _
    | with_reducible apply hrow
    | with_reducible apply drainRows_keep
    | with_reducible apply Keep.foldl
    | with_reducible apply Keep1.foldl
    | with_reducible apply Keep1.foldl_st
    | with_reducible apply KeepEng.done
    | with_reducible apply KeepEng.wait
    | with_reducible apply KeepEng.bad
    | with_reducible apply KeepEE.ok
    | with_reducible apply KeepEE.error
    | (extract_lets +onlyGivenNames x
       first
         | (refine (fun (hx : Keep sB x) => ?_) ?_; clear_value x; rotate_left; subst x)
         | (refine (fun (hx : KeepEng sB x) => ?_) ?_; clear_value x; rotate_left; subst x)
         | (refine (fun (hx : KeepEE sB x) => ?_) ?_; clear_value x; rotate_left; subst x)
         | (have := fun a => x a; clear this; subst x)
         | clear_value x
         | subst x)
    | with_reducible apply Keep.ite
    | with_reducible apply Keep1.ite
    | with_reducible apply KeepEng.ite
    | with_reducible apply KeepEE.ite
    | split
    | (with_reducible apply Keep1.elim; with_reducible assumption)
    | (with_reducible apply Keep1.elimM; with_reducible assumption)
    | (with_reducible apply KeepEE.ok_pair; with_reducible assumption)
    | (with_reducible apply KeepEng.of_done; with_reducible assumption)
    | (with_reducible apply KeepEng.un_done; with_reducible assumption)
    | (with_reducible apply KeepEE.of_ok; with_reducible assumption)
    | (with_reducible apply KeepEE.un_ok; with_reducible assumption)
    | (with_reducible apply KeepEE.of_error; with_reducible assumption)
    | (with_reducible apply KeepEE.un_error; with_reducible assumption)
    | with_reducible apply Keep1.mk
    | (with_reducible apply Keep.ofMk; with_reducible apply Keep.fold)

theorem execEfwd_keep {sB : State} {f : Fin 64} {ecc : Ecc} {s : State}
    (hs : Keep sB s) : KeepN sB (execEfwd f ecc s) := by
  unfold execEfwd
  repeat' first
    | with_reducible assumption
    | intro _
    | with_reducible apply engRow_keep
    | with_reducible apply fwdOne_keep
    | with_reducible apply easelBody_keep
    | with_reducible apply KeepN.next
    | with_reducible apply KeepN.fault
    | with_reducible apply KeepN.refused
    | with_reducible apply KeepEng.done
    | with_reducible apply KeepEng.wait
    | with_reducible apply KeepEng.bad
    | (with_reducible apply KeepN.of_next; with_reducible assumption)
    | (with_reducible apply KeepN.un_next; with_reducible assumption)
    | (with_reducible apply KeepEng.of_done; with_reducible assumption)
    | (with_reducible apply KeepEng.un_done; with_reducible assumption)

theorem bwdOne_keep {sB : State} {f : Nat} {w : Nat} {a : EaselArg} {rows : List (List EElem)} {s : State} {r : Nat}
    (hs : Keep sB s) : Keep sB (bwdOne f w a rows s r) := by
  unfold bwdOne
  repeat' first
    | with_reducible assumption
    | intro _
    | with_reducible apply State.bump_keep
    | with_reducible apply putRow_keep
    | with_reducible apply addPairs_keep
    | (extract_lets +onlyGivenNames x
       first
         | (refine (fun (hx : Keep sB x) => ?_) ?_; clear_value x; rotate_left; subst x)
         | (have := fun a => x a; clear this; subst x)
         | clear_value x
         | subst x)
    | with_reducible apply Keep.ite
    | split

theorem execEbwd_keep {sB : State} {f : Fin 64} {ecc : Ecc} {stat : Ecc} {s : State}
    (hs : Keep sB s) : KeepN sB (execEbwd f ecc stat s) := by
  unfold execEbwd
  repeat' first
    | with_reducible assumption
    | intro _
    | with_reducible apply engRow_keep
    | with_reducible apply easelBody_keep
    | with_reducible apply bwdOne_keep
    | with_reducible apply KeepN.next
    | with_reducible apply KeepN.fault
    | with_reducible apply KeepN.refused
    | with_reducible apply KeepEng.done
    | with_reducible apply KeepEng.wait
    | with_reducible apply KeepEng.bad
    | (with_reducible apply KeepN.of_next; with_reducible assumption)
    | (with_reducible apply KeepN.un_next; with_reducible assumption)
    | (with_reducible apply KeepEng.of_done; with_reducible assumption)
    | (with_reducible apply KeepEng.un_done; with_reducible assumption)

theorem estatBody_keep {sB : State} {f : Nat} {s : State} {w : Nat}
    (hs : Keep sB s) : KeepEng sB (estatBody f s w) := by
  unfold estatBody
  repeat' first
    | with_reducible assumption
    | intro _
    | with_reducible apply releaseItems_keep
    | with_reducible apply dropStream_keep
    | with_reducible apply toQueue_keep
    | with_reducible apply statSet_keep
    | with_reducible apply Keep.foldl
    | with_reducible apply KeepEng.done
    | with_reducible apply KeepEng.wait
    | with_reducible apply KeepEng.bad
    | (extract_lets +onlyGivenNames x
       first
         | (refine (fun (hx : Keep sB x) => ?_) ?_; clear_value x; rotate_left; subst x)
         | (refine (fun (hx : KeepEng sB x) => ?_) ?_; clear_value x; rotate_left; subst x)
         | (have := fun a => x a; clear this; subst x)
         | clear_value x
         | subst x)
    | with_reducible apply Keep.ite
    | with_reducible apply KeepEng.ite
    | split
    | (with_reducible apply KeepEng.of_done; with_reducible assumption)
    | (with_reducible apply KeepEng.un_done; with_reducible assumption)
    | (with_reducible apply Keep.ofMk; with_reducible apply Keep.fold)

theorem execEstat_keep {sB : State} {f : Fin 64} {ecc : Ecc} {s : State}
    (hs : Keep sB s) : KeepN sB (execEstat f ecc s) := by
  unfold execEstat
  repeat' first
    | with_reducible assumption
    | intro _
    | with_reducible apply engRow_keep
    | with_reducible apply estatBody_keep
    | with_reducible apply KeepN.next
    | with_reducible apply KeepN.fault
    | with_reducible apply KeepN.refused
    | with_reducible apply KeepEng.done
    | with_reducible apply KeepEng.wait
    | with_reducible apply KeepEng.bad
    | (with_reducible apply KeepN.of_next; with_reducible assumption)
    | (with_reducible apply KeepN.un_next; with_reducible assumption)
    | (with_reducible apply KeepEng.of_done; with_reducible assumption)
    | (with_reducible apply KeepEng.un_done; with_reducible assumption)

theorem epreadBody_keep {sB : State} {f : Nat} {s : State} {w : Nat}
    (hs : Keep sB s) : KeepEng sB (epreadBody f s w) := by
  unfold epreadBody
  repeat' first
    | with_reducible assumption
    | intro _
    | with_reducible apply State.setFm_keep
    | with_reducible apply toQueue_keep
    | with_reducible apply KeepEng.done
    | with_reducible apply KeepEng.wait
    | with_reducible apply KeepEng.bad
    | (extract_lets +onlyGivenNames x
       first
         | (refine (fun (hx : Keep sB x) => ?_) ?_; clear_value x; rotate_left; subst x)
         | (refine (fun (hx : KeepEng sB x) => ?_) ?_; clear_value x; rotate_left; subst x)
         | (have := fun a => x a; clear this; subst x)
         | clear_value x
         | subst x)
    | with_reducible apply Keep.ite
    | with_reducible apply KeepEng.ite
    | split
    | (with_reducible apply KeepEng.of_done; with_reducible assumption)
    | (with_reducible apply KeepEng.un_done; with_reducible assumption)

theorem execEpread_keep {sB : State} {f : Fin 64} {ecc : Ecc} {s : State}
    (hs : Keep sB s) : KeepN sB (execEpread f ecc s) := by
  unfold execEpread
  repeat' first
    | with_reducible assumption
    | intro _
    | with_reducible apply engRow_keep
    | with_reducible apply epreadBody_keep
    | with_reducible apply KeepN.next
    | with_reducible apply KeepN.fault
    | with_reducible apply KeepN.refused
    | with_reducible apply KeepEng.done
    | with_reducible apply KeepEng.wait
    | with_reducible apply KeepEng.bad
    | (with_reducible apply KeepN.of_next; with_reducible assumption)
    | (with_reducible apply KeepN.un_next; with_reducible assumption)
    | (with_reducible apply KeepEng.of_done; with_reducible assumption)
    | (with_reducible apply KeepEng.un_done; with_reducible assumption)

theorem execEaselCmdComplete_keep {sB : State} {f : Fin 64} {s : State}
    (hs : Keep sB s) : KeepN sB (execEaselCmdComplete f s) := by
  unfold execEaselCmdComplete
  repeat' first
    | with_reducible assumption
    | with_reducible apply engComplete_keep
    | with_reducible apply KeepN.next
    | with_reducible apply KeepN.fault
    | with_reducible apply KeepN.refused
    | (with_reducible apply KeepN.of_next; with_reducible assumption)
    | (with_reducible apply KeepN.un_next; with_reducible assumption)

end Sys2Proof.Machine
end

