-- ==== Sys2Proof/Laws/KeepHost.lean ====
section
/-! SUPPORT. The commands of the Weft, the step protocol and the host port keep the relation. -/
namespace Sys2Proof.Machine

theorem lnkCorr_keep {sB : State} {s : State} {p : Nat} {cause : Nat}
    (hs : Keep sB s) : Keep sB (lnkCorr s p cause) := by
  unfold lnkCorr
  repeat' first
    | with_reducible assumption
    | with_reducible apply State.logErr_keep

theorem flexGo_keep {sB : State} {s : State} {p : Nat} {st : List Byte} {fuel : Nat}
    (hs : Keep sB s) : Keep1 sB (flexGo s p st fuel) := by
  induction fuel generalizing s p st with
  | zero  =>
    first | rw [flexGo] | unfold flexGo
    repeat' first
      | with_reducible assumption
      | with_reducible apply flexUnit_keep
      | (extract_lets +onlyGivenNames x
         first
           | (refine (fun (hx : Keep sB x) => ?_) ?_; clear_value x; rotate_left; subst x)
           | (refine (fun (hx : Keep1 sB x) => ?_) ?_; clear_value x; have hx2 := Keep1.proj hx; rotate_left; subst x)
           | (have := fun a => x a; clear this; subst x)
           | clear_value x
           | subst x)
      | with_reducible apply Keep.ite
      | with_reducible apply Keep1.ite
      | split
      | (with_reducible apply Keep1.elim; with_reducible assumption)
      | (with_reducible apply Keep1.elimM; with_reducible assumption)
      | with_reducible apply Keep1.mk
      | (with_reducible apply Keep.ofMk; with_reducible apply Keep.fold)
  | succ n ih =>
    first | rw [flexGo] | unfold flexGo
    repeat' first
      | with_reducible assumption
      | with_reducible apply ih
      | with_reducible apply flexUnit_keep
      | (extract_lets +onlyGivenNames x
         first
           | (refine (fun (hx : Keep sB x) => ?_) ?_; clear_value x; rotate_left; subst x)
           | (refine (fun (hx : Keep1 sB x) => ?_) ?_; clear_value x; have hx2 := Keep1.proj hx; rotate_left; subst x)
           | (have := fun a => x a; clear this; subst x)
           | clear_value x
           | subst x)
      | with_reducible apply Keep.ite
      | with_reducible apply Keep1.ite
      | split
      | (with_reducible apply Keep1.elim; with_reducible assumption)
      | (with_reducible apply Keep1.elimM; with_reducible assumption)
      | with_reducible apply Keep1.mk
      | (with_reducible apply Keep.ofMk; with_reducible apply Keep.fold)


theorem flexGo_keep_st {sB : State} {s : State} {p : Nat} {st : List Byte} {fuel : Nat}
    (hs : Keep sB s) : Keep sB (flexGo s p st fuel).1 :=
  flexGo_keep hs
theorem scanRx_keep {sB : State} {s : State} {p : Nat} {vc : Nat} {st : List Byte}
    (hs : Keep sB s) : Keep1 sB (scanRx s p vc st) := by
  unfold scanRx
  repeat' first
    | with_reducible assumption
    | with_reducible apply purgeGo_keep
    | with_reducible apply purgeGo_keep_st
    | with_reducible apply flexGo_keep
    | with_reducible apply flexGo_keep_st
    | with_reducible apply Keep.ite
    | with_reducible apply Keep1.ite
    | split
    | (with_reducible apply Keep1.elim; with_reducible assumption)
    | (with_reducible apply Keep1.elimM; with_reducible assumption)
    | with_reducible apply Keep1.mk


theorem scanRx_keep_st {sB : State} {s : State} {p : Nat} {vc : Nat} {st : List Byte}
    (hs : Keep sB s) : Keep sB (scanRx s p vc st).1 :=
  scanRx_keep hs
theorem takeBody_keep {sB : State} {s : State} {p : Nat} {vc : Nat} {body : List Byte}
    (hs : Keep sB s) : Keep sB (takeBody s p vc body) := by
  unfold takeBody
  repeat' first
    | with_reducible assumption
    | with_reducible apply State.setPort_keep
    | with_reducible apply setRx_keep
    | with_reducible apply scanRx_keep
    | with_reducible apply scanRx_keep_st
    | (extract_lets +onlyGivenNames x
       first
         | (refine (fun (hx : Keep sB x) => ?_) ?_; clear_value x; rotate_left; subst x)
         | (refine (fun (hx : Keep1 sB x) => ?_) ?_; clear_value x; have hx2 := Keep1.proj hx; rotate_left; subst x)
         | (have := fun a => x a; clear this; subst x)
         | clear_value x
         | subst x)
    | split
    | (with_reducible apply Keep1.elim; with_reducible assumption)
    | (with_reducible apply Keep1.elimM; with_reducible assumption)
    | with_reducible apply Keep1.mk
    | (with_reducible apply Keep.ofMk; with_reducible apply Keep.fold)

theorem retryOn_keep {sB : State} {s : State} {p : Nat}
    (hs : Keep sB s) : Keep sB (retryOn s p) := by
  unfold retryOn
  repeat' first
    | with_reducible assumption
    | with_reducible apply State.put_keep
    | with_reducible apply State.setPort_keep
    | (extract_lets +onlyGivenNames x
       first
         | (refine (fun (hx : Keep sB x) => ?_) ?_; clear_value x; rotate_left; subst x)
         | (have := fun a => x a; clear this; subst x)
         | clear_value x
         | subst x)
    | with_reducible apply Keep.ite
    | split
    | (with_reducible apply Keep.ofMk; with_reducible apply Keep.fold)

theorem retryOff_keep {sB : State} {s : State} {p : Nat}
    (hs : Keep sB s) : Keep sB (retryOff s p) := by
  unfold retryOff
  repeat' first
    | with_reducible assumption
    | with_reducible apply State.put_keep
    | with_reducible apply pauseHops_keep
    | with_reducible apply pauseEdge_keep
    | (extract_lets +onlyGivenNames x
       first
         | (refine (fun (hx : Keep sB x) => ?_) ?_; clear_value x; rotate_left; subst x)
         | (have := fun a => x a; clear this; subst x)
         | clear_value x
         | subst x)
    | with_reducible apply Keep.ite
    | split

theorem sendIdle_keep {sB : State} {s : State} {p : Nat} {nak : Bool}
    (hs : Keep sB s) : Keep sB (sendIdle s p nak) := by
  unfold sendIdle
  repeat' first
    | with_reducible assumption
    | with_reducible apply State.setPort_keep
    | (extract_lets +onlyGivenNames x
       first
         | (refine (fun (hx : Keep sB x) => ?_) ?_; clear_value x; rotate_left; subst x)
         | (have := fun a => x a; clear this; subst x)
         | clear_value x
         | subst x)
    | with_reducible apply Keep.ite
    | split
    | (with_reducible apply Keep.ofMk; with_reducible apply Keep.fold)

theorem resend_keep {sB : State} {s : State} {p : Nat}
    (hs : Keep sB s) : Keep sB (resend s p) := by
  unfold resend
  repeat' first
    | with_reducible assumption
    | intro _
    | with_reducible apply State.setPort_keep
    | with_reducible apply Keep.foldl
    | (extract_lets +onlyGivenNames x
       first
         | (refine (fun (hx : Keep sB x) => ?_) ?_; clear_value x; rotate_left; subst x)
         | (have := fun a => x a; clear this; subst x)
         | clear_value x
         | subst x)
    | with_reducible apply Keep.ite
    | split
    | (with_reducible apply Keep.ofMk; with_reducible apply Keep.fold)

theorem takeLink_keep {sB : State} {s : State} {p : Nat} {lw : Nat}
    (hs : Keep sB s) : Keep sB (takeLink s p lw) := by
  unfold takeLink
  repeat' first
    | with_reducible assumption
    | intro _
    | with_reducible apply State.bump_keep
    | with_reducible apply State.setPort_keep
    | with_reducible apply retryOn_keep
    | with_reducible apply retryOff_keep
    | with_reducible apply resend_keep
    | (extract_lets +onlyGivenNames x
       first
         | (refine (fun (hx : Keep sB x) => ?_) ?_; clear_value x; rotate_left; subst x)
         | (have := fun a => x a; clear this; subst x)
         | clear_value x
         | subst x)
    | with_reducible apply Keep.ite
    | split
    | (with_reducible apply Keep.ofMk; with_reducible apply Keep.fold)

theorem answerFlit_keep {sB : State} {s : State} {p : Nat}
    (hs : Keep sB s) : Keep sB (answerFlit s p) := by
  unfold answerFlit
  repeat' first
    | with_reducible assumption
    | with_reducible apply pump_keep
    | with_reducible apply edgesDrain_keep
    | with_reducible apply sendIdle_keep
    | (extract_lets +onlyGivenNames x
       first
         | (refine (fun (hx : Keep sB x) => ?_) ?_; clear_value x; rotate_left; subst x)
         | (have := fun a => x a; clear this; subst x)
         | clear_value x
         | subst x)
    | with_reducible apply Keep.ite
    | split

theorem badFlit_keep {sB : State} {s : State} {p : Nat}
    (hs : Keep sB s) : Keep sB (badFlit s p) := by
  unfold badFlit
  repeat' first
    | with_reducible assumption
    | with_reducible apply State.setPort_keep
    | with_reducible apply sendIdle_keep
    | (extract_lets +onlyGivenNames x
       first
         | (refine (fun (hx : Keep sB x) => ?_) ?_; clear_value x; rotate_left; subst x)
         | (have := fun a => x a; clear this; subst x)
         | clear_value x
         | subst x)
    | with_reducible apply Keep.ite
    | split
    | (with_reducible apply Keep.ofMk; with_reducible apply Keep.fold)

theorem countFec_keep {sB : State} {s : State} {p : Nat} {l : List Codeword}
    (hs : Keep sB s) : Keep sB (countFec s p l) := by
  unfold countFec
  repeat' first
    | with_reducible assumption
    | intro _
    | with_reducible apply State.bump_keep
    | split

theorem execFlit_keep {sB : State} {p : Fin 16} {bytes : List Byte} {cws : List Codeword} {s : State}
    (hs : Keep sB s) : KeepN sB (execFlit p bytes cws s) := by
  unfold execFlit
  repeat' first
    | with_reducible assumption
    | intro _
    | with_reducible apply State.bump_keep
    | with_reducible apply State.setPort_keep
    | with_reducible apply finish_keep
    | with_reducible apply ShRes.next_keep
    | with_reducible apply takeBody_keep
    | with_reducible apply takeLink_keep
    | with_reducible apply answerFlit_keep
    | with_reducible apply badFlit_keep
    | with_reducible apply countFec_keep
    | with_reducible apply KeepN.next
    | with_reducible apply KeepN.fault
    | with_reducible apply KeepN.refused
    | with_reducible apply KeepSh.ok
    | with_reducible apply KeepSh.bad
    | with_reducible apply KeepSh.wait
    | (extract_lets +onlyGivenNames x
       first
         | (refine (fun (hx : Keep sB x) => ?_) ?_; clear_value x; rotate_left; subst x)
         | (refine (fun (hx : KeepN sB x) => ?_) ?_; clear_value x; rotate_left; subst x)
         | (refine (fun (hx : KeepSh sB x) => ?_) ?_; clear_value x; rotate_left; subst x)
         | (have := fun a => x a; clear this; subst x)
         | clear_value x
         | subst x)
    | with_reducible apply Keep.ite
    | with_reducible apply KeepN.ite
    | with_reducible apply KeepSh.ite
    | split
    | (with_reducible apply KeepN.of_next; with_reducible assumption)
    | (with_reducible apply KeepN.un_next; with_reducible assumption)
    | (with_reducible apply KeepSh.of_ok; with_reducible assumption)
    | (with_reducible apply KeepSh.un_ok; with_reducible assumption)
    | (with_reducible apply KeepSh.of_bad; with_reducible assumption)
    | (with_reducible apply KeepSh.un_bad; with_reducible assumption)
    | (with_reducible apply KeepSh.of_wait; with_reducible assumption)
    | (with_reducible apply KeepSh.un_wait; with_reducible assumption)
    | (with_reducible apply Keep.ofMk; with_reducible apply Keep.fold)

theorem execNakRepeat_keep {sB : State} {p : Fin 16} {s : State}
    (hs : Keep sB s) : KeepN sB (execNakRepeat p s) := by
  unfold execNakRepeat
  repeat' first
    | with_reducible assumption
    | intro _
    | with_reducible apply State.setPort_keep
    | with_reducible apply ShRes.next_keep
    | with_reducible apply sendIdle_keep
    | with_reducible apply KeepN.next
    | with_reducible apply KeepN.fault
    | with_reducible apply KeepN.refused
    | with_reducible apply KeepSh.ok
    | with_reducible apply KeepSh.bad
    | with_reducible apply KeepSh.wait
    | (extract_lets +onlyGivenNames x
       first
         | (refine (fun (hx : Keep sB x) => ?_) ?_; clear_value x; rotate_left; subst x)
         | (refine (fun (hx : KeepN sB x) => ?_) ?_; clear_value x; rotate_left; subst x)
         | (refine (fun (hx : KeepSh sB x) => ?_) ?_; clear_value x; rotate_left; subst x)
         | (have := fun a => x a; clear this; subst x)
         | clear_value x
         | subst x)
    | with_reducible apply Keep.ite
    | with_reducible apply KeepN.ite
    | with_reducible apply KeepSh.ite
    | split
    | (with_reducible apply KeepN.of_next; with_reducible assumption)
    | (with_reducible apply KeepN.un_next; with_reducible assumption)
    | (with_reducible apply KeepSh.of_ok; with_reducible assumption)
    | (with_reducible apply KeepSh.un_ok; with_reducible assumption)
    | (with_reducible apply KeepSh.of_bad; with_reducible assumption)
    | (with_reducible apply KeepSh.un_bad; with_reducible assumption)
    | (with_reducible apply KeepSh.of_wait; with_reducible assumption)
    | (with_reducible apply KeepSh.un_wait; with_reducible assumption)
    | (with_reducible apply Keep.ofMk; with_reducible apply Keep.fold)

theorem portDown_keep {sB : State} {s : State} {p : Nat}
    (hs : Keep sB s) : Keep sB (portDown s p) := by
  unfold portDown
  repeat' first
    | with_reducible assumption
    | intro _
    | with_reducible apply State.put_keep
    | with_reducible apply State.setPort_keep
    | with_reducible apply reqRejected_keep
    | with_reducible apply edgesDrain_keep
    | with_reducible apply lnkCorr_keep
    | with_reducible apply retryOff_keep
    | with_reducible apply Keep.foldl
    | (extract_lets +onlyGivenNames x
       first
         | (refine (fun (hx : Keep sB x) => ?_) ?_; clear_value x; rotate_left; subst x)
         | (have := fun a => x a; clear this; subst x)
         | clear_value x
         | subst x)
    | with_reducible apply Keep.ite
    | split
    | (with_reducible apply Keep.ofMk; with_reducible apply Keep.fold)

theorem execRetryExhausted_keep {sB : State} {p : Fin 16} {s : State}
    (hs : Keep sB s) : KeepN sB (execRetryExhausted p s) := by
  unfold execRetryExhausted
  repeat' first
    | with_reducible assumption
    | intro _
    | with_reducible apply finish_keep
    | with_reducible apply ShRes.next_keep
    | with_reducible apply portDown_keep
    | with_reducible apply KeepN.next
    | with_reducible apply KeepN.fault
    | with_reducible apply KeepN.refused
    | with_reducible apply KeepSh.ok
    | with_reducible apply KeepSh.bad
    | with_reducible apply KeepSh.wait
    | (extract_lets +onlyGivenNames x
       first
         | (refine (fun (hx : Keep sB x) => ?_) ?_; clear_value x; rotate_left; subst x)
         | (refine (fun (hx : KeepN sB x) => ?_) ?_; clear_value x; rotate_left; subst x)
         | (refine (fun (hx : KeepSh sB x) => ?_) ?_; clear_value x; rotate_left; subst x)
         | (have := fun a => x a; clear this; subst x)
         | clear_value x
         | subst x)
    | with_reducible apply Keep.ite
    | with_reducible apply KeepN.ite
    | with_reducible apply KeepSh.ite
    | split
    | (with_reducible apply KeepN.of_next; with_reducible assumption)
    | (with_reducible apply KeepN.un_next; with_reducible assumption)
    | (with_reducible apply KeepSh.of_ok; with_reducible assumption)
    | (with_reducible apply KeepSh.un_ok; with_reducible assumption)
    | (with_reducible apply KeepSh.of_bad; with_reducible assumption)
    | (with_reducible apply KeepSh.un_bad; with_reducible assumption)
    | (with_reducible apply KeepSh.of_wait; with_reducible assumption)
    | (with_reducible apply KeepSh.un_wait; with_reducible assumption)

theorem beginRetrain_keep {sB : State} {s : State} {p : Nat} {k : Nat}
    (hs : Keep sB s) : Keep sB (beginRetrain s p k) := by
  unfold beginRetrain
  repeat' first
    | with_reducible assumption
    | intro _
    | with_reducible apply State.setPort_keep
    | with_reducible apply retryOn_keep
    | (extract_lets +onlyGivenNames x
       first
         | (refine (fun (hx : Keep sB x) => ?_) ?_; clear_value x; rotate_left; subst x)
         | (have := fun a => x a; clear this; subst x)
         | clear_value x
         | subst x)
    | split
    | (with_reducible apply Keep.ofMk; with_reducible apply Keep.fold)

theorem degrade_keep {sB : State} {s : State} {p : Nat}
    (hs : Keep sB s) : Keep sB (degrade s p) := by
  unfold degrade
  repeat' first
    | with_reducible assumption
    | with_reducible apply State.put_keep
    | with_reducible apply lnkCorr_keep

theorem execLaneFail_keep {sB : State} {p : Fin 16} {lane : Fin 5} {s : State}
    (hs : Keep sB s) : KeepN sB (execLaneFail p lane s) := by
  unfold execLaneFail
  repeat' first
    | with_reducible assumption
    | intro _
    | with_reducible apply State.put_keep
    | with_reducible apply finish_keep
    | with_reducible apply ShRes.next_keep
    | with_reducible apply lnkCorr_keep
    | with_reducible apply portDown_keep
    | with_reducible apply beginRetrain_keep
    | with_reducible apply degrade_keep
    | with_reducible apply KeepN.next
    | with_reducible apply KeepN.fault
    | with_reducible apply KeepN.refused
    | with_reducible apply KeepSh.ok
    | with_reducible apply KeepSh.bad
    | with_reducible apply KeepSh.wait
    | (extract_lets +onlyGivenNames x
       first
         | (refine (fun (hx : Keep sB x) => ?_) ?_; clear_value x; rotate_left; subst x)
         | (refine (fun (hx : KeepN sB x) => ?_) ?_; clear_value x; rotate_left; subst x)
         | (refine (fun (hx : KeepSh sB x) => ?_) ?_; clear_value x; rotate_left; subst x)
         | (have := fun a => x a; clear this; subst x)
         | clear_value x
         | subst x)
    | with_reducible apply Keep.ite
    | with_reducible apply KeepN.ite
    | with_reducible apply KeepSh.ite
    | split
    | (with_reducible apply KeepN.of_next; with_reducible assumption)
    | (with_reducible apply KeepN.un_next; with_reducible assumption)
    | (with_reducible apply KeepSh.of_ok; with_reducible assumption)
    | (with_reducible apply KeepSh.un_ok; with_reducible assumption)
    | (with_reducible apply KeepSh.of_bad; with_reducible assumption)
    | (with_reducible apply KeepSh.un_bad; with_reducible assumption)
    | (with_reducible apply KeepSh.of_wait; with_reducible assumption)
    | (with_reducible apply KeepSh.un_wait; with_reducible assumption)

theorem execPortRetrainDone_keep {sB : State} {p : Fin 16} {s : State}
    (hs : Keep sB s) : KeepN sB (execPortRetrainDone p s) := by
  unfold execPortRetrainDone
  repeat' first
    | with_reducible assumption
    | intro _
    | with_reducible apply State.put_keep
    | with_reducible apply State.setPort_keep
    | with_reducible apply pump_keep
    | with_reducible apply finish_keep
    | with_reducible apply ShRes.next_keep
    | with_reducible apply edgesDrain_keep
    | with_reducible apply retryOff_keep
    | with_reducible apply KeepN.next
    | with_reducible apply KeepN.fault
    | with_reducible apply KeepN.refused
    | with_reducible apply KeepSh.ok
    | with_reducible apply KeepSh.bad
    | with_reducible apply KeepSh.wait
    | (extract_lets +onlyGivenNames x
       first
         | (refine (fun (hx : Keep sB x) => ?_) ?_; clear_value x; rotate_left; subst x)
         | (refine (fun (hx : KeepN sB x) => ?_) ?_; clear_value x; rotate_left; subst x)
         | (refine (fun (hx : KeepSh sB x) => ?_) ?_; clear_value x; rotate_left; subst x)
         | (have := fun a => x a; clear this; subst x)
         | clear_value x
         | subst x)
    | with_reducible apply Keep.ite
    | with_reducible apply KeepN.ite
    | with_reducible apply KeepSh.ite
    | split
    | (with_reducible apply KeepN.of_next; with_reducible assumption)
    | (with_reducible apply KeepN.un_next; with_reducible assumption)
    | (with_reducible apply KeepSh.of_ok; with_reducible assumption)
    | (with_reducible apply KeepSh.un_ok; with_reducible assumption)
    | (with_reducible apply KeepSh.of_bad; with_reducible assumption)
    | (with_reducible apply KeepSh.un_bad; with_reducible assumption)
    | (with_reducible apply KeepSh.of_wait; with_reducible assumption)
    | (with_reducible apply KeepSh.un_wait; with_reducible assumption)
    | (with_reducible apply Keep.ofMk; with_reducible apply Keep.fold)

theorem execLossOfSignal_keep {sB : State} {p : Fin 16} {s : State}
    (hs : Keep sB s) : KeepN sB (execLossOfSignal p s) := by
  unfold execLossOfSignal
  repeat' first
    | with_reducible assumption
    | with_reducible apply finish_keep
    | with_reducible apply portDown_keep
    | with_reducible apply KeepN.next
    | with_reducible apply KeepN.fault
    | with_reducible apply KeepN.refused
    | (with_reducible apply KeepN.of_next; with_reducible assumption)
    | (with_reducible apply KeepN.un_next; with_reducible assumption)

theorem restPort_keep {sB : State} {s : State} {p : Nat} {told : Bool}
    (hs : Keep sB s) : Keep sB (restPort s p told) := by
  unfold restPort
  repeat' first
    | with_reducible assumption
    | with_reducible apply State.put_keep
    | with_reducible apply State.setPort_keep
    | (extract_lets +onlyGivenNames x
       first
         | (refine (fun (hx : Keep sB x) => ?_) ?_; clear_value x; rotate_left; subst x)
         | (have := fun a => x a; clear this; subst x)
         | clear_value x
         | subst x)
    | (with_reducible apply Keep.ofMk; with_reducible apply Keep.fold)

theorem cableErr_keep {sB : State} {s : State} {p : Nat}
    (hs : Keep sB s) : Keep sB (cableErr s p) := by
  unfold cableErr
  repeat' first
    | with_reducible assumption
    | with_reducible apply State.put_keep
    | with_reducible apply lnkCorr_keep
    | with_reducible apply restPort_keep
    | (extract_lets +onlyGivenNames x
       first
         | (refine (fun (hx : Keep sB x) => ?_) ?_; clear_value x; rotate_left; subst x)
         | (have := fun a => x a; clear this; subst x)
         | clear_value x
         | subst x)
    | with_reducible apply Keep.ite
    | split

theorem upPort_keep {sB : State} {s : State} {p : Nat} {y : Peer}
    (hs : Keep sB s) : Keep sB (upPort s p y) := by
  unfold upPort
  repeat' first
    | with_reducible assumption
    | intro _
    | with_reducible apply State.put_keep
    | with_reducible apply State.setPort_keep
    | with_reducible apply degrade_keep
    | with_reducible apply Keep.foldl
    | (extract_lets +onlyGivenNames x
       first
         | (refine (fun (hx : Keep sB x) => ?_) ?_; clear_value x; rotate_left; subst x)
         | (have := fun a => x a; clear this; subst x)
         | clear_value x
         | subst x)
    | with_reducible apply Keep.ite
    | split
    | (with_reducible apply Keep.ofMk; with_reducible apply Keep.fold)

theorem trainPort_keep {sB : State} {s : State} {p : Nat} {seen : Option Peer}
    (hs : Keep sB s) : Keep sB (trainPort s p seen) := by
  unfold trainPort
  repeat' first
    | with_reducible assumption
    | intro _
    | with_reducible apply State.put_keep
    | with_reducible apply restPort_keep
    | with_reducible apply cableErr_keep
    | with_reducible apply upPort_keep
    | (extract_lets +onlyGivenNames x
       first
         | (refine (fun (hx : Keep sB x) => ?_) ?_; clear_value x; rotate_left; subst x)
         | (have := fun a => x a; clear this; subst x)
         | clear_value x
         | subst x)
    | with_reducible apply Keep.ite
    | split
    | (with_reducible apply Keep.ofMk; with_reducible apply Keep.fold)

theorem execPortTrainRetry_keep {sB : State} {p : Fin 16} {seen : Option Peer} {s : State}
    (hs : Keep sB s) : KeepN sB (execPortTrainRetry p seen s) := by
  unfold execPortTrainRetry
  repeat' first
    | with_reducible assumption
    | intro _
    | with_reducible apply finish_keep
    | with_reducible apply ShRes.next_keep
    | with_reducible apply trainPort_keep
    | with_reducible apply KeepN.next
    | with_reducible apply KeepN.fault
    | with_reducible apply KeepN.refused
    | with_reducible apply KeepSh.ok
    | with_reducible apply KeepSh.bad
    | with_reducible apply KeepSh.wait
    | with_reducible apply Keep.ite
    | with_reducible apply KeepN.ite
    | with_reducible apply KeepSh.ite
    | split
    | (with_reducible apply KeepN.of_next; with_reducible assumption)
    | (with_reducible apply KeepN.un_next; with_reducible assumption)
    | (with_reducible apply KeepSh.of_ok; with_reducible assumption)
    | (with_reducible apply KeepSh.un_ok; with_reducible assumption)
    | (with_reducible apply KeepSh.of_bad; with_reducible assumption)
    | (with_reducible apply KeepSh.un_bad; with_reducible assumption)
    | (with_reducible apply KeepSh.of_wait; with_reducible assumption)
    | (with_reducible apply KeepSh.un_wait; with_reducible assumption)

theorem retrainPort_keep {sB : State} {s : State} {p : Nat}
    (hs : Keep sB s) : Keep sB (retrainPort s p) := by
  unfold retrainPort
  repeat' first
    | with_reducible assumption
    | with_reducible apply State.put_keep
    | with_reducible apply portDown_keep
    | (extract_lets +onlyGivenNames x
       first
         | (refine (fun (hx : Keep sB x) => ?_) ?_; clear_value x; rotate_left; subst x)
         | (have := fun a => x a; clear this; subst x)
         | clear_value x
         | subst x)
    | with_reducible apply Keep.ite
    | split

theorem execRetrain_keep {sB : State} {p : Fin 16} {s : State}
    (hs : Keep sB s) : KeepN sB (execRetrain p s) := by
  unfold execRetrain
  repeat' first
    | with_reducible assumption
    | intro _
    | with_reducible apply finish_keep
    | with_reducible apply ShRes.next_keep
    | with_reducible apply retrainPort_keep
    | with_reducible apply KeepN.next
    | with_reducible apply KeepN.fault
    | with_reducible apply KeepN.refused
    | with_reducible apply KeepSh.ok
    | with_reducible apply KeepSh.bad
    | with_reducible apply KeepSh.wait
    | with_reducible apply Keep.ite
    | with_reducible apply KeepN.ite
    | with_reducible apply KeepSh.ite
    | split
    | (with_reducible apply KeepN.of_next; with_reducible assumption)
    | (with_reducible apply KeepN.un_next; with_reducible assumption)
    | (with_reducible apply KeepSh.of_ok; with_reducible assumption)
    | (with_reducible apply KeepSh.un_ok; with_reducible assumption)
    | (with_reducible apply KeepSh.of_bad; with_reducible assumption)
    | (with_reducible apply KeepSh.un_bad; with_reducible assumption)
    | (with_reducible apply KeepSh.of_wait; with_reducible assumption)
    | (with_reducible apply KeepSh.un_wait; with_reducible assumption)

theorem disablePort_keep {sB : State} {s : State} {p : Nat}
    (hs : Keep sB s) : Keep sB (disablePort s p) := by
  unfold disablePort
  repeat' first
    | with_reducible assumption
    | with_reducible apply State.put_keep
    | with_reducible apply portDown_keep

theorem execDisable_keep {sB : State} {p : Fin 16} {s : State}
    (hs : Keep sB s) : KeepN sB (execDisable p s) := by
  unfold execDisable
  repeat' first
    | with_reducible assumption
    | intro _
    | with_reducible apply finish_keep
    | with_reducible apply ShRes.next_keep
    | with_reducible apply disablePort_keep
    | with_reducible apply KeepN.next
    | with_reducible apply KeepN.fault
    | with_reducible apply KeepN.refused
    | with_reducible apply KeepSh.ok
    | with_reducible apply KeepSh.bad
    | with_reducible apply KeepSh.wait
    | with_reducible apply Keep.ite
    | with_reducible apply KeepN.ite
    | with_reducible apply KeepSh.ite
    | split
    | (with_reducible apply KeepN.of_next; with_reducible assumption)
    | (with_reducible apply KeepN.un_next; with_reducible assumption)
    | (with_reducible apply KeepSh.of_ok; with_reducible assumption)
    | (with_reducible apply KeepSh.un_ok; with_reducible assumption)
    | (with_reducible apply KeepSh.of_bad; with_reducible assumption)
    | (with_reducible apply KeepSh.un_bad; with_reducible assumption)
    | (with_reducible apply KeepSh.of_wait; with_reducible assumption)
    | (with_reducible apply KeepSh.un_wait; with_reducible assumption)

theorem arrives_keep {sB : State} {s : State} {p : Nat} {t : Nat} {r : Record} {k : State → State}
    (hs : Keep sB s) (hk : ∀ t0, Keep sB t0 → Keep sB (k t0)) : KeepN sB (arrives s p t r k) := by
  unfold arrives
  repeat' first
    | with_reducible assumption
    | intro _
    | with_reducible apply hk
    | with_reducible apply rxConsume_keep
    | with_reducible apply finish_keep
    | with_reducible apply ShRes.next_keep
    | with_reducible apply KeepN.next
    | with_reducible apply KeepN.fault
    | with_reducible apply KeepN.refused
    | with_reducible apply KeepSh.ok
    | with_reducible apply KeepSh.bad
    | with_reducible apply KeepSh.wait
    | with_reducible apply Keep.ite
    | with_reducible apply KeepN.ite
    | with_reducible apply KeepSh.ite
    | split
    | (with_reducible apply KeepN.of_next; with_reducible assumption)
    | (with_reducible apply KeepN.un_next; with_reducible assumption)
    | (with_reducible apply KeepSh.of_ok; with_reducible assumption)
    | (with_reducible apply KeepSh.un_ok; with_reducible assumption)
    | (with_reducible apply KeepSh.of_bad; with_reducible assumption)
    | (with_reducible apply KeepSh.un_bad; with_reducible assumption)
    | (with_reducible apply KeepSh.of_wait; with_reducible assumption)
    | (with_reducible apply KeepSh.un_wait; with_reducible assumption)

theorem arrivesIn_keep {sB : State} {s : State} {p : Nat} {t : Nat} {r : Record} {wait : Bool} {k : State → State}
    (hs : Keep sB s) (hk : ∀ t0, Keep sB t0 → Keep sB (k t0)) : KeepN sB (arrivesIn s p t r wait k) := by
  unfold arrivesIn
  repeat' first
    | with_reducible assumption
    | intro _
    | with_reducible apply hk
    | with_reducible apply ShRes.next_keep
    | with_reducible apply arrives_keep
    | with_reducible apply KeepN.next
    | with_reducible apply KeepN.fault
    | with_reducible apply KeepN.refused
    | with_reducible apply KeepSh.ok
    | with_reducible apply KeepSh.bad
    | with_reducible apply KeepSh.wait
    | with_reducible apply Keep.ite
    | with_reducible apply KeepN.ite
    | with_reducible apply KeepSh.ite
    | split
    | (with_reducible apply KeepN.of_next; with_reducible assumption)
    | (with_reducible apply KeepN.un_next; with_reducible assumption)
    | (with_reducible apply KeepSh.of_ok; with_reducible assumption)
    | (with_reducible apply KeepSh.un_ok; with_reducible assumption)
    | (with_reducible apply KeepSh.of_bad; with_reducible assumption)
    | (with_reducible apply KeepSh.un_bad; with_reducible assumption)
    | (with_reducible apply KeepSh.of_wait; with_reducible assumption)
    | (with_reducible apply KeepSh.un_wait; with_reducible assumption)

theorem routed_keep {sB : State} {s : State} {p : Nat} {r : Record} {k : State → State}
    (hs : Keep sB s) (hk : ∀ t0, Keep sB t0 → Keep sB (k t0)) : Keep sB (routed s p r k) := by
  unfold routed
  repeat' first
    | with_reducible assumption
    | with_reducible apply hk
    | with_reducible apply KeepO.map
    | with_reducible apply KeepO.getD
    | with_reducible apply forward_keep
    | with_reducible apply answerNow_keep
    | with_reducible apply malformed_keep
    | with_reducible apply KeepO.some
    | with_reducible apply KeepO.none
    | (extract_lets +onlyGivenNames x
       first
         | (refine (fun (hx : Keep sB x) => ?_) ?_; clear_value x; rotate_left; subst x)
         | (refine (fun (hx : KeepO sB x) => ?_) ?_; clear_value x; rotate_left; subst x)
         | (have := fun a => x a; clear this; subst x)
         | clear_value x
         | subst x)
    | with_reducible apply Keep.ite
    | with_reducible apply KeepO.ite
    | split
    | (with_reducible apply KeepO.of_some; with_reducible assumption)
    | (with_reducible apply KeepO.un_some; with_reducible assumption)
    | (with_reducible apply Keep.ofMk; with_reducible apply Keep.fold)

theorem sendParts_keep {sB : State} {s : State} {p : Nat} {r : Record} {n : Nat} {op : Nat → Nat → MeshOp}
    (hs : Keep sB s) : Keep sB (sendParts s p r n op) := by
  unfold sendParts
  repeat' first
    | with_reducible assumption
    | intro _
    | with_reducible apply openReq_keep
    | with_reducible apply fromWeft_keep
    | with_reducible apply Keep.foldl
    | (extract_lets +onlyGivenNames x
       first
         | (refine (fun (hx : Keep sB x) => ?_) ?_; clear_value x; rotate_left; subst x)
         | (have := fun a => x a; clear this; subst x)
         | clear_value x
         | subst x)
    | split

theorem execWrite_keep {sB : State} {p : Fin 16} {rec : Record} {s : State}
    (hs : Keep sB s) : KeepN sB (execWrite p rec s) := by
  unfold execWrite
  repeat' first
    | with_reducible assumption
    | intro _
    | with_reducible apply devWrite_keep
    | with_reducible apply devWrite_keep_st
    | with_reducible apply answerNow_keep
    | with_reducible apply arrivesIn_keep
    | with_reducible apply routed_keep
    | with_reducible apply sendParts_keep
    | with_reducible apply KeepN.next
    | with_reducible apply KeepN.fault
    | with_reducible apply KeepN.refused
    | (extract_lets +onlyGivenNames x
       first
         | (refine (fun (hx : Keep sB x) => ?_) ?_; clear_value x; rotate_left; subst x)
         | (refine (fun (hx : KeepMem sB x) => ?_) ?_; clear_value x; have hx2 := KeepMem.proj hx; rotate_left; subst x)
         | (refine (fun (hx : KeepN sB x) => ?_) ?_; clear_value x; rotate_left; subst x)
         | (have := fun a => x a; clear this; subst x)
         | clear_value x
         | subst x)
    | with_reducible apply Keep.ite
    | with_reducible apply KeepMem.ite
    | with_reducible apply KeepN.ite
    | split
    | (with_reducible apply KeepN.of_next; with_reducible assumption)
    | (with_reducible apply KeepN.un_next; with_reducible assumption)
    | with_reducible apply KeepMem.mk

theorem execRead_keep {sB : State} {p : Fin 16} {rec : Record} {resp : Resp} {s : State}
    (hs : Keep sB s) : KeepN sB (execRead p rec resp s) := by
  unfold execRead
  repeat' first
    | with_reducible assumption
    | intro _
    | with_reducible apply openReq_keep
    | with_reducible apply answerNow_keep
    | with_reducible apply arrivesIn_keep
    | with_reducible apply routed_keep
    | with_reducible apply sendParts_keep
    | with_reducible apply KeepN.next
    | with_reducible apply KeepN.fault
    | with_reducible apply KeepN.refused
    | (extract_lets +onlyGivenNames x
       first
         | (refine (fun (hx : Keep sB x) => ?_) ?_; clear_value x; rotate_left; subst x)
         | (refine (fun (hx : KeepN sB x) => ?_) ?_; clear_value x; rotate_left; subst x)
         | (have := fun a => x a; clear this; subst x)
         | clear_value x
         | subst x)
    | with_reducible apply Keep.ite
    | with_reducible apply KeepN.ite
    | split
    | (with_reducible apply KeepN.of_next; with_reducible assumption)
    | (with_reducible apply KeepN.un_next; with_reducible assumption)

theorem popReq_keep {sB s : State} {q : PendReq → Bool} (hs : Keep sB s) : KeepReq sB (popReq s q) := by
  unfold popReq
  generalize List.range 16 = l
  induction l with
  | nil => trivial
  | cons p r ih =>
    rw [List.findSome?_cons]
    split
    · rename_i h
      cases hq : takeReq q (s.port p).reqs with
      | none => simp [hq] at h
      | some y =>
        simp only [hq, Option.map_some, Option.some.injEq] at h
        subst h
        exact State.setPort_keep hs
    · exact ih

theorem execRdata_keep {sB : State} {p : Fin 16} {rec : Record} {s : State}
    (hs : Keep sB s) : KeepN sB (execRdata p rec s) := by
  unfold execRdata
  repeat' first
    | with_reducible assumption
    | intro _
    | with_reducible apply malformed_keep
    | with_reducible apply gotData_keep
    | with_reducible apply arrives_keep
    | with_reducible apply routed_keep
    | with_reducible apply popReq_keep
    | with_reducible apply KeepN.next
    | with_reducible apply KeepN.fault
    | with_reducible apply KeepN.refused
    | with_reducible apply KeepReq.some
    | with_reducible apply KeepReq.none
    | (with_reducible apply KeepP2.elim; with_reducible assumption)
    | (with_reducible apply KeepP2.elimM; with_reducible assumption)
    | (with_reducible apply KeepReq.pair; with_reducible assumption)
    | (with_reducible apply KeepReq.unpair; with_reducible assumption)
    | with_reducible apply KeepReq.or
    | (extract_lets +onlyGivenNames x
       first
         | (refine (fun (hx : Keep sB x) => ?_) ?_; clear_value x; rotate_left; subst x)
         | (refine (fun (hx : KeepN sB x) => ?_) ?_; clear_value x; rotate_left; subst x)
         | (refine (fun (hx : KeepReq sB x) => ?_) ?_; clear_value x; rotate_left; subst x)
         | (have := fun a => x a; clear this; subst x)
         | clear_value x
         | subst x)
    | with_reducible apply Keep.ite
    | with_reducible apply KeepN.ite
    | split
    | (with_reducible apply KeepN.of_next; with_reducible assumption)
    | (with_reducible apply KeepN.un_next; with_reducible assumption)
    | (with_reducible apply KeepReq.of_some; with_reducible assumption)
    | (with_reducible apply KeepReq.un_some; with_reducible assumption)
    | with_reducible apply KeepP2.mk
    | (with_reducible apply Keep.ofMk; with_reducible apply Keep.fold)

theorem mcastAck_keep {sB : State} {s : State} {m : Nat} {l : List McastSt} {acc : List McastSt}
    (hs : Keep sB s) : Keep sB (mcastAck s m l acc) := by
  induction l generalizing s m acc with
  | nil  =>
    first | rw [mcastAck] | unfold mcastAck
    repeat' first
      | with_reducible assumption
      | with_reducible apply answered_keep
      | (extract_lets +onlyGivenNames x
         first
           | (refine (fun (hx : Keep sB x) => ?_) ?_; clear_value x; rotate_left; subst x)
           | (have := fun a => x a; clear this; subst x)
           | clear_value x
           | subst x)
      | with_reducible apply Keep.ite
      | split
      | (with_reducible apply Keep.ofMk; with_reducible apply Keep.fold)
  | cons y r ih =>
    first | rw [mcastAck] | unfold mcastAck
    repeat' first
      | with_reducible assumption
      | with_reducible apply ih
      | with_reducible apply answered_keep
      | (extract_lets +onlyGivenNames x
         first
           | (refine (fun (hx : Keep sB x) => ?_) ?_; clear_value x; rotate_left; subst x)
           | (have := fun a => x a; clear this; subst x)
           | clear_value x
           | subst x)
      | with_reducible apply Keep.ite
      | split
      | (with_reducible apply Keep.ofMk; with_reducible apply Keep.fold)

theorem ackOne_keep {sB : State} {s : State} {m : Nat}
    (hs : Keep sB s) : Keep sB (ackOne s m) := by
  unfold ackOne
  repeat' first
    | with_reducible assumption
    | intro _
    | with_reducible apply answered_keep
    | with_reducible apply popReq_keep
    | with_reducible apply mcastAck_keep
    | with_reducible apply KeepReq.some
    | with_reducible apply KeepReq.none
    | (with_reducible apply KeepP2.elim; with_reducible assumption)
    | (with_reducible apply KeepP2.elimM; with_reducible assumption)
    | (with_reducible apply KeepReq.pair; with_reducible assumption)
    | (with_reducible apply KeepReq.unpair; with_reducible assumption)
    | with_reducible apply KeepReq.or
    | (extract_lets +onlyGivenNames x
       first
         | (refine (fun (hx : Keep sB x) => ?_) ?_; clear_value x; rotate_left; subst x)
         | (refine (fun (hx : KeepReq sB x) => ?_) ?_; clear_value x; rotate_left; subst x)
         | (have := fun a => x a; clear this; subst x)
         | clear_value x
         | subst x)
    | split
    | (with_reducible apply KeepReq.of_some; with_reducible assumption)
    | (with_reducible apply KeepReq.un_some; with_reducible assumption)
    | with_reducible apply KeepP2.mk
    | (with_reducible apply Keep.ofMk; with_reducible apply Keep.fold)

theorem ackMany_keep {sB : State} {s : State} {m : Nat} {n : Nat}
    (hs : Keep sB s) : Keep sB (ackMany s m n) := by
  induction n generalizing s m with
  | zero  =>
    first | rw [ackMany] | unfold ackMany
    repeat' first
      | with_reducible assumption
      | with_reducible apply ackOne_keep
      | (extract_lets +onlyGivenNames x
         first
           | (refine (fun (hx : Keep sB x) => ?_) ?_; clear_value x; rotate_left; subst x)
           | (have := fun a => x a; clear this; subst x)
           | clear_value x
           | subst x)
      | split
      | (with_reducible apply Keep.ofMk; with_reducible apply Keep.fold)
  | succ n ih =>
    first | rw [ackMany] | unfold ackMany
    repeat' first
      | with_reducible assumption
      | with_reducible apply ih
      | with_reducible apply ackOne_keep
      | (extract_lets +onlyGivenNames x
         first
           | (refine (fun (hx : Keep sB x) => ?_) ?_; clear_value x; rotate_left; subst x)
           | (have := fun a => x a; clear this; subst x)
           | clear_value x
           | subst x)
      | split
      | (with_reducible apply Keep.ofMk; with_reducible apply Keep.fold)

theorem execAck_keep {sB : State} {p : Fin 16} {rec : Record} {s : State}
    (hs : Keep sB s) : KeepN sB (execAck p rec s) := by
  unfold execAck
  repeat' first
    | with_reducible assumption
    | intro _
    | with_reducible apply malformed_keep
    | with_reducible apply arrives_keep
    | with_reducible apply routed_keep
    | with_reducible apply ackMany_keep
    | with_reducible apply KeepN.next
    | with_reducible apply KeepN.fault
    | with_reducible apply KeepN.refused
    | (extract_lets +onlyGivenNames x
       first
         | (refine (fun (hx : Keep sB x) => ?_) ?_; clear_value x; rotate_left; subst x)
         | (refine (fun (hx : KeepN sB x) => ?_) ?_; clear_value x; rotate_left; subst x)
         | (have := fun a => x a; clear this; subst x)
         | clear_value x
         | subst x)
    | with_reducible apply Keep.ite
    | with_reducible apply KeepN.ite
    | split
    | (with_reducible apply KeepN.of_next; with_reducible assumption)
    | (with_reducible apply KeepN.un_next; with_reducible assumption)

theorem mcastReject_keep {sB : State} {s : State} {rec : Record} {cause : Nat} {p : Nat}
    (hs : Keep sB s) : KeepO sB (mcastReject s rec cause p) := by
  unfold mcastReject
  cases s.mcasts.find? (fun c => c.addr = rec.addr && !c.acked.contains rec.src) with
  | none => exact KeepO.none
  | some c => exact KeepO.some (reqRejected_keep (hs.same rfl))

theorem execReject_keep {sB : State} {p : Fin 16} {rec : Record} {s : State}
    (hs : Keep sB s) : KeepN sB (execReject p rec s) := by
  unfold execReject
  repeat' first
    | with_reducible assumption
    | intro _
    | with_reducible apply KeepO.map
    | with_reducible apply KeepO.getD
    | with_reducible apply malformed_keep
    | with_reducible apply reqRejected_keep
    | with_reducible apply arrives_keep
    | with_reducible apply routed_keep
    | with_reducible apply popReq_keep
    | with_reducible apply mcastReject_keep
    | with_reducible apply KeepO.some
    | with_reducible apply KeepO.none
    | with_reducible apply KeepN.next
    | with_reducible apply KeepN.fault
    | with_reducible apply KeepN.refused
    | with_reducible apply KeepReq.some
    | with_reducible apply KeepReq.none
    | (with_reducible apply KeepP2.elim; with_reducible assumption)
    | (with_reducible apply KeepP2.elimM; with_reducible assumption)
    | (with_reducible apply KeepReq.pair; with_reducible assumption)
    | (with_reducible apply KeepReq.unpair; with_reducible assumption)
    | with_reducible apply KeepReq.or
    | (extract_lets +onlyGivenNames x
       first
         | (refine (fun (hx : Keep sB x) => ?_) ?_; clear_value x; rotate_left; subst x)
         | (refine (fun (hx : KeepO sB x) => ?_) ?_; clear_value x; rotate_left; subst x)
         | (refine (fun (hx : KeepN sB x) => ?_) ?_; clear_value x; rotate_left; subst x)
         | (refine (fun (hx : KeepReq sB x) => ?_) ?_; clear_value x; rotate_left; subst x)
         | (have := fun a => x a; clear this; subst x)
         | clear_value x
         | subst x)
    | split
    | (with_reducible apply KeepO.of_some; with_reducible assumption)
    | (with_reducible apply KeepO.un_some; with_reducible assumption)
    | (with_reducible apply KeepN.of_next; with_reducible assumption)
    | (with_reducible apply KeepN.un_next; with_reducible assumption)
    | (with_reducible apply KeepReq.of_some; with_reducible assumption)
    | (with_reducible apply KeepReq.un_some; with_reducible assumption)
    | with_reducible apply KeepP2.mk
    | (with_reducible apply Keep.ofMk; with_reducible apply Keep.fold)

theorem execKaddRecord_keep {sB : State} {p : Fin 16} {rec : Record} {s : State}
    (hs : Keep sB s) : KeepN sB (execKaddRecord p rec s) := by
  unfold execKaddRecord
  repeat' first
    | with_reducible assumption
    | intro _
    | with_reducible apply openReq_keep
    | with_reducible apply answerNow_keep
    | with_reducible apply fromWeft_keep
    | with_reducible apply arrivesIn_keep
    | with_reducible apply routed_keep
    | with_reducible apply KeepN.next
    | with_reducible apply KeepN.fault
    | with_reducible apply KeepN.refused
    | with_reducible apply Keep.ite
    | with_reducible apply KeepN.ite
    | split
    | (with_reducible apply KeepN.of_next; with_reducible assumption)
    | (with_reducible apply KeepN.un_next; with_reducible assumption)

theorem execMcast_keep {sB : State} {p : Fin 16} {rec : Record} {s : State}
    (hs : Keep sB s) : KeepN sB (execMcast p rec s) := by
  unfold execMcast
  repeat' first
    | with_reducible assumption
    | intro _
    | with_reducible apply openReq_keep
    | with_reducible apply answerNow_keep
    | with_reducible apply ShRes.next_keep
    | with_reducible apply fromWeft_keep
    | with_reducible apply arrives_keep
    | with_reducible apply KeepN.next
    | with_reducible apply KeepN.fault
    | with_reducible apply KeepN.refused
    | with_reducible apply KeepSh.ok
    | with_reducible apply KeepSh.bad
    | with_reducible apply KeepSh.wait
    | (extract_lets +onlyGivenNames x
       first
         | (refine (fun (hx : Keep sB x) => ?_) ?_; clear_value x; rotate_left; subst x)
         | (refine (fun (hx : KeepN sB x) => ?_) ?_; clear_value x; rotate_left; subst x)
         | (refine (fun (hx : KeepSh sB x) => ?_) ?_; clear_value x; rotate_left; subst x)
         | (have := fun a => x a; clear this; subst x)
         | clear_value x
         | subst x)
    | with_reducible apply Keep.ite
    | with_reducible apply KeepN.ite
    | with_reducible apply KeepSh.ite
    | split
    | (with_reducible apply KeepN.of_next; with_reducible assumption)
    | (with_reducible apply KeepN.un_next; with_reducible assumption)
    | (with_reducible apply KeepSh.of_ok; with_reducible assumption)
    | (with_reducible apply KeepSh.un_ok; with_reducible assumption)
    | (with_reducible apply KeepSh.of_bad; with_reducible assumption)
    | (with_reducible apply KeepSh.un_bad; with_reducible assumption)
    | (with_reducible apply KeepSh.of_wait; with_reducible assumption)
    | (with_reducible apply KeepSh.un_wait; with_reducible assumption)

theorem execSnap_keep {sB : State} {p : Fin 16} {rec : Record} {s : State}
    (hs : Keep sB s) : KeepN sB (execSnap p rec s) := by
  unfold execSnap
  repeat' first
    | with_reducible assumption
    | intro _
    | with_reducible apply answerNow_keep
    | with_reducible apply arrives_keep
    | with_reducible apply routed_keep
    | with_reducible apply KeepN.next
    | with_reducible apply KeepN.fault
    | with_reducible apply KeepN.refused
    | split
    | (with_reducible apply KeepN.of_next; with_reducible assumption)
    | (with_reducible apply KeepN.un_next; with_reducible assumption)

theorem heldCheck_keep {sB : State} {s : State} {r : Record} {ecc : Ecc}
    (hs : Keep sB s) : Keep sB (heldCheck s r ecc) := by
  unfold heldCheck
  repeat' first
    | with_reducible assumption
    | intro _
    | with_reducible apply plyErr_keep
    | with_reducible apply palSingle_keep
    | (extract_lets +onlyGivenNames x
       first
         | (refine (fun (hx : Keep sB x) => ?_) ?_; clear_value x; rotate_left; subst x)
         | (have := fun a => x a; clear this; subst x)
         | clear_value x
         | subst x)
    | with_reducible apply Keep.ite
    | split
    | (with_reducible apply Keep.ofMk; with_reducible apply Keep.fold)

theorem execAcc_keep {sB : State} {p : Fin 16} {rec : Record} {ecc : Ecc} {s : State}
    (hs : Keep sB s) : KeepN sB (execAcc p rec ecc s) := by
  unfold execAcc
  repeat' first
    | with_reducible assumption
    | intro _
    | with_reducible apply State.accept_keep
    | with_reducible apply openReq_keep
    | with_reducible apply malformed_keep
    | with_reducible apply rxConsume_keep
    | with_reducible apply finish_keep
    | with_reducible apply accept_keep
    | with_reducible apply ShRes.next_keep
    | with_reducible apply routed_keep
    | with_reducible apply heldCheck_keep
    | with_reducible apply KeepN.next
    | with_reducible apply KeepN.fault
    | with_reducible apply KeepN.refused
    | with_reducible apply KeepSh.ok
    | with_reducible apply KeepSh.bad
    | with_reducible apply KeepSh.wait
    | (extract_lets +onlyGivenNames x
       first
         | (refine (fun (hx : Keep sB x) => ?_) ?_; clear_value x; rotate_left; subst x)
         | (refine (fun (hx : KeepN sB x) => ?_) ?_; clear_value x; rotate_left; subst x)
         | (refine (fun (hx : KeepSh sB x) => ?_) ?_; clear_value x; rotate_left; subst x)
         | (have := fun a => x a; clear this; subst x)
         | clear_value x
         | subst x)
    | with_reducible apply Keep.ite
    | with_reducible apply KeepN.ite
    | with_reducible apply KeepSh.ite
    | split
    | (with_reducible apply KeepN.of_next; with_reducible assumption)
    | (with_reducible apply KeepN.un_next; with_reducible assumption)
    | (with_reducible apply KeepSh.of_ok; with_reducible assumption)
    | (with_reducible apply KeepSh.un_ok; with_reducible assumption)
    | (with_reducible apply KeepSh.of_bad; with_reducible assumption)
    | (with_reducible apply KeepSh.un_bad; with_reducible assumption)
    | (with_reducible apply KeepSh.of_wait; with_reducible assumption)
    | (with_reducible apply KeepSh.un_wait; with_reducible assumption)

theorem execTimeExchange_keep {sB : State} {s : State}
    (hs : Keep sB s) : KeepN sB (execTimeExchange s) := by
  unfold execTimeExchange
  repeat' first
    | with_reducible assumption
    | intro _
    | with_reducible apply putRecord_keep
    | with_reducible apply finish_keep
    | with_reducible apply ShRes.next_keep
    | with_reducible apply lnkCorr_keep
    | with_reducible apply KeepN.next
    | with_reducible apply KeepN.fault
    | with_reducible apply KeepN.refused
    | with_reducible apply KeepSh.ok
    | with_reducible apply KeepSh.bad
    | with_reducible apply KeepSh.wait
    | (extract_lets +onlyGivenNames x
       first
         | (refine (fun (hx : Keep sB x) => ?_) ?_; clear_value x; rotate_left; subst x)
         | (refine (fun (hx : KeepN sB x) => ?_) ?_; clear_value x; rotate_left; subst x)
         | (refine (fun (hx : KeepSh sB x) => ?_) ?_; clear_value x; rotate_left; subst x)
         | (have := fun a => x a; clear this; subst x)
         | clear_value x
         | subst x)
    | with_reducible apply Keep.ite
    | with_reducible apply KeepN.ite
    | with_reducible apply KeepSh.ite
    | split
    | (with_reducible apply KeepN.of_next; with_reducible assumption)
    | (with_reducible apply KeepN.un_next; with_reducible assumption)
    | (with_reducible apply KeepSh.of_ok; with_reducible assumption)
    | (with_reducible apply KeepSh.un_ok; with_reducible assumption)
    | (with_reducible apply KeepSh.of_bad; with_reducible assumption)
    | (with_reducible apply KeepSh.un_bad; with_reducible assumption)
    | (with_reducible apply KeepSh.of_wait; with_reducible assumption)
    | (with_reducible apply KeepSh.un_wait; with_reducible assumption)
    | (with_reducible apply Keep.ofMk; with_reducible apply Keep.fold)

theorem execTime_keep {sB : State} {p : Fin 16} {rec : Record} {replayed : Bool} {s : State}
    (hs : Keep sB s) : KeepN sB (execTime p rec replayed s) := by
  unfold execTime
  repeat' first
    | with_reducible assumption
    | intro _
    | with_reducible apply putRecord_keep
    | with_reducible apply malformed_keep
    | with_reducible apply correctMaster_keep
    | with_reducible apply arrives_keep
    | with_reducible apply KeepN.next
    | with_reducible apply KeepN.fault
    | with_reducible apply KeepN.refused
    | (extract_lets +onlyGivenNames x
       first
         | (refine (fun (hx : Keep sB x) => ?_) ?_; clear_value x; rotate_left; subst x)
         | (refine (fun (hx : KeepN sB x) => ?_) ?_; clear_value x; rotate_left; subst x)
         | (have := fun a => x a; clear this; subst x)
         | clear_value x
         | subst x)
    | with_reducible apply Keep.ite
    | with_reducible apply KeepN.ite
    | split
    | (with_reducible apply KeepN.of_next; with_reducible assumption)
    | (with_reducible apply KeepN.un_next; with_reducible assumption)
    | (with_reducible apply Keep.ofMk; with_reducible apply Keep.fold)

theorem writeKadd_keep {sB : State} {s : State} {v : Nat}
    (hs : Keep sB s) : Keep sB (writeKadd s v) := by
  unfold writeKadd
  repeat' first
    | with_reducible assumption
    | with_reducible apply sendNoted_keep
    | with_reducible apply sendNoted_keep_st
    | with_reducible apply knotAddG_keep
    | (extract_lets +onlyGivenNames x
       first
         | (refine (fun (hx : Keep sB x) => ?_) ?_; clear_value x; rotate_left; subst x)
         | (refine (fun (hx : Keep1 sB x) => ?_) ?_; clear_value x; have hx2 := Keep1.proj hx; rotate_left; subst x)
         | (have := fun a => x a; clear this; subst x)
         | clear_value x
         | subst x)
    | with_reducible apply Keep.ite
    | with_reducible apply Keep1.ite
    | split
    | (with_reducible apply Keep1.elim; with_reducible assumption)
    | (with_reducible apply Keep1.elimM; with_reducible assumption)
    | with_reducible apply Keep1.mk

theorem execLnkKadd_keep {sB : State} {value : BitVec 64} {s : State}
    (hs : Keep sB s) : KeepN sB (execLnkKadd value s) := by
  unfold execLnkKadd
  repeat' first
    | with_reducible assumption
    | intro _
    | with_reducible apply finish_keep
    | with_reducible apply ShRes.next_keep
    | with_reducible apply writeKadd_keep
    | with_reducible apply KeepN.next
    | with_reducible apply KeepN.fault
    | with_reducible apply KeepN.refused
    | with_reducible apply KeepSh.ok
    | with_reducible apply KeepSh.bad
    | with_reducible apply KeepSh.wait
    | with_reducible apply Keep.ite
    | with_reducible apply KeepN.ite
    | with_reducible apply KeepSh.ite
    | split
    | (with_reducible apply KeepN.of_next; with_reducible assumption)
    | (with_reducible apply KeepN.un_next; with_reducible assumption)
    | (with_reducible apply KeepSh.of_ok; with_reducible assumption)
    | (with_reducible apply KeepSh.un_ok; with_reducible assumption)
    | (with_reducible apply KeepSh.of_bad; with_reducible assumption)
    | (with_reducible apply KeepSh.un_bad; with_reducible assumption)
    | (with_reducible apply KeepSh.of_wait; with_reducible assumption)
    | (with_reducible apply KeepSh.un_wait; with_reducible assumption)

theorem putFields_keep {sB : State} {s : State} {l : List Ref} {v : Nat}
    (hs : Keep sB s) : Keep sB (putFields s l v) := by
  unfold putFields
  repeat' first
    | with_reducible assumption
    | intro _
    | with_reducible apply State.put_keep
    | with_reducible apply Keep.foldl
    | split

theorem scanon_folds {α : Type} (l : List α) (lo len : α → Nat) :
    ∀ (r : Sparse Nat), scanon 0 r = true → scanon 0 (l.foldl (fun r f => sclear r (lo f) (len f)) r) = true := by
  induction l with
  | nil => intro r h; exact h
  | cons x t ih => intro r h; exact ih _ (scanon_sclear 0 _ _ _ h)

theorem glazeShadows_keep {sB s : State} {ops : List GlazeOp} (hs : Keep sB s) : Keep sB (glazeShadows s ops) := by
  unfold glazeShadows
  refine Keep.foldl _ _ _ (hs.regs _ (scanon_folds _ _ _ _)) (fun u o h => ?_)
  split
  · exact putFields_keep h
  · exact h

theorem glazeRest_keep {sB s : State} {ops : List GlazeOp} (hs : Keep sB s) : Keep sB (glazeRest s ops) := by
  unfold glazeRest
  refine Keep.foldl _ _ _ (Keep.foldl _ _ _ (hs.regs _ (fun h => ?_)) (fun u p h => State.put_keep h)) (fun u o h => ?_)
  · exact scanon_sclear 0 _ _ _ (scanon_folds _ _ _ _ h)
  · split
    · exact h
    · exact putFields_keep h
    · exact putFields_keep h
    · exact State.put_keep h

theorem takeShadows_keep {sB : State} {s : State}
    (hs : Keep sB s) : Keep sB (takeShadows s) := by
  unfold takeShadows
  repeat' first
    | with_reducible assumption
    | intro _
    | (extract_lets +onlyGivenNames x
       first
         | (refine (fun (hx : Keep sB x) => ?_) ?_; clear_value x; rotate_left; subst x)
         | (have := fun a => x a; clear this; subst x)
         | clear_value x
         | subst x)
    | split
    | (with_reducible apply Keep.ofMk; with_reducible apply Keep.fold)

theorem applyGlaze_keep {sB : State} {s : State} {g : Nat}
    (hs : Keep sB s) : Keep sB (applyGlaze s g) := by
  unfold applyGlaze
  repeat' first
    | with_reducible assumption
    | with_reducible apply State.put_keep
    | with_reducible apply glazeShadows_keep
    | with_reducible apply glazeRest_keep
    | with_reducible apply takeShadows_keep
    | (extract_lets +onlyGivenNames x
       first
         | (refine (fun (hx : Keep sB x) => ?_) ?_; clear_value x; rotate_left; subst x)
         | (have := fun a => x a; clear this; subst x)
         | clear_value x
         | subst x)
    | split

theorem restartGlazes_keep {sB : State} {s : State}
    (hs : Keep sB s) : Keep sB (restartGlazes s) := by
  unfold restartGlazes
  repeat' first
    | with_reducible assumption
    | with_reducible apply State.put_keep
    | (extract_lets +onlyGivenNames x
       first
         | (refine (fun (hx : Keep sB x) => ?_) ?_; clear_value x; rotate_left; subst x)
         | (have := fun a => x a; clear this; subst x)
         | clear_value x
         | subst x)
    | split
    | (with_reducible apply Keep.ofMk; with_reducible apply Keep.fold)

theorem execGlazeRequest_keep {sB : State} {ecc : Ecc} {s : State}
    (hs : Keep sB s) : KeepN sB (execGlazeRequest ecc s) := by
  unfold execGlazeRequest
  repeat' first
    | with_reducible assumption
    | intro _
    | with_reducible apply State.put_keep
    | with_reducible apply refuseGlaze_keep
    | with_reducible apply finish_keep
    | with_reducible apply frameCheck_keep
    | with_reducible apply frameCheck_keep_st
    | with_reducible apply ShRes.next_keep
    | with_reducible apply glazeShadows_keep
    | with_reducible apply KeepN.next
    | with_reducible apply KeepN.fault
    | with_reducible apply KeepN.refused
    | with_reducible apply KeepSh.ok
    | with_reducible apply KeepSh.bad
    | with_reducible apply KeepSh.wait
    | (extract_lets +onlyGivenNames x
       first
         | (refine (fun (hx : Keep sB x) => ?_) ?_; clear_value x; rotate_left; subst x)
         | (refine (fun (hx : Keep1 sB x) => ?_) ?_; clear_value x; have hx2 := Keep1.proj hx; rotate_left; subst x)
         | (refine (fun (hx : KeepN sB x) => ?_) ?_; clear_value x; rotate_left; subst x)
         | (refine (fun (hx : KeepSh sB x) => ?_) ?_; clear_value x; rotate_left; subst x)
         | (have := fun a => x a; clear this; subst x)
         | clear_value x
         | subst x)
    | with_reducible apply Keep.ite
    | with_reducible apply Keep1.ite
    | with_reducible apply KeepN.ite
    | with_reducible apply KeepSh.ite
    | split
    | (with_reducible apply Keep1.elim; with_reducible assumption)
    | (with_reducible apply Keep1.elimM; with_reducible assumption)
    | (with_reducible apply KeepN.of_next; with_reducible assumption)
    | (with_reducible apply KeepN.un_next; with_reducible assumption)
    | (with_reducible apply KeepSh.of_ok; with_reducible assumption)
    | (with_reducible apply KeepSh.un_ok; with_reducible assumption)
    | (with_reducible apply KeepSh.of_bad; with_reducible assumption)
    | (with_reducible apply KeepSh.un_bad; with_reducible assumption)
    | (with_reducible apply KeepSh.of_wait; with_reducible assumption)
    | (with_reducible apply KeepSh.un_wait; with_reducible assumption)
    | with_reducible apply Keep1.mk
    | (with_reducible apply Keep.ofMk; with_reducible apply Keep.fold)

theorem switchGlaze_keep {sB : State} {s : State} {g : Nat}
    (hs : Keep sB s) : Keep sB (switchGlaze s g) := by
  unfold switchGlaze
  repeat' first
    | with_reducible assumption
    | with_reducible apply State.put_keep
    | with_reducible apply knotAddG_keep
    | with_reducible apply glazeRest_keep
    | with_reducible apply takeShadows_keep
    | (extract_lets +onlyGivenNames x
       first
         | (refine (fun (hx : Keep sB x) => ?_) ?_; clear_value x; rotate_left; subst x)
         | (have := fun a => x a; clear this; subst x)
         | clear_value x
         | subst x)
    | split
    | (with_reducible apply Keep.ofMk; with_reducible apply Keep.fold)

theorem execGlazeSwitch_keep {sB : State} {s : State}
    (hs : Keep sB s) : KeepN sB (execGlazeSwitch s) := by
  unfold execGlazeSwitch
  repeat' first
    | with_reducible assumption
    | intro _
    | with_reducible apply refuseGlaze_keep
    | with_reducible apply segErrorAs_keep
    | with_reducible apply finish_keep
    | with_reducible apply ShRes.next_keep
    | with_reducible apply switchGlaze_keep
    | with_reducible apply KeepN.next
    | with_reducible apply KeepN.fault
    | with_reducible apply KeepN.refused
    | with_reducible apply KeepSh.ok
    | with_reducible apply KeepSh.bad
    | with_reducible apply KeepSh.wait
    | (extract_lets +onlyGivenNames x
       first
         | (refine (fun (hx : Keep sB x) => ?_) ?_; clear_value x; rotate_left; subst x)
         | (refine (fun (hx : KeepN sB x) => ?_) ?_; clear_value x; rotate_left; subst x)
         | (refine (fun (hx : KeepSh sB x) => ?_) ?_; clear_value x; rotate_left; subst x)
         | (have := fun a => x a; clear this; subst x)
         | clear_value x
         | subst x)
    | with_reducible apply Keep.ite
    | with_reducible apply KeepN.ite
    | with_reducible apply KeepSh.ite
    | split
    | (with_reducible apply KeepN.of_next; with_reducible assumption)
    | (with_reducible apply KeepN.un_next; with_reducible assumption)
    | (with_reducible apply KeepSh.of_ok; with_reducible assumption)
    | (with_reducible apply KeepSh.un_ok; with_reducible assumption)
    | (with_reducible apply KeepSh.of_bad; with_reducible assumption)
    | (with_reducible apply KeepSh.un_bad; with_reducible assumption)
    | (with_reducible apply KeepSh.of_wait; with_reducible assumption)
    | (with_reducible apply KeepSh.un_wait; with_reducible assumption)
    | (with_reducible apply Keep.ofMk; with_reducible apply Keep.fold)

theorem setStepCount_keep {sB : State} {s : State} {i : Nat} {v : Nat}
    (hs : Keep sB s) : Keep sB (setStepCount s i v) := by
  unfold setStepCount
  repeat' first
    | with_reducible assumption
    | with_reducible apply State.put_keep

theorem haltJob_keep {sB : State} {s : State}
    (hs : Keep sB s) : Keep sB (haltJob s) := by
  unfold haltJob
  repeat' first
    | with_reducible assumption
    | intro _
    | with_reducible apply haltCores_keep
    | with_reducible apply Keep.foldl

theorem restoreWays_keep {sB : State} {s : State} {l : List Nat}
    (hs : Keep sB s) : Keep sB (restoreWays s l) := by
  unfold restoreWays
  repeat' first
    | with_reducible assumption
    | intro _
    | with_reducible apply writeWays_keep
    | with_reducible apply Keep.foldl
    | split

theorem endJob_keep {sB : State} {s : State} {status : Nat} {detail : Nat}
    (hs : Keep sB s) : Keep sB (endJob s status detail) := by
  unfold endJob
  repeat' first
    | with_reducible assumption
    | with_reducible apply State.put_keep
    | with_reducible apply completeJob_keep
    | with_reducible apply abortJob_keep
    | with_reducible apply haltJob_keep
    | with_reducible apply restoreWays_keep
    | (extract_lets +onlyGivenNames x
       first
         | (refine (fun (hx : Keep sB x) => ?_) ?_; clear_value x; rotate_left; subst x)
         | (have := fun a => x a; clear this; subst x)
         | clear_value x
         | subst x)
    | with_reducible apply Keep.ite
    | split
    | (with_reducible apply Keep.ofMk; with_reducible apply Keep.fold)

theorem logJobEnd_keep {sB : State} {s : State}
    (hs : Keep sB s) : Keep sB (logJobEnd s) := by
  unfold logJobEnd
  repeat' first
    | with_reducible assumption
    | with_reducible apply State.logErr_keep

theorem failJob_keep {sB : State} {s : State}
    (hs : Keep sB s) : Keep sB (failJob s) := by
  unfold failJob
  repeat' first
    | with_reducible assumption
    | with_reducible apply endJob_keep
    | with_reducible apply logJobEnd_keep

theorem emptyOwners_keep {sB : State} {s : State}
    (hs : Keep sB s) : Keep sB (emptyOwners s) := by
  unfold emptyOwners
  repeat' first
    | with_reducible assumption
    | intro _
    | with_reducible apply knotAddG_keep
    | with_reducible apply Keep.foldl
    | (extract_lets +onlyGivenNames x
       first
         | (refine (fun (hx : Keep sB x) => ?_) ?_; clear_value x; rotate_left; subst x)
         | (have := fun a => x a; clear this; subst x)
         | clear_value x
         | subst x)
    | split
    | (with_reducible apply Keep.ofMk; with_reducible apply Keep.fold)

theorem enterRun_keep {sB : State} {s : State}
    (hs : Keep sB s) : Keep sB (enterRun s) := by
  unfold enterRun
  repeat' first
    | with_reducible assumption
    | with_reducible apply State.put_keep
    | with_reducible apply emptyOwners_keep
    | (extract_lets +onlyGivenNames x
       first
         | (refine (fun (hx : Keep sB x) => ?_) ?_; clear_value x; rotate_left; subst x)
         | (have := fun a => x a; clear this; subst x)
         | clear_value x
         | subst x)
    | (with_reducible apply Keep.ofMk; with_reducible apply Keep.fold)

theorem beginStep_keep {sB : State} {s : State}
    (hs : Keep sB s) : Keep sB (beginStep s) := by
  unfold beginStep
  repeat' first
    | with_reducible assumption
    | with_reducible apply stepFail_keep
    | with_reducible apply enterRun_keep
    | (extract_lets +onlyGivenNames x
       first
         | (refine (fun (hx : Keep sB x) => ?_) ?_; clear_value x; rotate_left; subst x)
         | (have := fun a => x a; clear this; subst x)
         | clear_value x
         | subst x)
    | with_reducible apply Keep.ite
    | split
    | (with_reducible apply Keep.ofMk; with_reducible apply Keep.fold)

theorem execStepArrive_keep {sB : State} {s : State}
    (hs : Keep sB s) : KeepN sB (execStepArrive s) := by
  unfold execStepArrive
  repeat' first
    | with_reducible assumption
    | intro _
    | with_reducible apply State.put_keep
    | with_reducible apply signal_keep
    | with_reducible apply finish_keep
    | with_reducible apply ShRes.next_keep
    | with_reducible apply KeepN.next
    | with_reducible apply KeepN.fault
    | with_reducible apply KeepN.refused
    | with_reducible apply KeepSh.ok
    | with_reducible apply KeepSh.bad
    | with_reducible apply KeepSh.wait
    | with_reducible apply Keep.ite
    | with_reducible apply KeepN.ite
    | with_reducible apply KeepSh.ite
    | split
    | (with_reducible apply KeepN.of_next; with_reducible assumption)
    | (with_reducible apply KeepN.un_next; with_reducible assumption)
    | (with_reducible apply KeepSh.of_ok; with_reducible assumption)
    | (with_reducible apply KeepSh.un_ok; with_reducible assumption)
    | (with_reducible apply KeepSh.of_bad; with_reducible assumption)
    | (with_reducible apply KeepSh.un_bad; with_reducible assumption)
    | (with_reducible apply KeepSh.of_wait; with_reducible assumption)
    | (with_reducible apply KeepSh.un_wait; with_reducible assumption)

theorem execStepDeadline_keep {sB : State} {s : State}
    (hs : Keep sB s) : KeepN sB (execStepDeadline s) := by
  unfold execStepDeadline
  repeat' first
    | with_reducible assumption
    | intro _
    | with_reducible apply State.put_keep
    | with_reducible apply State.logErr_keep
    | with_reducible apply State.stepErr_keep
    | with_reducible apply finish_keep
    | with_reducible apply ShRes.next_keep
    | with_reducible apply Keep.foldl
    | with_reducible apply KeepN.next
    | with_reducible apply KeepN.fault
    | with_reducible apply KeepN.refused
    | with_reducible apply KeepSh.ok
    | with_reducible apply KeepSh.bad
    | with_reducible apply KeepSh.wait
    | (extract_lets +onlyGivenNames x
       first
         | (refine (fun (hx : Keep sB x) => ?_) ?_; clear_value x; rotate_left; subst x)
         | (refine (fun (hx : KeepN sB x) => ?_) ?_; clear_value x; rotate_left; subst x)
         | (refine (fun (hx : KeepSh sB x) => ?_) ?_; clear_value x; rotate_left; subst x)
         | (have := fun a => x a; clear this; subst x)
         | clear_value x
         | subst x)
    | with_reducible apply Keep.ite
    | with_reducible apply KeepN.ite
    | with_reducible apply KeepSh.ite
    | split
    | (with_reducible apply KeepN.of_next; with_reducible assumption)
    | (with_reducible apply KeepN.un_next; with_reducible assumption)
    | (with_reducible apply KeepSh.of_ok; with_reducible assumption)
    | (with_reducible apply KeepSh.un_ok; with_reducible assumption)
    | (with_reducible apply KeepSh.of_bad; with_reducible assumption)
    | (with_reducible apply KeepSh.un_bad; with_reducible assumption)
    | (with_reducible apply KeepSh.of_wait; with_reducible assumption)
    | (with_reducible apply KeepSh.un_wait; with_reducible assumption)

theorem latchStats_keep {sB : State} {s : State}
    (hs : Keep sB s) : Keep sB (latchStats s) := by
  unfold latchStats
  repeat' first
    | with_reducible assumption
    | intro _
    | with_reducible apply State.put_keep
    | with_reducible apply Keep.foldl
    | (extract_lets +onlyGivenNames x
       first
         | (refine (fun (hx : Keep sB x) => ?_) ?_; clear_value x; rotate_left; subst x)
         | (have := fun a => x a; clear this; subst x)
         | clear_value x
         | subst x)
    | split
    | (with_reducible apply Keep.ofMk; with_reducible apply Keep.fold)

theorem drainAll_keep {sB : State} {s : State}
    (hs : Keep sB s) : Keep sB (drainAll s) := by
  unfold drainAll
  repeat' first
    | with_reducible assumption
    | intro _
    | with_reducible apply takePiece_keep
    | with_reducible apply accRetry_keep
    | with_reducible apply Keep.foldl
    | with_reducible apply KeepPiece.done
    | with_reducible apply KeepPiece.noSlot
    | (extract_lets +onlyGivenNames x
       first
         | (refine (fun (hx : Keep sB x) => ?_) ?_; clear_value x; rotate_left; subst x)
         | (refine (fun (hx : KeepPiece sB x) => ?_) ?_; clear_value x; rotate_left; subst x)
         | (have := fun a => x a; clear this; subst x)
         | clear_value x
         | subst x)
    | split
    | (with_reducible apply KeepPiece.of_done; with_reducible assumption)
    | (with_reducible apply KeepPiece.un_done; with_reducible assumption)
    | (with_reducible apply Keep.ofMk; with_reducible apply Keep.fold)

theorem addGo_keep {sB : State} {s : State} {wait : Bool}
    (hs : Keep sB s) : Keep sB (addGo s wait) := by
  unfold addGo
  repeat' first
    | with_reducible assumption
    | with_reducible apply knotAddG_keep
    | (extract_lets +onlyGivenNames x
       first
         | (refine (fun (hx : Keep sB x) => ?_) ?_; clear_value x; rotate_left; subst x)
         | (have := fun a => x a; clear this; subst x)
         | clear_value x
         | subst x)
    | with_reducible apply Keep.ite
    | split
    | (with_reducible apply Keep.ofMk; with_reducible apply Keep.fold)

theorem commitStep_keep {sB : State} {s : State} {wait : Bool}
    (hs : Keep sB s) : Keep sB (commitStep s wait) := by
  unfold commitStep
  repeat' first
    | with_reducible assumption
    | with_reducible apply State.put_keep
    | with_reducible apply restartGlazes_keep
    | with_reducible apply setStepCount_keep
    | with_reducible apply endJob_keep
    | with_reducible apply beginStep_keep
    | with_reducible apply latchStats_keep
    | with_reducible apply drainAll_keep
    | with_reducible apply addGo_keep
    | (extract_lets +onlyGivenNames x
       first
         | (refine (fun (hx : Keep sB x) => ?_) ?_; clear_value x; rotate_left; subst x)
         | (have := fun a => x a; clear this; subst x)
         | clear_value x
         | subst x)
    | with_reducible apply Keep.ite
    | split
    | (with_reducible apply Keep.ofMk; with_reducible apply Keep.fold)

theorem execCommit_keep {sB : State} {s : State}
    (hs : Keep sB s) : KeepN sB (execCommit s) := by
  unfold execCommit
  repeat' first
    | with_reducible assumption
    | intro _
    | with_reducible apply finish_keep
    | with_reducible apply ShRes.next_keep
    | with_reducible apply commitStep_keep
    | with_reducible apply KeepN.next
    | with_reducible apply KeepN.fault
    | with_reducible apply KeepN.refused
    | with_reducible apply KeepSh.ok
    | with_reducible apply KeepSh.bad
    | with_reducible apply KeepSh.wait
    | (extract_lets +onlyGivenNames x
       first
         | (refine (fun (hx : Keep sB x) => ?_) ?_; clear_value x; rotate_left; subst x)
         | (refine (fun (hx : KeepN sB x) => ?_) ?_; clear_value x; rotate_left; subst x)
         | (refine (fun (hx : KeepSh sB x) => ?_) ?_; clear_value x; rotate_left; subst x)
         | (have := fun a => x a; clear this; subst x)
         | clear_value x
         | subst x)
    | with_reducible apply Keep.ite
    | with_reducible apply KeepN.ite
    | with_reducible apply KeepSh.ite
    | split
    | (with_reducible apply KeepN.of_next; with_reducible assumption)
    | (with_reducible apply KeepN.un_next; with_reducible assumption)
    | (with_reducible apply KeepSh.of_ok; with_reducible assumption)
    | (with_reducible apply KeepSh.un_ok; with_reducible assumption)
    | (with_reducible apply KeepSh.of_bad; with_reducible assumption)
    | (with_reducible apply KeepSh.un_bad; with_reducible assumption)
    | (with_reducible apply KeepSh.of_wait; with_reducible assumption)
    | (with_reducible apply KeepSh.un_wait; with_reducible assumption)
    | (with_reducible apply Keep.ofMk; with_reducible apply Keep.fold)

theorem clearSpindles_keep {sB : State} {s : State}
    (hs : Keep sB s) : Keep sB (clearSpindles s) := by
  unfold clearSpindles
  repeat' first
    | with_reducible assumption
    | intro _
    | (extract_lets +onlyGivenNames x
       first
         | (refine (fun (hx : Keep sB x) => ?_) ?_; clear_value x; rotate_left; subst x)
         | (have := fun a => x a; clear this; subst x)
         | clear_value x
         | subst x)
    | split
    | (with_reducible apply Keep.ofMk; with_reducible apply Keep.fold)

theorem enterQuiesce_keep {sB : State} {s : State}
    (hs : Keep sB s) : Keep sB (enterQuiesce s) := by
  unfold enterQuiesce
  repeat' first
    | with_reducible assumption
    | with_reducible apply State.put_keep
    | with_reducible apply State.bump_keep
    | with_reducible apply State.logErr_keep
    | with_reducible apply abortJob_keep
    | with_reducible apply accRetry_keep
    | with_reducible apply setStepCount_keep
    | with_reducible apply clearSpindles_keep
    | (extract_lets +onlyGivenNames x
       first
         | (refine (fun (hx : Keep sB x) => ?_) ?_; clear_value x; rotate_left; subst x)
         | (have := fun a => x a; clear this; subst x)
         | clear_value x
         | subst x)
    | split
    | (with_reducible apply Keep.ofMk; with_reducible apply Keep.fold)

theorem execReplay_keep {sB : State} {s : State}
    (hs : Keep sB s) : KeepN sB (execReplay s) := by
  unfold execReplay
  repeat' first
    | with_reducible assumption
    | intro _
    | with_reducible apply State.put_keep
    | with_reducible apply finish_keep
    | with_reducible apply ShRes.next_keep
    | with_reducible apply failJob_keep
    | with_reducible apply enterQuiesce_keep
    | with_reducible apply KeepN.next
    | with_reducible apply KeepN.fault
    | with_reducible apply KeepN.refused
    | with_reducible apply KeepSh.ok
    | with_reducible apply KeepSh.bad
    | with_reducible apply KeepSh.wait
    | (extract_lets +onlyGivenNames x
       first
         | (refine (fun (hx : Keep sB x) => ?_) ?_; clear_value x; rotate_left; subst x)
         | (refine (fun (hx : KeepN sB x) => ?_) ?_; clear_value x; rotate_left; subst x)
         | (refine (fun (hx : KeepSh sB x) => ?_) ?_; clear_value x; rotate_left; subst x)
         | (have := fun a => x a; clear this; subst x)
         | clear_value x
         | subst x)
    | with_reducible apply Keep.ite
    | with_reducible apply KeepN.ite
    | with_reducible apply KeepSh.ite
    | split
    | (with_reducible apply KeepN.of_next; with_reducible assumption)
    | (with_reducible apply KeepN.un_next; with_reducible assumption)
    | (with_reducible apply KeepSh.of_ok; with_reducible assumption)
    | (with_reducible apply KeepSh.un_ok; with_reducible assumption)
    | (with_reducible apply KeepSh.of_bad; with_reducible assumption)
    | (with_reducible apply KeepSh.un_bad; with_reducible assumption)
    | (with_reducible apply KeepSh.of_wait; with_reducible assumption)
    | (with_reducible apply KeepSh.un_wait; with_reducible assumption)
    | (with_reducible apply Keep.ofMk; with_reducible apply Keep.fold)

theorem execQuiesceDone_keep {sB : State} {s : State}
    (hs : Keep sB s) : KeepN sB (execQuiesceDone s) := by
  unfold execQuiesceDone
  repeat' first
    | with_reducible assumption
    | intro _
    | with_reducible apply State.put_keep
    | with_reducible apply signal_keep
    | with_reducible apply finish_keep
    | with_reducible apply ShRes.next_keep
    | with_reducible apply applyGlaze_keep
    | with_reducible apply restartGlazes_keep
    | with_reducible apply KeepN.next
    | with_reducible apply KeepN.fault
    | with_reducible apply KeepN.refused
    | with_reducible apply KeepSh.ok
    | with_reducible apply KeepSh.bad
    | with_reducible apply KeepSh.wait
    | (extract_lets +onlyGivenNames x
       first
         | (refine (fun (hx : Keep sB x) => ?_) ?_; clear_value x; rotate_left; subst x)
         | (refine (fun (hx : KeepN sB x) => ?_) ?_; clear_value x; rotate_left; subst x)
         | (refine (fun (hx : KeepSh sB x) => ?_) ?_; clear_value x; rotate_left; subst x)
         | (have := fun a => x a; clear this; subst x)
         | clear_value x
         | subst x)
    | with_reducible apply Keep.ite
    | with_reducible apply KeepN.ite
    | with_reducible apply KeepSh.ite
    | split
    | (with_reducible apply KeepN.of_next; with_reducible assumption)
    | (with_reducible apply KeepN.un_next; with_reducible assumption)
    | (with_reducible apply KeepSh.of_ok; with_reducible assumption)
    | (with_reducible apply KeepSh.un_ok; with_reducible assumption)
    | (with_reducible apply KeepSh.of_bad; with_reducible assumption)
    | (with_reducible apply KeepSh.un_bad; with_reducible assumption)
    | (with_reducible apply KeepSh.of_wait; with_reducible assumption)
    | (with_reducible apply KeepSh.un_wait; with_reducible assumption)
    | (with_reducible apply Keep.ofMk; with_reducible apply Keep.fold)

theorem loadCore_keep {sB : State} {s : State} {f : Nat} {c : Nat}
    (hs : Keep sB s) : Keep sB (loadCore s f c) := by
  unfold loadCore
  repeat' first
    | with_reducible assumption
    | with_reducible apply State.put_keep
    | with_reducible apply State.setCore_keep
    | (extract_lets +onlyGivenNames x
       first
         | (refine (fun (hx : Keep sB x) => ?_) ?_; clear_value x; rotate_left; subst x)
         | (have := fun a => x a; clear this; subst x)
         | clear_value x
         | subst x)
    | with_reducible apply Keep.ite
    | split
    | (with_reducible apply Keep.ofMk; with_reducible apply Keep.fold)

theorem startCores_keep {sB : State} {s : State}
    (hs : Keep sB s) : Keep sB (startCores s) := by
  unfold startCores
  repeat' first
    | with_reducible assumption
    | intro _
    | with_reducible apply loadCore_keep
    | with_reducible apply Keep.foldl
    | with_reducible apply Keep.ite
    | split

theorem zeroQueues_keep {sB : State} {s : State}
    (hs : Keep sB s) : Keep sB (zeroQueues s) := by
  unfold zeroQueues
  repeat' first
    | with_reducible assumption
    | intro _
    | with_reducible apply State.put_keep
    | with_reducible apply State.setQueue_keep
    | with_reducible apply Keep.foldl
    | with_reducible apply Keep.ite
    | split

theorem execResume_keep {sB : State} {s : State}
    (hs : Keep sB s) : KeepN sB (execResume s) := by
  unfold execResume
  repeat' first
    | with_reducible assumption
    | intro _
    | with_reducible apply State.put_keep
    | with_reducible apply finish_keep
    | with_reducible apply accRetry_keep
    | with_reducible apply ShRes.next_keep
    | with_reducible apply enterRun_keep
    | with_reducible apply startCores_keep
    | with_reducible apply zeroQueues_keep
    | with_reducible apply KeepN.next
    | with_reducible apply KeepN.fault
    | with_reducible apply KeepN.refused
    | with_reducible apply KeepSh.ok
    | with_reducible apply KeepSh.bad
    | with_reducible apply KeepSh.wait
    | (extract_lets +onlyGivenNames x
       first
         | (refine (fun (hx : Keep sB x) => ?_) ?_; clear_value x; rotate_left; subst x)
         | (refine (fun (hx : KeepN sB x) => ?_) ?_; clear_value x; rotate_left; subst x)
         | (refine (fun (hx : KeepSh sB x) => ?_) ?_; clear_value x; rotate_left; subst x)
         | (have := fun a => x a; clear this; subst x)
         | clear_value x
         | subst x)
    | with_reducible apply Keep.ite
    | with_reducible apply KeepN.ite
    | with_reducible apply KeepSh.ite
    | split
    | (with_reducible apply KeepN.of_next; with_reducible assumption)
    | (with_reducible apply KeepN.un_next; with_reducible assumption)
    | (with_reducible apply KeepSh.of_ok; with_reducible assumption)
    | (with_reducible apply KeepSh.un_ok; with_reducible assumption)
    | (with_reducible apply KeepSh.of_bad; with_reducible assumption)
    | (with_reducible apply KeepSh.un_bad; with_reducible assumption)
    | (with_reducible apply KeepSh.of_wait; with_reducible assumption)
    | (with_reducible apply KeepSh.un_wait; with_reducible assumption)
    | (with_reducible apply Keep.ofMk; with_reducible apply Keep.fold)

theorem signalAll_keep {sB : State} {s : State} {i : Nat}
    (hs : Keep sB s) : Keep sB (signalAll s i) := by
  unfold signalAll
  repeat' first
    | with_reducible assumption
    | intro _
    | with_reducible apply signal_keep
    | with_reducible apply Keep.foldl
    | split

theorem execRootCommit_keep {sB : State} {s : State}
    (hs : Keep sB s) : KeepN sB (execRootCommit s) := by
  unfold execRootCommit
  repeat' first
    | with_reducible assumption
    | intro _
    | with_reducible apply finish_keep
    | with_reducible apply ShRes.next_keep
    | with_reducible apply setStepCount_keep
    | with_reducible apply signalAll_keep
    | with_reducible apply KeepN.next
    | with_reducible apply KeepN.fault
    | with_reducible apply KeepN.refused
    | with_reducible apply KeepSh.ok
    | with_reducible apply KeepSh.bad
    | with_reducible apply KeepSh.wait
    | (extract_lets +onlyGivenNames x
       first
         | (refine (fun (hx : Keep sB x) => ?_) ?_; clear_value x; rotate_left; subst x)
         | (refine (fun (hx : KeepN sB x) => ?_) ?_; clear_value x; rotate_left; subst x)
         | (refine (fun (hx : KeepSh sB x) => ?_) ?_; clear_value x; rotate_left; subst x)
         | (have := fun a => x a; clear this; subst x)
         | clear_value x
         | subst x)
    | with_reducible apply Keep.ite
    | with_reducible apply KeepN.ite
    | with_reducible apply KeepSh.ite
    | split
    | (with_reducible apply KeepN.of_next; with_reducible assumption)
    | (with_reducible apply KeepN.un_next; with_reducible assumption)
    | (with_reducible apply KeepSh.of_ok; with_reducible assumption)
    | (with_reducible apply KeepSh.un_ok; with_reducible assumption)
    | (with_reducible apply KeepSh.of_bad; with_reducible assumption)
    | (with_reducible apply KeepSh.un_bad; with_reducible assumption)
    | (with_reducible apply KeepSh.of_wait; with_reducible assumption)
    | (with_reducible apply KeepSh.un_wait; with_reducible assumption)
    | (with_reducible apply Keep.ofMk; with_reducible apply Keep.fold)

theorem execRootReplay_keep {sB : State} {s : State}
    (hs : Keep sB s) : KeepN sB (execRootReplay s) := by
  unfold execRootReplay
  repeat' first
    | with_reducible assumption
    | intro _
    | with_reducible apply finish_keep
    | with_reducible apply ShRes.next_keep
    | with_reducible apply signalAll_keep
    | with_reducible apply KeepN.next
    | with_reducible apply KeepN.fault
    | with_reducible apply KeepN.refused
    | with_reducible apply KeepSh.ok
    | with_reducible apply KeepSh.bad
    | with_reducible apply KeepSh.wait
    | (extract_lets +onlyGivenNames x
       first
         | (refine (fun (hx : Keep sB x) => ?_) ?_; clear_value x; rotate_left; subst x)
         | (refine (fun (hx : KeepN sB x) => ?_) ?_; clear_value x; rotate_left; subst x)
         | (refine (fun (hx : KeepSh sB x) => ?_) ?_; clear_value x; rotate_left; subst x)
         | (have := fun a => x a; clear this; subst x)
         | clear_value x
         | subst x)
    | with_reducible apply Keep.ite
    | with_reducible apply KeepN.ite
    | with_reducible apply KeepSh.ite
    | split
    | (with_reducible apply KeepN.of_next; with_reducible assumption)
    | (with_reducible apply KeepN.un_next; with_reducible assumption)
    | (with_reducible apply KeepSh.of_ok; with_reducible assumption)
    | (with_reducible apply KeepSh.un_ok; with_reducible assumption)
    | (with_reducible apply KeepSh.of_bad; with_reducible assumption)
    | (with_reducible apply KeepSh.un_bad; with_reducible assumption)
    | (with_reducible apply KeepSh.of_wait; with_reducible assumption)
    | (with_reducible apply KeepSh.un_wait; with_reducible assumption)
    | (with_reducible apply Keep.ofMk; with_reducible apply Keep.fold)

theorem execRootResume_keep {sB : State} {s : State}
    (hs : Keep sB s) : KeepN sB (execRootResume s) := by
  unfold execRootResume
  repeat' first
    | with_reducible assumption
    | intro _
    | with_reducible apply finish_keep
    | with_reducible apply ShRes.next_keep
    | with_reducible apply setStepCount_keep
    | with_reducible apply signalAll_keep
    | with_reducible apply KeepN.next
    | with_reducible apply KeepN.fault
    | with_reducible apply KeepN.refused
    | with_reducible apply KeepSh.ok
    | with_reducible apply KeepSh.bad
    | with_reducible apply KeepSh.wait
    | (extract_lets +onlyGivenNames x
       first
         | (refine (fun (hx : Keep sB x) => ?_) ?_; clear_value x; rotate_left; subst x)
         | (refine (fun (hx : KeepN sB x) => ?_) ?_; clear_value x; rotate_left; subst x)
         | (refine (fun (hx : KeepSh sB x) => ?_) ?_; clear_value x; rotate_left; subst x)
         | (have := fun a => x a; clear this; subst x)
         | clear_value x
         | subst x)
    | with_reducible apply Keep.ite
    | with_reducible apply KeepN.ite
    | with_reducible apply KeepSh.ite
    | split
    | (with_reducible apply KeepN.of_next; with_reducible assumption)
    | (with_reducible apply KeepN.un_next; with_reducible assumption)
    | (with_reducible apply KeepSh.of_ok; with_reducible assumption)
    | (with_reducible apply KeepSh.un_ok; with_reducible assumption)
    | (with_reducible apply KeepSh.of_bad; with_reducible assumption)
    | (with_reducible apply KeepSh.un_bad; with_reducible assumption)
    | (with_reducible apply KeepSh.of_wait; with_reducible assumption)
    | (with_reducible apply KeepSh.un_wait; with_reducible assumption)
    | (with_reducible apply Keep.ofMk; with_reducible apply Keep.fold)

theorem loseRoot_keep {sB : State} {s : State}
    (hs : Keep sB s) : Keep sB (loseRoot s) := by
  unfold loseRoot
  repeat' first
    | with_reducible assumption
    | with_reducible apply State.put_keep
    | with_reducible apply State.logErr_keep
    | with_reducible apply failJob_keep
    | (extract_lets +onlyGivenNames x
       first
         | (refine (fun (hx : Keep sB x) => ?_) ?_; clear_value x; rotate_left; subst x)
         | (have := fun a => x a; clear this; subst x)
         | clear_value x
         | subst x)
    | split

theorem execRdoneTimeout_keep {sB : State} {s : State}
    (hs : Keep sB s) : KeepN sB (execRdoneTimeout s) := by
  unfold execRdoneTimeout
  repeat' first
    | with_reducible assumption
    | intro _
    | with_reducible apply finish_keep
    | with_reducible apply ShRes.next_keep
    | with_reducible apply loseRoot_keep
    | with_reducible apply KeepN.next
    | with_reducible apply KeepN.fault
    | with_reducible apply KeepN.refused
    | with_reducible apply KeepSh.ok
    | with_reducible apply KeepSh.bad
    | with_reducible apply KeepSh.wait
    | (extract_lets +onlyGivenNames x
       first
         | (refine (fun (hx : Keep sB x) => ?_) ?_; clear_value x; rotate_left; subst x)
         | (refine (fun (hx : KeepN sB x) => ?_) ?_; clear_value x; rotate_left; subst x)
         | (refine (fun (hx : KeepSh sB x) => ?_) ?_; clear_value x; rotate_left; subst x)
         | (have := fun a => x a; clear this; subst x)
         | clear_value x
         | subst x)
    | with_reducible apply Keep.ite
    | with_reducible apply KeepN.ite
    | with_reducible apply KeepSh.ite
    | split
    | (with_reducible apply KeepN.of_next; with_reducible assumption)
    | (with_reducible apply KeepN.un_next; with_reducible assumption)
    | (with_reducible apply KeepSh.of_ok; with_reducible assumption)
    | (with_reducible apply KeepSh.un_ok; with_reducible assumption)
    | (with_reducible apply KeepSh.of_bad; with_reducible assumption)
    | (with_reducible apply KeepSh.un_bad; with_reducible assumption)
    | (with_reducible apply KeepSh.of_wait; with_reducible assumption)
    | (with_reducible apply KeepSh.un_wait; with_reducible assumption)
    | (with_reducible apply Keep.ofMk; with_reducible apply Keep.fold)

theorem execRootlost_keep {sB : State} {s : State}
    (hs : Keep sB s) : KeepN sB (execRootlost s) := by
  unfold execRootlost
  repeat' first
    | with_reducible assumption
    | intro _
    | with_reducible apply finish_keep
    | with_reducible apply ShRes.next_keep
    | with_reducible apply loseRoot_keep
    | with_reducible apply KeepN.next
    | with_reducible apply KeepN.fault
    | with_reducible apply KeepN.refused
    | with_reducible apply KeepSh.ok
    | with_reducible apply KeepSh.bad
    | with_reducible apply KeepSh.wait
    | with_reducible apply Keep.ite
    | with_reducible apply KeepN.ite
    | with_reducible apply KeepSh.ite
    | split
    | (with_reducible apply KeepN.of_next; with_reducible assumption)
    | (with_reducible apply KeepN.un_next; with_reducible assumption)
    | (with_reducible apply KeepSh.of_ok; with_reducible assumption)
    | (with_reducible apply KeepSh.un_ok; with_reducible assumption)
    | (with_reducible apply KeepSh.of_bad; with_reducible assumption)
    | (with_reducible apply KeepSh.un_bad; with_reducible assumption)
    | (with_reducible apply KeepSh.of_wait; with_reducible assumption)
    | (with_reducible apply KeepSh.un_wait; with_reducible assumption)

theorem settleWays_keep {sB : State} {s : State} {sl : Nat}
    (hs : Keep sB s) : Keep sB (settleWays s sl) := by
  unfold settleWays
  repeat' first
    | with_reducible assumption
    | intro _
    | with_reducible apply endRole_keep
    | with_reducible apply Keep.foldl
    | with_reducible apply Keep.ite
    | split

theorem applyWays_keep {sB : State} {s : State} {a : LoadArg}
    (hs : Keep sB s) : Keep sB (applyWays s a) := by
  unfold applyWays
  repeat' first
    | with_reducible assumption
    | intro _
    | with_reducible apply writeWays_keep
    | with_reducible apply settleWays_keep
    | with_reducible apply Keep.foldl
    | (extract_lets +onlyGivenNames x
       first
         | (refine (fun (hx : Keep sB x) => ?_) ?_; clear_value x; rotate_left; subst x)
         | (have := fun a => x a; clear this; subst x)
         | clear_value x
         | subst x)
    | with_reducible apply Keep.ite
    | split
    | (with_reducible apply Keep.ofMk; with_reducible apply Keep.fold)

theorem placeDirectory_keep {sB : State} {s : State} {a : LoadArg} {l : List SegEnt}
    (hs : Keep sB s) : Keep sB (placeDirectory s a l) := by
  unfold placeDirectory
  repeat' first
    | with_reducible assumption
    | with_reducible apply devWrite_keep
    | with_reducible apply devWrite_keep_st
    | with_reducible apply KeepMem.mk

theorem writeSegs_keep {sB : State} {s : State} {a : LoadArg} {l : List SegEnt}
    (hs : Keep sB s) : Keep sB (writeSegs s a l) := by
  unfold writeSegs
  repeat' first
    | with_reducible assumption
    | intro _
    | with_reducible apply State.put_keep
    | with_reducible apply Keep.foldl
    | (extract_lets +onlyGivenNames x
       first
         | (refine (fun (hx : Keep sB x) => ?_) ?_; clear_value x; rotate_left; subst x)
         | (have := fun a => x a; clear this; subst x)
         | clear_value x
         | subst x)
    | split
    | (with_reducible apply Keep.ofMk; with_reducible apply Keep.fold)

theorem fillSeg_keep {sB : State} {a : LoadArg} {l : List SegEnt} {s : State} {e : SegEnt}
    (hs : Keep sB s) : Keep sB (fillSeg a l s e) := by
  unfold fillSeg
  repeat' first
    | with_reducible assumption
    | intro _
    | with_reducible apply devWrite_keep
    | with_reducible apply devWrite_keep_st
    | with_reducible apply Keep.foldl
    | (extract_lets +onlyGivenNames x
       first
         | (refine (fun (hx : Keep sB x) => ?_) ?_; clear_value x; rotate_left; subst x)
         | (refine (fun (hx : KeepMem sB x) => ?_) ?_; clear_value x; have hx2 := KeepMem.proj hx; rotate_left; subst x)
         | (have := fun a => x a; clear this; subst x)
         | clear_value x
         | subst x)
    | split
    | with_reducible apply KeepMem.mk
    | (with_reducible apply Keep.ofMk; with_reducible apply Keep.fold)

theorem zeroSpad_keep {sB s : State} (hs : Keep sB s) : Keep sB (zeroSpad s) :=
  hs.trans ⟨rfl, Burned.refl _, fun x => ⟨x.1, scanon_sclear 0 _ _ _ x.2.1, x.2.2⟩⟩

theorem patchIn_keep {sB : State} {s : State} {a : LoadArg} {l : List SegEnt} {e : SegEnt} {o : Nat} {f : Nat}
    (hs : Keep sB s) : KeepO sB (patchIn s a l e o f) := by
  unfold patchIn
  repeat' first
    | with_reducible assumption
    | with_reducible apply KeepO.map
    | with_reducible apply KeepO.getD
    | with_reducible apply devRead_keep
    | with_reducible apply devRead_keep_st
    | with_reducible apply devWrite_keep
    | with_reducible apply devWrite_keep_st
    | with_reducible apply KeepO.some
    | with_reducible apply KeepO.none
    | (extract_lets +onlyGivenNames x
       first
         | (refine (fun (hx : Keep sB x) => ?_) ?_; clear_value x; rotate_left; subst x)
         | (refine (fun (hx : KeepMem sB x) => ?_) ?_; clear_value x; have hx2 := KeepMem.proj hx; rotate_left; subst x)
         | (refine (fun (hx : KeepO sB x) => ?_) ?_; clear_value x; rotate_left; subst x)
         | (have := fun a => x a; clear this; subst x)
         | clear_value x
         | subst x)
    | with_reducible apply Keep.ite
    | with_reducible apply KeepMem.ite
    | with_reducible apply KeepO.ite
    | split
    | (with_reducible apply KeepO.of_some; with_reducible assumption)
    | (with_reducible apply KeepO.un_some; with_reducible assumption)
    | with_reducible apply KeepMem.mk
    | (with_reducible apply Keep.ofMk; with_reducible apply Keep.fold)

theorem patchFrames_keep {sB : State} {s : State} {a : LoadArg} {l : List SegEnt} {e : SegEnt} {o : Nat} {fs : List Nat}
    (hs : Keep sB s) : Keep1 sB (patchFrames s a l e o fs) := by
  induction fs generalizing s a l e o with
  | nil  =>
    first | rw [patchFrames] | unfold patchFrames
    repeat' first
      | with_reducible assumption
      | with_reducible apply KeepO.map
      | with_reducible apply KeepO.getD
      | with_reducible apply patchIn_keep
      | with_reducible apply KeepO.some
      | with_reducible apply KeepO.none
      | (extract_lets +onlyGivenNames x
         first
           | (refine (fun (hx : Keep sB x) => ?_) ?_; clear_value x; rotate_left; subst x)
           | (refine (fun (hx : Keep1 sB x) => ?_) ?_; clear_value x; have hx2 := Keep1.proj hx; rotate_left; subst x)
           | (refine (fun (hx : KeepO sB x) => ?_) ?_; clear_value x; rotate_left; subst x)
           | (have := fun a => x a; clear this; subst x)
           | clear_value x
           | subst x)
      | split
      | (with_reducible apply Keep1.elim; with_reducible assumption)
      | (with_reducible apply Keep1.elimM; with_reducible assumption)
      | (with_reducible apply KeepO.of_some; with_reducible assumption)
      | (with_reducible apply KeepO.un_some; with_reducible assumption)
      | with_reducible apply Keep1.mk
      | (with_reducible apply Keep.ofMk; with_reducible apply Keep.fold)
  | cons y r ih =>
    first | rw [patchFrames] | unfold patchFrames
    repeat' first
      | with_reducible assumption
      | with_reducible apply ih
      | with_reducible apply KeepO.map
      | with_reducible apply KeepO.getD
      | with_reducible apply patchIn_keep
      | with_reducible apply KeepO.some
      | with_reducible apply KeepO.none
      | (extract_lets +onlyGivenNames x
         first
           | (refine (fun (hx : Keep sB x) => ?_) ?_; clear_value x; rotate_left; subst x)
           | (refine (fun (hx : Keep1 sB x) => ?_) ?_; clear_value x; have hx2 := Keep1.proj hx; rotate_left; subst x)
           | (refine (fun (hx : KeepO sB x) => ?_) ?_; clear_value x; rotate_left; subst x)
           | (have := fun a => x a; clear this; subst x)
           | clear_value x
           | subst x)
      | split
      | (with_reducible apply Keep1.elim; with_reducible assumption)
      | (with_reducible apply Keep1.elimM; with_reducible assumption)
      | (with_reducible apply KeepO.of_some; with_reducible assumption)
      | (with_reducible apply KeepO.un_some; with_reducible assumption)
      | with_reducible apply Keep1.mk
      | (with_reducible apply Keep.ofMk; with_reducible apply Keep.fold)


theorem patchFrames_keep_st {sB : State} {s : State} {a : LoadArg} {l : List SegEnt} {e : SegEnt} {o : Nat} {fs : List Nat}
    (hs : Keep sB s) : Keep sB (patchFrames s a l e o fs).1 :=
  patchFrames_keep hs
theorem patchGo_keep {sB : State} {s : State} {a : LoadArg} {l : List SegEnt} {i : Nat} {fuel : Nat}
    (hs : Keep sB s) : Keep1 sB (patchGo s a l i fuel) := by
  induction fuel generalizing s a l i with
  | zero  =>
    first | rw [patchGo] | unfold patchGo
    repeat' first
      | with_reducible assumption
      | with_reducible apply patchFrames_keep
      | with_reducible apply patchFrames_keep_st
      | (extract_lets +onlyGivenNames x
         first
           | (refine (fun (hx : Keep sB x) => ?_) ?_; clear_value x; rotate_left; subst x)
           | (refine (fun (hx : Keep1 sB x) => ?_) ?_; clear_value x; have hx2 := Keep1.proj hx; rotate_left; subst x)
           | (have := fun a => x a; clear this; subst x)
           | clear_value x
           | subst x)
      | with_reducible apply Keep.ite
      | with_reducible apply Keep1.ite
      | split
      | (with_reducible apply Keep1.elim; with_reducible assumption)
      | (with_reducible apply Keep1.elimM; with_reducible assumption)
      | with_reducible apply Keep1.mk
      | (with_reducible apply Keep.ofMk; with_reducible apply Keep.fold)
  | succ n ih =>
    first | rw [patchGo] | unfold patchGo
    repeat' first
      | with_reducible assumption
      | with_reducible apply ih
      | with_reducible apply patchFrames_keep
      | with_reducible apply patchFrames_keep_st
      | (extract_lets +onlyGivenNames x
         first
           | (refine (fun (hx : Keep sB x) => ?_) ?_; clear_value x; rotate_left; subst x)
           | (refine (fun (hx : Keep1 sB x) => ?_) ?_; clear_value x; have hx2 := Keep1.proj hx; rotate_left; subst x)
           | (have := fun a => x a; clear this; subst x)
           | clear_value x
           | subst x)
      | with_reducible apply Keep.ite
      | with_reducible apply Keep1.ite
      | split
      | (with_reducible apply Keep1.elim; with_reducible assumption)
      | (with_reducible apply Keep1.elimM; with_reducible assumption)
      | with_reducible apply Keep1.mk
      | (with_reducible apply Keep.ofMk; with_reducible apply Keep.fold)


theorem patchGo_keep_st {sB : State} {s : State} {a : LoadArg} {l : List SegEnt} {i : Nat} {fuel : Nat}
    (hs : Keep sB s) : Keep sB (patchGo s a l i fuel).1 :=
  patchGo_keep hs
theorem loadFrame_keep {sB : State} {a : LoadArg} {s : State} {f : Nat}
    (hs : Keep sB s) : Keep sB (loadFrame a s f) := by
  unfold loadFrame
  repeat' first
    | with_reducible assumption
    | intro _
    | with_reducible apply State.put_keep
    | with_reducible apply State.setQueue_keep
    | with_reducible apply State.setSpin_keep
    | with_reducible apply Keep.foldl
    | (extract_lets +onlyGivenNames x
       first
         | (refine (fun (hx : Keep sB x) => ?_) ?_; clear_value x; rotate_left; subst x)
         | (have := fun a => x a; clear this; subst x)
         | clear_value x
         | subst x)
    | split
    | (with_reducible apply Keep.ofMk; with_reducible apply Keep.fold)

theorem loadCoreEnt_keep {sB : State} {a : LoadArg} {l : List SegEnt} {s : State} {f : Nat} {c : Nat}
    (hs : Keep sB s) : Keep sB (loadCoreEnt a l s f c) := by
  unfold loadCoreEnt
  repeat' first
    | with_reducible assumption
    | intro _
    | with_reducible apply State.put_keep
    | with_reducible apply State.setCore_keep
    | with_reducible apply Keep.foldl
    | (extract_lets +onlyGivenNames x
       first
         | (refine (fun (hx : Keep sB x) => ?_) ?_; clear_value x; rotate_left; subst x)
         | (have := fun a => x a; clear this; subst x)
         | clear_value x
         | subst x)
    | split
    | (with_reducible apply Keep.ofMk; with_reducible apply Keep.fold)

theorem loadCores_keep {sB : State} {s : State} {a : LoadArg} {l : List SegEnt}
    (hs : Keep sB s) : Keep sB (loadCores s a l) := by
  unfold loadCores
  repeat' first
    | with_reducible assumption
    | intro _
    | with_reducible apply State.put_keep
    | with_reducible apply loadCoreEnt_keep
    | with_reducible apply Keep.foldl
    | (extract_lets +onlyGivenNames x
       first
         | (refine (fun (hx : Keep sB x) => ?_) ?_; clear_value x; rotate_left; subst x)
         | (have := fun a => x a; clear this; subst x)
         | clear_value x
         | subst x)
    | split

theorem loadRest_keep {sB : State} {s : State} {a : LoadArg} {l : List SegEnt}
    (hs : Keep sB s) : KeepLoad sB (loadRest s a l) := by
  unfold loadRest
  repeat' first
    | with_reducible assumption
    | intro _
    | with_reducible apply State.put_keep
    | with_reducible apply applyGlaze_keep
    | with_reducible apply patchGo_keep
    | with_reducible apply patchGo_keep_st
    | with_reducible apply loadFrame_keep
    | with_reducible apply loadCores_keep
    | with_reducible apply Keep.foldl
    | with_reducible apply Keep1.foldl
    | with_reducible apply Keep1.foldl_st
    | (extract_lets +onlyGivenNames x
       first
         | (refine (fun (hx : Keep sB x) => ?_) ?_; clear_value x; rotate_left; subst x)
         | (refine (fun (hx : Keep1 sB x) => ?_) ?_; clear_value x; have hx2 := Keep1.proj hx; rotate_left; subst x)
         | (refine (fun (hx : KeepLoad sB x) => ?_) ?_; clear_value x; have hx2 := KeepLoad.proj hx; rotate_left; subst x)
         | (have := fun a => x a; clear this; subst x)
         | clear_value x
         | subst x)
    | with_reducible apply Keep.ite
    | with_reducible apply Keep1.ite
    | with_reducible apply KeepLoad.ite
    | split
    | (with_reducible apply Keep1.elim; with_reducible assumption)
    | (with_reducible apply Keep1.elimM; with_reducible assumption)
    | with_reducible apply Keep1.mk
    | with_reducible apply KeepLoad.mk
    | (with_reducible apply Keep.ofMk; with_reducible apply Keep.fold)


theorem loadRest_keep_st {sB : State} {s : State} {a : LoadArg} {l : List SegEnt}
    (hs : Keep sB s) : Keep sB (loadRest s a l).st :=
  loadRest_keep hs
theorem loadSkein_keep {sB : State} {s : State} {a0 : LoadArg}
    (hs : Keep sB s) : KeepLoad sB (loadSkein s a0) := by
  unfold loadSkein
  repeat' first
    | with_reducible assumption
    | intro _
    | with_reducible apply applyWays_keep
    | with_reducible apply placeDirectory_keep
    | with_reducible apply writeSegs_keep
    | with_reducible apply fillSeg_keep
    | with_reducible apply zeroSpad_keep
    | with_reducible apply loadRest_keep
    | with_reducible apply loadRest_keep_st
    | with_reducible apply Keep.foldl
    | (extract_lets +onlyGivenNames x
       first
         | (refine (fun (hx : Keep sB x) => ?_) ?_; clear_value x; rotate_left; subst x)
         | (refine (fun (hx : KeepLoad sB x) => ?_) ?_; clear_value x; have hx2 := KeepLoad.proj hx; rotate_left; subst x)
         | (have := fun a => x a; clear this; subst x)
         | clear_value x
         | subst x)
    | with_reducible apply Keep.ite
    | with_reducible apply KeepLoad.ite
    | split
    | with_reducible apply KeepLoad.mk
    | (with_reducible apply Keep.ofMk; with_reducible apply Keep.fold)


theorem loadSkein_keep_st {sB : State} {s : State} {a0 : LoadArg}
    (hs : Keep sB s) : Keep sB (loadSkein s a0).st :=
  loadSkein_keep hs
theorem issueFetch_keep {sB : State} {s : State} {n : Nat}
    (hs : Keep sB s) : Keep sB (issueFetch s n) := by
  unfold issueFetch
  repeat' first
    | with_reducible assumption
    | with_reducible apply State.setRing_keep
    | (extract_lets +onlyGivenNames x
       first
         | (refine (fun (hx : Keep sB x) => ?_) ?_; clear_value x; rotate_left; subst x)
         | (have := fun a => x a; clear this; subst x)
         | clear_value x
         | subst x)
    | with_reducible apply Keep.ite
    | split
    | (with_reducible apply Keep.ofMk; with_reducible apply Keep.fold)

theorem stopRing_keep {sB : State} {s : State} {n : Nat}
    (hs : Keep sB s) : Keep sB (stopRing s n) := by
  unfold stopRing
  repeat' first
    | with_reducible assumption
    | with_reducible apply State.put_keep
    | with_reducible apply State.logErr_keep
    | with_reducible apply State.setRing_keep
    | (extract_lets +onlyGivenNames x
       first
         | (refine (fun (hx : Keep sB x) => ?_) ?_; clear_value x; rotate_left; subst x)
         | (have := fun a => x a; clear this; subst x)
         | clear_value x
         | subst x)
    | split
    | (with_reducible apply Keep.ofMk; with_reducible apply Keep.fold)

theorem hostErr_keep {sB : State} {s : State} {n : Nat} {k : Nat} {a : Nat}
    (hs : Keep sB s) : Keep sB (hostErr s n k a) := by
  unfold hostErr
  repeat' first
    | with_reducible assumption
    | with_reducible apply State.logErr_keep
    | with_reducible apply setResult_keep

theorem writeSqTail_keep {sB : State} {s : State} {n : Nat} {t : Nat}
    (hs : Keep sB s) : Keep sB (writeSqTail s n t) := by
  unfold writeSqTail
  repeat' first
    | with_reducible assumption
    | with_reducible apply State.setRing_keep
    | with_reducible apply issueFetch_keep
    | with_reducible apply stopRing_keep
    | (extract_lets +onlyGivenNames x
       first
         | (refine (fun (hx : Keep sB x) => ?_) ?_; clear_value x; rotate_left; subst x)
         | (have := fun a => x a; clear this; subst x)
         | clear_value x
         | subst x)
    | with_reducible apply Keep.ite
    | split
    | (with_reducible apply Keep.ofMk; with_reducible apply Keep.fold)

theorem execSqTail_keep {sB : State} {n : Fin 64} {t : BitVec 32} {s : State}
    (hs : Keep sB s) : KeepN sB (execSqTail n t s) := by
  unfold execSqTail
  repeat' first
    | with_reducible assumption
    | intro _
    | with_reducible apply finish_keep
    | with_reducible apply ShRes.next_keep
    | with_reducible apply writeSqTail_keep
    | with_reducible apply KeepN.next
    | with_reducible apply KeepN.fault
    | with_reducible apply KeepN.refused
    | with_reducible apply KeepSh.ok
    | with_reducible apply KeepSh.bad
    | with_reducible apply KeepSh.wait
    | with_reducible apply Keep.ite
    | with_reducible apply KeepN.ite
    | with_reducible apply KeepSh.ite
    | split
    | (with_reducible apply KeepN.of_next; with_reducible assumption)
    | (with_reducible apply KeepN.un_next; with_reducible assumption)
    | (with_reducible apply KeepSh.of_ok; with_reducible assumption)
    | (with_reducible apply KeepSh.un_ok; with_reducible assumption)
    | (with_reducible apply KeepSh.of_bad; with_reducible assumption)
    | (with_reducible apply KeepSh.un_bad; with_reducible assumption)
    | (with_reducible apply KeepSh.of_wait; with_reducible assumption)
    | (with_reducible apply KeepSh.un_wait; with_reducible assumption)

theorem hostWr_keep {sB : State} {s : State} {a : Nat} {d : List Byte}
    (hs : Keep sB s) : Keep sB (hostWr s a d) := by
  unfold hostWr
  repeat' first
    | with_reducible assumption
    | with_reducible apply State.setBytes_keep

theorem execEntryFetch_keep {sB : State} {n : Fin 64} {cnt : Nat} {s : State}
    (hs : Keep sB s) : KeepN sB (execEntryFetch n cnt s) := by
  unfold execEntryFetch
  repeat' first
    | with_reducible assumption
    | intro _
    | with_reducible apply State.setRing_keep
    | with_reducible apply finish_keep
    | with_reducible apply ShRes.next_keep
    | with_reducible apply issueFetch_keep
    | with_reducible apply KeepN.next
    | with_reducible apply KeepN.fault
    | with_reducible apply KeepN.refused
    | with_reducible apply KeepSh.ok
    | with_reducible apply KeepSh.bad
    | with_reducible apply KeepSh.wait
    | (extract_lets +onlyGivenNames x
       first
         | (refine (fun (hx : Keep sB x) => ?_) ?_; clear_value x; rotate_left; subst x)
         | (refine (fun (hx : KeepN sB x) => ?_) ?_; clear_value x; rotate_left; subst x)
         | (refine (fun (hx : KeepSh sB x) => ?_) ?_; clear_value x; rotate_left; subst x)
         | (have := fun a => x a; clear this; subst x)
         | clear_value x
         | subst x)
    | with_reducible apply Keep.ite
    | with_reducible apply KeepN.ite
    | with_reducible apply KeepSh.ite
    | split
    | (with_reducible apply KeepN.of_next; with_reducible assumption)
    | (with_reducible apply KeepN.un_next; with_reducible assumption)
    | (with_reducible apply KeepSh.of_ok; with_reducible assumption)
    | (with_reducible apply KeepSh.un_ok; with_reducible assumption)
    | (with_reducible apply KeepSh.of_bad; with_reducible assumption)
    | (with_reducible apply KeepSh.un_bad; with_reducible assumption)
    | (with_reducible apply KeepSh.of_wait; with_reducible assumption)
    | (with_reducible apply KeepSh.un_wait; with_reducible assumption)
    | (with_reducible apply Keep.ofMk; with_reducible apply Keep.fold)

theorem execFetchTimeout_keep {sB : State} {n : Fin 64} {s : State}
    (hs : Keep sB s) : KeepN sB (execFetchTimeout n s) := by
  unfold execFetchTimeout
  repeat' first
    | with_reducible assumption
    | intro _
    | with_reducible apply State.setRing_keep
    | with_reducible apply finish_keep
    | with_reducible apply ShRes.next_keep
    | with_reducible apply stopRing_keep
    | with_reducible apply KeepN.next
    | with_reducible apply KeepN.fault
    | with_reducible apply KeepN.refused
    | with_reducible apply KeepSh.ok
    | with_reducible apply KeepSh.bad
    | with_reducible apply KeepSh.wait
    | (extract_lets +onlyGivenNames x
       first
         | (refine (fun (hx : Keep sB x) => ?_) ?_; clear_value x; rotate_left; subst x)
         | (refine (fun (hx : KeepN sB x) => ?_) ?_; clear_value x; rotate_left; subst x)
         | (refine (fun (hx : KeepSh sB x) => ?_) ?_; clear_value x; rotate_left; subst x)
         | (have := fun a => x a; clear this; subst x)
         | clear_value x
         | subst x)
    | with_reducible apply Keep.ite
    | with_reducible apply KeepN.ite
    | with_reducible apply KeepSh.ite
    | split
    | (with_reducible apply KeepN.of_next; with_reducible assumption)
    | (with_reducible apply KeepN.un_next; with_reducible assumption)
    | (with_reducible apply KeepSh.of_ok; with_reducible assumption)
    | (with_reducible apply KeepSh.un_ok; with_reducible assumption)
    | (with_reducible apply KeepSh.of_bad; with_reducible assumption)
    | (with_reducible apply KeepSh.un_bad; with_reducible assumption)
    | (with_reducible apply KeepSh.of_wait; with_reducible assumption)
    | (with_reducible apply KeepSh.un_wait; with_reducible assumption)
    | (with_reducible apply Keep.ofMk; with_reducible apply Keep.fold)

theorem writeCqHead_keep {sB : State} {s : State} {n : Nat} {h : Nat}
    (hs : Keep sB s) : Keep sB (writeCqHead s n h) := by
  unfold writeCqHead
  repeat' first
    | with_reducible assumption
    | with_reducible apply State.setRing_keep
    | with_reducible apply issueFetch_keep
    | with_reducible apply stopRing_keep
    | (extract_lets +onlyGivenNames x
       first
         | (refine (fun (hx : Keep sB x) => ?_) ?_; clear_value x; rotate_left; subst x)
         | (have := fun a => x a; clear this; subst x)
         | clear_value x
         | subst x)
    | with_reducible apply Keep.ite
    | split
    | (with_reducible apply Keep.ofMk; with_reducible apply Keep.fold)

theorem execCqHead_keep {sB : State} {n : Fin 64} {h : BitVec 32} {s : State}
    (hs : Keep sB s) : KeepN sB (execCqHead n h s) := by
  unfold execCqHead
  repeat' first
    | with_reducible assumption
    | intro _
    | with_reducible apply finish_keep
    | with_reducible apply ShRes.next_keep
    | with_reducible apply writeCqHead_keep
    | with_reducible apply KeepN.next
    | with_reducible apply KeepN.fault
    | with_reducible apply KeepN.refused
    | with_reducible apply KeepSh.ok
    | with_reducible apply KeepSh.bad
    | with_reducible apply KeepSh.wait
    | with_reducible apply Keep.ite
    | with_reducible apply KeepN.ite
    | with_reducible apply KeepSh.ite
    | split
    | (with_reducible apply KeepN.of_next; with_reducible assumption)
    | (with_reducible apply KeepN.un_next; with_reducible assumption)
    | (with_reducible apply KeepSh.of_ok; with_reducible assumption)
    | (with_reducible apply KeepSh.un_ok; with_reducible assumption)
    | (with_reducible apply KeepSh.of_bad; with_reducible assumption)
    | (with_reducible apply KeepSh.un_bad; with_reducible assumption)
    | (with_reducible apply KeepSh.of_wait; with_reducible assumption)
    | (with_reducible apply KeepSh.un_wait; with_reducible assumption)

theorem enableRing_keep {sB : State} {s : State} {n : Nat}
    (hs : Keep sB s) : Keep sB (enableRing s n) := by
  unfold enableRing
  repeat' first
    | with_reducible assumption
    | with_reducible apply State.put_keep
    | with_reducible apply State.setRing_keep
    | with_reducible apply Keep.ite
    | split

theorem settleRing_keep {sB : State} {s : State} {n : Nat}
    (hs : Keep sB s) : Keep sB (settleRing s n) := by
  unfold settleRing
  repeat' first
    | with_reducible assumption
    | with_reducible apply State.setRing_keep
    | (extract_lets +onlyGivenNames x
       first
         | (refine (fun (hx : Keep sB x) => ?_) ?_; clear_value x; rotate_left; subst x)
         | (have := fun a => x a; clear this; subst x)
         | clear_value x
         | subst x)
    | with_reducible apply Keep.ite
    | split
    | (with_reducible apply Keep.ofMk; with_reducible apply Keep.fold)

theorem disableRing_keep {sB : State} {s : State} {n : Nat}
    (hs : Keep sB s) : Keep sB (disableRing s n) := by
  unfold disableRing
  repeat' first
    | with_reducible assumption
    | with_reducible apply State.put_keep
    | with_reducible apply State.setRing_keep
    | with_reducible apply settleRing_keep
    | (extract_lets +onlyGivenNames x
       first
         | (refine (fun (hx : Keep sB x) => ?_) ?_; clear_value x; rotate_left; subst x)
         | (have := fun a => x a; clear this; subst x)
         | clear_value x
         | subst x)
    | with_reducible apply Keep.ite
    | split
    | (with_reducible apply Keep.ofMk; with_reducible apply Keep.fold)

theorem execRingEnable_keep {sB : State} {n : Fin 64} {s : State}
    (hs : Keep sB s) : KeepN sB (execRingEnable n s) := by
  unfold execRingEnable
  repeat' first
    | with_reducible assumption
    | intro _
    | with_reducible apply finish_keep
    | with_reducible apply ShRes.next_keep
    | with_reducible apply enableRing_keep
    | with_reducible apply KeepN.next
    | with_reducible apply KeepN.fault
    | with_reducible apply KeepN.refused
    | with_reducible apply KeepSh.ok
    | with_reducible apply KeepSh.bad
    | with_reducible apply KeepSh.wait
    | with_reducible apply Keep.ite
    | with_reducible apply KeepN.ite
    | with_reducible apply KeepSh.ite
    | split
    | (with_reducible apply KeepN.of_next; with_reducible assumption)
    | (with_reducible apply KeepN.un_next; with_reducible assumption)
    | (with_reducible apply KeepSh.of_ok; with_reducible assumption)
    | (with_reducible apply KeepSh.un_ok; with_reducible assumption)
    | (with_reducible apply KeepSh.of_bad; with_reducible assumption)
    | (with_reducible apply KeepSh.un_bad; with_reducible assumption)
    | (with_reducible apply KeepSh.of_wait; with_reducible assumption)
    | (with_reducible apply KeepSh.un_wait; with_reducible assumption)

theorem execRingDisable_keep {sB : State} {n : Fin 64} {s : State}
    (hs : Keep sB s) : KeepN sB (execRingDisable n s) := by
  unfold execRingDisable
  repeat' first
    | with_reducible assumption
    | intro _
    | with_reducible apply finish_keep
    | with_reducible apply ShRes.next_keep
    | with_reducible apply disableRing_keep
    | with_reducible apply KeepN.next
    | with_reducible apply KeepN.fault
    | with_reducible apply KeepN.refused
    | with_reducible apply KeepSh.ok
    | with_reducible apply KeepSh.bad
    | with_reducible apply KeepSh.wait
    | with_reducible apply Keep.ite
    | with_reducible apply KeepN.ite
    | with_reducible apply KeepSh.ite
    | split
    | (with_reducible apply KeepN.of_next; with_reducible assumption)
    | (with_reducible apply KeepN.un_next; with_reducible assumption)
    | (with_reducible apply KeepSh.of_ok; with_reducible assumption)
    | (with_reducible apply KeepSh.un_ok; with_reducible assumption)
    | (with_reducible apply KeepSh.of_bad; with_reducible assumption)
    | (with_reducible apply KeepSh.un_bad; with_reducible assumption)
    | (with_reducible apply KeepSh.of_wait; with_reducible assumption)
    | (with_reducible apply KeepSh.un_wait; with_reducible assumption)

theorem setCmd_keep {sB : State} {s : State} {n : Nat} {c : HostCmd}
    (hs : Keep sB s) : Keep sB (setCmd s n c) := by
  unfold setCmd
  repeat' first
    | with_reducible assumption
    | intro _
    | with_reducible apply State.setRing_keep
    | (extract_lets +onlyGivenNames x
       first
         | (refine (fun (hx : Keep sB x) => ?_) ?_; clear_value x; rotate_left; subst x)
         | (have := fun a => x a; clear this; subst x)
         | clear_value x
         | subst x)
    | with_reducible apply Keep.ite
    | split
    | (with_reducible apply Keep.ofMk; with_reducible apply Keep.fold)

theorem engineServes_keep {sB : State} {s : State} {n : Nat}
    (hs : Keep sB s) : Keep sB (engineServes s n) := by
  unfold engineServes
  repeat' first
    | with_reducible assumption
    | (extract_lets +onlyGivenNames x
       first
         | (refine (fun (hx : Keep sB x) => ?_) ?_; clear_value x; rotate_left; subst x)
         | (have := fun a => x a; clear this; subst x)
         | clear_value x
         | subst x)
    | with_reducible apply Keep.ite
    | split
    | (with_reducible apply Keep.ofMk; with_reducible apply Keep.fold)

theorem hostStart_keep {sB : State} {s : State} {n : Nat} {k : Nat} {op : Nat} {sub : Nat} {body : State → HostCmd → State}
    (hs : Keep sB s) (hbody : ∀ t0 t1, Keep sB t0 → Keep sB (body t0 t1)) : KeepN sB (hostStart s n k op sub body) := by
  unfold hostStart
  repeat' first
    | with_reducible assumption
    | intro _
    | with_reducible apply hbody
    | with_reducible apply finish_keep
    | with_reducible apply ShRes.next_keep
    | with_reducible apply setResult_keep
    | with_reducible apply setCmd_keep
    | with_reducible apply engineServes_keep
    | with_reducible apply KeepN.next
    | with_reducible apply KeepN.fault
    | with_reducible apply KeepN.refused
    | with_reducible apply KeepSh.ok
    | with_reducible apply KeepSh.bad
    | with_reducible apply KeepSh.wait
    | (extract_lets +onlyGivenNames x
       first
         | (refine (fun (hx : Keep sB x) => ?_) ?_; clear_value x; rotate_left; subst x)
         | (refine (fun (hx : KeepN sB x) => ?_) ?_; clear_value x; rotate_left; subst x)
         | (refine (fun (hx : KeepSh sB x) => ?_) ?_; clear_value x; rotate_left; subst x)
         | (have := fun a => x a; clear this; subst x)
         | clear_value x
         | subst x)
    | with_reducible apply Keep.ite
    | with_reducible apply KeepN.ite
    | with_reducible apply KeepSh.ite
    | split
    | (with_reducible apply KeepN.of_next; with_reducible assumption)
    | (with_reducible apply KeepN.un_next; with_reducible assumption)
    | (with_reducible apply KeepSh.of_ok; with_reducible assumption)
    | (with_reducible apply KeepSh.un_ok; with_reducible assumption)
    | (with_reducible apply KeepSh.of_bad; with_reducible assumption)
    | (with_reducible apply KeepSh.un_bad; with_reducible assumption)
    | (with_reducible apply KeepSh.of_wait; with_reducible assumption)
    | (with_reducible apply KeepSh.un_wait; with_reducible assumption)
    | (with_reducible apply Keep.ofMk; with_reducible apply Keep.fold)

theorem execNop_keep {sB : State} {n : Fin 64} {k : Nat} {s : State}
    (hs : Keep sB s) : KeepN sB (execNop n k s) := by
  unfold execNop
  repeat' first
    | with_reducible assumption
    | intro _
    | with_reducible apply setResult_keep
    | with_reducible apply hostStart_keep
    | with_reducible apply KeepN.next
    | with_reducible apply KeepN.fault
    | with_reducible apply KeepN.refused
    | split
    | (with_reducible apply KeepN.of_next; with_reducible assumption)
    | (with_reducible apply KeepN.un_next; with_reducible assumption)

theorem execHostKadd_keep {sB : State} {n : Fin 64} {k : Nat} {s : State}
    (hs : Keep sB s) : KeepN sB (execHostKadd n k s) := by
  unfold execHostKadd
  repeat' first
    | with_reducible assumption
    | intro _
    | with_reducible apply knotAddG_keep
    | with_reducible apply setResult_keep
    | with_reducible apply hostStart_keep
    | with_reducible apply KeepN.next
    | with_reducible apply KeepN.fault
    | with_reducible apply KeepN.refused
    | (extract_lets +onlyGivenNames x
       first
         | (refine (fun (hx : Keep sB x) => ?_) ?_; clear_value x; rotate_left; subst x)
         | (refine (fun (hx : KeepN sB x) => ?_) ?_; clear_value x; rotate_left; subst x)
         | (have := fun a => x a; clear this; subst x)
         | clear_value x
         | subst x)
    | with_reducible apply Keep.ite
    | with_reducible apply KeepN.ite
    | split
    | (with_reducible apply KeepN.of_next; with_reducible assumption)
    | (with_reducible apply KeepN.un_next; with_reducible assumption)

theorem execFlush_keep {sB : State} {n : Fin 64} {k : Nat} {s : State}
    (hs : Keep sB s) : KeepN sB (execFlush n k s) := by
  unfold execFlush
  repeat' first
    | with_reducible assumption
    | intro _
    | with_reducible apply ShRes.next_keep
    | with_reducible apply beginFlush_keep
    | with_reducible apply hostStart_keep
    | with_reducible apply KeepN.next
    | with_reducible apply KeepN.fault
    | with_reducible apply KeepN.refused
    | with_reducible apply KeepSh.ok
    | with_reducible apply KeepSh.bad
    | with_reducible apply KeepSh.wait
    | (extract_lets +onlyGivenNames x
       first
         | (refine (fun (hx : Keep sB x) => ?_) ?_; clear_value x; rotate_left; subst x)
         | (refine (fun (hx : KeepN sB x) => ?_) ?_; clear_value x; rotate_left; subst x)
         | (refine (fun (hx : KeepSh sB x) => ?_) ?_; clear_value x; rotate_left; subst x)
         | (have := fun a => x a; clear this; subst x)
         | clear_value x
         | subst x)
    | with_reducible apply Keep.ite
    | with_reducible apply KeepN.ite
    | with_reducible apply KeepSh.ite
    | split
    | (with_reducible apply KeepN.of_next; with_reducible assumption)
    | (with_reducible apply KeepN.un_next; with_reducible assumption)
    | (with_reducible apply KeepSh.of_ok; with_reducible assumption)
    | (with_reducible apply KeepSh.un_ok; with_reducible assumption)
    | (with_reducible apply KeepSh.of_bad; with_reducible assumption)
    | (with_reducible apply KeepSh.un_bad; with_reducible assumption)
    | (with_reducible apply KeepSh.of_wait; with_reducible assumption)
    | (with_reducible apply KeepSh.un_wait; with_reducible assumption)

theorem copyMove_keep {sB : State} {s : State} {n : Nat} {c : HostCmd} {len : Nat} {resp : Resp} {ecc : Ecc}
    (hs : Keep sB s) : Keep sB (copyMove s n c len resp ecc) := by
  unfold copyMove
  repeat' first
    | with_reducible assumption
    | with_reducible apply devWrite_keep
    | with_reducible apply devWrite_keep_st
    | with_reducible apply unitRead_keep
    | with_reducible apply unitRead_keep_st
    | with_reducible apply setResult_keep
    | with_reducible apply hostErr_keep
    | with_reducible apply setCmd_keep
    | (extract_lets +onlyGivenNames x
       first
         | (refine (fun (hx : Keep sB x) => ?_) ?_; clear_value x; rotate_left; subst x)
         | (refine (fun (hx : KeepMem sB x) => ?_) ?_; clear_value x; have hx2 := KeepMem.proj hx; rotate_left; subst x)
         | (have := fun a => x a; clear this; subst x)
         | clear_value x
         | subst x)
    | with_reducible apply Keep.ite
    | with_reducible apply KeepMem.ite
    | split
    | with_reducible apply KeepMem.mk
    | (with_reducible apply Keep.ofMk; with_reducible apply Keep.fold)

theorem execCopy_keep {sB : State} {n : Fin 64} {k : Nat} {len : Nat} {resp : Resp} {ecc : Ecc} {s : State}
    (hs : Keep sB s) : KeepN sB (execCopy n k len resp ecc s) := by
  unfold execCopy
  repeat' first
    | with_reducible assumption
    | intro _
    | with_reducible apply finish_keep
    | with_reducible apply ShRes.next_keep
    | with_reducible apply setResult_keep
    | with_reducible apply hostStart_keep
    | with_reducible apply copyMove_keep
    | with_reducible apply KeepN.next
    | with_reducible apply KeepN.fault
    | with_reducible apply KeepN.refused
    | with_reducible apply KeepSh.ok
    | with_reducible apply KeepSh.bad
    | with_reducible apply KeepSh.wait
    | (extract_lets +onlyGivenNames x
       first
         | (refine (fun (hx : Keep sB x) => ?_) ?_; clear_value x; rotate_left; subst x)
         | (refine (fun (hx : KeepN sB x) => ?_) ?_; clear_value x; rotate_left; subst x)
         | (refine (fun (hx : KeepSh sB x) => ?_) ?_; clear_value x; rotate_left; subst x)
         | (have := fun a => x a; clear this; subst x)
         | clear_value x
         | subst x)
    | with_reducible apply Keep.ite
    | with_reducible apply KeepN.ite
    | with_reducible apply KeepSh.ite
    | split
    | (with_reducible apply KeepN.of_next; with_reducible assumption)
    | (with_reducible apply KeepN.un_next; with_reducible assumption)
    | (with_reducible apply KeepSh.of_ok; with_reducible assumption)
    | (with_reducible apply KeepSh.un_ok; with_reducible assumption)
    | (with_reducible apply KeepSh.of_bad; with_reducible assumption)
    | (with_reducible apply KeepSh.un_bad; with_reducible assumption)
    | (with_reducible apply KeepSh.of_wait; with_reducible assumption)
    | (with_reducible apply KeepSh.un_wait; with_reducible assumption)
    | (with_reducible apply Keep.ofMk; with_reducible apply Keep.fold)

theorem writeCompletion_keep {sB : State} {s : State} {n : Nat} {c : HostCmd} {status : Nat} {detail : Nat}
    (hs : Keep sB s) : Keep sB (writeCompletion s n c status detail) := by
  unfold writeCompletion
  repeat' first
    | with_reducible assumption
    | intro _
    | with_reducible apply State.setRing_keep
    | with_reducible apply hostWr_keep
    | (extract_lets +onlyGivenNames x
       first
         | (refine (fun (hx : Keep sB x) => ?_) ?_; clear_value x; rotate_left; subst x)
         | (have := fun a => x a; clear this; subst x)
         | clear_value x
         | subst x)
    | with_reducible apply Keep.ite
    | split
    | (with_reducible apply Keep.ofMk; with_reducible apply Keep.fold)

theorem execHostCommandComplete_keep {sB : State} {n : Fin 64} {k : Nat} {s : State}
    (hs : Keep sB s) : KeepN sB (execHostCommandComplete n k s) := by
  unfold execHostCommandComplete
  repeat' first
    | with_reducible assumption
    | intro _
    | with_reducible apply finish_keep
    | with_reducible apply ShRes.next_keep
    | with_reducible apply issueFetch_keep
    | with_reducible apply settleRing_keep
    | with_reducible apply writeCompletion_keep
    | with_reducible apply KeepN.next
    | with_reducible apply KeepN.fault
    | with_reducible apply KeepN.refused
    | with_reducible apply KeepSh.ok
    | with_reducible apply KeepSh.bad
    | with_reducible apply KeepSh.wait
    | (extract_lets +onlyGivenNames x
       first
         | (refine (fun (hx : Keep sB x) => ?_) ?_; clear_value x; rotate_left; subst x)
         | (refine (fun (hx : KeepN sB x) => ?_) ?_; clear_value x; rotate_left; subst x)
         | (refine (fun (hx : KeepSh sB x) => ?_) ?_; clear_value x; rotate_left; subst x)
         | (have := fun a => x a; clear this; subst x)
         | clear_value x
         | subst x)
    | with_reducible apply Keep.ite
    | with_reducible apply KeepN.ite
    | with_reducible apply KeepSh.ite
    | split
    | (with_reducible apply KeepN.of_next; with_reducible assumption)
    | (with_reducible apply KeepN.un_next; with_reducible assumption)
    | (with_reducible apply KeepSh.of_ok; with_reducible assumption)
    | (with_reducible apply KeepSh.un_ok; with_reducible assumption)
    | (with_reducible apply KeepSh.of_bad; with_reducible assumption)
    | (with_reducible apply KeepSh.un_bad; with_reducible assumption)
    | (with_reducible apply KeepSh.of_wait; with_reducible assumption)
    | (with_reducible apply KeepSh.un_wait; with_reducible assumption)
    | (with_reducible apply Keep.ofMk; with_reducible apply Keep.fold)

theorem execCoalesceTimeout_keep {sB : State} {n : Fin 64} {s : State}
    (hs : Keep sB s) : KeepN sB (execCoalesceTimeout n s) := by
  unfold execCoalesceTimeout
  repeat' first
    | with_reducible assumption
    | intro _
    | with_reducible apply finish_keep
    | with_reducible apply ShRes.next_keep
    | with_reducible apply KeepN.next
    | with_reducible apply KeepN.fault
    | with_reducible apply KeepN.refused
    | with_reducible apply KeepSh.ok
    | with_reducible apply KeepSh.bad
    | with_reducible apply KeepSh.wait
    | with_reducible apply Keep.ite
    | with_reducible apply KeepN.ite
    | with_reducible apply KeepSh.ite
    | split
    | (with_reducible apply KeepN.of_next; with_reducible assumption)
    | (with_reducible apply KeepN.un_next; with_reducible assumption)
    | (with_reducible apply KeepSh.of_ok; with_reducible assumption)
    | (with_reducible apply KeepSh.un_ok; with_reducible assumption)
    | (with_reducible apply KeepSh.of_bad; with_reducible assumption)
    | (with_reducible apply KeepSh.un_bad; with_reducible assumption)
    | (with_reducible apply KeepSh.of_wait; with_reducible assumption)
    | (with_reducible apply KeepSh.un_wait; with_reducible assumption)

theorem refuseJob_keep {sB : State} {s : State} {n : Nat} {k : Nat} {step : Nat} {b : List Byte}
    (hs : Keep sB s) : Keep sB (refuseJob s n k step b) := by
  unfold refuseJob
  repeat' first
    | with_reducible assumption
    | with_reducible apply State.logErr_keep
    | with_reducible apply setResult_keep
    | with_reducible apply restoreWays_keep
    | (extract_lets +onlyGivenNames x
       first
         | (refine (fun (hx : Keep sB x) => ?_) ?_; clear_value x; rotate_left; subst x)
         | (have := fun a => x a; clear this; subst x)
         | clear_value x
         | subst x)
    | split
    | (with_reducible apply Keep.ofMk; with_reducible apply Keep.fold)

theorem startJob_keep {sB : State} {s : State} {n : Nat} {k : Nat} {r : JobRec} {ids : List Nat} {rank : Nat} {vals : List Nat}
    (hs : Keep sB s) : Keep sB (startJob s n k r ids rank vals) := by
  unfold startJob
  repeat' first
    | with_reducible assumption
    | intro _
    | with_reducible apply State.put_keep
    | with_reducible apply notePhase_keep
    | with_reducible apply enterRun_keep
    | with_reducible apply startCores_keep
    | with_reducible apply Keep.foldl
    | (extract_lets +onlyGivenNames x
       first
         | (refine (fun (hx : Keep sB x) => ?_) ?_; clear_value x; rotate_left; subst x)
         | (have := fun a => x a; clear this; subst x)
         | clear_value x
         | subst x)
    | split
    | (with_reducible apply Keep.ofMk; with_reducible apply Keep.fold)

theorem noteOvf_keep {sB : State} {s : State} {nmod : Nat}
    (hs : Keep sB s) : Keep sB (noteOvf s nmod) := by
  unfold noteOvf
  repeat' first
    | with_reducible assumption
    | (extract_lets +onlyGivenNames x
       first
         | (refine (fun (hx : Keep sB x) => ?_) ?_; clear_value x; rotate_left; subst x)
         | (have := fun a => x a; clear this; subst x)
         | clear_value x
         | subst x)
    | (with_reducible apply Keep.ofMk; with_reducible apply Keep.fold)

theorem postRecord_keep {sB : State} {s : State} {n : Nat} {k : Nat} {b : List Byte} {at_ : Nat} {resp : Resp}
    (hs : Keep sB s) : Keep sB (postRecord s n k b at_ resp) := by
  unfold postRecord
  repeat' first
    | with_reducible assumption
    | intro _
    | with_reducible apply loadSkein_keep
    | with_reducible apply loadSkein_keep_st
    | with_reducible apply hostErr_keep
    | with_reducible apply refuseJob_keep
    | with_reducible apply startJob_keep
    | (extract_lets +onlyGivenNames x
       first
         | (refine (fun (hx : Keep sB x) => ?_) ?_; clear_value x; rotate_left; subst x)
         | (refine (fun (hx : KeepLoad sB x) => ?_) ?_; clear_value x; have hx2 := KeepLoad.proj hx; rotate_left; subst x)
         | (have := fun a => x a; clear this; subst x)
         | clear_value x
         | subst x)
    | with_reducible apply Keep.ite
    | with_reducible apply KeepLoad.ite
    | split
    | with_reducible apply KeepLoad.mk
    | (with_reducible apply Keep.ofMk; with_reducible apply Keep.fold)

theorem postJob_keep {sB : State} {s : State} {n : Nat} {k : Nat} {b : List Byte} {at_ : Nat} {resp : Resp} {a : Nat}
    (hs : Keep sB s) : Keep sB (postJob s n k b at_ resp a) := by
  unfold postJob
  repeat' first
    | with_reducible assumption
    | with_reducible apply hostErr_keep
    | with_reducible apply noteOvf_keep
    | with_reducible apply postRecord_keep
    | with_reducible apply Keep.ite
    | split

theorem execJobPost_keep {sB : State} {n : Fin 64} {k : Nat} {at_ : Nat} {resp : Resp} {s : State}
    (hs : Keep sB s) : KeepN sB (execJobPost n k at_ resp s) := by
  unfold execJobPost
  repeat' first
    | with_reducible assumption
    | intro _
    | with_reducible apply ShRes.next_keep
    | with_reducible apply setResult_keep
    | with_reducible apply hostStart_keep
    | with_reducible apply postJob_keep
    | with_reducible apply KeepN.next
    | with_reducible apply KeepN.fault
    | with_reducible apply KeepN.refused
    | with_reducible apply KeepSh.ok
    | with_reducible apply KeepSh.bad
    | with_reducible apply KeepSh.wait
    | with_reducible apply Keep.ite
    | with_reducible apply KeepN.ite
    | with_reducible apply KeepSh.ite
    | split
    | (with_reducible apply KeepN.of_next; with_reducible assumption)
    | (with_reducible apply KeepN.un_next; with_reducible assumption)
    | (with_reducible apply KeepSh.of_ok; with_reducible assumption)
    | (with_reducible apply KeepSh.un_ok; with_reducible assumption)
    | (with_reducible apply KeepSh.of_bad; with_reducible assumption)
    | (with_reducible apply KeepSh.un_bad; with_reducible assumption)
    | (with_reducible apply KeepSh.of_wait; with_reducible assumption)
    | (with_reducible apply KeepSh.un_wait; with_reducible assumption)

theorem abortNow_keep {sB : State} {s : State}
    (hs : Keep sB s) : Keep sB (abortNow s) := by
  unfold abortNow
  repeat' first
    | with_reducible assumption
    | with_reducible apply endJob_keep
    | with_reducible apply logJobEnd_keep
    | with_reducible apply Keep.ite
    | split

theorem execJobCtl_keep {sB : State} {n : Fin 64} {k : Nat} {s : State}
    (hs : Keep sB s) : KeepN sB (execJobCtl n k s) := by
  unfold execJobCtl
  repeat' first
    | with_reducible assumption
    | intro _
    | with_reducible apply setResult_keep
    | with_reducible apply hostStart_keep
    | with_reducible apply abortNow_keep
    | with_reducible apply KeepN.next
    | with_reducible apply KeepN.fault
    | with_reducible apply KeepN.refused
    | split
    | (with_reducible apply KeepN.of_next; with_reducible assumption)
    | (with_reducible apply KeepN.un_next; with_reducible assumption)

theorem mboxStart_keep {sB : State} {s : State} {n : Nat} {k : Nat} {sub : Nat} {body : State → HostCmd → State}
    (hs : Keep sB s) (hbody : ∀ t0 t1, Keep sB t0 → Keep sB (body t0 t1)) : KeepN sB (mboxStart s n k sub body) := by
  unfold mboxStart
  repeat' first
    | with_reducible assumption
    | intro _
    | with_reducible apply hbody
    | with_reducible apply ShRes.next_keep
    | with_reducible apply setResult_keep
    | with_reducible apply hostStart_keep
    | with_reducible apply KeepN.next
    | with_reducible apply KeepN.fault
    | with_reducible apply KeepN.refused
    | with_reducible apply KeepSh.ok
    | with_reducible apply KeepSh.bad
    | with_reducible apply KeepSh.wait
    | with_reducible apply Keep.ite
    | with_reducible apply KeepN.ite
    | with_reducible apply KeepSh.ite
    | split
    | (with_reducible apply KeepN.of_next; with_reducible assumption)
    | (with_reducible apply KeepN.un_next; with_reducible assumption)
    | (with_reducible apply KeepSh.of_ok; with_reducible assumption)
    | (with_reducible apply KeepSh.un_ok; with_reducible assumption)
    | (with_reducible apply KeepSh.of_bad; with_reducible assumption)
    | (with_reducible apply KeepSh.un_bad; with_reducible assumption)
    | (with_reducible apply KeepSh.of_wait; with_reducible assumption)
    | (with_reducible apply KeepSh.un_wait; with_reducible assumption)

theorem execReadShape_keep {sB : State} {n : Fin 64} {k : Nat} {s : State}
    (hs : Keep sB s) : KeepN sB (execReadShape n k s) := by
  unfold execReadShape
  repeat' first
    | with_reducible assumption
    | intro _
    | with_reducible apply setResult_keep
    | with_reducible apply hostWr_keep
    | with_reducible apply mboxStart_keep
    | with_reducible apply KeepN.next
    | with_reducible apply KeepN.fault
    | with_reducible apply KeepN.refused
    | split
    | (with_reducible apply KeepN.of_next; with_reducible assumption)
    | (with_reducible apply KeepN.un_next; with_reducible assumption)

/-- Marking records read keeps their number and their SEQs. -/
theorem markRead_props : ∀ (l : List ErrRec) (n : Nat),
    (markRead l n).length = l.length ∧ ∀ x ∈ markRead l n, ∃ y ∈ l, y.seq = x.seq := by
  intro l
  induction l with
  | nil => intro n; exact ⟨rfl, fun x hx => by cases hx⟩
  | cons r t ih =>
    intro n
    simp only [markRead]
    split
    · refine ⟨by simp [(ih n).1], fun x hx => ?_⟩
      rcases List.mem_cons.mp hx with rfl | hx
      · exact ⟨x, by simp, rfl⟩
      · obtain ⟨y, hy, e⟩ := (ih n).2 x hx
        exact ⟨y, List.mem_cons_of_mem _ hy, e⟩
    · split
      · exact ⟨rfl, fun x hx => ⟨x, hx, rfl⟩⟩
      · refine ⟨by simp [(ih (n - 1)).1], fun x hx => ?_⟩
        rcases List.mem_cons.mp hx with rfl | hx
        · exact ⟨r, by simp, rfl⟩
        · obtain ⟨y, hy, e⟩ := (ih (n - 1)).2 x hx
          exact ⟨y, List.mem_cons_of_mem _ hy, e⟩

theorem execReadLog_keep {sB : State} {n : Fin 64} {k : Nat} {s : State} (hs : Keep sB s) :
    KeepN sB (execReadLog n k s) := by
  unfold execReadLog
  refine mboxStart_keep hs (fun t c ht => setResult_keep ?_)
  refine (hostWr_keep ht).log _ _ (fun a b => ?_)
  obtain ⟨e, m⟩ := markRead_props t.log (mbArg c 1)
  refine ⟨by rw [e]; exact a, fun x hx => ?_⟩
  obtain ⟨y, hy, z⟩ := m x hx
  rw [← z]
  exact b y hy

theorem snapSection_keep {sB : State} {s : State} {i : Nat} {ver : Nat} {ofs : Nat} {e : List Byte}
    (hs : Keep sB s) : KeepSnap sB (snapSection s i ver ofs e) := by
  unfold snapSection
  repeat' first
    | with_reducible assumption
    | intro _
    | with_reducible apply devRead_keep
    | with_reducible apply devRead_keep_st
    | with_reducible apply Keep.foldl
    | with_reducible apply KeepSnap.part
    | with_reducible apply KeepSnap.bad
    | with_reducible apply KeepSnap.err
    | (extract_lets +onlyGivenNames x
       first
         | (refine (fun (hx : Keep sB x) => ?_) ?_; clear_value x; rotate_left; subst x)
         | (refine (fun (hx : KeepMem sB x) => ?_) ?_; clear_value x; have hx2 := KeepMem.proj hx; rotate_left; subst x)
         | (refine (fun (hx : KeepSnap sB x) => ?_) ?_; clear_value x; rotate_left; subst x)
         | (have := fun a => x a; clear this; subst x)
         | clear_value x
         | subst x)
    | with_reducible apply Keep.ite
    | with_reducible apply KeepMem.ite
    | with_reducible apply KeepSnap.ite
    | split
    | (with_reducible apply KeepSnap.of_part; with_reducible assumption)
    | (with_reducible apply KeepSnap.un_part; with_reducible assumption)
    | with_reducible apply KeepMem.mk
    | (with_reducible apply Keep.ofMk; with_reducible apply Keep.fold)

theorem snapStream_keep {sB : State} {s : State} {ver : Nat} {i : Nat} {l : List (List Byte)} {acc : List Byte}
    (hs : Keep sB s) : KeepSnap sB (snapStream s ver i l acc) := by
  induction l generalizing s ver i acc with
  | nil  =>
    first | rw [snapStream] | unfold snapStream
    repeat' first
      | with_reducible assumption
      | with_reducible apply snapSection_keep
      | with_reducible apply KeepSnap.part
      | with_reducible apply KeepSnap.bad
      | with_reducible apply KeepSnap.err
      | (extract_lets +onlyGivenNames x
         first
           | (refine (fun (hx : Keep sB x) => ?_) ?_; clear_value x; rotate_left; subst x)
           | (refine (fun (hx : KeepSnap sB x) => ?_) ?_; clear_value x; rotate_left; subst x)
           | (have := fun a => x a; clear this; subst x)
           | clear_value x
           | subst x)
      | split
      | (with_reducible apply KeepSnap.of_part; with_reducible assumption)
      | (with_reducible apply KeepSnap.un_part; with_reducible assumption)
      | (with_reducible apply Keep.ofMk; with_reducible apply Keep.fold)
  | cons y r ih =>
    first | rw [snapStream] | unfold snapStream
    repeat' first
      | with_reducible assumption
      | with_reducible apply ih
      | with_reducible apply snapSection_keep
      | with_reducible apply KeepSnap.part
      | with_reducible apply KeepSnap.bad
      | with_reducible apply KeepSnap.err
      | (extract_lets +onlyGivenNames x
         first
           | (refine (fun (hx : Keep sB x) => ?_) ?_; clear_value x; rotate_left; subst x)
           | (refine (fun (hx : KeepSnap sB x) => ?_) ?_; clear_value x; rotate_left; subst x)
           | (have := fun a => x a; clear this; subst x)
           | clear_value x
           | subst x)
      | split
      | (with_reducible apply KeepSnap.of_part; with_reducible assumption)
      | (with_reducible apply KeepSnap.un_part; with_reducible assumption)
      | (with_reducible apply Keep.ofMk; with_reducible apply Keep.fold)

theorem sendSnap_keep {sB : State} {s : State} {p : Nat} {ver : Nat} {ofs : Nat} {d : List Byte} {fuel : Nat}
    (hs : Keep sB s) : Keep sB (sendSnap s p ver ofs d fuel) := by
  induction fuel generalizing s p ver ofs d with
  | zero  =>
    first | rw [sendSnap] | unfold sendSnap
    repeat' first
      | with_reducible assumption
      | with_reducible apply State.setPort_keep
      | with_reducible apply putRecord_keep
      | with_reducible apply snapStream_keep
      | with_reducible apply KeepSnap.part
      | with_reducible apply KeepSnap.bad
      | with_reducible apply KeepSnap.err
      | (extract_lets +onlyGivenNames x
         first
           | (refine (fun (hx : Keep sB x) => ?_) ?_; clear_value x; rotate_left; subst x)
           | (refine (fun (hx : KeepSnap sB x) => ?_) ?_; clear_value x; rotate_left; subst x)
           | (have := fun a => x a; clear this; subst x)
           | clear_value x
           | subst x)
      | with_reducible apply Keep.ite
      | with_reducible apply KeepSnap.ite
      | split
      | (with_reducible apply KeepSnap.of_part; with_reducible assumption)
      | (with_reducible apply KeepSnap.un_part; with_reducible assumption)
      | (with_reducible apply Keep.ofMk; with_reducible apply Keep.fold)
  | succ n ih =>
    first | rw [sendSnap] | unfold sendSnap
    repeat' first
      | with_reducible assumption
      | with_reducible apply ih
      | with_reducible apply State.setPort_keep
      | with_reducible apply putRecord_keep
      | with_reducible apply snapStream_keep
      | with_reducible apply KeepSnap.part
      | with_reducible apply KeepSnap.bad
      | with_reducible apply KeepSnap.err
      | (extract_lets +onlyGivenNames x
         first
           | (refine (fun (hx : Keep sB x) => ?_) ?_; clear_value x; rotate_left; subst x)
           | (refine (fun (hx : KeepSnap sB x) => ?_) ?_; clear_value x; rotate_left; subst x)
           | (have := fun a => x a; clear this; subst x)
           | clear_value x
           | subst x)
      | with_reducible apply Keep.ite
      | with_reducible apply KeepSnap.ite
      | split
      | (with_reducible apply KeepSnap.of_part; with_reducible assumption)
      | (with_reducible apply KeepSnap.un_part; with_reducible assumption)
      | (with_reducible apply Keep.ofMk; with_reducible apply Keep.fold)

theorem snapFails_keep {sB : State} {s : State} {n : Nat} {k : Nat} {ver : Nat}
    (hs : Keep sB s) : Keep sB (snapFails s n k ver) := by
  unfold snapFails
  repeat' first
    | with_reducible assumption
    | with_reducible apply State.logErr_keep
    | with_reducible apply setResult_keep

theorem execSnapshot_keep {sB : State} {n : Fin 64} {k : Nat} {resp : Resp} {s : State}
    (hs : Keep sB s) : KeepN sB (execSnapshot n k resp s) := by
  unfold execSnapshot
  repeat' first
    | with_reducible assumption
    | intro _
    | with_reducible apply State.logErr_keep
    | with_reducible apply ShRes.next_keep
    | with_reducible apply setResult_keep
    | with_reducible apply hostErr_keep
    | with_reducible apply hostWr_keep
    | with_reducible apply mboxStart_keep
    | with_reducible apply snapStream_keep
    | with_reducible apply sendSnap_keep
    | with_reducible apply snapFails_keep
    | with_reducible apply KeepN.next
    | with_reducible apply KeepN.fault
    | with_reducible apply KeepN.refused
    | with_reducible apply KeepSnap.part
    | with_reducible apply KeepSnap.bad
    | with_reducible apply KeepSnap.err
    | with_reducible apply KeepSh.ok
    | with_reducible apply KeepSh.bad
    | with_reducible apply KeepSh.wait
    | (extract_lets +onlyGivenNames x
       first
         | (refine (fun (hx : Keep sB x) => ?_) ?_; clear_value x; rotate_left; subst x)
         | (refine (fun (hx : KeepN sB x) => ?_) ?_; clear_value x; rotate_left; subst x)
         | (refine (fun (hx : KeepSnap sB x) => ?_) ?_; clear_value x; rotate_left; subst x)
         | (refine (fun (hx : KeepSh sB x) => ?_) ?_; clear_value x; rotate_left; subst x)
         | (have := fun a => x a; clear this; subst x)
         | clear_value x
         | subst x)
    | with_reducible apply Keep.ite
    | with_reducible apply KeepN.ite
    | with_reducible apply KeepSnap.ite
    | with_reducible apply KeepSh.ite
    | split
    | (with_reducible apply KeepN.of_next; with_reducible assumption)
    | (with_reducible apply KeepN.un_next; with_reducible assumption)
    | (with_reducible apply KeepSnap.of_part; with_reducible assumption)
    | (with_reducible apply KeepSnap.un_part; with_reducible assumption)
    | (with_reducible apply KeepSh.of_ok; with_reducible assumption)
    | (with_reducible apply KeepSh.un_ok; with_reducible assumption)
    | (with_reducible apply KeepSh.of_bad; with_reducible assumption)
    | (with_reducible apply KeepSh.un_bad; with_reducible assumption)
    | (with_reducible apply KeepSh.of_wait; with_reducible assumption)
    | (with_reducible apply KeepSh.un_wait; with_reducible assumption)
    | (with_reducible apply Keep.ofMk; with_reducible apply Keep.fold)

theorem releaseGo_keep {sB : State} {s : State}
    (hs : Keep sB s) : Keep sB (releaseGo s) := by
  unfold releaseGo
  repeat' first
    | with_reducible assumption
    | with_reducible apply knotAddG_keep
    | (extract_lets +onlyGivenNames x
       first
         | (refine (fun (hx : Keep sB x) => ?_) ?_; clear_value x; rotate_left; subst x)
         | (have := fun a => x a; clear this; subst x)
         | clear_value x
         | subst x)
    | with_reducible apply Keep.ite
    | split
    | (with_reducible apply Keep.ofMk; with_reducible apply Keep.fold)

theorem execSnapshotDelivered_keep {sB : State} {ok : Bool} {s : State}
    (hs : Keep sB s) : KeepN sB (execSnapshotDelivered ok s) := by
  unfold execSnapshotDelivered
  repeat' first
    | with_reducible assumption
    | intro _
    | with_reducible apply finish_keep
    | with_reducible apply ShRes.next_keep
    | with_reducible apply setResult_keep
    | with_reducible apply snapFails_keep
    | with_reducible apply releaseGo_keep
    | with_reducible apply KeepN.next
    | with_reducible apply KeepN.fault
    | with_reducible apply KeepN.refused
    | with_reducible apply KeepSh.ok
    | with_reducible apply KeepSh.bad
    | with_reducible apply KeepSh.wait
    | (extract_lets +onlyGivenNames x
       first
         | (refine (fun (hx : Keep sB x) => ?_) ?_; clear_value x; rotate_left; subst x)
         | (refine (fun (hx : KeepN sB x) => ?_) ?_; clear_value x; rotate_left; subst x)
         | (refine (fun (hx : KeepSh sB x) => ?_) ?_; clear_value x; rotate_left; subst x)
         | (have := fun a => x a; clear this; subst x)
         | clear_value x
         | subst x)
    | with_reducible apply Keep.ite
    | with_reducible apply KeepN.ite
    | with_reducible apply KeepSh.ite
    | split
    | (with_reducible apply KeepN.of_next; with_reducible assumption)
    | (with_reducible apply KeepN.un_next; with_reducible assumption)
    | (with_reducible apply KeepSh.of_ok; with_reducible assumption)
    | (with_reducible apply KeepSh.un_ok; with_reducible assumption)
    | (with_reducible apply KeepSh.of_bad; with_reducible assumption)
    | (with_reducible apply KeepSh.un_bad; with_reducible assumption)
    | (with_reducible apply KeepSh.of_wait; with_reducible assumption)
    | (with_reducible apply KeepSh.un_wait; with_reducible assumption)
    | (with_reducible apply Keep.ofMk; with_reducible apply Keep.fold)

theorem setRead_keep {sB : State} {s : State} {d : List Byte} {abort : Bool}
    (hs : Keep sB s) : Keep sB (setRead s d abort) := by
  unfold setRead
  repeat' first
    | with_reducible assumption
    | (extract_lets +onlyGivenNames x
       first
         | (refine (fun (hx : Keep sB x) => ?_) ?_; clear_value x; rotate_left; subst x)
         | (have := fun a => x a; clear this; subst x)
         | clear_value x
         | subst x)
    | (with_reducible apply Keep.ofMk; with_reducible apply Keep.fold)

theorem execHostClaim_keep {sB : State} {width : Nat} {s : State}
    (hs : Keep sB s) : KeepN sB (execHostClaim width s) := by
  unfold execHostClaim
  repeat' first
    | with_reducible assumption
    | intro _
    | with_reducible apply claim_keep
    | with_reducible apply claim_keep_st
    | with_reducible apply finish_keep
    | with_reducible apply ShRes.next_keep
    | with_reducible apply setRead_keep
    | with_reducible apply KeepN.next
    | with_reducible apply KeepN.fault
    | with_reducible apply KeepN.refused
    | with_reducible apply KeepSh.ok
    | with_reducible apply KeepSh.bad
    | with_reducible apply KeepSh.wait
    | (extract_lets +onlyGivenNames x
       first
         | (refine (fun (hx : Keep sB x) => ?_) ?_; clear_value x; rotate_left; subst x)
         | (refine (fun (hx : Keep1 sB x) => ?_) ?_; clear_value x; have hx2 := Keep1.proj hx; rotate_left; subst x)
         | (refine (fun (hx : KeepN sB x) => ?_) ?_; clear_value x; rotate_left; subst x)
         | (refine (fun (hx : KeepSh sB x) => ?_) ?_; clear_value x; rotate_left; subst x)
         | (have := fun a => x a; clear this; subst x)
         | clear_value x
         | subst x)
    | with_reducible apply Keep.ite
    | with_reducible apply Keep1.ite
    | with_reducible apply KeepN.ite
    | with_reducible apply KeepSh.ite
    | split
    | (with_reducible apply Keep1.elim; with_reducible assumption)
    | (with_reducible apply Keep1.elimM; with_reducible assumption)
    | (with_reducible apply KeepN.of_next; with_reducible assumption)
    | (with_reducible apply KeepN.un_next; with_reducible assumption)
    | (with_reducible apply KeepSh.of_ok; with_reducible assumption)
    | (with_reducible apply KeepSh.un_ok; with_reducible assumption)
    | (with_reducible apply KeepSh.of_bad; with_reducible assumption)
    | (with_reducible apply KeepSh.un_bad; with_reducible assumption)
    | (with_reducible apply KeepSh.of_wait; with_reducible assumption)
    | (with_reducible apply KeepSh.un_wait; with_reducible assumption)
    | with_reducible apply Keep1.mk

theorem execHostDone_keep {sB : State} {value : BitVec 32} {s : State}
    (hs : Keep sB s) : KeepN sB (execHostDone value s) := by
  unfold execHostDone
  repeat' first
    | with_reducible assumption
    | intro _
    | with_reducible apply complete_keep
    | with_reducible apply finish_keep
    | with_reducible apply ShRes.next_keep
    | with_reducible apply KeepN.next
    | with_reducible apply KeepN.fault
    | with_reducible apply KeepN.refused
    | with_reducible apply KeepSh.ok
    | with_reducible apply KeepSh.bad
    | with_reducible apply KeepSh.wait
    | with_reducible apply Keep.ite
    | with_reducible apply KeepN.ite
    | with_reducible apply KeepSh.ite
    | split
    | (with_reducible apply KeepN.of_next; with_reducible assumption)
    | (with_reducible apply KeepN.un_next; with_reducible assumption)
    | (with_reducible apply KeepSh.of_ok; with_reducible assumption)
    | (with_reducible apply KeepSh.un_ok; with_reducible assumption)
    | (with_reducible apply KeepSh.of_bad; with_reducible assumption)
    | (with_reducible apply KeepSh.un_bad; with_reducible assumption)
    | (with_reducible apply KeepSh.of_wait; with_reducible assumption)
    | (with_reducible apply KeepSh.un_wait; with_reducible assumption)

theorem enableMsix_keep {sB : State} {s : State}
    (hs : Keep sB s) : Keep sB (enableMsix s) := by
  unfold enableMsix
  repeat' first
    | with_reducible assumption
    | intro _
    | with_reducible apply State.put_keep
    | with_reducible apply sendMsix_keep
    | with_reducible apply Keep.foldl
    | (extract_lets +onlyGivenNames x
       first
         | (refine (fun (hx : Keep sB x) => ?_) ?_; clear_value x; rotate_left; subst x)
         | (have := fun a => x a; clear this; subst x)
         | clear_value x
         | subst x)
    | with_reducible apply Keep.ite
    | split
    | (with_reducible apply Keep.ofMk; with_reducible apply Keep.fold)

theorem execMsixEn_keep {sB : State} {s : State}
    (hs : Keep sB s) : KeepN sB (execMsixEn s) := by
  unfold execMsixEn
  repeat' first
    | with_reducible assumption
    | intro _
    | with_reducible apply finish_keep
    | with_reducible apply ShRes.next_keep
    | with_reducible apply enableMsix_keep
    | with_reducible apply KeepN.next
    | with_reducible apply KeepN.fault
    | with_reducible apply KeepN.refused
    | with_reducible apply KeepSh.ok
    | with_reducible apply KeepSh.bad
    | with_reducible apply KeepSh.wait
    | with_reducible apply Keep.ite
    | with_reducible apply KeepN.ite
    | with_reducible apply KeepSh.ite
    | split
    | (with_reducible apply KeepN.of_next; with_reducible assumption)
    | (with_reducible apply KeepN.un_next; with_reducible assumption)
    | (with_reducible apply KeepSh.of_ok; with_reducible assumption)
    | (with_reducible apply KeepSh.un_ok; with_reducible assumption)
    | (with_reducible apply KeepSh.of_bad; with_reducible assumption)
    | (with_reducible apply KeepSh.un_bad; with_reducible assumption)
    | (with_reducible apply KeepSh.of_wait; with_reducible assumption)
    | (with_reducible apply KeepSh.un_wait; with_reducible assumption)

theorem unmask_keep {sB : State} {s : State} {v : Nat}
    (hs : Keep sB s) : Keep sB (unmask s v) := by
  unfold unmask
  repeat' first
    | with_reducible assumption
    | intro _
    | with_reducible apply sendMsix_keep
    | (extract_lets +onlyGivenNames x
       first
         | (refine (fun (hx : Keep sB x) => ?_) ?_; clear_value x; rotate_left; subst x)
         | (have := fun a => x a; clear this; subst x)
         | clear_value x
         | subst x)
    | with_reducible apply Keep.ite
    | split
    | (with_reducible apply Keep.ofMk; with_reducible apply Keep.fold)

theorem execMsixUnmask_keep {sB : State} {v : Fin 64} {s : State}
    (hs : Keep sB s) : KeepN sB (execMsixUnmask v s) := by
  unfold execMsixUnmask
  repeat' first
    | with_reducible assumption
    | intro _
    | with_reducible apply finish_keep
    | with_reducible apply ShRes.next_keep
    | with_reducible apply unmask_keep
    | with_reducible apply KeepN.next
    | with_reducible apply KeepN.fault
    | with_reducible apply KeepN.refused
    | with_reducible apply KeepSh.ok
    | with_reducible apply KeepSh.bad
    | with_reducible apply KeepSh.wait
    | with_reducible apply Keep.ite
    | with_reducible apply KeepN.ite
    | with_reducible apply KeepSh.ite
    | split
    | (with_reducible apply KeepN.of_next; with_reducible assumption)
    | (with_reducible apply KeepN.un_next; with_reducible assumption)
    | (with_reducible apply KeepSh.of_ok; with_reducible assumption)
    | (with_reducible apply KeepSh.un_ok; with_reducible assumption)
    | (with_reducible apply KeepSh.of_bad; with_reducible assumption)
    | (with_reducible apply KeepSh.un_bad; with_reducible assumption)
    | (with_reducible apply KeepSh.of_wait; with_reducible assumption)
    | (with_reducible apply KeepSh.un_wait; with_reducible assumption)

theorem writeBar4_keep {sB : State} {s : State} {o : Nat} {v : Nat}
    (hs : Keep sB s) : Keep sB (writeBar4 s o v) := by
  unfold writeBar4
  repeat' first
    | with_reducible assumption
    | with_reducible apply unmask_keep
    | (extract_lets +onlyGivenNames x
       first
         | (refine (fun (hx : Keep sB x) => ?_) ?_; clear_value x; rotate_left; subst x)
         | (have := fun a => x a; clear this; subst x)
         | clear_value x
         | subst x)
    | with_reducible apply Keep.ite
    | split
    | (with_reducible apply Keep.ofMk; with_reducible apply Keep.fold)

theorem setKwatch_keep {sB : State} {s : State} {w : Nat} {v : Nat}
    (hs : Keep sB s) : Keep sB (setKwatch s w v) := by
  unfold setKwatch
  repeat' first
    | with_reducible assumption
    | with_reducible apply State.put_keep

theorem execKwatch_keep {sB : State} {w : Fin 256} {value : BitVec 64} {s : State}
    (hs : Keep sB s) : KeepN sB (execKwatch w value s) := by
  unfold execKwatch
  repeat' first
    | with_reducible assumption
    | intro _
    | with_reducible apply finish_keep
    | with_reducible apply ShRes.next_keep
    | with_reducible apply setKwatch_keep
    | with_reducible apply KeepN.next
    | with_reducible apply KeepN.fault
    | with_reducible apply KeepN.refused
    | with_reducible apply KeepSh.ok
    | with_reducible apply KeepSh.bad
    | with_reducible apply KeepSh.wait
    | with_reducible apply Keep.ite
    | with_reducible apply KeepN.ite
    | with_reducible apply KeepSh.ite
    | split
    | (with_reducible apply KeepN.of_next; with_reducible assumption)
    | (with_reducible apply KeepN.un_next; with_reducible assumption)
    | (with_reducible apply KeepSh.of_ok; with_reducible assumption)
    | (with_reducible apply KeepSh.un_ok; with_reducible assumption)
    | (with_reducible apply KeepSh.of_bad; with_reducible assumption)
    | (with_reducible apply KeepSh.un_bad; with_reducible assumption)
    | (with_reducible apply KeepSh.of_wait; with_reducible assumption)
    | (with_reducible apply KeepSh.un_wait; with_reducible assumption)

theorem execSwset_keep {sB : State} {r : Fin 8} {value : BitVec 32} {s : State}
    (hs : Keep sB s) : KeepN sB (execSwset r value s) := by
  unfold execSwset
  repeat' first
    | with_reducible assumption
    | intro _
    | with_reducible apply State.put_keep
    | with_reducible apply finish_keep
    | with_reducible apply ShRes.next_keep
    | with_reducible apply KeepN.next
    | with_reducible apply KeepN.fault
    | with_reducible apply KeepN.refused
    | with_reducible apply KeepSh.ok
    | with_reducible apply KeepSh.bad
    | with_reducible apply KeepSh.wait
    | with_reducible apply Keep.ite
    | with_reducible apply KeepN.ite
    | with_reducible apply KeepSh.ite
    | split
    | (with_reducible apply KeepN.of_next; with_reducible assumption)
    | (with_reducible apply KeepN.un_next; with_reducible assumption)
    | (with_reducible apply KeepSh.of_ok; with_reducible assumption)
    | (with_reducible apply KeepSh.un_ok; with_reducible assumption)
    | (with_reducible apply KeepSh.of_bad; with_reducible assumption)
    | (with_reducible apply KeepSh.un_bad; with_reducible assumption)
    | (with_reducible apply KeepSh.of_wait; with_reducible assumption)
    | (with_reducible apply KeepSh.un_wait; with_reducible assumption)

theorem execReadyAck_keep {sB : State} {s : State}
    (hs : Keep sB s) : KeepN sB (execReadyAck s) := by
  unfold execReadyAck
  repeat' first
    | with_reducible assumption
    | intro _
    | with_reducible apply State.put_keep
    | with_reducible apply finish_keep
    | with_reducible apply ShRes.next_keep
    | with_reducible apply KeepN.next
    | with_reducible apply KeepN.fault
    | with_reducible apply KeepN.refused
    | with_reducible apply KeepSh.ok
    | with_reducible apply KeepSh.bad
    | with_reducible apply KeepSh.wait
    | with_reducible apply Keep.ite
    | with_reducible apply KeepN.ite
    | with_reducible apply KeepSh.ite
    | split
    | (with_reducible apply KeepN.of_next; with_reducible assumption)
    | (with_reducible apply KeepN.un_next; with_reducible assumption)
    | (with_reducible apply KeepSh.of_ok; with_reducible assumption)
    | (with_reducible apply KeepSh.un_ok; with_reducible assumption)
    | (with_reducible apply KeepSh.of_bad; with_reducible assumption)
    | (with_reducible apply KeepSh.un_bad; with_reducible assumption)
    | (with_reducible apply KeepSh.of_wait; with_reducible assumption)
    | (with_reducible apply KeepSh.un_wait; with_reducible assumption)

theorem resetHost_keep {sB s : State} (hs : Keep sB s) : Keep sB (resetHost s) :=
  hs.trans ⟨rfl, Burned.refl _, fun x => ⟨scanon_sclear 0 _ _ _ (scanon_sclear 0 _ _ _ x.1), x.2⟩⟩

theorem execFlr_keep {sB : State} {s : State}
    (hs : Keep sB s) : KeepN sB (execFlr s) := by
  unfold execFlr
  repeat' first
    | with_reducible assumption
    | intro _
    | with_reducible apply finish_keep
    | with_reducible apply ShRes.next_keep
    | with_reducible apply abortNow_keep
    | with_reducible apply resetHost_keep
    | with_reducible apply KeepN.next
    | with_reducible apply KeepN.fault
    | with_reducible apply KeepN.refused
    | with_reducible apply KeepSh.ok
    | with_reducible apply KeepSh.bad
    | with_reducible apply KeepSh.wait
    | (extract_lets +onlyGivenNames x
       first
         | (refine (fun (hx : Keep sB x) => ?_) ?_; clear_value x; rotate_left; subst x)
         | (refine (fun (hx : KeepN sB x) => ?_) ?_; clear_value x; rotate_left; subst x)
         | (refine (fun (hx : KeepSh sB x) => ?_) ?_; clear_value x; rotate_left; subst x)
         | (have := fun a => x a; clear this; subst x)
         | clear_value x
         | subst x)
    | with_reducible apply Keep.ite
    | with_reducible apply KeepN.ite
    | with_reducible apply KeepSh.ite
    | split
    | (with_reducible apply KeepN.of_next; with_reducible assumption)
    | (with_reducible apply KeepN.un_next; with_reducible assumption)
    | (with_reducible apply KeepSh.of_ok; with_reducible assumption)
    | (with_reducible apply KeepSh.un_ok; with_reducible assumption)
    | (with_reducible apply KeepSh.of_bad; with_reducible assumption)
    | (with_reducible apply KeepSh.un_bad; with_reducible assumption)
    | (with_reducible apply KeepSh.of_wait; with_reducible assumption)
    | (with_reducible apply KeepSh.un_wait; with_reducible assumption)
    | (with_reducible apply Keep.ofMk; with_reducible apply Keep.fold)

theorem execD3hot_keep {sB : State} {s : State}
    (hs : Keep sB s) : KeepN sB (execD3hot s) := by
  unfold execD3hot
  repeat' first
    | with_reducible assumption
    | intro _
    | with_reducible apply ShRes.next_keep
    | with_reducible apply KeepN.next
    | with_reducible apply KeepN.fault
    | with_reducible apply KeepN.refused
    | with_reducible apply KeepSh.ok
    | with_reducible apply KeepSh.bad
    | with_reducible apply KeepSh.wait
    | (extract_lets +onlyGivenNames x
       first
         | (refine (fun (hx : Keep sB x) => ?_) ?_; clear_value x; rotate_left; subst x)
         | (refine (fun (hx : KeepN sB x) => ?_) ?_; clear_value x; rotate_left; subst x)
         | (refine (fun (hx : KeepSh sB x) => ?_) ?_; clear_value x; rotate_left; subst x)
         | (have := fun a => x a; clear this; subst x)
         | clear_value x
         | subst x)
    | with_reducible apply Keep.ite
    | with_reducible apply KeepN.ite
    | with_reducible apply KeepSh.ite
    | split
    | (with_reducible apply KeepN.of_next; with_reducible assumption)
    | (with_reducible apply KeepN.un_next; with_reducible assumption)
    | (with_reducible apply KeepSh.of_ok; with_reducible assumption)
    | (with_reducible apply KeepSh.un_ok; with_reducible assumption)
    | (with_reducible apply KeepSh.of_bad; with_reducible assumption)
    | (with_reducible apply KeepSh.un_bad; with_reducible assumption)
    | (with_reducible apply KeepSh.of_wait; with_reducible assumption)
    | (with_reducible apply KeepSh.un_wait; with_reducible assumption)
    | (with_reducible apply Keep.ofMk; with_reducible apply Keep.fold)

set_option maxRecDepth 4000 in
theorem execTaskAbortComplete_keep {sB : State} {task : Fin 16} {s : State} (hs : Keep sB s) :
    KeepN sB (execTaskAbortComplete task s) := by
  unfold execTaskAbortComplete
  split
  · exact KeepN.next hs
  · with_reducible apply KeepN.ite
    · exact finish_keep (Keep.ofMk (Keep.fold (State.logErr_keep (resetKnots_keep hs))))
    · exact KeepN.next hs

theorem execHostCompletionTimeout_keep {sB : State} {who : HostReader} {s : State}
    (hs : Keep sB s) : KeepN sB (execHostCompletionTimeout who s) := by
  unfold execHostCompletionTimeout
  repeat' first
    | with_reducible assumption
    | intro _
    | with_reducible apply replyTo_keep
    | with_reducible apply finish_keep
    | with_reducible apply ShRes.next_keep
    | with_reducible apply execDescriptorBatch_keep
    | with_reducible apply lateResponse_keep
    | with_reducible apply execShuttleResponse_keep
    | with_reducible apply hostErr_keep
    | with_reducible apply KeepN.next
    | with_reducible apply KeepN.fault
    | with_reducible apply KeepN.refused
    | with_reducible apply KeepSh.ok
    | with_reducible apply KeepSh.bad
    | with_reducible apply KeepSh.wait
    | (extract_lets +onlyGivenNames x
       first
         | (refine (fun (hx : Keep sB x) => ?_) ?_; clear_value x; rotate_left; subst x)
         | (refine (fun (hx : KeepN sB x) => ?_) ?_; clear_value x; rotate_left; subst x)
         | (refine (fun (hx : KeepSh sB x) => ?_) ?_; clear_value x; rotate_left; subst x)
         | (have := fun a => x a; clear this; subst x)
         | clear_value x
         | subst x)
    | with_reducible apply Keep.ite
    | with_reducible apply KeepN.ite
    | with_reducible apply KeepSh.ite
    | split
    | (with_reducible apply KeepN.of_next; with_reducible assumption)
    | (with_reducible apply KeepN.un_next; with_reducible assumption)
    | (with_reducible apply KeepSh.of_ok; with_reducible assumption)
    | (with_reducible apply KeepSh.un_ok; with_reducible assumption)
    | (with_reducible apply KeepSh.of_bad; with_reducible assumption)
    | (with_reducible apply KeepSh.un_bad; with_reducible assumption)
    | (with_reducible apply KeepSh.of_wait; with_reducible assumption)
    | (with_reducible apply KeepSh.un_wait; with_reducible assumption)
    | (with_reducible apply Keep.ofMk; with_reducible apply Keep.fold)

end Sys2Proof.Machine
end

