-- ==== Sys2Proof/Laws/KeepBoot.lean ====
section
/-! SUPPORT. The commands of the boot, the pins, telemetry, the register file and SPDM keep the relation, and so does a tick. -/
namespace Sys2Proof.Machine

theorem bootErr_keep {sB : State} {s : State} {cause : Nat} {index : Nat} {d1 : Nat}
    (hs : Keep sB s) : Keep sB (bootErr s cause index d1) := by
  unfold bootErr
  repeat' first
    | with_reducible assumption
    | with_reducible apply State.logErr_keep

theorem endBoot_keep {sB : State} {s : State} {mode : Nat}
    (hs : Keep sB s) : Keep sB (endBoot s mode) := by
  unfold endBoot
  repeat' first
    | with_reducible assumption
    | with_reducible apply State.put_keep

theorem clearPend_keep {sB : State} {s : State}
    (hs : Keep sB s) : Keep sB (clearPend s) := by
  unfold clearPend
  repeat' first
    | with_reducible assumption
    | with_reducible apply State.put_keep
    | (extract_lets +onlyGivenNames x
       first
         | (refine (fun (hx : Keep sB x) => ?_) ?_; clear_value x; rotate_left; subst x)
         | (have := fun a => x a; clear this; subst x)
         | clear_value x
         | subst x)
    | (with_reducible apply Keep.ofMk; with_reducible apply Keep.fold)

theorem limited_keep {sB : State} {s : State} {cause : Nat} {index : Nat} {d1 : Nat}
    (hs : Keep sB s) : Keep sB (limited s cause index d1) := by
  unfold limited
  repeat' first
    | with_reducible assumption
    | with_reducible apply State.put_keep
    | with_reducible apply resetUnits_keep
    | with_reducible apply bootErr_keep
    | with_reducible apply endBoot_keep
    | with_reducible apply clearPend_keep
    | (extract_lets +onlyGivenNames x
       first
         | (refine (fun (hx : Keep sB x) => ?_) ?_; clear_value x; rotate_left; subst x)
         | (have := fun a => x a; clear this; subst x)
         | clear_value x
         | subst x)
    | with_reducible apply Keep.ite
    | split

theorem nextPhase_keep {sB : State} {s : State} {p : Nat}
    (hs : Keep sB s) : Keep sB (nextPhase s p) := by
  unfold nextPhase
  repeat' first
    | with_reducible assumption
    | with_reducible apply State.put_keep
    | (extract_lets +onlyGivenNames x
       first
         | (refine (fun (hx : Keep sB x) => ?_) ?_; clear_value x; rotate_left; subst x)
         | (have := fun a => x a; clear this; subst x)
         | clear_value x
         | subst x)
    | (with_reducible apply Keep.ofMk; with_reducible apply Keep.fold)

theorem endsPhase_keep {sB : State} {s : State} {p : Nat} {op : Host.Outcome State Fault Refusal}
    (hs : Keep sB s) (hop : KeepN sB op) : KeepN sB (endsPhase s p op) := by
  unfold endsPhase
  repeat' first
    | with_reducible assumption
    | intro _
    | with_reducible apply finish_keep
    | with_reducible apply ShRes.next_keep
    | with_reducible apply limited_keep
    | with_reducible apply KeepN.next
    | with_reducible apply KeepN.fault
    | with_reducible apply KeepN.refused
    | with_reducible apply KeepSh.ok
    | with_reducible apply KeepSh.bad
    | with_reducible apply KeepSh.wait
    | with_reducible apply Keep.ite
    | with_reducible apply KeepN.ite
    | with_reducible apply KeepSh.ite
    | split
    | (with_reducible apply KeepN.of_next; with_reducible assumption)
    | (with_reducible apply KeepN.un_next; with_reducible assumption)
    | (with_reducible apply KeepSh.of_ok; with_reducible assumption)
    | (with_reducible apply KeepSh.un_ok; with_reducible assumption)
    | (with_reducible apply KeepSh.of_bad; with_reducible assumption)
    | (with_reducible apply KeepSh.un_bad; with_reducible assumption)
    | (with_reducible apply KeepSh.of_wait; with_reducible assumption)
    | (with_reducible apply KeepSh.un_wait; with_reducible assumption)

theorem showFuses_keep {sB : State} {s : State}
    (hs : Keep sB s) : Keep sB (showFuses s) := by
  unfold showFuses
  repeat' first
    | with_reducible assumption
    | intro _
    | with_reducible apply State.put_keep
    | with_reducible apply Keep.foldl
    | (extract_lets +onlyGivenNames x
       first
         | (refine (fun (hx : Keep sB x) => ?_) ?_; clear_value x; rotate_left; subst x)
         | (have := fun a => x a; clear this; subst x)
         | clear_value x
         | subst x)
    | with_reducible apply Keep.ite
    | split

theorem showImages_keep {sB : State} {s : State} {x : Slot}
    (hs : Keep sB s) : Keep sB (showImages s x) := by
  unfold showImages
  repeat' first
    | with_reducible assumption
    | intro _
    | with_reducible apply State.put_keep
    | with_reducible apply Keep.foldl
    | (extract_lets +onlyGivenNames x
       first
         | (refine (fun (hx : Keep sB x) => ?_) ?_; clear_value x; rotate_left; subst x)
         | (have := fun a => x a; clear this; subst x)
         | clear_value x
         | subst x)
    | split

theorem verified_keep {sB : State} {s : State} {n : Option Nat}
    (hs : Keep sB s) : Keep sB (verified s n) := by
  unfold verified
  repeat' first
    | with_reducible assumption
    | with_reducible apply State.put_keep
    | with_reducible apply showFuses_keep
    | with_reducible apply showImages_keep
    | (extract_lets +onlyGivenNames x
       first
         | (refine (fun (hx : Keep sB x) => ?_) ?_; clear_value x; rotate_left; subst x)
         | (have := fun a => x a; clear this; subst x)
         | clear_value x
         | subst x)
    | split
    | (with_reducible apply Keep.ofMk; with_reducible apply Keep.fold)

theorem endVerify_keep {sB : State} {s : State}
    (hs : Keep sB s) : Keep sB (endVerify s) := by
  unfold endVerify
  repeat' first
    | with_reducible assumption
    | with_reducible apply State.put_keep
    | with_reducible apply resetUnits_keep
    | with_reducible apply bootErr_keep
    | with_reducible apply endBoot_keep
    | with_reducible apply clearPend_keep
    | with_reducible apply limited_keep
    | with_reducible apply nextPhase_keep
    | with_reducible apply verified_keep
    | (extract_lets +onlyGivenNames x
       first
         | (refine (fun (hx : Keep sB x) => ?_) ?_; clear_value x; rotate_left; subst x)
         | (have := fun a => x a; clear this; subst x)
         | clear_value x
         | subst x)
    | with_reducible apply Keep.ite
    | split
    | (with_reducible apply Keep.ofMk; with_reducible apply Keep.fold)

theorem execVerify_keep {sB : State} {s : State}
    (hs : Keep sB s) : KeepN sB (execVerify s) := by
  unfold execVerify
  repeat' first
    | with_reducible assumption
    | intro _
    | with_reducible apply finish_keep
    | with_reducible apply ShRes.next_keep
    | with_reducible apply endsPhase_keep
    | with_reducible apply verified_keep
    | with_reducible apply endVerify_keep
    | with_reducible apply KeepN.next
    | with_reducible apply KeepN.fault
    | with_reducible apply KeepN.refused
    | with_reducible apply KeepSh.ok
    | with_reducible apply KeepSh.bad
    | with_reducible apply KeepSh.wait
    | with_reducible apply Keep.ite
    | with_reducible apply KeepN.ite
    | with_reducible apply KeepSh.ite
    | split
    | (with_reducible apply KeepN.of_next; with_reducible assumption)
    | (with_reducible apply KeepN.un_next; with_reducible assumption)
    | (with_reducible apply KeepSh.of_ok; with_reducible assumption)
    | (with_reducible apply KeepSh.un_ok; with_reducible assumption)
    | (with_reducible apply KeepSh.of_bad; with_reducible assumption)
    | (with_reducible apply KeepSh.un_bad; with_reducible assumption)
    | (with_reducible apply KeepSh.of_wait; with_reducible assumption)
    | (with_reducible apply KeepSh.un_wait; with_reducible assumption)

theorem trainHost_keep {sB : State} {s : State} {gen : Nat} {lanes : Nat}
    (hs : Keep sB s) : Keep sB (trainHost s gen lanes) := by
  unfold trainHost
  repeat' first
    | with_reducible assumption
    | with_reducible apply State.put_keep
    | with_reducible apply Keep.ite
    | split

theorem execStudioStart_keep {sB : State} {gen : Nat} {lanes : Nat} {coolId : BitVec 3} {s : State}
    (hs : Keep sB s) : KeepN sB (execStudioStart gen lanes coolId s) := by
  unfold execStudioStart
  repeat' first
    | with_reducible assumption
    | intro _
    | with_reducible apply finish_keep
    | with_reducible apply sampleClass_keep
    | with_reducible apply ShRes.next_keep
    | with_reducible apply limited_keep
    | with_reducible apply nextPhase_keep
    | with_reducible apply endsPhase_keep
    | with_reducible apply trainHost_keep
    | with_reducible apply KeepN.next
    | with_reducible apply KeepN.fault
    | with_reducible apply KeepN.refused
    | with_reducible apply KeepSh.ok
    | with_reducible apply KeepSh.bad
    | with_reducible apply KeepSh.wait
    | (extract_lets +onlyGivenNames x
       first
         | (refine (fun (hx : Keep sB x) => ?_) ?_; clear_value x; rotate_left; subst x)
         | (refine (fun (hx : KeepN sB x) => ?_) ?_; clear_value x; rotate_left; subst x)
         | (refine (fun (hx : KeepSh sB x) => ?_) ?_; clear_value x; rotate_left; subst x)
         | (have := fun a => x a; clear this; subst x)
         | clear_value x
         | subst x)
    | with_reducible apply Keep.ite
    | with_reducible apply KeepN.ite
    | with_reducible apply KeepSh.ite
    | split
    | (with_reducible apply KeepN.of_next; with_reducible assumption)
    | (with_reducible apply KeepN.un_next; with_reducible assumption)
    | (with_reducible apply KeepSh.of_ok; with_reducible assumption)
    | (with_reducible apply KeepSh.un_ok; with_reducible assumption)
    | (with_reducible apply KeepSh.of_bad; with_reducible assumption)
    | (with_reducible apply KeepSh.un_bad; with_reducible assumption)
    | (with_reducible apply KeepSh.of_wait; with_reducible assumption)
    | (with_reducible apply KeepSh.un_wait; with_reducible assumption)

theorem execDieTest_keep {sB : State} {result : DieTest} {s : State}
    (hs : Keep sB s) : KeepN sB (execDieTest result s) := by
  unfold execDieTest
  repeat' first
    | with_reducible assumption
    | intro _
    | with_reducible apply State.put_keep
    | with_reducible apply finish_keep
    | with_reducible apply limited_keep
    | with_reducible apply nextPhase_keep
    | with_reducible apply endsPhase_keep
    | with_reducible apply Keep.foldl
    | with_reducible apply KeepN.next
    | with_reducible apply KeepN.fault
    | with_reducible apply KeepN.refused
    | (extract_lets +onlyGivenNames x
       first
         | (refine (fun (hx : Keep sB x) => ?_) ?_; clear_value x; rotate_left; subst x)
         | (refine (fun (hx : KeepN sB x) => ?_) ?_; clear_value x; rotate_left; subst x)
         | (have := fun a => x a; clear this; subst x)
         | clear_value x
         | subst x)
    | with_reducible apply Keep.ite
    | with_reducible apply KeepN.ite
    | split
    | (with_reducible apply KeepN.of_next; with_reducible assumption)
    | (with_reducible apply KeepN.un_next; with_reducible assumption)
    | (with_reducible apply Keep.ofMk; with_reducible apply Keep.fold)

theorem execLpddrTraining_keep {sB : State} {rates : List (Fin 136 × Nat)} {s : State} (hs : Keep sB s) :
    KeepN sB (execLpddrTraining rates s) := by
  unfold execLpddrTraining
  refine KeepN.ite KeepN.fault (endsPhase_keep hs (finish_keep ?_))
  have h : ∀ (t : State) (b : BootSt), Keep sB t →
      Keep sB { t with mem := sclear t.mem 0 spadBase, bad := [], lines := [], boot := b } := fun t b ht =>
    ht.trans ⟨rfl, Burned.refl _, fun x => ⟨x.1, scanon_sclear 0 _ _ _ x.2.1, x.2.2⟩⟩
  exact Keep.ite (limited_keep (h _ _ (State.put_keep (State.put_keep hs))))
    (nextPhase_keep (h _ _ (State.put_keep (State.put_keep hs))))

theorem putFabric_keep {sB : State} {s : State}
    (hs : Keep sB s) : Keep sB (putFabric s) := by
  unfold putFabric
  repeat' first
    | with_reducible assumption
    | intro _
    | with_reducible apply State.put_keep
    | with_reducible apply Keep.foldl
    | (extract_lets +onlyGivenNames x
       first
         | (refine (fun (hx : Keep sB x) => ?_) ?_; clear_value x; rotate_left; subst x)
         | (have := fun a => x a; clear this; subst x)
         | clear_value x
         | subst x)
    | split

theorem execWeftTraining_keep {sB : State} {seen : List (Fin 16 × Peer)} {s : State}
    (hs : Keep sB s) : KeepN sB (execWeftTraining seen s) := by
  unfold execWeftTraining
  repeat' first
    | with_reducible assumption
    | intro _
    | with_reducible apply finish_keep
    | with_reducible apply trainPort_keep
    | with_reducible apply nextPhase_keep
    | with_reducible apply endsPhase_keep
    | with_reducible apply putFabric_keep
    | with_reducible apply Keep.foldl
    | with_reducible apply KeepN.next
    | with_reducible apply KeepN.fault
    | with_reducible apply KeepN.refused
    | (extract_lets +onlyGivenNames x
       first
         | (refine (fun (hx : Keep sB x) => ?_) ?_; clear_value x; rotate_left; subst x)
         | (refine (fun (hx : KeepN sB x) => ?_) ?_; clear_value x; rotate_left; subst x)
         | (have := fun a => x a; clear this; subst x)
         | clear_value x
         | subst x)
    | with_reducible apply Keep.ite
    | with_reducible apply KeepN.ite
    | split
    | (with_reducible apply KeepN.of_next; with_reducible assumption)
    | (with_reducible apply KeepN.un_next; with_reducible assumption)

theorem putSpindles_keep {sB : State} {s : State} {f : Nat}
    (hs : Keep sB s) : Keep sB (putSpindles s f) := by
  unfold putSpindles
  repeat' first
    | with_reducible assumption
    | intro _
    | with_reducible apply State.put_keep
    | with_reducible apply Keep.foldl
    | (extract_lets +onlyGivenNames x
       first
         | (refine (fun (hx : Keep sB x) => ?_) ?_; clear_value x; rotate_left; subst x)
         | (have := fun a => x a; clear this; subst x)
         | clear_value x
         | subst x)
    | with_reducible apply Keep.ite
    | split

theorem putChannels_keep {sB : State} {s : State}
    (hs : Keep sB s) : Keep sB (putChannels s) := by
  unfold putChannels
  repeat' first
    | with_reducible assumption
    | intro _
    | with_reducible apply State.put_keep
    | with_reducible apply Keep.foldl
    | (extract_lets +onlyGivenNames x
       first
         | (refine (fun (hx : Keep sB x) => ?_) ?_; clear_value x; rotate_left; subst x)
         | (have := fun a => x a; clear this; subst x)
         | clear_value x
         | subst x)
    | split

theorem putDeployment_keep {sB : State} {s : State}
    (hs : Keep sB s) : Keep sB (putDeployment s) := by
  unfold putDeployment
  repeat' first
    | with_reducible assumption
    | intro _
    | with_reducible apply State.put_keep
    | with_reducible apply writeWays_keep
    | with_reducible apply settleWays_keep
    | with_reducible apply putFabric_keep
    | with_reducible apply Keep.foldl
    | (extract_lets +onlyGivenNames x
       first
         | (refine (fun (hx : Keep sB x) => ?_) ?_; clear_value x; rotate_left; subst x)
         | (have := fun a => x a; clear this; subst x)
         | clear_value x
         | subst x)
    | split

theorem badEntries_keep {sB : State} {s : State}
    (hs : Keep sB s) : Keep sB (badEntries s) := by
  unfold badEntries
  repeat' first
    | with_reducible assumption
    | intro _
    | with_reducible apply bootErr_keep
    | with_reducible apply Keep.foldl
    | split

theorem applyParts_keep {sB : State} {s : State}
    (hs : Keep sB s) : Keep sB (applyParts s) := by
  unfold applyParts
  repeat' first
    | with_reducible assumption
    | intro _
    | with_reducible apply State.put_keep
    | with_reducible apply requestFreq_keep
    | with_reducible apply nextPhase_keep
    | with_reducible apply putSpindles_keep
    | with_reducible apply putChannels_keep
    | with_reducible apply putDeployment_keep
    | with_reducible apply Keep.foldl
    | (extract_lets +onlyGivenNames x
       first
         | (refine (fun (hx : Keep sB x) => ?_) ?_; clear_value x; rotate_left; subst x)
         | (have := fun a => x a; clear this; subst x)
         | clear_value x
         | subst x)
    | split
    | (with_reducible apply Keep.ofMk; with_reducible apply Keep.fold)

theorem execApply_keep {sB : State} {s : State}
    (hs : Keep sB s) : KeepN sB (execApply s) := by
  unfold execApply
  repeat' first
    | with_reducible assumption
    | with_reducible apply finish_keep
    | with_reducible apply limited_keep
    | with_reducible apply endsPhase_keep
    | with_reducible apply badEntries_keep
    | with_reducible apply applyParts_keep
    | with_reducible apply KeepN.next
    | with_reducible apply KeepN.fault
    | with_reducible apply KeepN.refused
    | (extract_lets +onlyGivenNames x
       first
         | (refine (fun (hx : Keep sB x) => ?_) ?_; clear_value x; rotate_left; subst x)
         | (refine (fun (hx : KeepN sB x) => ?_) ?_; clear_value x; rotate_left; subst x)
         | (have := fun a => x a; clear this; subst x)
         | clear_value x
         | subst x)
    | with_reducible apply Keep.ite
    | with_reducible apply KeepN.ite
    | split
    | (with_reducible apply KeepN.of_next; with_reducible assumption)
    | (with_reducible apply KeepN.un_next; with_reducible assumption)

theorem bit_succ (x i : Nat) : bit x (i + 1) = bit (x / 2) i := by
  unfold bit
  rw [Nat.shiftRight_eq_div_pow, Nat.shiftRight_eq_div_pow, Nat.pow_succ, Nat.mul_comm, Nat.div_div_eq_div_mul]

/-- Setting a bit that is clear leaves every other bit as it is. -/
theorem bit_add_other (k : Nat) : ∀ (x j : Nat), bit x k = false → j ≠ k → bit (x + 2 ^ k) j = bit x j := by
  induction k with
  | zero =>
    intro x j h hj
    cases j with
    | zero => exact absurd rfl hj
    | succ j =>
      rw [bit_succ, bit_succ]
      have : (x + 2 ^ 0) / 2 = x / 2 := by
        simp only [bit, Nat.shiftRight_zero, decide_eq_false_iff_not] at h
        omega
      rw [this]
  | succ k ih =>
    intro x j h hj
    have e : (x + 2 ^ (k + 1)) / 2 = x / 2 + 2 ^ k := by
      rw [Nat.pow_succ]; omega
    rw [bit_succ] at h
    cases j with
    | zero =>
      simp only [bit, Nat.shiftRight_zero, Nat.pow_succ]
      congr 1
      rw [Nat.add_mul_mod_self_right]
    | succ j =>
      rw [bit_succ, bit_succ, e]
      exact ih (x / 2) j h (by omega)

/-- A change of the fuses that only burns, and leaves a slot to boot from. -/
theorem Keep.fuse {sB s : State} (hs : Keep sB s) (z : Fuses) (hb : Burned s.fuses z)
    (hz : s.fuses.bootable = true → z.bootable = true) : Keep sB { s with fuses := z } :=
  hs.trans ⟨rfl, hb, fun x => ⟨x.1, x.2.1, x.2.2.1, x.2.2.2.1, x.2.2.2.2.1, hz x.2.2.2.2.2⟩⟩

theorem revoke_keep {sB s : State} {x : Image} {t : Nat} (hs : Keep sB s) : Keep sB (revoke s x t) := by
  unfold revoke
  refine Keep.foldl _ _ _ hs (fun u k h => ?_)
  split
  · exact h
  · rename_i hn
    split
    · rename_i hm
      have hk : bit u.fuses.revoked k = false := by
        cases hb : bit u.fuses.revoked k with
        | false => rfl
        | true => exact absurd (Or.inr hb) hn
      refine h.fuse _ ⟨rfl, rfl, rfl, rfl, fun _ => Nat.le_refl _, fun j hj => ?_⟩ (fun _ => ?_)
      · by_cases e : j = k
        · rw [e, hk] at hj; cases hj
        · exact (bit_add_other k _ j hk e).trans hj
      · unfold mayRevoke at hm
        simp only [Bool.and_eq_true, List.any_eq_true, decide_eq_true_eq] at hm
        obtain ⟨_, i, hi, hm2⟩ := hm
        obtain ⟨⟨⟨hne, hp⟩, hr⟩, ha⟩ := hm2
        unfold Fuses.bootable
        rw [List.any_eq_true]
        refine ⟨i, hi, ?_⟩
        simp only [Bool.and_eq_true]
        refine ⟨⟨hp, ?_⟩, ha⟩
        rw [bit_add_other k _ i hk hne]
        exact hr
    · exact bootErr_keep h

theorem burnFloors_burned (z : Fuses) (x : Slot) : Burned z (burnFloors z x) ∧ (burnFloors z x).revoked = z.revoked := by
  unfold burnFloors
  generalize List.range 7 = l
  have : ∀ (w : Fuses), Burned z w ∧ w.revoked = z.revoked →
      Burned z (l.foldl (fun z i =>
        { z with svn := sput 0 z.svn (i + 1) (max (sget 0 z.svn (i + 1)) (min 64 (x.img (i + 1)).floor)) }) w) ∧
      (l.foldl (fun z i =>
        { z with svn := sput 0 z.svn (i + 1) (max (sget 0 z.svn (i + 1)) (min 64 (x.img (i + 1)).floor)) }) w).revoked =
        z.revoked := by
    induction l with
    | nil => intro w h; exact h
    | cons i r ih =>
      intro w h
      refine ih _ ⟨h.1.trans ⟨rfl, rfl, rfl, rfl, fun j => ?_, fun _ hk => hk⟩, h.2⟩
      simp only [sget_sput]
      split
      · rename_i e; rw [e]; exact Nat.le_max_left _ _
      · exact Nat.le_refl _
  exact this z ⟨Burned.refl z, rfl⟩

theorem burnFloors_bootable (z : Fuses) (x : Slot) (h : z.bootable = true) : (burnFloors z x).bootable = true := by
  obtain ⟨⟨e1, e2, _⟩, e3⟩ := burnFloors_burned z x
  simp only [Fuses.bootable, Fuses.programmed, Fuses.allows, e1, e2, e3] at h ⊢
  exact h

theorem execReady_keep {sB s : State} (hs : Keep sB s) : KeepN sB (execReady s) := by
  unfold execReady
  refine KeepN.ite ?_ (KeepN.next hs)
  have h1 : ∀ (t : State) (x : Slot), Keep sB t → Keep sB { t with fuses := burnFloors t.fuses x } := fun t x h =>
    h.fuse _ (burnFloors_burned _ _).1 (burnFloors_bootable _ _)
  extract_lets x s1 s2 s3
  have k1 : Keep sB s1 := State.put_keep (endBoot_keep hs)
  have k2 : Keep sB s2 := h1 _ _ k1
  have k3 : Keep sB s3 := showFuses_keep (Keep.foldl _ _ _ k2 (fun u i h => revoke_keep h))
  clear_value s3
  refine finish_keep (Keep.ite (clearPend_keep (k3.same rfl)) k3)

theorem execBootTimeout_keep {sB : State} {s : State}
    (hs : Keep sB s) : KeepN sB (execBootTimeout s) := by
  unfold execBootTimeout
  repeat' first
    | with_reducible assumption
    | intro _
    | with_reducible apply finish_keep
    | with_reducible apply ShRes.next_keep
    | with_reducible apply limited_keep
    | with_reducible apply KeepN.next
    | with_reducible apply KeepN.fault
    | with_reducible apply KeepN.refused
    | with_reducible apply KeepSh.ok
    | with_reducible apply KeepSh.bad
    | with_reducible apply KeepSh.wait
    | with_reducible apply Keep.ite
    | with_reducible apply KeepN.ite
    | with_reducible apply KeepSh.ite
    | split
    | (with_reducible apply KeepN.of_next; with_reducible assumption)
    | (with_reducible apply KeepN.un_next; with_reducible assumption)
    | (with_reducible apply KeepSh.of_ok; with_reducible assumption)
    | (with_reducible apply KeepSh.un_ok; with_reducible assumption)
    | (with_reducible apply KeepSh.of_bad; with_reducible assumption)
    | (with_reducible apply KeepSh.un_bad; with_reducible assumption)
    | (with_reducible apply KeepSh.of_wait; with_reducible assumption)
    | (with_reducible apply KeepSh.un_wait; with_reducible assumption)

theorem stageFails_keep {sB : State} {s : State} {n : Nat} {k : Nat} {cause : Nat} {t : Nat}
    (hs : Keep sB s) : Keep sB (stageFails s n k cause t) := by
  unfold stageFails
  repeat' first
    | with_reducible assumption
    | with_reducible apply State.put_keep
    | with_reducible apply setResult_keep

theorem stage_keep {sB : State} {s : State} {n : Nat} {k : Nat} {b : List Byte} {flashOk : Bool}
    (hs : Keep sB s) : Keep sB (stage s n k b flashOk) := by
  unfold stage
  repeat' first
    | with_reducible assumption
    | intro _
    | with_reducible apply State.put_keep
    | with_reducible apply setResult_keep
    | with_reducible apply stageFails_keep
    | (extract_lets +onlyGivenNames x
       first
         | (refine (fun (hx : Keep sB x) => ?_) ?_; clear_value x; rotate_left; subst x)
         | (have := fun a => x a; clear this; subst x)
         | clear_value x
         | subst x)
    | with_reducible apply Keep.ite
    | split
    | (with_reducible apply Keep.ofMk; with_reducible apply Keep.fold)

theorem execFwStage_keep {sB : State} {n : Fin 64} {k : Nat} {resp : Resp} {flashOk : Bool} {s : State}
    (hs : Keep sB s) : KeepN sB (execFwStage n k resp flashOk s) := by
  unfold execFwStage
  repeat' first
    | with_reducible assumption
    | intro _
    | with_reducible apply ShRes.next_keep
    | with_reducible apply hostErr_keep
    | with_reducible apply mboxStart_keep
    | with_reducible apply stageFails_keep
    | with_reducible apply stage_keep
    | with_reducible apply KeepN.next
    | with_reducible apply KeepN.fault
    | with_reducible apply KeepN.refused
    | with_reducible apply KeepSh.ok
    | with_reducible apply KeepSh.bad
    | with_reducible apply KeepSh.wait
    | with_reducible apply Keep.ite
    | with_reducible apply KeepN.ite
    | with_reducible apply KeepSh.ite
    | split
    | (with_reducible apply KeepN.of_next; with_reducible assumption)
    | (with_reducible apply KeepN.un_next; with_reducible assumption)
    | (with_reducible apply KeepSh.of_ok; with_reducible assumption)
    | (with_reducible apply KeepSh.un_ok; with_reducible assumption)
    | (with_reducible apply KeepSh.of_bad; with_reducible assumption)
    | (with_reducible apply KeepSh.un_bad; with_reducible assumption)
    | (with_reducible apply KeepSh.of_wait; with_reducible assumption)
    | (with_reducible apply KeepSh.un_wait; with_reducible assumption)

theorem activateStaged_keep {sB : State} {s : State}
    (hs : Keep sB s) : Keep sB (activateStaged s) := by
  unfold activateStaged
  repeat' first
    | with_reducible assumption
    | with_reducible apply State.put_keep
    | (extract_lets +onlyGivenNames x
       first
         | (refine (fun (hx : Keep sB x) => ?_) ?_; clear_value x; rotate_left; subst x)
         | (have := fun a => x a; clear this; subst x)
         | clear_value x
         | subst x)
    | with_reducible apply Keep.ite
    | split
    | (with_reducible apply Keep.ofMk; with_reducible apply Keep.fold)

theorem execActivate_keep {sB : State} {s : State}
    (hs : Keep sB s) : KeepN sB (execActivate s) := by
  unfold execActivate
  repeat' first
    | with_reducible assumption
    | intro _
    | with_reducible apply ShRes.next_keep
    | with_reducible apply activateStaged_keep
    | with_reducible apply KeepN.next
    | with_reducible apply KeepN.fault
    | with_reducible apply KeepN.refused
    | with_reducible apply KeepSh.ok
    | with_reducible apply KeepSh.bad
    | with_reducible apply KeepSh.wait
    | with_reducible apply Keep.ite
    | with_reducible apply KeepN.ite
    | with_reducible apply KeepSh.ite
    | split
    | (with_reducible apply KeepN.of_next; with_reducible assumption)
    | (with_reducible apply KeepN.un_next; with_reducible assumption)
    | (with_reducible apply KeepSh.of_ok; with_reducible assumption)
    | (with_reducible apply KeepSh.un_ok; with_reducible assumption)
    | (with_reducible apply KeepSh.of_bad; with_reducible assumption)
    | (with_reducible apply KeepSh.un_bad; with_reducible assumption)
    | (with_reducible apply KeepSh.of_wait; with_reducible assumption)
    | (with_reducible apply KeepSh.un_wait; with_reducible assumption)

theorem romStart_keep {sB : State} {s : State}
    (hs : Keep sB s) : Keep sB (romStart s) := by
  unfold romStart
  repeat' first
    | with_reducible assumption
    | with_reducible apply State.put_keep
    | with_reducible apply showFuses_keep

theorem unpowered_keep {sB s : State} (hs : Keep sB s) : Keep sB (unpowered s) :=
  hs.trans ⟨rfl, Burned.refl _, fun x => ⟨rfl, scanon_filter 0 _ _ x.2.1, Nat.zero_le _, (fun _ h => nomatch h),
    x.2.2.2.2.1, x.2.2.2.2.2⟩⟩

theorem keepPins_keep {sB : State} {s : State} {t : State}
    (hs : Keep sB s) (ht : Keep sB t) : Keep sB (keepPins s t) := by
  unfold keepPins
  repeat' first
    | with_reducible assumption
    | with_reducible apply State.put_keep
    | (extract_lets +onlyGivenNames x
       first
         | (refine (fun (hx : Keep sB x) => ?_) ?_; clear_value x; rotate_left; subst x)
         | (have := fun a => x a; clear this; subst x)
         | clear_value x
         | subst x)
    | split

theorem inReset_keep {sB s : State} (hs : Keep sB s) : Keep sB (inReset s) := by
  unfold inReset
  refine romStart_keep (keepPins_keep hs (hs.trans ⟨rfl, Burned.refl _, fun x => ⟨rfl, x.2⟩⟩))

theorem execStandbyOn_keep {sB : State} {slotId : BitVec 6} {s : State} (hs : Keep sB s) :
    KeepN sB (execStandbyOn slotId s) := by
  unfold execStandbyOn
  refine KeepN.ite (KeepN.next hs) (KeepN.next (romStart_keep (State.put_keep ?_)))
  exact (unpowered_keep hs).same rfl

theorem execStandbyLoss_keep {sB s : State} (hs : Keep sB s) : KeepN sB (execStandbyLoss s) := by
  unfold execStandbyLoss
  exact KeepN.ite (KeepN.next (unpowered_keep hs)) (KeepN.next hs)

theorem powerStop_keep {sB : State} {s : State}
    (hs : Keep sB s) : Keep sB (powerStop s) := by
  unfold powerStop
  repeat' first
    | with_reducible assumption
    | with_reducible apply State.put_keep
    | with_reducible apply moduleStop_keep
    | (extract_lets +onlyGivenNames x
       first
         | (refine (fun (hx : Keep sB x) => ?_) ?_; clear_value x; rotate_left; subst x)
         | (have := fun a => x a; clear this; subst x)
         | clear_value x
         | subst x)
    | with_reducible apply Keep.ite
    | split

theorem execPwrEnAssert_keep {sB : State} {s : State}
    (hs : Keep sB s) : KeepN sB (execPwrEnAssert s) := by
  unfold execPwrEnAssert
  repeat' first
    | with_reducible assumption
    | intro _
    | with_reducible apply State.put_keep
    | with_reducible apply ShRes.next_keep
    | with_reducible apply KeepN.next
    | with_reducible apply KeepN.fault
    | with_reducible apply KeepN.refused
    | with_reducible apply KeepSh.ok
    | with_reducible apply KeepSh.bad
    | with_reducible apply KeepSh.wait
    | (extract_lets +onlyGivenNames x
       first
         | (refine (fun (hx : Keep sB x) => ?_) ?_; clear_value x; rotate_left; subst x)
         | (refine (fun (hx : KeepN sB x) => ?_) ?_; clear_value x; rotate_left; subst x)
         | (refine (fun (hx : KeepSh sB x) => ?_) ?_; clear_value x; rotate_left; subst x)
         | (have := fun a => x a; clear this; subst x)
         | clear_value x
         | subst x)
    | with_reducible apply Keep.ite
    | with_reducible apply KeepN.ite
    | with_reducible apply KeepSh.ite
    | split
    | (with_reducible apply KeepN.of_next; with_reducible assumption)
    | (with_reducible apply KeepN.un_next; with_reducible assumption)
    | (with_reducible apply KeepSh.of_ok; with_reducible assumption)
    | (with_reducible apply KeepSh.un_ok; with_reducible assumption)
    | (with_reducible apply KeepSh.of_bad; with_reducible assumption)
    | (with_reducible apply KeepSh.un_bad; with_reducible assumption)
    | (with_reducible apply KeepSh.of_wait; with_reducible assumption)
    | (with_reducible apply KeepSh.un_wait; with_reducible assumption)
    | (with_reducible apply Keep.ofMk; with_reducible apply Keep.fold)

theorem execRailsUp_keep {sB : State} {s : State}
    (hs : Keep sB s) : KeepN sB (execRailsUp s) := by
  unfold execRailsUp
  repeat' first
    | with_reducible assumption
    | intro _
    | with_reducible apply State.put_keep
    | with_reducible apply ShRes.next_keep
    | with_reducible apply KeepN.next
    | with_reducible apply KeepN.fault
    | with_reducible apply KeepN.refused
    | with_reducible apply KeepSh.ok
    | with_reducible apply KeepSh.bad
    | with_reducible apply KeepSh.wait
    | (extract_lets +onlyGivenNames x
       first
         | (refine (fun (hx : Keep sB x) => ?_) ?_; clear_value x; rotate_left; subst x)
         | (refine (fun (hx : KeepN sB x) => ?_) ?_; clear_value x; rotate_left; subst x)
         | (refine (fun (hx : KeepSh sB x) => ?_) ?_; clear_value x; rotate_left; subst x)
         | (have := fun a => x a; clear this; subst x)
         | clear_value x
         | subst x)
    | with_reducible apply Keep.ite
    | with_reducible apply KeepN.ite
    | with_reducible apply KeepSh.ite
    | split
    | (with_reducible apply KeepN.of_next; with_reducible assumption)
    | (with_reducible apply KeepN.un_next; with_reducible assumption)
    | (with_reducible apply KeepSh.of_ok; with_reducible assumption)
    | (with_reducible apply KeepSh.un_ok; with_reducible assumption)
    | (with_reducible apply KeepSh.of_bad; with_reducible assumption)
    | (with_reducible apply KeepSh.un_bad; with_reducible assumption)
    | (with_reducible apply KeepSh.of_wait; with_reducible assumption)
    | (with_reducible apply KeepSh.un_wait; with_reducible assumption)
    | (with_reducible apply Keep.ofMk; with_reducible apply Keep.fold)

theorem execRailfail_keep {sB : State} {s : State}
    (hs : Keep sB s) : KeepN sB (execRailfail s) := by
  unfold execRailfail
  repeat' first
    | with_reducible assumption
    | intro _
    | with_reducible apply State.put_keep
    | with_reducible apply ShRes.next_keep
    | with_reducible apply KeepN.next
    | with_reducible apply KeepN.fault
    | with_reducible apply KeepN.refused
    | with_reducible apply KeepSh.ok
    | with_reducible apply KeepSh.bad
    | with_reducible apply KeepSh.wait
    | (extract_lets +onlyGivenNames x
       first
         | (refine (fun (hx : Keep sB x) => ?_) ?_; clear_value x; rotate_left; subst x)
         | (refine (fun (hx : KeepN sB x) => ?_) ?_; clear_value x; rotate_left; subst x)
         | (refine (fun (hx : KeepSh sB x) => ?_) ?_; clear_value x; rotate_left; subst x)
         | (have := fun a => x a; clear this; subst x)
         | clear_value x
         | subst x)
    | with_reducible apply Keep.ite
    | with_reducible apply KeepN.ite
    | with_reducible apply KeepSh.ite
    | split
    | (with_reducible apply KeepN.of_next; with_reducible assumption)
    | (with_reducible apply KeepN.un_next; with_reducible assumption)
    | (with_reducible apply KeepSh.of_ok; with_reducible assumption)
    | (with_reducible apply KeepSh.un_ok; with_reducible assumption)
    | (with_reducible apply KeepSh.of_bad; with_reducible assumption)
    | (with_reducible apply KeepSh.un_bad; with_reducible assumption)
    | (with_reducible apply KeepSh.of_wait; with_reducible assumption)
    | (with_reducible apply KeepSh.un_wait; with_reducible assumption)
    | (with_reducible apply Keep.ofMk; with_reducible apply Keep.fold)

theorem execPwrEnDeassert_keep {sB : State} {s : State}
    (hs : Keep sB s) : KeepN sB (execPwrEnDeassert s) := by
  unfold execPwrEnDeassert
  repeat' first
    | with_reducible assumption
    | intro _
    | with_reducible apply State.put_keep
    | with_reducible apply finish_keep
    | with_reducible apply stageOff_keep
    | with_reducible apply ShRes.next_keep
    | with_reducible apply powerStop_keep
    | with_reducible apply KeepN.next
    | with_reducible apply KeepN.fault
    | with_reducible apply KeepN.refused
    | with_reducible apply KeepSh.ok
    | with_reducible apply KeepSh.bad
    | with_reducible apply KeepSh.wait
    | (extract_lets +onlyGivenNames x
       first
         | (refine (fun (hx : Keep sB x) => ?_) ?_; clear_value x; rotate_left; subst x)
         | (refine (fun (hx : KeepN sB x) => ?_) ?_; clear_value x; rotate_left; subst x)
         | (refine (fun (hx : KeepSh sB x) => ?_) ?_; clear_value x; rotate_left; subst x)
         | (have := fun a => x a; clear this; subst x)
         | clear_value x
         | subst x)
    | with_reducible apply Keep.ite
    | with_reducible apply KeepN.ite
    | with_reducible apply KeepSh.ite
    | split
    | (with_reducible apply KeepN.of_next; with_reducible assumption)
    | (with_reducible apply KeepN.un_next; with_reducible assumption)
    | (with_reducible apply KeepSh.of_ok; with_reducible assumption)
    | (with_reducible apply KeepSh.un_ok; with_reducible assumption)
    | (with_reducible apply KeepSh.of_bad; with_reducible assumption)
    | (with_reducible apply KeepSh.un_bad; with_reducible assumption)
    | (with_reducible apply KeepSh.of_wait; with_reducible assumption)
    | (with_reducible apply KeepSh.un_wait; with_reducible assumption)
    | (with_reducible apply Keep.ofMk; with_reducible apply Keep.fold)

theorem execInfault_keep {sB : State} {s : State}
    (hs : Keep sB s) : KeepN sB (execInfault s) := by
  unfold execInfault
  repeat' first
    | with_reducible assumption
    | intro _
    | with_reducible apply State.put_keep
    | with_reducible apply finish_keep
    | with_reducible apply stageOff_keep
    | with_reducible apply ShRes.next_keep
    | with_reducible apply powerStop_keep
    | with_reducible apply KeepN.next
    | with_reducible apply KeepN.fault
    | with_reducible apply KeepN.refused
    | with_reducible apply KeepSh.ok
    | with_reducible apply KeepSh.bad
    | with_reducible apply KeepSh.wait
    | (extract_lets +onlyGivenNames x
       first
         | (refine (fun (hx : Keep sB x) => ?_) ?_; clear_value x; rotate_left; subst x)
         | (refine (fun (hx : KeepN sB x) => ?_) ?_; clear_value x; rotate_left; subst x)
         | (refine (fun (hx : KeepSh sB x) => ?_) ?_; clear_value x; rotate_left; subst x)
         | (have := fun a => x a; clear this; subst x)
         | clear_value x
         | subst x)
    | with_reducible apply Keep.ite
    | with_reducible apply KeepN.ite
    | with_reducible apply KeepSh.ite
    | split
    | (with_reducible apply KeepN.of_next; with_reducible assumption)
    | (with_reducible apply KeepN.un_next; with_reducible assumption)
    | (with_reducible apply KeepSh.of_ok; with_reducible assumption)
    | (with_reducible apply KeepSh.un_ok; with_reducible assumption)
    | (with_reducible apply KeepSh.of_bad; with_reducible assumption)
    | (with_reducible apply KeepSh.un_bad; with_reducible assumption)
    | (with_reducible apply KeepSh.of_wait; with_reducible assumption)
    | (with_reducible apply KeepSh.un_wait; with_reducible assumption)
    | (with_reducible apply Keep.ofMk; with_reducible apply Keep.fold)

theorem execPerstAssert_keep {sB : State} {s : State}
    (hs : Keep sB s) : KeepN sB (execPerstAssert s) := by
  unfold execPerstAssert
  repeat' first
    | with_reducible assumption
    | intro _
    | with_reducible apply State.put_keep
    | with_reducible apply ShRes.next_keep
    | with_reducible apply inReset_keep
    | with_reducible apply KeepN.next
    | with_reducible apply KeepN.fault
    | with_reducible apply KeepN.refused
    | with_reducible apply KeepSh.ok
    | with_reducible apply KeepSh.bad
    | with_reducible apply KeepSh.wait
    | (extract_lets +onlyGivenNames x
       first
         | (refine (fun (hx : Keep sB x) => ?_) ?_; clear_value x; rotate_left; subst x)
         | (refine (fun (hx : KeepN sB x) => ?_) ?_; clear_value x; rotate_left; subst x)
         | (refine (fun (hx : KeepSh sB x) => ?_) ?_; clear_value x; rotate_left; subst x)
         | (have := fun a => x a; clear this; subst x)
         | clear_value x
         | subst x)
    | with_reducible apply Keep.ite
    | with_reducible apply KeepN.ite
    | with_reducible apply KeepSh.ite
    | split
    | (with_reducible apply KeepN.of_next; with_reducible assumption)
    | (with_reducible apply KeepN.un_next; with_reducible assumption)
    | (with_reducible apply KeepSh.of_ok; with_reducible assumption)
    | (with_reducible apply KeepSh.un_ok; with_reducible assumption)
    | (with_reducible apply KeepSh.of_bad; with_reducible assumption)
    | (with_reducible apply KeepSh.un_bad; with_reducible assumption)
    | (with_reducible apply KeepSh.of_wait; with_reducible assumption)
    | (with_reducible apply KeepSh.un_wait; with_reducible assumption)
    | (with_reducible apply Keep.ofMk; with_reducible apply Keep.fold)

theorem enterSet_keep {sB s : State} {l : List ErrRec} (hs : Keep sB s) : Keep sB (enterSet s l) := by
  unfold enterSet
  refine Keep.foldl _ _ _ hs (fun u r h => ?_)
  split
  · exact h
  · have key : ∀ (t : State), Keep sB t → t.log = u.log → t.nextSeq = u.nextSeq →
        Keep sB { t with log := (logRoom u.log).1 ++ [{ r with prior := true, read := false }],
                         nextSeq := max t.nextSeq (r.seq + 1) } := by
      intro t ht e n
      refine ht.log _ _ (fun a b => ?_)
      rw [e] at a b
      obtain ⟨p, q⟩ := logRoom_props u.log a
      refine ⟨by simpa using p, fun y hy => ?_⟩
      rcases List.mem_append.mp hy with hy | hy
      · exact Nat.lt_of_lt_of_le (b y (q y hy)) (Nat.le_max_left _ _)
      · rw [List.mem_singleton.mp hy]
        exact Nat.lt_of_lt_of_le (Nat.lt_succ_self _) (Nat.le_max_right _ _)
    by_cases c : (logRoom u.log).2 = true
    · simp only [c, if_true]
      exact key _ (State.bump_keep h) rfl rfl
    · simp only [c]
      exact key _ h rfl rfl

theorem enterSets_keep {sB s : State} (hs : Keep sB s) : Keep sB (enterSets s) := by
  unfold enterSets
  extract_lets t
  have ht : Keep sB t := Keep.foldl _ _ _ hs (fun u e h => enterSet_keep h)
  refine ⟨ht.1, ht.2.1, fun x => ?_⟩
  have a := ht.2.2 x
  have b := hs.2.2 x
  exact ⟨a.1, a.2.1, a.2.2.1, a.2.2.2.1, by simpa using b.2.2.2.2.1, a.2.2.2.2.2⟩

theorem stayStopped_keep {sB s : State} (hs : Keep sB s) : Keep sB (stayStopped s) := by
  unfold stayStopped
  repeat' first
    | with_reducible assumption
    | with_reducible apply State.put_keep

theorem releaseStop_keep {sB s : State} (hs : Keep sB s) : Keep sB (releaseStop s) := by
  unfold releaseStop
  split
  · have h := powerStop_keep hs
    exact Keep.ofMk h.fold
  · split
    · split
      · exact Keep.ofMk hs.fold
      · exact stayStopped_keep hs
    · exact hs

theorem execPerstRelease_keep {sB : State} {s : State}
    (hs : Keep sB s) : KeepN sB (execPerstRelease s) := by
  unfold execPerstRelease
  repeat' first
    | with_reducible assumption
    | intro _
    | with_reducible apply State.put_keep
    | with_reducible apply finish_keep
    | with_reducible apply ShRes.next_keep
    | with_reducible apply inReset_keep
    | with_reducible apply powerStop_keep
    | with_reducible apply enterSets_keep
    | with_reducible apply releaseStop_keep
    | with_reducible apply KeepN.next
    | with_reducible apply KeepN.fault
    | with_reducible apply KeepN.refused
    | with_reducible apply KeepSh.ok
    | with_reducible apply KeepSh.bad
    | with_reducible apply KeepSh.wait
    | (extract_lets +onlyGivenNames x
       first
         | (refine (fun (hx : Keep sB x) => ?_) ?_; clear_value x; rotate_left; subst x)
         | (refine (fun (hx : KeepN sB x) => ?_) ?_; clear_value x; rotate_left; subst x)
         | (refine (fun (hx : KeepSh sB x) => ?_) ?_; clear_value x; rotate_left; subst x)
         | (have := fun a => x a; clear this; subst x)
         | clear_value x
         | subst x)
    | with_reducible apply Keep.ite
    | with_reducible apply KeepN.ite
    | with_reducible apply KeepSh.ite
    | split
    | (with_reducible apply KeepN.of_next; with_reducible assumption)
    | (with_reducible apply KeepN.un_next; with_reducible assumption)
    | (with_reducible apply KeepSh.of_ok; with_reducible assumption)
    | (with_reducible apply KeepSh.un_ok; with_reducible assumption)
    | (with_reducible apply KeepSh.of_bad; with_reducible assumption)
    | (with_reducible apply KeepSh.un_bad; with_reducible assumption)
    | (with_reducible apply KeepSh.of_wait; with_reducible assumption)
    | (with_reducible apply KeepSh.un_wait; with_reducible assumption)

theorem startTelem_keep {sB : State} {s : State} {addr : Nat} {p : Nat}
    (hs : Keep sB s) : Keep sB (startTelem s addr p) := by
  unfold startTelem
  repeat' first
    | with_reducible assumption
    | with_reducible apply State.put_keep
    | (extract_lets +onlyGivenNames x
       first
         | (refine (fun (hx : Keep sB x) => ?_) ?_; clear_value x; rotate_left; subst x)
         | (have := fun a => x a; clear this; subst x)
         | clear_value x
         | subst x)
    | split
    | (with_reducible apply Keep.ofMk; with_reducible apply Keep.fold)

theorem execTelem_keep {sB : State} {n : Fin 64} {k : Nat} {s : State}
    (hs : Keep sB s) : KeepN sB (execTelem n k s) := by
  unfold execTelem
  repeat' first
    | with_reducible assumption
    | intro _
    | with_reducible apply State.put_keep
    | with_reducible apply setResult_keep
    | with_reducible apply mboxStart_keep
    | with_reducible apply startTelem_keep
    | with_reducible apply KeepN.next
    | with_reducible apply KeepN.fault
    | with_reducible apply KeepN.refused
    | (extract_lets +onlyGivenNames x
       first
         | (refine (fun (hx : Keep sB x) => ?_) ?_; clear_value x; rotate_left; subst x)
         | (refine (fun (hx : KeepN sB x) => ?_) ?_; clear_value x; rotate_left; subst x)
         | (have := fun a => x a; clear this; subst x)
         | clear_value x
         | subst x)
    | with_reducible apply Keep.ite
    | with_reducible apply KeepN.ite
    | split
    | (with_reducible apply KeepN.of_next; with_reducible assumption)
    | (with_reducible apply KeepN.un_next; with_reducible assumption)
    | (with_reducible apply Keep.ofMk; with_reducible apply Keep.fold)

theorem latchRegions_keep {sB : State} {s : State}
    (hs : Keep sB s) : Keep sB (latchRegions s) := by
  unfold latchRegions
  repeat' first
    | with_reducible assumption
    | intro _
    | with_reducible apply ShRes.next_keep
    | with_reducible apply KeepSh.ok
    | with_reducible apply KeepSh.bad
    | with_reducible apply KeepSh.wait
    | (extract_lets +onlyGivenNames x
       first
         | (refine (fun (hx : Keep sB x) => ?_) ?_; clear_value x; rotate_left; subst x)
         | (refine (fun (hx : KeepSh sB x) => ?_) ?_; clear_value x; rotate_left; subst x)
         | (have := fun a => x a; clear this; subst x)
         | clear_value x
         | subst x)
    | with_reducible apply Keep.ite
    | with_reducible apply KeepSh.ite
    | split
    | (with_reducible apply KeepSh.of_ok; with_reducible assumption)
    | (with_reducible apply KeepSh.un_ok; with_reducible assumption)
    | (with_reducible apply KeepSh.of_bad; with_reducible assumption)
    | (with_reducible apply KeepSh.un_bad; with_reducible assumption)
    | (with_reducible apply KeepSh.of_wait; with_reducible assumption)
    | (with_reducible apply KeepSh.un_wait; with_reducible assumption)
    | (with_reducible apply Keep.ofMk; with_reducible apply Keep.fold)

theorem endWindow_keep {sB : State} {s : State} {t : TelemSt} {b : Latch}
    (hs : Keep sB s) : Keep sB (endWindow s t b) := by
  unfold endWindow
  repeat' first
    | with_reducible assumption
    | intro _
    | with_reducible apply State.put_keep
    | with_reducible apply ShRes.next_keep
    | with_reducible apply hostWr_keep
    | with_reducible apply KeepSh.ok
    | with_reducible apply KeepSh.bad
    | with_reducible apply KeepSh.wait
    | (extract_lets +onlyGivenNames x
       first
         | (refine (fun (hx : Keep sB x) => ?_) ?_; clear_value x; rotate_left; subst x)
         | (refine (fun (hx : KeepSh sB x) => ?_) ?_; clear_value x; rotate_left; subst x)
         | (have := fun a => x a; clear this; subst x)
         | clear_value x
         | subst x)
    | with_reducible apply Keep.ite
    | with_reducible apply KeepSh.ite
    | split
    | (with_reducible apply KeepSh.of_ok; with_reducible assumption)
    | (with_reducible apply KeepSh.un_ok; with_reducible assumption)
    | (with_reducible apply KeepSh.of_bad; with_reducible assumption)
    | (with_reducible apply KeepSh.un_bad; with_reducible assumption)
    | (with_reducible apply KeepSh.of_wait; with_reducible assumption)
    | (with_reducible apply KeepSh.un_wait; with_reducible assumption)
    | (with_reducible apply Keep.ofMk; with_reducible apply Keep.fold)

theorem execTelemWindow_keep {sB : State} {s : State}
    (hs : Keep sB s) : KeepN sB (execTelemWindow s) := by
  unfold execTelemWindow
  repeat' first
    | with_reducible assumption
    | intro _
    | with_reducible apply finish_keep
    | with_reducible apply ShRes.next_keep
    | with_reducible apply endWindow_keep
    | with_reducible apply KeepN.next
    | with_reducible apply KeepN.fault
    | with_reducible apply KeepN.refused
    | with_reducible apply KeepSh.ok
    | with_reducible apply KeepSh.bad
    | with_reducible apply KeepSh.wait
    | (extract_lets +onlyGivenNames x
       first
         | (refine (fun (hx : Keep sB x) => ?_) ?_; clear_value x; rotate_left; subst x)
         | (refine (fun (hx : KeepN sB x) => ?_) ?_; clear_value x; rotate_left; subst x)
         | (refine (fun (hx : KeepSh sB x) => ?_) ?_; clear_value x; rotate_left; subst x)
         | (have := fun a => x a; clear this; subst x)
         | clear_value x
         | subst x)
    | with_reducible apply Keep.ite
    | with_reducible apply KeepN.ite
    | with_reducible apply KeepSh.ite
    | split
    | (with_reducible apply KeepN.of_next; with_reducible assumption)
    | (with_reducible apply KeepN.un_next; with_reducible assumption)
    | (with_reducible apply KeepSh.of_ok; with_reducible assumption)
    | (with_reducible apply KeepSh.un_ok; with_reducible assumption)
    | (with_reducible apply KeepSh.of_bad; with_reducible assumption)
    | (with_reducible apply KeepSh.un_bad; with_reducible assumption)
    | (with_reducible apply KeepSh.of_wait; with_reducible assumption)
    | (with_reducible apply KeepSh.un_wait; with_reducible assumption)
    | (with_reducible apply Keep.ofMk; with_reducible apply Keep.fold)

theorem writeField_keep {sB : State} {s : State} {fl : Field} {off : Nat} {x : Nat}
    (hs : Keep sB s) : Keep sB (writeField s fl off x) := by
  unfold writeField
  repeat' first
    | with_reducible assumption
    | with_reducible apply State.put_keep
    | (extract_lets +onlyGivenNames x
       first
         | (refine (fun (hx : Keep sB x) => ?_) ?_; clear_value x; rotate_left; subst x)
         | (have := fun a => x a; clear this; subst x)
         | clear_value x
         | subst x)
    | with_reducible apply Keep.ite
    | split
    | (with_reducible apply Keep.ofMk; with_reducible apply Keep.fold)

theorem writeFields_keep {sB : State} {s : State} {fs : List Field} {off : Nat} {v : Nat}
    (hs : Keep sB s) : Keep sB (writeFields s fs off v) := by
  unfold writeFields
  repeat' first
    | with_reducible assumption
    | intro _
    | with_reducible apply writeField_keep
    | with_reducible apply Keep.foldl
    | split

theorem writeRingCfg_keep {sB : State} {s : State} {n : Nat} {v : Nat}
    (hs : Keep sB s) : Keep sB (writeRingCfg s n v) := by
  unfold writeRingCfg
  repeat' first
    | with_reducible assumption
    | with_reducible apply State.put_keep
    | with_reducible apply enableRing_keep
    | with_reducible apply disableRing_keep
    | (extract_lets +onlyGivenNames x
       first
         | (refine (fun (hx : Keep sB x) => ?_) ?_; clear_value x; rotate_left; subst x)
         | (have := fun a => x a; clear this; subst x)
         | clear_value x
         | subst x)
    | with_reducible apply Keep.ite
    | split

theorem writeSrcCfg_keep {sB : State} {s : State} {src : Nat} {v : Nat}
    (hs : Keep sB s) : Keep sB (writeSrcCfg s src v) := by
  unfold writeSrcCfg
  repeat' first
    | with_reducible assumption
    | with_reducible apply State.put_keep
    | with_reducible apply setSrcCfg_keep
    | (extract_lets +onlyGivenNames x
       first
         | (refine (fun (hx : Keep sB x) => ?_) ?_; clear_value x; rotate_left; subst x)
         | (have := fun a => x a; clear this; subst x)
         | clear_value x
         | subst x)
    | with_reducible apply Keep.ite
    | split
    | (with_reducible apply Keep.ofMk; with_reducible apply Keep.fold)

theorem writeFwCtl_keep {sB : State} {s : State} {v : Nat}
    (hs : Keep sB s) : Keep sB (writeFwCtl s v) := by
  unfold writeFwCtl
  repeat' first
    | with_reducible assumption
    | with_reducible apply State.put_keep
    | with_reducible apply activateStaged_keep
    | (extract_lets +onlyGivenNames x
       first
         | (refine (fun (hx : Keep sB x) => ?_) ?_; clear_value x; rotate_left; subst x)
         | (have := fun a => x a; clear this; subst x)
         | clear_value x
         | subst x)
    | with_reducible apply Keep.ite
    | split

theorem writePortCtl_keep {sB : State} {s : State} {p : Nat} {v : Nat}
    (hs : Keep sB s) : Keep sB (writePortCtl s p v) := by
  unfold writePortCtl
  repeat' first
    | with_reducible assumption
    | with_reducible apply State.put_keep
    | with_reducible apply retrainPort_keep
    | with_reducible apply disablePort_keep
    | (extract_lets +onlyGivenNames x
       first
         | (refine (fun (hx : Keep sB x) => ?_) ?_; clear_value x; rotate_left; subst x)
         | (have := fun a => x a; clear this; subst x)
         | clear_value x
         | subst x)
    | with_reducible apply Keep.ite
    | split

theorem writeEffect_keep {sB : State} {s : State} {base : Nat} {i : Nat} {j : Nat} {v : Nat}
    (hs : Keep sB s) : Keep sB (writeEffect s base i j v) := by
  unfold writeEffect
  repeat' first
    | with_reducible assumption
    | with_reducible apply State.put_keep
    | with_reducible apply State.setPort_keep
    | with_reducible apply cancelWithStarved_keep
    | with_reducible apply wakeFrame_keep
    | with_reducible apply requestFreq_keep
    | with_reducible apply restoreClock_keep
    | with_reducible apply startFlush_keep
    | with_reducible apply startRepair_keep
    | with_reducible apply writeKadd_keep
    | (extract_lets +onlyGivenNames x
       first
         | (refine (fun (hx : Keep sB x) => ?_) ?_; clear_value x; rotate_left; subst x)
         | (have := fun a => x a; clear this; subst x)
         | clear_value x
         | subst x)
    | with_reducible apply Keep.ite
    | split
    | (with_reducible apply Keep.ofMk; with_reducible apply Keep.fold)

theorem noteWritten_keep {sB : State} {s : State} {d : RegDesc} {off : Nat}
    (hs : Keep sB s) : Keep sB (noteWritten s d off) := by
  unfold noteWritten
  repeat' first
    | with_reducible assumption
    | intro _
    | with_reducible apply Keep.foldl
    | (extract_lets +onlyGivenNames x
       first
         | (refine (fun (hx : Keep sB x) => ?_) ?_; clear_value x; rotate_left; subst x)
         | (have := fun a => x a; clear this; subst x)
         | clear_value x
         | subst x)
    | with_reducible apply Keep.ite
    | split
    | (with_reducible apply Keep.ofMk; with_reducible apply Keep.fold)

theorem writeReg_keep {sB : State} {s : State} {by_ : Agent} {d : RegDesc} {ix : List Nat} {off : Nat} {v : Nat}
    (hs : Keep sB s) : Keep sB (writeReg s by_ d ix off v) := by
  unfold writeReg
  repeat' first
    | with_reducible assumption
    | intro _
    | with_reducible apply State.put_keep
    | with_reducible apply State.logReg_keep
    | with_reducible apply complete_keep
    | with_reducible apply writeWays_keep
    | with_reducible apply enableMsix_keep
    | with_reducible apply setKwatch_keep
    | with_reducible apply writeFields_keep
    | with_reducible apply writeRingCfg_keep
    | with_reducible apply writeSrcCfg_keep
    | with_reducible apply writeFwCtl_keep
    | with_reducible apply writePortCtl_keep
    | with_reducible apply writeEffect_keep
    | with_reducible apply noteWritten_keep
    | (extract_lets +onlyGivenNames x
       first
         | (refine (fun (hx : Keep sB x) => ?_) ?_; clear_value x; rotate_left; subst x)
         | (have := fun a => x a; clear this; subst x)
         | clear_value x
         | subst x)
    | with_reducible apply Keep.ite
    | split
    | (with_reducible apply Keep.ofMk; with_reducible apply Keep.fold)

theorem execRegisterWrite_keep {sB : State} {by_ : Agent} {off : Nat} {width : Nat} {value : Nat} {s : State}
    (hs : Keep sB s) : KeepN sB (execRegisterWrite by_ off width value s) := by
  unfold execRegisterWrite
  repeat' first
    | with_reducible assumption
    | intro _
    | with_reducible apply viaCtl_keep
    | with_reducible apply finish_keep
    | with_reducible apply ShRes.next_keep
    | with_reducible apply writeSqTail_keep
    | with_reducible apply writeCqHead_keep
    | with_reducible apply writeBar4_keep
    | with_reducible apply writeReg_keep
    | with_reducible apply KeepN.next
    | with_reducible apply KeepN.fault
    | with_reducible apply KeepN.refused
    | with_reducible apply KeepSh.ok
    | with_reducible apply KeepSh.bad
    | with_reducible apply KeepSh.wait
    | (extract_lets +onlyGivenNames x
       first
         | (refine (fun (hx : Keep sB x) => ?_) ?_; clear_value x; rotate_left; subst x)
         | (refine (fun (hx : KeepN sB x) => ?_) ?_; clear_value x; rotate_left; subst x)
         | (refine (fun (hx : KeepSh sB x) => ?_) ?_; clear_value x; rotate_left; subst x)
         | (have := fun a => x a; clear this; subst x)
         | clear_value x
         | subst x)
    | with_reducible apply Keep.ite
    | with_reducible apply KeepN.ite
    | with_reducible apply KeepSh.ite
    | split
    | (with_reducible apply KeepN.of_next; with_reducible assumption)
    | (with_reducible apply KeepN.un_next; with_reducible assumption)
    | (with_reducible apply KeepSh.of_ok; with_reducible assumption)
    | (with_reducible apply KeepSh.un_ok; with_reducible assumption)
    | (with_reducible apply KeepSh.of_bad; with_reducible assumption)
    | (with_reducible apply KeepSh.un_bad; with_reducible assumption)
    | (with_reducible apply KeepSh.of_wait; with_reducible assumption)
    | (with_reducible apply KeepSh.un_wait; with_reducible assumption)
    | (with_reducible apply Keep.ofMk; with_reducible apply Keep.fold)

theorem drainCtl_keep {sB : State} {s : State} {l : List (Agent × Nat × Nat)}
    (hs : Keep sB s) : Keep sB (drainCtl s l) := by
  induction l generalizing s with
  | nil  =>
    first | rw [drainCtl] | unfold drainCtl
    repeat' first
      | with_reducible assumption
      | with_reducible apply writeReg_keep
      | (extract_lets +onlyGivenNames x
         first
           | (refine (fun (hx : Keep sB x) => ?_) ?_; clear_value x; rotate_left; subst x)
           | (have := fun a => x a; clear this; subst x)
           | clear_value x
           | subst x)
      | with_reducible apply Keep.ite
      | split
      | (with_reducible apply Keep.ofMk; with_reducible apply Keep.fold)
  | cons y r ih =>
    first | rw [drainCtl] | unfold drainCtl
    repeat' first
      | with_reducible assumption
      | with_reducible apply ih
      | with_reducible apply writeReg_keep
      | (extract_lets +onlyGivenNames x
         first
           | (refine (fun (hx : Keep sB x) => ?_) ?_; clear_value x; rotate_left; subst x)
           | (have := fun a => x a; clear this; subst x)
           | clear_value x
           | subst x)
      | with_reducible apply Keep.ite
      | split
      | (with_reducible apply Keep.ofMk; with_reducible apply Keep.fold)

theorem execBar2Resize_keep {sB : State} {bytes : Nat} {s : State}
    (hs : Keep sB s) : KeepN sB (execBar2Resize bytes s) := by
  unfold execBar2Resize
  repeat' first
    | with_reducible assumption
    | intro _
    | with_reducible apply ShRes.next_keep
    | with_reducible apply KeepN.next
    | with_reducible apply KeepN.fault
    | with_reducible apply KeepN.refused
    | with_reducible apply KeepSh.ok
    | with_reducible apply KeepSh.bad
    | with_reducible apply KeepSh.wait
    | (extract_lets +onlyGivenNames x
       first
         | (refine (fun (hx : Keep sB x) => ?_) ?_; clear_value x; rotate_left; subst x)
         | (refine (fun (hx : KeepN sB x) => ?_) ?_; clear_value x; rotate_left; subst x)
         | (refine (fun (hx : KeepSh sB x) => ?_) ?_; clear_value x; rotate_left; subst x)
         | (have := fun a => x a; clear this; subst x)
         | clear_value x
         | subst x)
    | with_reducible apply Keep.ite
    | with_reducible apply KeepN.ite
    | with_reducible apply KeepSh.ite
    | split
    | (with_reducible apply KeepN.of_next; with_reducible assumption)
    | (with_reducible apply KeepN.un_next; with_reducible assumption)
    | (with_reducible apply KeepSh.of_ok; with_reducible assumption)
    | (with_reducible apply KeepSh.un_ok; with_reducible assumption)
    | (with_reducible apply KeepSh.of_bad; with_reducible assumption)
    | (with_reducible apply KeepSh.un_bad; with_reducible assumption)
    | (with_reducible apply KeepSh.of_wait; with_reducible assumption)
    | (with_reducible apply KeepSh.un_wait; with_reducible assumption)
    | (with_reducible apply Keep.ofMk; with_reducible apply Keep.fold)

theorem execBar2Read_keep {sB : State} {ofs : Nat} {len : Nat} {s : State}
    (hs : Keep sB s) : KeepN sB (execBar2Read ofs len s) := by
  unfold execBar2Read
  repeat' first
    | with_reducible assumption
    | intro _
    | with_reducible apply State.logErr_keep
    | with_reducible apply chanRead_keep
    | with_reducible apply chanRead_keep_st
    | with_reducible apply finish_keep
    | with_reducible apply ShRes.next_keep
    | with_reducible apply setRead_keep
    | with_reducible apply KeepN.next
    | with_reducible apply KeepN.fault
    | with_reducible apply KeepN.refused
    | with_reducible apply KeepSh.ok
    | with_reducible apply KeepSh.bad
    | with_reducible apply KeepSh.wait
    | (extract_lets +onlyGivenNames x
       first
         | (refine (fun (hx : Keep sB x) => ?_) ?_; clear_value x; rotate_left; subst x)
         | (refine (fun (hx : KeepMem sB x) => ?_) ?_; clear_value x; have hx2 := KeepMem.proj hx; rotate_left; subst x)
         | (refine (fun (hx : KeepN sB x) => ?_) ?_; clear_value x; rotate_left; subst x)
         | (refine (fun (hx : KeepSh sB x) => ?_) ?_; clear_value x; rotate_left; subst x)
         | (have := fun a => x a; clear this; subst x)
         | clear_value x
         | subst x)
    | with_reducible apply Keep.ite
    | with_reducible apply KeepMem.ite
    | with_reducible apply KeepN.ite
    | with_reducible apply KeepSh.ite
    | split
    | (with_reducible apply KeepN.of_next; with_reducible assumption)
    | (with_reducible apply KeepN.un_next; with_reducible assumption)
    | (with_reducible apply KeepSh.of_ok; with_reducible assumption)
    | (with_reducible apply KeepSh.un_ok; with_reducible assumption)
    | (with_reducible apply KeepSh.of_bad; with_reducible assumption)
    | (with_reducible apply KeepSh.un_bad; with_reducible assumption)
    | (with_reducible apply KeepSh.of_wait; with_reducible assumption)
    | (with_reducible apply KeepSh.un_wait; with_reducible assumption)
    | with_reducible apply KeepMem.mk
    | (with_reducible apply Keep.ofMk; with_reducible apply Keep.fold)

theorem execBar2Write_keep {sB : State} {ofs : Nat} {data : List Byte} {s : State}
    (hs : Keep sB s) : KeepN sB (execBar2Write ofs data s) := by
  unfold execBar2Write
  repeat' first
    | with_reducible assumption
    | intro _
    | with_reducible apply State.logErr_keep
    | with_reducible apply chanWrite_keep
    | with_reducible apply chanWrite_keep_st
    | with_reducible apply finish_keep
    | with_reducible apply ShRes.next_keep
    | with_reducible apply KeepN.next
    | with_reducible apply KeepN.fault
    | with_reducible apply KeepN.refused
    | with_reducible apply KeepSh.ok
    | with_reducible apply KeepSh.bad
    | with_reducible apply KeepSh.wait
    | (extract_lets +onlyGivenNames x
       first
         | (refine (fun (hx : Keep sB x) => ?_) ?_; clear_value x; rotate_left; subst x)
         | (refine (fun (hx : KeepMem sB x) => ?_) ?_; clear_value x; have hx2 := KeepMem.proj hx; rotate_left; subst x)
         | (refine (fun (hx : KeepN sB x) => ?_) ?_; clear_value x; rotate_left; subst x)
         | (refine (fun (hx : KeepSh sB x) => ?_) ?_; clear_value x; rotate_left; subst x)
         | (have := fun a => x a; clear this; subst x)
         | clear_value x
         | subst x)
    | with_reducible apply Keep.ite
    | with_reducible apply KeepMem.ite
    | with_reducible apply KeepN.ite
    | with_reducible apply KeepSh.ite
    | split
    | (with_reducible apply KeepN.of_next; with_reducible assumption)
    | (with_reducible apply KeepN.un_next; with_reducible assumption)
    | (with_reducible apply KeepSh.of_ok; with_reducible assumption)
    | (with_reducible apply KeepSh.un_ok; with_reducible assumption)
    | (with_reducible apply KeepSh.of_bad; with_reducible assumption)
    | (with_reducible apply KeepSh.un_bad; with_reducible assumption)
    | (with_reducible apply KeepSh.of_wait; with_reducible assumption)
    | (with_reducible apply KeepSh.un_wait; with_reducible assumption)
    | with_reducible apply KeepMem.mk
    | (with_reducible apply Keep.ofMk; with_reducible apply Keep.fold)

theorem setSpdm_keep {sB : State} {s : State} {tr : Transport} {x : SpdmSt}
    (hs : Keep sB s) : Keep sB (setSpdm s tr x) := by
  unfold setSpdm
  repeat' first
    | with_reducible assumption
    | (extract_lets +onlyGivenNames x
       first
         | (refine (fun (hx : Keep sB x) => ?_) ?_; clear_value x; rotate_left; subst x)
         | (have := fun a => x a; clear this; subst x)
         | clear_value x
         | subst x)
    | split
    | (with_reducible apply Keep.ofMk; with_reducible apply Keep.fold)

theorem spdmAnswer_keep {sB : State} {s : State} {tr : Transport} {f : SpdmSt → SpdmSt}
    (hs : Keep sB s) : KeepN sB (spdmAnswer s tr f) := by
  unfold spdmAnswer
  repeat' first
    | with_reducible assumption
    | intro _
    | with_reducible apply ShRes.next_keep
    | with_reducible apply setSpdm_keep
    | with_reducible apply KeepN.next
    | with_reducible apply KeepN.fault
    | with_reducible apply KeepN.refused
    | with_reducible apply KeepSh.ok
    | with_reducible apply KeepSh.bad
    | with_reducible apply KeepSh.wait
    | (extract_lets +onlyGivenNames x
       first
         | (refine (fun (hx : Keep sB x) => ?_) ?_; clear_value x; rotate_left; subst x)
         | (refine (fun (hx : KeepN sB x) => ?_) ?_; clear_value x; rotate_left; subst x)
         | (refine (fun (hx : KeepSh sB x) => ?_) ?_; clear_value x; rotate_left; subst x)
         | (have := fun a => x a; clear this; subst x)
         | clear_value x
         | subst x)
    | with_reducible apply Keep.ite
    | with_reducible apply KeepN.ite
    | with_reducible apply KeepSh.ite
    | split
    | (with_reducible apply KeepN.of_next; with_reducible assumption)
    | (with_reducible apply KeepN.un_next; with_reducible assumption)
    | (with_reducible apply KeepSh.of_ok; with_reducible assumption)
    | (with_reducible apply KeepSh.un_ok; with_reducible assumption)
    | (with_reducible apply KeepSh.of_bad; with_reducible assumption)
    | (with_reducible apply KeepSh.un_bad; with_reducible assumption)
    | (with_reducible apply KeepSh.of_wait; with_reducible assumption)
    | (with_reducible apply KeepSh.un_wait; with_reducible assumption)
    | (with_reducible apply Keep.ofMk; with_reducible apply Keep.fold)

theorem execGetVersion_keep {sB : State} {tr : Transport} {s : State}
    (hs : Keep sB s) : KeepN sB (execGetVersion tr s) := by
  unfold execGetVersion
  repeat' first
    | with_reducible assumption
    | intro _
    | with_reducible apply spdmAnswer_keep
    | with_reducible apply KeepN.next
    | with_reducible apply KeepN.fault
    | with_reducible apply KeepN.refused
    | split
    | (with_reducible apply KeepN.of_next; with_reducible assumption)
    | (with_reducible apply KeepN.un_next; with_reducible assumption)

theorem execGetCapabilities_keep {sB : State} {tr : Transport} {s : State}
    (hs : Keep sB s) : KeepN sB (execGetCapabilities tr s) := by
  unfold execGetCapabilities
  repeat' first
    | with_reducible assumption
    | intro _
    | with_reducible apply stage_keep
    | with_reducible apply spdmAnswer_keep
    | with_reducible apply KeepN.next
    | with_reducible apply KeepN.fault
    | with_reducible apply KeepN.refused
    | (extract_lets +onlyGivenNames x
       first
         | (refine (fun (hx : Keep sB x) => ?_) ?_; clear_value x; rotate_left; subst x)
         | (refine (fun (hx : KeepN sB x) => ?_) ?_; clear_value x; rotate_left; subst x)
         | (have := fun a => x a; clear this; subst x)
         | clear_value x
         | subst x)
    | with_reducible apply Keep.ite
    | with_reducible apply KeepN.ite
    | split
    | (with_reducible apply KeepN.of_next; with_reducible assumption)
    | (with_reducible apply KeepN.un_next; with_reducible assumption)
    | (with_reducible apply Keep.ofMk; with_reducible apply Keep.fold)

theorem execNegotiateAlgorithms_keep {sB : State} {tr : Transport} {s : State}
    (hs : Keep sB s) : KeepN sB (execNegotiateAlgorithms tr s) := by
  unfold execNegotiateAlgorithms
  repeat' first
    | with_reducible assumption
    | intro _
    | with_reducible apply stage_keep
    | with_reducible apply spdmAnswer_keep
    | with_reducible apply KeepN.next
    | with_reducible apply KeepN.fault
    | with_reducible apply KeepN.refused
    | (extract_lets +onlyGivenNames x
       first
         | (refine (fun (hx : Keep sB x) => ?_) ?_; clear_value x; rotate_left; subst x)
         | (refine (fun (hx : KeepN sB x) => ?_) ?_; clear_value x; rotate_left; subst x)
         | (have := fun a => x a; clear this; subst x)
         | clear_value x
         | subst x)
    | with_reducible apply Keep.ite
    | with_reducible apply KeepN.ite
    | split
    | (with_reducible apply KeepN.of_next; with_reducible assumption)
    | (with_reducible apply KeepN.un_next; with_reducible assumption)
    | (with_reducible apply Keep.ofMk; with_reducible apply Keep.fold)

theorem execGetDigests_keep {sB : State} {tr : Transport} {s : State}
    (hs : Keep sB s) : KeepN sB (execGetDigests tr s) := by
  unfold execGetDigests
  repeat' first
    | with_reducible assumption
    | intro _
    | with_reducible apply spdmAnswer_keep
    | with_reducible apply KeepN.next
    | with_reducible apply KeepN.fault
    | with_reducible apply KeepN.refused
    | split
    | (with_reducible apply KeepN.of_next; with_reducible assumption)
    | (with_reducible apply KeepN.un_next; with_reducible assumption)

theorem execGetCertificate_keep {sB : State} {tr : Transport} {slot : Nat} {ofs : Nat} {len : Nat} {s : State}
    (hs : Keep sB s) : KeepN sB (execGetCertificate tr slot ofs len s) := by
  unfold execGetCertificate
  repeat' first
    | with_reducible assumption
    | intro _
    | with_reducible apply spdmAnswer_keep
    | with_reducible apply KeepN.next
    | with_reducible apply KeepN.fault
    | with_reducible apply KeepN.refused
    | (extract_lets +onlyGivenNames x
       first
         | (refine (fun (hx : Keep sB x) => ?_) ?_; clear_value x; rotate_left; subst x)
         | (refine (fun (hx : KeepN sB x) => ?_) ?_; clear_value x; rotate_left; subst x)
         | (have := fun a => x a; clear this; subst x)
         | clear_value x
         | subst x)
    | with_reducible apply Keep.ite
    | with_reducible apply KeepN.ite
    | split
    | (with_reducible apply KeepN.of_next; with_reducible assumption)
    | (with_reducible apply KeepN.un_next; with_reducible assumption)

theorem execChallenge_keep {sB : State} {tr : Transport} {slot : Nat} {nonce : Nat} {s : State}
    (hs : Keep sB s) : KeepN sB (execChallenge tr slot nonce s) := by
  unfold execChallenge
  repeat' first
    | with_reducible assumption
    | intro _
    | with_reducible apply State.tickFresh_keep
    | with_reducible apply spdmAnswer_keep
    | with_reducible apply KeepN.next
    | with_reducible apply KeepN.fault
    | with_reducible apply KeepN.refused
    | (extract_lets +onlyGivenNames x
       first
         | (refine (fun (hx : Keep sB x) => ?_) ?_; clear_value x; rotate_left; subst x)
         | (refine (fun (hx : KeepN sB x) => ?_) ?_; clear_value x; rotate_left; subst x)
         | (have := fun a => x a; clear this; subst x)
         | clear_value x
         | subst x)
    | with_reducible apply Keep.ite
    | with_reducible apply KeepN.ite
    | split
    | (with_reducible apply KeepN.of_next; with_reducible assumption)
    | (with_reducible apply KeepN.un_next; with_reducible assumption)

theorem execGetMeasurements_keep {sB : State} {tr : Transport} {index : Nat} {signed : Bool} {nonce : Nat} {s : State}
    (hs : Keep sB s) : KeepN sB (execGetMeasurements tr index signed nonce s) := by
  unfold execGetMeasurements
  repeat' first
    | with_reducible assumption
    | intro _
    | with_reducible apply State.tickFresh_keep
    | with_reducible apply spdmAnswer_keep
    | with_reducible apply KeepN.next
    | with_reducible apply KeepN.fault
    | with_reducible apply KeepN.refused
    | (extract_lets +onlyGivenNames x
       first
         | (refine (fun (hx : Keep sB x) => ?_) ?_; clear_value x; rotate_left; subst x)
         | (refine (fun (hx : KeepN sB x) => ?_) ?_; clear_value x; rotate_left; subst x)
         | (have := fun a => x a; clear this; subst x)
         | clear_value x
         | subst x)
    | with_reducible apply Keep.ite
    | with_reducible apply KeepN.ite
    | split
    | (with_reducible apply KeepN.of_next; with_reducible assumption)
    | (with_reducible apply KeepN.un_next; with_reducible assumption)

theorem execSpdmUnsupported_keep {sB : State} {tr : Transport} {code : BitVec 8} {s : State}
    (hs : Keep sB s) : KeepN sB (execSpdmUnsupported tr code s) := by
  unfold execSpdmUnsupported
  repeat' first
    | with_reducible assumption
    | intro _
    | with_reducible apply spdmAnswer_keep
    | with_reducible apply KeepN.next
    | with_reducible apply KeepN.fault
    | with_reducible apply KeepN.refused
    | (extract_lets +onlyGivenNames x
       first
         | (refine (fun (hx : Keep sB x) => ?_) ?_; clear_value x; rotate_left; subst x)
         | (refine (fun (hx : KeepN sB x) => ?_) ?_; clear_value x; rotate_left; subst x)
         | (have := fun a => x a; clear this; subst x)
         | clear_value x
         | subst x)
    | split
    | (with_reducible apply KeepN.of_next; with_reducible assumption)
    | (with_reducible apply KeepN.un_next; with_reducible assumption)
    | (with_reducible apply Keep.ofMk; with_reducible apply Keep.fold)

theorem countIdle_keep {sB : State} {s : State} {f : Nat} {u : Nat} {c : Nat} {n : Nat}
    (hs : Keep sB s) : Keep sB (countIdle s f u c n) := by
  unfold countIdle
  repeat' first
    | with_reducible assumption
    | with_reducible apply State.bump_keep
    | with_reducible apply Keep.ite
    | split

theorem countUnit_keep {sB : State} {s : State} {f : Nat} {n : Nat} {sup : Nat} {u : Nat}
    (hs : Keep sB s) : Keep sB (countUnit s f n sup u) := by
  unfold countUnit
  repeat' first
    | with_reducible assumption
    | with_reducible apply countIdle_keep
    | (extract_lets +onlyGivenNames x
       first
         | (refine (fun (hx : Keep sB x) => ?_) ?_; clear_value x; rotate_left; subst x)
         | (have := fun a => x a; clear this; subst x)
         | clear_value x
         | subst x)
    | with_reducible apply Keep.ite
    | split

theorem countTokens_keep {sB : State} {s : State} {f : Nat} {m : Nat}
    (hs : Keep sB s) : Keep sB (countTokens s f m) := by
  unfold countTokens
  repeat' first
    | with_reducible assumption
    | intro _
    | with_reducible apply State.bump_keep
    | (extract_lets +onlyGivenNames x
       first
         | (refine (fun (hx : Keep sB x) => ?_) ?_; clear_value x; rotate_left; subst x)
         | (have := fun a => x a; clear this; subst x)
         | clear_value x
         | subst x)
    | with_reducible apply Keep.ite
    | split
    | (with_reducible apply Keep.ofMk; with_reducible apply Keep.fold)

theorem tickFrame_keep {sB : State} {s : State} {f : Nat}
    (hs : Keep sB s) : Keep sB (tickFrame s f) := by
  unfold tickFrame
  repeat' first
    | with_reducible assumption
    | intro _
    | with_reducible apply countIdle_keep
    | with_reducible apply countUnit_keep
    | with_reducible apply countTokens_keep
    | with_reducible apply Keep.foldl
    | (extract_lets +onlyGivenNames x
       first
         | (refine (fun (hx : Keep sB x) => ?_) ?_; clear_value x; rotate_left; subst x)
         | (have := fun a => x a; clear this; subst x)
         | clear_value x
         | subst x)
    | with_reducible apply Keep.ite
    | split

theorem tickUnits_keep {sB : State} {s : State}
    (hs : Keep sB s) : Keep sB (tickUnits s) := by
  unfold tickUnits
  repeat' first
    | with_reducible assumption
    | intro _
    | with_reducible apply State.bump_keep
    | with_reducible apply tickFrame_keep
    | with_reducible apply Keep.foldl
    | (extract_lets +onlyGivenNames x
       first
         | (refine (fun (hx : Keep sB x) => ?_) ?_; clear_value x; rotate_left; subst x)
         | (have := fun a => x a; clear this; subst x)
         | clear_value x
         | subst x)
    | with_reducible apply Keep.ite
    | split

theorem tickFlow_keep {sB : State} {s : State}
    (hs : Keep sB s) : Keep sB (tickFlow s) := by
  unfold tickFlow
  repeat' first
    | with_reducible assumption
    | intro _
    | with_reducible apply tickRequest_keep
    | with_reducible apply edgePump_keep
    | with_reducible apply edgesDrain_keep
    | with_reducible apply drainCtl_keep
    | with_reducible apply Keep.foldl
    | (extract_lets +onlyGivenNames x
       first
         | (refine (fun (hx : Keep sB x) => ?_) ?_; clear_value x; rotate_left; subst x)
         | (have := fun a => x a; clear this; subst x)
         | clear_value x
         | subst x)
    | with_reducible apply Keep.ite
    | split

theorem freshGov_keep {sB : State} {s : State}
    (hs : Keep sB s) : Keep sB (freshGov s) := by
  unfold freshGov
  repeat' first
    | with_reducible assumption
    | (extract_lets +onlyGivenNames x
       first
         | (refine (fun (hx : Keep sB x) => ?_) ?_; clear_value x; rotate_left; subst x)
         | (have := fun a => x a; clear this; subst x)
         | clear_value x
         | subst x)
    | with_reducible apply Keep.ite
    | split
    | (with_reducible apply Keep.ofMk; with_reducible apply Keep.fold)

theorem tickGov_keep {sB : State} {s : State}
    (hs : Keep sB s) : Keep sB (tickGov s) := by
  unfold tickGov
  repeat' first
    | with_reducible assumption
    | with_reducible apply freshGov_keep
    | (extract_lets +onlyGivenNames x
       first
         | (refine (fun (hx : Keep sB x) => ?_) ?_; clear_value x; rotate_left; subst x)
         | (have := fun a => x a; clear this; subst x)
         | clear_value x
         | subst x)
    | with_reducible apply Keep.ite
    | split
    | (with_reducible apply Keep.ofMk; with_reducible apply Keep.fold)

theorem tickFlr_keep {sB : State} {s : State}
    (hs : Keep sB s) : Keep sB (tickFlr s) := by
  unfold tickFlr
  repeat' first
    | with_reducible assumption
    | (extract_lets +onlyGivenNames x
       first
         | (refine (fun (hx : Keep sB x) => ?_) ?_; clear_value x; rotate_left; subst x)
         | (have := fun a => x a; clear this; subst x)
         | clear_value x
         | subst x)
    | with_reducible apply Keep.ite
    | split
    | (with_reducible apply Keep.ofMk; with_reducible apply Keep.fold)

theorem tickStudio_keep {sB : State} {s : State}
    (hs : Keep sB s) : Keep sB (tickStudio s) := by
  unfold tickStudio
  repeat' first
    | with_reducible assumption
    | with_reducible apply studioServes_keep
    | with_reducible apply Keep.ite
    | split

theorem tick_keep {sB : State} {s : State}
    (hs : Keep sB s) : Keep sB (tick s) := by
  unfold tick
  repeat' first
    | with_reducible assumption
    | with_reducible apply tickMaster_keep
    | with_reducible apply tickRegions_keep
    | with_reducible apply latchRegions_keep
    | with_reducible apply tickUnits_keep
    | with_reducible apply tickFlow_keep
    | with_reducible apply tickGov_keep
    | with_reducible apply tickFlr_keep
    | with_reducible apply tickStudio_keep

theorem idle_keep {sB : State} {s : State}
    (hs : Keep sB s) : KeepN sB (idle s) := by
  unfold idle
  repeat' first
    | with_reducible assumption
    | intro _
    | with_reducible apply finish_keep
    | with_reducible apply ShRes.next_keep
    | with_reducible apply tick_keep
    | with_reducible apply KeepN.next
    | with_reducible apply KeepN.fault
    | with_reducible apply KeepN.refused
    | with_reducible apply KeepSh.ok
    | with_reducible apply KeepSh.bad
    | with_reducible apply KeepSh.wait
    | with_reducible apply Keep.ite
    | with_reducible apply KeepN.ite
    | with_reducible apply KeepSh.ite
    | split
    | (with_reducible apply KeepN.of_next; with_reducible assumption)
    | (with_reducible apply KeepN.un_next; with_reducible assumption)
    | (with_reducible apply KeepSh.of_ok; with_reducible assumption)
    | (with_reducible apply KeepSh.un_ok; with_reducible assumption)
    | (with_reducible apply KeepSh.of_bad; with_reducible assumption)
    | (with_reducible apply KeepSh.un_bad; with_reducible assumption)
    | (with_reducible apply KeepSh.of_wait; with_reducible assumption)
    | (with_reducible apply KeepSh.un_wait; with_reducible assumption)

end Sys2Proof.Machine
end

