-- ==== Sys2Proof/Tests/Slice0.lean ====
section
/-! SUPPORT. The model's own tests: operand shapes that are refused, single steps checked against the spec's words, and for every
statement with hypotheses a state that meets them (`witness_…`, one conjunct for each clause, at a boundary where it has one). -/
namespace Sys2Proof.Tests
set_option Elab.async false
open Sys2Proof.Machine

/-! ## Helpers -/

/-- A command word or register value from its fields (low bit, value). -/
def fieldsOf (l : List (Nat × Nat)) : Nat := (l.map (fun p => p.2 * 2 ^ p.1)).sum

/-- A module in service: standby, power and host link up. -/
def svc : State :=
  { (((State.reset.put Reg.STU_PINS_PERST 0).put Reg.STU_PINS_PGOOD 1).put Reg.HIF_LINK_GEN 5).put Reg.STU_BOOT_STAT_MODE 1 with
      standby := true }

/-- Core 0 of Frame 0 runs task 1 of a loaded job, at PC 8 of a text segment of 64 bytes; queue 0 and Shuttle queue 0 are the task's. -/
def run : State :=
  { ((((((svc.put (Reg.FRM_COREc_STATE_STATE 0 0) 1).put (Reg.FRM_COREc_STATE_TASK 0 0) 1).put (Reg.FRM_COREc_PC_PC 0 0) 8).put
      (Reg.FRM_SEGs_LIM_LIMIT 0 0) 64).put (Reg.FRM_Qq_TASK_TASK 0 0) 1).put (Reg.FRM_Qq_TASK_TASK 0 9) 1) with
    job := { JobSt.none with loaded := true, id := 7, nmod := 1, nstep := 2, nrep := 1, ntask := 1 } }

/-- Core 0 of Frame 0 has the line of its PC in its instruction cache, with the word `w` at PC 8. -/
def fetching (w : Nat) (s : State) : State := s.setCore 0 0 { s.core 0 0 with icache := [(0, toLE 8 0 ++ toLE 4 w)] }

/-- `run` with registers 1 and 2 of the core set. -/
def regs (a b : W64) : State := (run.setGreg 0 0 1 a).setGreg 0 0 2 b

/-- `run` with core 0 in another state. -/
def cst (v : Nat) : State := run.put (Reg.FRM_COREc_STATE_STATE 0 0) v

/-- A next state of which `p` holds. -/
def nextHas (o : Host.Outcome State Fault Refusal) (p : State → Bool) : Bool :=
  match o with
  | .next t => p t
  | _ => false

/-- The same state `n` ticks after the release of PERST_N. -/
def atTime (n : Nat) (s : State) : State := { s with master := n * 4294967296 }

/-! ## Operand shapes -/

theorem test_shape_register : (Instr.registerWrite .host 0 32 (2 ^ 32)).wf = false := by decide
theorem test_shape_studio : (Instr.studioStart 4 16 6).wf = false ∧ (Instr.studioStart 5 3 6).wf = false := by decide
theorem test_shape_training : (Instr.lpddrTraining [(0, 4)]).wf = false := by decide
theorem test_shape_palette : (Instr.paletteAccess 0 ⟨false, 255, 2, [], 0⟩ .ok).wf = false := by decide
theorem test_shape_lpddr : (Instr.lpddrWrite 63 [0, 0]).wf = false ∧ (Instr.lpddrWrite 0 []).wf = false := by decide
theorem test_shape_stretch : (Instr.clockStretch 0 5).wf = false ∧ (Instr.clockStretch 0 0).wf = false := by decide
theorem test_shape_flit : (Instr.flit 0 [] []).wf = false := by decide
theorem test_shape_limiter : (Instr.fastLimiter 65536 0).wf = false ∧ (Instr.modelMismatch 0 65536).wf = false := by decide
theorem test_shape_trip : (Instr.thermalTrip 0 256).wf = false := by decide
theorem test_shape_interval : (Instr.governorInterval ⟨0, 0, 0, 0, [], []⟩).wf = false := by decide
theorem test_shape_record : (Instr.write 0 ⟨1, 1, 0, 0, 0, 0, [0]⟩).wf = false ∧ (Instr.read 0 ⟨1, 0, 0, 0, 0, 0, [0]⟩ .ok).wf = false := by decide
theorem test_ill_formed : step { svc with pending := [.thermalTrip 0 256] } = .fault .illFormed := rfl


/-! ## Frame cores -/

theorem witness_StepsTakeFront : { run with pending := [.refresh 0 0] }.pending = .refresh 0 0 :: [] ∧
    (svc.pending = [] ∧ svc.standby = true ∧ svc.get Reg.STU_PINS_PERST = 0) ∧ State.reset.standby = false := by decide

theorem witness_CommandsComplete : (Instr.refresh 0 0).wf = true ∧ (Instr.thermalTrip 0 256).wf = false := by decide

theorem witness_StepKeepsHealth : Healthy State.reset ∧ ∃ t, step State.reset = .next t := by
  refine ⟨by unfold Healthy; decide +kernel, ⟨State.reset, rfl⟩⟩

/-- A word of each instruction of Tables 10-3 and 10-4, of registers 31 and immediates of all ones, is one that the core may fetch. -/
theorem witness_Ready : (∀ fn ∈ [0, 1, 2, 3, 4, 5, 6, 7, 8, 9, 10, 11, 12, 13, 16, 17, 18, 19, 20, 21, 22],
      Ready (fetching (encR 1 31 31 31 fn) run) 0 0 (encR 1 31 31 31 fn)) ∧
    (∀ maj ∈ [2, 3, 4, 5, 6, 7, 0x10, 0x11, 0x12, 0x13, 0x14, 0x15, 0x16, 0x18, 0x19, 0x1A, 0x1B, 0x20, 0x21, 0x22, 0x23, 0x24, 0x25, 0x2A],
      Ready (fetching (encI maj 31 31 (-1)) run) 0 0 (encI maj 31 31 (-1))) ∧
    (∀ k ∈ [0, 1, 2], Ready (fetching (encI 8 31 31 (BitVec.ofNat 16 (64 * k + 63))) run) 0 0 (encI 8 31 31 (BitVec.ofNat 16 (64 * k + 63)))) ∧
    (∀ h ∈ [0, 3], Ready (fetching (encI 9 31 h (-1)) run) 0 0 (encI 9 31 h (-1))) ∧
    (∀ maj ∈ [0x28, 0x29], Ready (fetching (encJ maj (-1)) run) 0 0 (encJ maj (-1))) := by
  unfold Ready Running; decide +kernel

theorem witness_CoreAddresses : (inSram (coreAddr run 0 0 0 0x7FF8) 8 ∧ inFmem (coreAddr (regs 0x10FFFFF8 0) 0 0 1 0) 8) ∧
    (let s := fetching (encI 0x10 3 1 0) (regs 0x20000 0)
     Ready s 0 0 (encI 0x10 3 1 0) ∧ ¬ inSram (coreAddr s 0 0 1 0) 1 ∧ ¬ inFmem (coreAddr s 0 0 1 0) 1) ∧
    (¬ inSram (coreAddr run 0 0 0 1) 2 ∧ ¬ inFmem (coreAddr run 0 0 0 1) 2) ∧ (¬ inSram (coreAddr run 0 0 0 2) 4 ∧ ¬ inFmem (coreAddr run 0 0 0 2) 4) ∧
    (¬ inSram (coreAddr run 0 0 0 4) 8 ∧ ¬ inFmem (coreAddr run 0 0 0 4) 8) ∧
    ∀ pc ∈ [62, 64], (let s := run.put (Reg.FRM_COREc_PC_PC 0 0) pc
     s.cState 0 0 = 1 ∧ s.get (Reg.FRM_PWRCTL_GATED 0) = 0 ∧ (s.core 0 0).kread = none ∧ frameStill s 0 = false ∧
       (s.pc 0 0 % 4 ≠ 0 ∨ s.get (Reg.FRM_SEGs_LIM_LIMIT 0 0) ≤ s.pc 0 0)) := by
  unfold Ready Running inSram inFmem; decide +kernel

theorem witness_BranchesAndJumps : coreAddr run 0 0 0 4 % 4 = 0 ∧ coreAddr run 0 0 0 3 % 4 ≠ 0 := by decide +kernel

/-! The words of these tests are written out from Tables 10-2 to 10-4. -/

theorem test_other_word_waits : nextHas (exec (.sub 0 0 3 1 2) (fetching 0x4611000 (regs 1 2))) (fun t => decide (t.pc 0 0 = 8)) = true := by decide +kernel
theorem test_add_wraps : nextHas (exec (.add 0 0 3 1 2) (fetching 0x4611000 (regs (-1) 2))) (fun t => decide (t.greg 0 0 3 = 1 ∧ t.pc 0 0 = 12)) = true := by decide +kernel
theorem test_div_by_zero : nextHas (exec (.div 0 0 3 1 0) (fetching 0x4610013 (regs 5 0))) (fun t => decide (t.greg 0 0 3 = -1)) = true := by decide +kernel
theorem test_rem_sign : nextHas (exec (.rem 0 0 3 1 2) (fetching 0x4611015 (regs (-7) 2))) (fun t => decide (t.greg 0 0 3 = -1)) = true := by decide +kernel
theorem test_mulh_signed : nextHas (exec (.mulh 0 0 3 1 2) (fetching 0x4611011 (regs (-1) 1))) (fun t => decide (t.greg 0 0 3 = -1)) = true := by decide +kernel
theorem test_write_g0 : nextHas (exec (.addi 0 0 0 0 5) (fetching 0x8000005 run)) (fun t => decide (t.greg 0 0 0 = 0 ∧ t.pc 0 0 = 12)) = true := by decide +kernel
theorem test_lb_signed : nextHas (exec (.lb 0 0 3 1 0 .ok) (fetching 0x40610000 ((regs 0x10000000 0).setBytes 0x0A0000000000 [0x80]))) (fun t => decide (t.greg 0 0 3 = -128)) = true := by decide +kernel
theorem test_sh_little_endian : nextHas (exec (.sh 0 0 2 1 0) (fetching 0x64410000 (regs 0x10000000 0x1234))) (fun t => decide (sget 0 t.mem 0x0A0000000000 = 0x34 ∧ sget 0 t.mem 0x0A0000000001 = 0x12)) = true := by decide +kernel
theorem test_beq_back : nextHas (exec (.beq 0 0 0 0 (-2)) (fetching 0x8000fffe run)) (fun t => decide (t.pc 0 0 = 0)) = true := by decide +kernel
theorem test_jal_link : nextHas (exec (.jal 0 0 3) (fetching 0xa4000003 run)) (fun t => decide (t.pc 0 0 = 20 ∧ t.greg 0 0 31 = 12)) = true := by decide +kernel
theorem test_jalr_same : nextHas (exec (.jalr 0 0 1 1 4) (fetching 0xa8210004 (regs 16 0))) (fun t => decide (t.pc 0 0 = 20 ∧ t.greg 0 0 1 = 12)) = true := by decide +kernel

theorem witness_QueuePushes : (let s := fetching (encR 0x30 0 1 2 0) run
      Ready s 0 0 (encR 0x30 0 1 2 0) ∧ s.qTask 0 0 ≠ 0 ∧ s.qTask 0 0 = s.cTask 0 0 ∧
        s.get (Reg.FRM_Qq_ISSUED_COUNT 0 0) < s.get (Reg.FRM_Qq_DONE_COUNT 0 0) + 64) ∧
    (Ready (fetching (encR 0x30 1 1 2 0) run) 0 0 (encR 0x30 1 1 2 0) ∧ Ready (fetching (encR 0x31 1 1 0 0) run) 0 0 (encR 0x31 1 1 0 0) ∧
      Ready (fetching (encR 0x32 15 0 0 0) run) 0 0 (encR 0x32 15 0 0 0) ∧ run.qTask 0 1 = 0 ∧ run.qTask 0 (9 + 15) = 0 ∧
      (run.put (Reg.FRM_Qq_TASK_TASK 0 1) 2).qTask 0 1 ≠ run.cTask 0 0) ∧
    (let s := fetching (encR 0x30 0 1 2 0) (run.put (Reg.FRM_Qq_ISSUED_COUNT 0 0) 64)
     Ready s 0 0 (encR 0x30 0 1 2 0) ∧ s.qTask 0 0 ≠ 0 ∧ s.qTask 0 0 = s.cTask 0 0 ∧
       s.get (Reg.FRM_Qq_DONE_COUNT 0 0) + 64 ≤ s.get (Reg.FRM_Qq_ISSUED_COUNT 0 0)) := by
  unfold Ready Running; decide +kernel

theorem test_qpush_word : nextHas (exec (.qpush 0 0 0 1 2) (fetching 0xc0011000 (regs 3 5))) (fun t => decide ((t.queue 0 0).words = [3 + 2 ^ 64 * 5] ∧ t.get (Reg.FRM_Qq_ISSUED_COUNT 0 0) = 1)) = true := by decide +kernel

theorem witness_CoreWaits : (let s := fetching (encR 0x31 0 1 0 0) (regs 1 1)
      Ready s 0 0 (encR 0x31 0 1 0 0) ∧ s.qTask 0 0 ≠ 0 ∧ s.qTask 0 0 = s.cTask 0 0 ∧ (s.greg 0 0 0).toNat ≤ s.get (Reg.FRM_Qq_DONE_COUNT 0 0) ∧
        s.get (Reg.FRM_Qq_DONE_COUNT 0 0) < (s.greg 0 0 1).toNat) ∧
    (let s := fetching (encR 0x35 0 1 2 0) (regs 16383 1)
     Ready s 0 0 (encR 0x35 0 1 2 0) ∧ (s.greg 0 0 1).toNat < 16384 ∧ s.knot 63 255 < (s.greg 0 0 2).toNat % 2 ^ 32 ∧
       (s.greg 0 0 2).toNat % 2 ^ 32 ≤ (s.put (Reg.FRM_KNOTk_VALUE 63 255) 1).knot 63 255) ∧ 16384 ≤ ((regs 16384 0).greg 0 0 1).toNat ∧
    ((cst 2).cState 0 0 = 2 ∧ (cst 2).get (Reg.FRM_PWRCTL_GATED 0) = 0 ∧ frameStill (cst 2) 0 = false ∧
      ((cst 2).core 0 0).thresh ≤ (cst 2).get (Reg.FRM_Qq_DONE_COUNT 0 ((cst 2).core 0 0).waitOn)) ∧
    ((cst 3).cState 0 0 = 3 ∧ ((cst 3).core 0 0).thresh ≤ (cst 3).knot 0 0) ∧
    (let s := (cst 4).setCore 0 0 { (cst 4).core 0 0 with wake := true }
     s.cState 0 0 = 4 ∧ (s.core 0 0).wake = true) ∧
    (let s : State := { cst 4 with wakes := [(0, true)] }
     sget false s.wakes (4 * 0 + 0) = true) ∧
    ∀ st ∈ [2, 3], (let s : State := { cst st with regions := [(0, { RegionSt.empty with cnt := 60000000 * 1024 * 4294967296 })] }
     let s := s.setCore 0 0 { s.core 0 0 with thresh := 1 }
     s.cState 0 0 = st ∧ freqStopped s = false ∧ s.get (Reg.FRM_Qq_DONE_COUNT 0 (s.core 0 0).waitOn) < (s.core 0 0).thresh ∧
       s.knot ((s.core 0 0).waitOn / 256) ((s.core 0 0).waitOn % 256) < (s.core 0 0).thresh ∧
       (s.core 0 0).since + max 1 (min 60000000 (s.get (Reg.FRM_KWAIT_TO_TIMEOUT 0))) * 1024 ≤ s.timeOf 0) := by
  unfold Ready Running; decide +kernel

theorem witness_SleepsAndGates : (let s := fetching (encR 0x38 0 0 0 0) run
      Ready s 0 0 (encR 0x38 0 0 0 0) ∧ (s.core 0 0).wake = false ∧ deliverables s (4 * 0 + 0) = [] ∧
        (let t := s.setCore 0 0 { s.core 0 0 with wake := true }
         Ready t 0 0 (encR 0x38 0 0 0 0) ∧ (t.core 0 0).wake = true)) ∧
    Ready (fetching (encR 0x39 0 0 0 0) run) 0 0 (encR 0x39 0 0 0 0) ∧
    Ready (fetching (encI 0x3A 0 0 (BitVec.ofNat 16 (255 + 256 * 1))) run) 0 0 (encI 0x3A 0 0 (BitVec.ofNat 16 (255 + 256 * 1))) ∧
    (agentOpen svc .studio (0x1000000 + 0x10000 * 63) = true ∧ frameStill svc 63 = false ∧ svc.ctlIn = []) ∧
    (let s := svc.put (Reg.FRM_PWRCTL_GATE_EN 0) 1
     s.get (Reg.FRM_PWRCTL_GATE_EN 0) = 1 ∧ s.get (Reg.FRM_PWRCTL_GATED 0) = 0 ∧
       (∀ c' : Fin 4, s.cState 0 c' ≠ 1 ∧ coreReleases s 0 c' = false) ∧ frameIdle s 0 = true) ∧
    (let s := (cst 2).put (Reg.FRM_PWRCTL_GATED 0) 1
     s.get (Reg.FRM_PWRCTL_GATED 0) = 1 ∧ coreReleases s 0 0 = true) := by unfold Ready Running; decide +kernel

theorem witness_CoreKnots : (let s := fetching (encR 0x33 0 1 2 0) (regs 5 (2 ^ 32 - 1))
      Ready s 0 0 (encR 0x33 0 1 2 0) ∧ (s.greg 0 0 1).toNat / 256 = 0 ∧
        (let x := ((s.put (Reg.FRM_KNOTk_VALUE 0 5) 1).knot 0 5 : Int) + (BitVec.ofNat 32 (s.greg 0 0 2).toNat).toInt
         0 ≤ x ∧ x < 2 ^ 32)) ∧
    Ready (fetching (encR 0x34 0 1 2 0) run) 0 0 (encR 0x34 0 1 2 0) ∧ Ready (fetching (encR 0x36 3 1 0 0) run) 0 0 (encR 0x36 3 1 0 0) ∧
    (let s := fetching (encR 0x33 0 1 2 0) (regs 16383 1)
     (s.greg 0 0 1).toNat < 16384 ∧ (s.greg 0 0 1).toNat / 256 ≠ 0 ∧ 0 ≤ (BitVec.ofNat 32 (s.greg 0 0 2).toNat).toInt ∧
       (s.meshQ 0 0 0).length < 8 ∧ sget [] s.meshOut (3 * 0) = []) ∧
    16384 ≤ ((regs 16384 0).greg 0 0 1).toNat ∧ (BitVec.ofNat 32 ((regs 256 (-1)).greg 0 0 2).toNat).toInt < 0 ∧
    (agentOpen svc .studio (0x1000000 + 0x10000 * 63) = true ∧ frameStill svc 63 = false ∧ svc.ctlIn = []) := by
  unfold Ready Running; decide +kernel

theorem test_kadd_negative : nextHas (exec (.kadd 0 0 1 2) (fetching 0xcc011000 ((regs 5 (2 ^ 32 - 1)).put (Reg.FRM_KNOTk_VALUE 0 5) 1))) (fun t => decide (t.knot 0 5 = 0 ∧ t.pc 0 0 = 12)) = true := by decide +kernel
theorem test_kadd_underflow : nextHas (exec (.kadd 0 0 1 2) (fetching 0xcc011000 (regs 5 (2 ^ 32 - 1)))) (fun t => decide (t.knot 0 5 = 0 ∧ t.get (Reg.FRM_KSTAT_UNF 0) = 1)) = true := by decide +kernel

theorem witness_SystemValues : (∀ sel ∈ List.range 32, Ready (fetching (encI 0x3B 3 0 (BitVec.ofNat 16 sel)) run) 0 0 (encI 0x3B 3 0 (BitVec.ofNat 16 sel))) ∧
    Running run 0 0 ∧ (∀ l ∈ (run.core 0 0).icache, l.1 ≠ fetchAddr run 0 0 / 256 * 256) ∧ memHeld run (fetchAddr run 0 0 / 256 * 256) 256 false = false ∧
    (devRead run (fetchAddr run 0 0 / 256 * 256) 256).err = none := by unfold Ready Running; decide +kernel

/-- A host or core source (software source 768) of priority 3 that is asserted. -/
def evs (target : Nat) : State :=
  ((run.put (Reg.INT_SRCs_CFG_PRIO 768) 3).put (Reg.INT_SRCs_CFG_TARGET 768) target).put (Reg.INT_SWSETr_BITS 0) 1

theorem witness_EventsAreClaimed : (Ready (fetching (encI 0x3B 3 0 8) run) 0 0 (encI 0x3B 3 0 8) ∧
      Ready (fetching (encR 0x3C 0 1 0 0) run) 0 0 (encR 0x3C 0 1 0 0) ∧ hostOpen run 0x4000000 = true ∧ scanon 0 run.regs = true ∧ deliverables run (4 * 0 + 0) = [] ∧ deliverables run 258 = [] ∧
      hostOpen run 0x203000 = true ∧ hostOpen run 0x203004 = true ∧ ¬ (∃ e ∈ run.active, e.src = 0 ∧ e.target = 258)) ∧
    (scanon 0 (evs 0).regs = true ∧ deliverables (evs 0) (4 * 0 + 0) = [768] ∧ deliverables (evs 258) 258 = [768]) ∧
    (let s : State := { evs 258 with active := [⟨768, 258, false⟩] }
     ∃ a ∈ s.active, a.src = (768 : Nat) % 1024 ∧ a.target = 258) ∧
    (let s : State := { regs 768 0 with active := [⟨768, 0, false⟩] }
     ∃ e ∈ s.active, e.src = (s.greg 0 0 1).toNat % 1024 ∧ e.target = 4 * (0 : Fin 64).val + (0 : Fin 4).val) ∧
    (let s : State := { (evs 258).put Reg.INT_HOSTCFG_MSIX_EN 1 with msixPend := [(0, true)] }
     sget false s.msixPend 0 = true ∧ s.get Reg.INT_HOSTCFG_MSIX_EN = 1 ∧ deliverables s 258 = [768] ∧ s.get (Reg.INT_SRCs_CFG_VEC 768) = 0) ∧
    (hostOpen (evs 258) 0x20300C = true ∧ (evs 258).get Reg.INT_HOSTCFG_MSIX_EN = 0) := by unfold Ready Running; decide +kernel

theorem test_claim_highest : nextHas (exec (.hostClaim 32) (((evs 258).put (Reg.INT_SRCs_CFG_PRIO 769) 4).put (Reg.INT_SWSETr_BITS 0) 3)) (fun t => decide (t.hostRead = [1, 3, 0, 0])) = true := by decide +kernel

theorem witness_IllWordsEndTasks : (let s := fetching 0 run
      Ready s 0 0 (0#32).toNat ∧ encodingOk (0#32).toNat = false ∧ s.cTask 0 0 ≠ 0 ∧ s.job.loaded = true ∧ s.aborts = []) ∧
    (let s := run.setQueue 0 0 ⟨[0x1F], []⟩
     frameStill s 0 = false ∧ (s.queue 0 0).words = [0x1F] ∧ s.qTask 0 0 ≠ 0 ∧ spindleWordOk 0x1F = false ∧ s.aborts = [] ∧ s.job.loaded = true) ∧
    (let s := (run.setQueue 0 25 ⟨[0x2F], []⟩).put (Reg.FRM_Qq_TASK_TASK 0 25) 1
     (s.queue 0 25).words = [0x2F] ∧ s.qTask 0 25 ≠ 0 ∧ brushWordOk 0x2F = false) ∧
    (let s := (run.setQueue 0 26 ⟨[0x3F], []⟩).put (Reg.FRM_Qq_TASK_TASK 0 26) 1
     (s.queue 0 26).words = [0x3F] ∧ s.qTask 0 26 ≠ 0 ∧ easelOk 0x3F = false) := by unfold Ready Running; decide +kernel

/-! ## Spindles -/

/-- `run` with word `w` at the head of Spindle queue 0, `x` in Spindle 0, and `l` in the stream of Shuttle queue 0. -/
def spd (w : Nat) (x : SpinSt) (l : List SElem) : State :=
  let s := (run.put (Reg.FRM_SPDn_SHAPE_SLOT 0 0) 0).put (Reg.FRM_SPDn_SHAPE_SLOT 0 1) 1
  let s := (s.put (Reg.FRM_SPDn_SHAPE_WIDTH 0 0) 128).put (Reg.FRM_SPDn_SHAPE_WIDTH 0 1) 128
  ((s.setQueue 0 0 ⟨[w], []⟩).setSpin 0 0 x).setSh 0 0 { ShutSt.empty with toEng := l }

/-- A row of BF16 elements. -/
def bf (l : List Nat) : List SElem := l.zipIdx.map (fun (c, i) => ⟨c, 0, 0, 2, 0, false, i + 1 = l.length⟩)

/-- A Spindle with a resident BF16 tile of two rows and one column whose two elements have the code 256 × `hi` + `lo`. -/
def tiled (lo hi : Byte) (frozen : Bool) : SpinSt :=
  { SpinSt.empty with tiles := [(0, some ⟨2, 1, 2, 0, 0, frozen, 0, 0, 0x3F800000#32⟩)], buf := [(0, lo), (1, hi), (64, lo), (65, hi)] }

/-- `p` of the word and unit that Spindle queue 0 decodes for opcode `op`. -/
def goes (s : State) (op : Nat) (p : Nat → SpinUnit → Bool) : Bool :=
  match spinDecode s 0 0 op with
  | .go w u => p w u
  | _ => false

/-- `p` of the operand that `n` chunks of a stream give. -/
def fed (o : Feed (List Chunk)) (p : List Chunk → Nat → Bool) : Bool :=
  match o with
  | .ok cs n => p cs n
  | _ => false

/-- `p` of a mode. -/
def moded (o : PassMode) (p : Nat → Bool → Bool) : Bool :=
  match o with
  | .ok kr i => p kr i
  | _ => false

def wGangUp : Nat := fieldsOf [(0, 0x16), (32, 1)]
def wGangDown : Nat := fieldsOf [(0, 0x16), (11, 1)]
def wClear : Nat := fieldsOf [(0, 0x15), (58, 31), (64, 8191)]
def wPass : Nat := fieldsOf [(0, 0x11), (40, 2), (46, 2), (58, 1)]
def wWeight : Nat := fieldsOf [(0, 0x12), (40, 2), (46, 2), (64, 1)]

/-- The slots 0 and 1 as a gang whose leader is slot 0. -/
def ganged (w : Nat) : State :=
  ((((spd w SpinSt.empty []).put (Reg.FRM_SPDn_SHAPE_GANG_SIZE 0 0) 1).put (Reg.FRM_SPDn_SHAPE_GANG_SIZE 0 1) 1).put
    (Reg.FRM_SPDn_SHAPE_GANG_LEADER 0 0) 1)

/-- Frame 0 has its clock in these states. -/
theorem witness_clock (w : Nat) (x : SpinSt) (l : List SElem) : frameStill (spd w x l) 0 = false := rfl

theorem witness_GangsAndClears : goes (spd wGangUp SpinSt.empty []) 0x16 (fun w _ =>
      sgSize w = 1 && wGang w = false && 0 % 2 ^ sgSize w = 0 && (List.range 2).all (freeSlot (spd wGangUp SpinSt.empty []) 0)) = true ∧
    goes (ganged wGangDown) 0x16 (fun w u => sgSize w = 0 && wGang w && ((ganged wGangDown).queue 0 0).ran = [] &&
      ((ganged wGangDown).spin 0 u.leader).open_ = []) = true ∧
    goes (spd wClear SpinSt.empty []) 0x15 (fun w u => 8192 * swWbOfs w + swEnt w = 262144 && !frozenUnit (spd wClear SpinSt.empty []) 0 u) = true ∧
    goes (spd wClear (tiled 0 0 true) []) 0x15 (fun w u => 8192 * swWbOfs w + swEnt w ≤ 262144 && frozenUnit (spd wClear (tiled 0 0 true) []) 0 u &&
      u.ms.count 0 = 1 && frozenAt (spd wClear (tiled 0 0 true) []) 0 0) = true := by decide +kernel

theorem test_gang_pair : nextHas (exec (.sgang 0 0) (spd wGangUp SpinSt.empty [])) (fun t =>
    t.get (Reg.FRM_SPDn_SHAPE_GANG_SIZE 0 1) = 1 && t.get (Reg.FRM_SPDn_SHAPE_GANG_LEADER 0 1) = 0 &&
      t.get (Reg.FRM_SPDn_SHAPE_GANG_LEADER 0 0) = 1) = true := by decide +kernel
def wDrain (dest : Nat) : Nat := fieldsOf [(0, 0x13), (34, dest), (36, 3), (58, 1)]
def wWdrain (dest : Nat) : Nat := fieldsOf [(0, 0x14), (34, dest), (36, 3), (40, 1)]
/-- A Spindle with a block of one FP32 word 2.0 at region 1, and the pair (1.0, 0) first in its wide buffer. -/
def blocked : SpinSt :=
  { SpinSt.empty with acc := [(1024, 0x40000000#32)], blocks := [(1, some ⟨1, 1, false, false, none, 0, false⟩)], wb := [(0, ⟨0x3F800000#32, 0⟩)] }

theorem witness_DrainsHandOver : (∀ d ∈ [0, 2], goes (spd (wWdrain d) blocked []) 0x14 (fun w u => sdDest w = d && sdClear w &&
      8192 * swWbOfs w + swEnt w ≤ 262144 && !frozenUnit (spd (wWdrain d) blocked []) 0 u) = true) ∧
    ∀ d ∈ [0, 1, 2], goes (spd (wDrain d) blocked []) 0x13 (fun w u => sdDest w = d && !sdClear w &&
      (blockAt (spd (wDrain d) blocked []) 0 u (spAcc w)).isSome) = true := by decide +kernel

theorem test_drain_order : nextHas (exec (.sdrain 0 0 .ok) (spd (wDrain 2) blocked [])) (fun t =>
    (t.sh 0 3).fromEng.map (fun e => e.v) = [0x40000000#32]) = true := by decide +kernel

def wLoad : Nat := fieldsOf [(0, 0x10), (34, 2), (64, 1)]
theorem witness_LoadPlacesTile : goes (spd wLoad SpinSt.empty (bf [0x3F80, 0x4000])) 0x10 (fun w u => loadCause u w = none && u.ms = [0] && !u.deep &&
    slSty w = 0 && slLayout w = 0 && slK w * slN w = 2 &&
    (bf [0x3F80, 0x4000]).all (fun e => e.ety = slEty w && e.sty = 0)) = true := by decide +kernel

/-- A load of one FP8 element with one block scale from queue 1. -/
def wLoadS : Nat := fieldsOf [(0, 0x10), (34, 4), (42, 1), (109, 1)]
def scaled : State :=
  let s := spd wLoadS SpinSt.empty [⟨0x38, 0, 0, 4, 1, false, true⟩]
  s.setSh 0 1 { ShutSt.empty with toEng := [⟨0x7F, 0, 0, 0x0C, 0, false, true⟩] }
theorem witness_LoadPlacesTile_scaled : goes scaled 0x10 (fun w u => loadCause u w = none && slSty w = 1 && slScaleQ w ≠ slSrcQ w &&
    (loadOrder w).length = 1 && scaleBytes w = 1) = true := by decide +kernel

theorem test_load_row_major : nextHas (exec (.sload 0 0) (spd wLoad SpinSt.empty (bf [0x3F80, 0x4000]))) (fun t =>
    sgetList 0 (t.spin 0 0).buf 0 2 = [0x80, 0x3F] && sgetList 0 (t.spin 0 0).buf 64 2 = [0x00, 0x40]) = true := by decide +kernel

/-- An ungrouped SPASS of `s` reaches its sums, of which `p` holds. -/
def passes (s : State) (p : List (W32 × Bool) → Bool) : Bool :=
  goes s 0x11 (fun w u => u.ms = [0] && spSrc w = 2 && spInit w ≠ 2 && spOut w = 0 && !spTwo w &&
    match passDecode s 0 w u with
    | .ok tv => moded (passMode s 0 0 w tv.head 0) (fun kr i =>
        fed (feedChunks (s.sh 0 0).toEng ((passShape tv w kr i).count false) (spEty w) (spSty w) (needC64 (spEty w) kr)) (fun cs _ =>
          !i && p (passSums s 0 w (passShape tv w kr i) 0 none cs [0]).1))
    | .error _ => false)

theorem witness_PassSums : passes (spd wPass (tiled 0x80 0x3F false) (bf [0x3F80, 0x4000])) (fun l => l = [(0x40400000#32, false)]) = true := by
  decide +kernel

theorem test_pass_sum : nextHas (exec (.spass 0 0 .ok) (spd wPass (tiled 0x80 0x3F false) (bf [0x3F80, 0x4000]))) (fun t =>
    accGet t 0 0 1024 = 0x40400000#32 && (t.sh 0 0).toEng = []) = true := by decide +kernel

/-- `s` in RETRY mode. -/
def retrying (s : State) : State := s.put (Reg.FRM_NUMMODE_OVF_MODE 0) 1

/-- A re-run with retry number `n` of a ring-fed pass is due in Spindle 0, and the port holds the run that was sent again with it,
of one chunk whose first two BF16 elements have code `c`. -/
def rerun (n c : Nat) : State :=
  let w := fieldsOf [(0, 0x11), (40, 0), (46, 2), (58, 1)]
  let b (k : Nat) (d : List Byte) : Beat := ⟨k, 0, 0, 0, true, n, false, d, 0⟩
  let s := retrying (spd w { tiled 0x7F 0x7F false with retry := some ⟨n, 0, [], 0, 0, false, false, false⟩ } [])
  s.setRport 0 (ringIdx 0 0) { s.rport 0 (ringIdx 0 0) with
    run := [b 2 (padTo 256 (markPayload 0 1 2 0 false)), b 0 (padTo 256 (toLE 4 (c + 65536 * c)))] }

/-- The re-run of `s` finds its operand, and its sums overflow as `own` says. -/
def reruns (s : State) (own : Bool) : Bool :=
  match (s.spin 0 0).retry, (s.queue 0 0).words with
  | some r, w :: _ => wOp w = 0x11 && match tileAt s 0 (unitAt s 0 0) (wHandle w) with
    | some tv => spinMode tv.head.ety tv.head.sty (spEty w) (spSty w) = some (64, false) &&
      match redoOperand s 0 0 w ((passShape tv w 64 false).count false) 64 [] 0 r.seq r.n with
      | .ok (t0, cs, _) => (passSums (noteRetry t0 0) 0 w (passShape tv w 64 false) r.n none cs [0]).1.any (fun e => e.2) = own
      | .error _ => false
    | none => false
  | _, _ => false

/-- The same of a weight pass, whose run is of two chunks with code `c` first in each. -/
def rerunW (n c : Nat) : State :=
  let w := fieldsOf [(0, 0x12), (46, 2), (64, 1)]
  let b (k : Nat) (d : List Byte) : Beat := ⟨k, 0, 0, 0, true, n, false, d, 0⟩
  let s := retrying (spd w { tiled 0x7F 0x7F false with retry := some ⟨n, 0, [], 0, 0, false, false, false⟩ } [])
  s.setRport 0 (ringIdx 0 0) { s.rport 0 (ringIdx 0 0) with
    run := [b 2 (padTo 256 (markPayload 0 2 2 0 false)), b 0 (padTo 256 (padTo 128 (toLE 2 c) ++ toLE 2 c))] }

def rerunsW (s : State) (own : Bool) : Bool :=
  match (s.spin 0 0).retry, (s.queue 0 0).words with
  | some r, w :: _ => wOp w = 0x12 && match tileAt s 0 (unitAt s 0 0) (wHandle w) with
    | some tv => spinMode tv.head.ety tv.head.sty (spEty w) (spSty w) = some (64, false) && subTiles (weightShape tv w 64 false) ≤ r.sub + 1 &&
      match redoOperand s 0 0 w (weightCount (weightShape tv w 64 false)) 64 (s.sh 0 (spSrcQ w)).kept (s.sh 0 (spSrcQ w)).skip r.seq r.n with
      | .ok (t0, cs, _) => (subSums (noteRetry t0 0) 0 w (weightShape tv w 64 false) r.n r.u0 (((t0.spin 0 (physIdx t0 0 0)).sel).getD 0) r.sub cs).1.any
          (fun e => e.2.2.2) = own
      | .error _ => false
    | none => false
  | _, _ => false

/-- Register fields as they are in force. -/
def forced (s : State) (l : List (Ref × Nat)) : State :=
  { s with force := l.foldl (fun m p => sput 0 m p.1.key (p.2 ^^^ p.1.reset)) s.force }

def wMember : Nat := fieldsOf [(0, 0x11), (37, 1), (40, 1), (46, 2), (58, 1)]
/-- Slot 0 is the head of a reduce segment of the S-ring; its pass with OUT = RING, fed by the Z-ring, is to run again. -/
def member : State :=
  let b (k : Nat) (d : List Byte) : Beat := ⟨k, 0, 0, 0, true, 1, false, d, 0⟩
  let x := { tiled 0x80 0x3F false with open_ := [⟨wMember, 0, 0, some 1, [0], [], 0, 0, 0, [⟨2, 1, 2, 0, 0, false, 0, 0, 0x3F800000#32⟩]⟩] }
  let s := forced (retrying (spd 0 x [])) [(Reg.FRM_RCUT_S_CUT 0, 2), (Reg.FRM_RMODE_S_RED 0, 3)]
  s.setRport 1 (ringIdx 0 0) { s.rport 1 (ringIdx 0 0) with
    run := [b 2 (padTo 256 (markPayload 0 1 2 0 false)), b 0 (padTo 256 (toLE 4 (0x3F80 + 65536 * 0x3F80)))] }

def memberReruns (s : State) : Bool :=
  match (s.spin 0 0).open_.find? (fun o => o.due.isSome) with
  | some o =>
    let tv := viewOf (unitAt s 0 0) o.tile
    (s.spin 0 0).retry = none && reduceRing s (ringIdx 0 0) = some 0 && moded (passMode s 0 0 o.word tv.head 0) (fun kr i => kr = 64 && !i) &&
      spInit o.word ≠ 2 && spOut o.word = 1 && o.due ≠ some 0 && !spTrans o.word &&
      match redoOperand s 0 0 o.word ((passShape tv o.word 64 false).count false) 64 o.items o.skip o.run (o.due.getD 1) with
      | .ok _ => true
      | .error _ => false
  | none => false

theorem witness_OverflowReruns : (retryMode (retrying run) 0 = true ∧ physOf (spd wPass SpinSt.empty []) 0 0 = some 0 ∧
      passes (retrying (spd wPass (tiled 0x7F 0x7F false) (bf [0x7F7F, 0x7F7F]))) (fun l => l.any (fun e => e.2)) = true) ∧
    reruns (rerun 1 0x3F80) false = true ∧ reruns (rerun 3 0x7F7F) true = true ∧
    rerunsW (rerunW 1 0x3F80) false = true ∧ rerunsW (rerunW 3 0x7F7F) true = true ∧
    (memberReruns member = true ∧ physOf member 0 0 = some 0 ∧ frameStill member 0 = false) := by decide +kernel

theorem test_overflow_asks : nextHas (exec (.spass 0 0 .ok) (retrying (spd wPass (tiled 0x7F 0x7F false) (bf [0x7F7F, 0x7F7F])))) (fun t =>
    (t.queue 0 0).words = [wPass] && ((t.spin 0 0).retry.map (fun r => r.n)) = some 1) = true := by decide +kernel

theorem witness_WeightPassFrame : (let s := spd wWeight (tiled 0x80 0x3F false) (bf [0x3F80, 0x4000] ++ bf [0, 0])
    goes s 0x12 (fun w u => u.ms = [0] && typeCause (spEty w) (spSty w) = none && spSrc w = 2 && !retryMode s 0 &&
      match tileAt s 0 u (wHandle w) with
      | some tv => 8192 * swWbOfs w + swKd w * tv.n ≤ 262144 && moded (passMode s 0 0 w tv.head 0) (fun kr i =>
          fed (feedChunks (s.sh 0 0).toEng (weightCount (weightShape tv w kr i)) (spEty w) (spSty w) (needC64 (spEty w) kr)) (fun _ _ => true))
      | none => false)) = true := by decide +kernel

def wKnot5 (op : Nat) : Nat := fieldsOf [(0, op), (12, 1), (13, 5)]
/-- A queue whose only word has executed and adds to Knot 5. -/
def done5 (q : Nat) (op : Nat) : State := run.setQueue 0 q ⟨[], [wKnot5 op]⟩

theorem witness_WordsComplete : (wKnotEn (wKnot5 0x15) = true ∧ (done5 0 0x15).knot 0 (wKnot (wKnot5 0x15)) < 2 ^ 32 - 1 ∧
      ((done5 0 0x15).queue 0 0).ran = [wKnot5 0x15] ∧ wordLanded (done5 0 0x15) 0 0 (wKnot5 0x15) = true) ∧
    (((done5 25 0x20).queue 0 25).ran = [wKnot5 0x20] ∧ ∀ j ∈ givesTo 25 (wKnot5 0x20), ((done5 25 0x20).sh 0 j).fromEng.length ≤ 16384) ∧
    (((done5 26 0x30).queue 0 26).ran = [wKnot5 0x30] ∧ ∀ j ∈ givesTo 26 (wKnot5 0x30), ((done5 26 0x30).sh 0 j).fromEng.length ≤ 16384) ∧
    (let x : ShutSt := { ShutSt.empty with word := some (wKnot5 0x40), item := 1 }
     let s := run.setSh 0 0 x
     (s.sh 0 0).word = some (wKnot5 0x40) ∧ wordDelivered s 0 0 (wKnot5 0x40) (s.sh 0 0) = true) := by decide +kernel

theorem test_completion_knot : nextHas (exec (.spindleCmdComplete 0 0) (done5 0 0x15)) (fun t =>
    t.knot 0 5 = 1 && t.get (Reg.FRM_Qq_DONE_COUNT 0 0) = 1) = true := by decide +kernel

/-! ## Brush and Easel -/

/-- Memory with 1.0 and 2.0 at 0x1000 of Frame 0's memory, and at 0x100 an argument record of eight addresses. -/
def fm (l : List Nat) (s : State) : State :=
  (s.setBytes (fmAddr 0 0x1000) [0, 0, 0x80, 0x3F, 0, 0, 0, 0x40]).setBytes (fmAddr 0 0x100) (l.flatMap (toLE 4))

/-- `run` with a Brush word of FP32 elements at the head of queue 25: inputs at 0x1000, outputs at 0x2000, 0x3000 and 0x4000. -/
def brush (w : Nat) : State :=
  fm [0x1000, 0x1000, 0x1000, 0x1000, 0x2000, 0x3000, 0x4000, 0x5000] ((run.setQueue 0 25 ⟨[w], []⟩).put (Reg.FRM_Qq_TASK_TASK 0 25) 1)
def wBrush (op fn acc : Nat) : Nat := fieldsOf [(0, op), (32, fn), (40, 1), (48, 1), (73, 1), (96, acc), (112, 1)]

/-- The Brush word of `s` passes its decode and finds its inputs. -/
def brushes (w op : Nat) : Bool :=
  let s := brush w
  wOp w = op && brushWordOk w && !brushAddrBad w (brushArgOf s 0 w) &&
    match brushInputs s 0 w (brushArgOf s 0 w) (brushIns w) with
    | .ok (_, vs) => vs.all (fun v => v.length = brCnt w)
    | .error _ => false

/-- `run` with an Easel word at the head of queue 26. -/
def easel (w : Nat) : State := fm [0x1000, 0x1000, 0x2000, 0x3000, 0x3000, 0x4000, 64, 64] (run.setQueue 0 26 ⟨[w], []⟩)
def wEasel (op : Nat) : Nat := fieldsOf [(0, op), (43, 1), (51, 1), (64, 1), (80, 5), (112, 1)]

/-- Frame 0 has its clock in these states. -/
theorem witness_BrushAndEaselRun_clock (w : Nat) : frameStill (brush w) 0 = false ∧ frameStill (easel w) 0 = false := ⟨rfl, rfl⟩

theorem witness_BrushAndEaselRun : (∀ op ∈ [0x20, 0x21, 0x22, 0x23, 0x24, 0x25], brushes (wBrush op 0 0) op = true) ∧
    (∀ acc ∈ [0, 1], brushes (wBrush 0x24 0 acc) 0x24 = true ∧ brushIns (wBrush 0x24 0 acc) = [0] ∧ brAcc (wBrush 0x24 0 acc) = decide (acc = 1) ∧ brDst (wBrush 0x24 0 acc) = 0 ∧
      (brushArgOf (brush (wBrush 0x24 0 acc)) 0 (wBrush 0x24 0 acc)).outs[0]?.getD 0 = 0x2000) ∧
    (∀ op ∈ [0x30, 0x31], let w := wEasel op
      wOp w = op ∧ ((easel w).queue 0 26).words = [w] ∧ easelOk w = true ∧ easelAddrBad w (easelArgOf (easel w) 0 w) = false ∧
      (match drainRows (easel w) 0 w with | .ok _ => true | .error _ => false) = true) := by decide +kernel

theorem test_bop_adds : nextHas (exec (.bop 0 .ok) (brush (wBrush 0x20 0 0))) (fun t =>
    fmBytes t 0 0x2000 8 = [0, 0, 0, 0x40, 0, 0, 0x80, 0x40]) = true := by decide +kernel
theorem test_bred_sums : nextHas (exec (.bred 0 .ok) (brush (wBrush 0x24 0 0))) (fun t =>
    fmBytes t 0 0x2000 4 = [0, 0, 0x40, 0x40]) = true := by decide +kernel

def wStat (dir : Nat) : Nat := fieldsOf [(0, 0x32), (32, dir), (33, 3), (80, 5)]
def wEpread (clear : Nat) : Nat := fieldsOf [(0, 0x33), (32, clear), (33, 3), (64, 1), (112, 0x10)]
theorem witness_StatisticsMove : (easelOk (wStat 0) = true ∧ wOp (wStat 0) = 0x32 ∧ esDir (wStat 0) = 0) ∧
    (let s := (easel (wStat 1)).setSh 0 3 { ShutSt.empty with toEng := [⟨7, 0, 0, 1, 0, false, false⟩, ⟨8, 0, 0, 1, 0, false, true⟩] }
     (s.queue 0 26).words = [wStat 1] ∧ easelOk (wStat 1) = true ∧ esDir (wStat 1) = 1 ∧
       2 * eaRows (wStat 1) ≤ (s.sh 0 (esQ (wStat 1))).toEng.length ∧
       ∀ e ∈ (s.sh 0 (esQ (wStat 1))).toEng.take (2 * eaRows (wStat 1)), e.ety = 1 ∧ e.sty = 0) ∧
    (∀ c ∈ [0, 1], easelOk (wEpread c) = true ∧ wOp (wEpread c) = 0x33 ∧ eaArg (wEpread c) + 8 * epCnt (wEpread c) ≤ 0x1000000) ∧
    (let w := fieldsOf [(0, 0x33), (64, 31), (112, 0xFFFF)]
     easelOk w = true ∧ eaArg w + 8 * epCnt w = 0x1000000) := by decide +kernel

theorem test_epread_pair : nextHas (exec (.epread 0 .ok) (easel (wEpread 1))) (fun t =>
    (t.sh 0 3).fromEng.map (fun e => e.v) = [0x40400000#32, 0] && fmBytes t 0 0x1000 8 = List.replicate 8 0) = true := by decide +kernel

/-! ## Descriptors -/

/-- A descriptor of `n` FP32 elements at offset `o` of segment 1; `wr` for a write. -/
def desc (o n wr : Nat) : List Byte := toLE 128 (fieldsOf [(0, o), (48, 1), (56, 1), (59, wr), (64, 1), (128, n), (320, 1)])

/-- Segment 1 of Frame 0 is its memory. -/
def seg1 (s : State) : State :=
  (s.put (Reg.FRM_SEGs_BASE_BASE 0 1) 0x0A0000000000).put (Reg.FRM_SEGs_LIM_LIMIT 0 1) 0x1000000


/-! ## The Ring -/

/-- `s` with the slots 0 and 1 of Frame 0 as a segment of the S-ring fed by Shuttle queue 2. -/
def ring (s : State) : State :=
  forced s [(Reg.FRM_RCUT_S_CUT 0, 2), (Reg.FRM_RINJ_S_EN 0, 1), (Reg.FRM_RINJQ_S_Q 0, 2)]

def beat1 : Beat := ⟨0, 5, 0, 0, false, 0, false, [], 0⟩
/-- A mark beat of SID 5. -/
def mark1 : Beat := ⟨2, 5, 0, 0, false, 0, false, padTo 256 (markPayload 0 4 2 0 false), 0⟩

/-- A beat at stage `i`. -/
def at_ (i : Nat) : State := (ring run).setStage 0 i [beat1]

/-- Slot `i` takes the stream of SID 5 into the pass at its queue's head, which reads the S-ring; its port holds `r`. -/
def reading (i : Nat) (b : Beat) (r : RingPort) : State :=
  let s := (ring run).put (Reg.FRM_SPDn_SHAPE_SLOT 0 i) i
  (((s.setQueue 0 i ⟨[fieldsOf [(0, 0x11), (46, 2), (58, 1)]], []⟩).setSpin 0 i { SpinSt.empty with sel := some 5 }).setRport 0 i r).setStage 0 i [b]

def isAlso (o : Taken) : Bool := match o with | .also _ => true | _ => false
def isPass (o : Taken) : Bool := match o with | .pass => true | _ => false
def isHold (o : Taken) : Bool := match o with | .hold => true | _ => false
def isError (o : Taken) : Bool := match o with | .error => true | _ => false

/-- The last slot of Frame 7 is a tail that goes on by flex port 3. -/
def atFlex : State :=
  (forced run [(Reg.FRM_RCUT_S_CUT 7, 0x80), (Reg.FRM_RFLEX_S_OUT_EN 7, 1), (Reg.FRM_RFLEX_S_PORT 7, 3)]).setStage 0 63 [beat1]

/-- A partial beat of the slot's own port waits to leave stage 0. -/
def own : State := (ring run).setRport 0 0 { RingPort.empty with out := [{ beat1 with kind := 1 }] }

/-- The head of Frame 0's segment has its beats from flex port 3. -/
def flexed (s : State) : State := forced s [(Reg.FRM_RFLEX_S_IN_EN 0, 1), (Reg.FRM_RFLEX_S_PORT 0, 3)]

theorem witness_BeatsMoveOrEnd : ((∀ i ∈ [0, 1], frameStill (at_ i) (idxFrame i) = false ∧ ((at_ i).rport 0 i).buf = [] ∧ (at_ i).stage 0 i = [beat1] ∧
      flexFed (at_ i) 0 i = none ∧ ((at_ i).inj 0 (idxFrame i)).run = [] ∧ isPass (takeOperandBeat (at_ i) 0 i beat1) = true ∧
      isTail (at_ i) 0 i = decide (i = 1) ∧ ((at_ i).stage 0 (ringNext 0 i)).length < stageDepth 0 (ringNext 0 i) ∧ flexOut (at_ i) 0 i = none) ∧
      (∀ i ∈ [0, 1], ∀ p ∈ [(beat1, { RingPort.empty with run := [mark1] }), (mark1, RingPort.empty)],
        let s := reading i p.1 p.2
        isAlso (takeOperandBeat s 0 i p.1) = true ∧ p.1.kind ≠ 1 ∧ flexFed s 0 i = none ∧ isTail s 0 i = decide (i = 1)) ∧
      (isTail atFlex 0 63 = true ∧ frameStill atFlex (idxFrame 63) = false ∧ isPass (takeOperandBeat atFlex 0 63 beat1) = true ∧
        flexOut atFlex 0 63 = some 3 ∧ flexRoom atFlex 0 3 = true ∧ flexFed atFlex 0 63 = none) ∧
      (isHold (takeOperandBeat (reading 0 mark1 { RingPort.empty with buf := [beat1, beat1, beat1, beat1], run := [{ mark1 with redo := true }] }) 0 0 mark1) = true) ∧
      (own.stage 0 0 = [] ∧ (own.rport 0 0).out ≠ [] ∧ isTail own 0 0 = false ∧ (own.stage 0 1).length < stageDepth 0 1 ∧ frameStill own (idxFrame 0) = false)) ∧
    (let s := reading 0 mark1 { RingPort.empty with run := [mark1] }
     frameStill s 0 = false ∧ s.stage 0 0 = [mark1] ∧ isError (takeOperandBeat s 0 0 mark1) = true) ∧
    (let s : State := { at_ 1 with master := 100 * tickUs * 4294967296 }
     s.now = 100 * tickUs ∧ s.stage 0 1 ≠ [] ∧ freqStopped s = false ∧ flexRetry s 0 1 = false ∧ hopHeld s 0 1 = true ∧ s.glazeT = none ∧
       freqStopped { s with freq := some ⟨800, 0, true, false, false⟩ } = true ∧
       flexRetry ((flexed s).put (Reg.LNK_PORTp_STAT_RETRY 3) 1) 0 1 = true) := by
  decide +kernel

theorem test_beat_moves : nextHas (exec (.ringBeat .S 0 .ok) (at_ 0)) (fun t =>
    t.stage 0 0 = [] && t.stage 0 1 = [beat1]) = true := by decide +kernel

/-- The word and the item of a run of SID 5 of queue 2. -/
def wRing : Nat := fieldsOf [(0, 0x40), (34, 2), (40, 5), (120, 1)]
def itemR : ItemSt := ⟨wRing, 0, desc 0x1000 2 0, []⟩

/-- The injector keeps the run of `itemR`; `due` of its re-sends are due. -/
def keeps (due : List RedoRec) : State := (seg1 (ring run)).setInj 0 0 ⟨[], [⟨5, 0, 0, 2, itemR⟩], [], due⟩

def note1 (k : NoticeKind) : Notice := ⟨k, 5, 0, 0, 1, 0⟩

/-- A pass of SID 5 that no CONFIRM has made final, and a notice at stage 1. -/
def opened (k : NoticeKind) : State :=
  let s := (ring run).put (Reg.FRM_SPDn_SHAPE_SLOT 0 1) 1
  (s.setSpin 0 1 { SpinSt.empty with open_ := [⟨0x11, 0, 0, none, [], [], 0, 0, 5, []⟩] }).setNotice 0 1 [note1 k]

def wanting (s : State) : Option (Nat × Nat × Notice × List Notice) :=
  (fedHeads s 0 0).findSome? (fun i => (redoAt s 0 i).map (fun p => (i, p)))

theorem witness_RunsAndNotices : (let s := (keeps []).setNotice 0 1 [note1 .redoReq]
     frameStill s 0 = false ∧ wanting s = some (ringIdx 0 0, 1, note1 .redoReq, []) ∧ flexFed s 0 (segHead s 0 (ringIdx 0 0)) = none ∧
       ∃ k ∈ (s.inj 0 0).kept, k.sid = 5 ∧ k.part = 0 ∧ k.seq = 0) ∧
    (let s := (flexed (ring run)).setNotice 0 1 [note1 .redoReq]
     wanting s = some (ringIdx 0 0, 1, note1 .redoReq, []) ∧ flexFed s 0 (segHead s 0 (ringIdx 0 0)) = some 3) ∧
    (let s := keeps [⟨5, 0, 0, 1⟩]
     (s.inj 0 0).run = [] ∧ (s.inj 0 0).redo = [⟨5, 0, 0, 1⟩] ∧
       (s.inj 0 0).kept.find? (fun k => k.sid = 5 && k.part = 0 && k.seq = 0) = some ⟨5, 0, 0, 2, itemR⟩ ∧
       (match itemRun s 0 2 wRing itemR.rd 0 true 1 .ok ShEcc.none with | .ok u bs => injector u 0 0 = some (0, 2) && bs.length = 2 | _ => false) = true) := by
  decide +kernel

theorem witness_RunsAndNotices_members : ∀ k ∈ [NoticeKind.retry, NoticeKind.confirm], frameStill (opened k) (idxFrame 1) = false ∧
    portSlot (opened k) 1 = some (0, 1, 1) ∧ pickNotice k ((opened k).notice 0 1) = some (note1 k, []) ∧ isHead (opened k) 0 1 = false ∧
      (((opened k).spin 0 1).open_.find? (fun o => o.seq = (note1 k).seq && selSid o.sel 0 = (note1 k).sid && selPart o.sel 0 = (note1 k).part)).isSome = true := by
  decide +kernel

theorem test_confirm_ends : nextHas (exec (.confirm .S 1) (opened .confirm)) (fun t =>
    (t.spin 0 1).open_ = [] && (t.queue 0 1).ran = [0x11] && t.notice 0 0 ≠ []) = true := by decide +kernel

/-! ## The Shuttle -/

def wMove : Nat := fieldsOf [(0, 0x40), (72, 0x8000), (120, 1)]
def wFeed : Nat := fieldsOf [(0, 0x40), (34, 1), (72, 0x8000), (120, 1)]
def wTake : Nat := fieldsOf [(0, 0x40), (32, 1), (72, 0x8000), (120, 1)]

/-- Shuttle queue 0 holds the word `w`. -/
def shq (w : Nat) : State := (seg1 run).setQueue 0 9 ⟨[w], []⟩

/-- Shuttle queue 0 executes `w`, whose two descriptors lie at 0x8000 of the Frame's memory. -/
def moving (w : Nat) (x : ShutSt) : State :=
  ((seg1 run).setBytes (fmAddr 0 0x8000) (desc 0x1000 2 0 ++ desc 0x2000 2 1)).setSh 0 0 { x with word := some w }

/-- An item from 0x1000 or to 0x2000, of two elements. -/
def item (w : Nat) : ItemSt := nextItem w 0 (if sxSrc w = 0 then [desc 0x1000 2 0, desc 0x2000 2 1] else [desc 0x2000 2 1])

/-- `p` of the result of a stretch. -/
def went {α : Type} (r : ShRes α) (p : State → α → Bool) : Bool :=
  match r with
  | .ok t k => p t k
  | _ => false

theorem witness_TransfersBegin : (frameStill (shq wMove) 0 = false ∧ ((shq wMove).sh 0 0).word = none ∧ ((shq wMove).queue 0 9).words = [wMove] ∧
      (shq wMove).get (Reg.FRM_SQj_STATE_CANCEL_BUSY 0 0) ≠ 1 ∧ sxferBad (shq wMove) 0 wMove = false) ∧
    (let s := (shq wFeed).setSh 0 0 { ShutSt.empty with word := some wFeed, item := 1 }
     sxDst wFeed = 1 ∧ sxferBad s 0 wFeed = false ∧ wordRead (s.sh 0 0) wFeed = true) ∧
    (let s := moving wMove ShutSt.empty
     let x := s.sh 0 0
     let g := segOf s 0 (sxDseg wMove)
     let n := min (batchOf x wMove).2 ((g.lim - (batchOf x wMove).1) / 128)
     frameStill s 0 = false ∧ x.descs.length ≤ 8 ∧ 0 < (batchOf x wMove).2 ∧ 0 < n ∧
       went (readSpans s 0 0 [spanOf s [] g (batchOf x wMove).1 (128 * n)] .ok .ok) (fun _ _ => true) = true) ∧
    (∀ w ∈ [wMove, wFeed], let ds := if w = wMove then [desc 0x1000 2 0, desc 0x2000 2 1] else [desc 0x1000 2 0]
     let s := moving w { ShutSt.empty with descs := ds }
     let x := s.sh 0 0
     x.act = none ∧ x.item < sxItems w ∧ sxPer w ≤ x.descs.length ∧ itemBad s 0 0 w (nextItem w x.item x.descs) = false ∧
       itemVersionBad s 0 w (nextItem w x.item x.descs) = false ∧ itemOut s 0 w (nextItem w x.item x.descs) = none) := by decide +kernel

/-- The next `n` elements of queue `j` of Frame 0 arrive; `p` of the state, the count and the word's elements. -/
def delivers (s : State) (j n : Nat) (p : State → Nat → Nat → Bool) : Bool :=
  let x := s.sh 0 j
  match x.word, x.act with
  | some w, some it =>
    let m := stretchLen s 0 j w it n
    !frameStill s 0 && m ≠ 0 && granted s 0 j && went (runStretch s 0 j w it m .ok ShEcc.none) (fun t k => p t k (dCount (itemMain w it)))
  | _, _ => false

/-- Items of queue 0 whose next element is element `pos`. -/
def acting (w : Nat) (pos : Nat) (l : List EElem) : State := moving w { ShutSt.empty with act := some (item w), pos := pos, fromEng := l }

theorem witness_ResponsesDeliver : (let s := (keeps []).setSh 0 2 { ShutSt.empty with word := some wRing, act := some itemR }
      let full := s.setStage 0 0 (List.replicate 7 beat1)
      2 ≤ sxDst wRing ∧ delivers s 2 2 (fun t k n => n ≤ (t.sh 0 2).pos + k && (t.inj 0 0).run = [] && (t.sh 0 2).act.isSome) = true ∧
        delivers full 2 2 (fun t k n => n ≤ (t.sh 0 2).pos + k && (t.inj 0 0).run ≠ [] && (t.sh 0 2).act.isSome) = true) ∧
    delivers (acting wFeed 0 []) 0 2 (fun t k n => n ≤ (t.sh 0 0).pos + k && (t.sh 0 0).act.isSome) = true ∧
    delivers (acting wTake 0 [.word 0x3F800000#32, .word 0]) 0 2 (fun t k n => n ≤ (t.sh 0 0).pos + k && (t.sh 0 0).act.isSome) = true ∧
    delivers (acting wMove 0 []) 0 1 (fun t k n => (t.sh 0 0).pos + k < n) = true ∧
    (let s := (keeps []).setSh 0 2 { ShutSt.empty with word := some wRing, act := some itemR, pos := 2 }
     stretchLen s 0 2 wRing itemR 2 = 0 ∧ (s.sh 0 2).pos = dCount (itemMain wRing itemR) ∧ (s.inj 0 0).run = []) := by
  decide +kernel

theorem test_move_copies : nextHas (exec (.shuttleResponse 0 0 2 .ok .ok .data)
    (fm [] (moving wMove { ShutSt.empty with act := some (item wMove) }))) (fun t =>
      fmBytes t 0 0x2000 8 = [0, 0, 0x80, 0x3F, 0, 0, 0, 0x40] && (t.sh 0 0).act = none) = true := by decide +kernel

theorem witness_CancelsAndFaults : (agentOpen svc .studio (0x1000000 + 0x10000 * 0) = true ∧ frameStill svc 0 = false ∧ svc.ctlIn = [] ∧
      starvedBy run 0 0 = []) ∧
    (let s := fetching (encR 0x32 0 0 0 0) run
     Ready s 0 0 (encR 0x32 0 0 0 0) ∧ s.qTask 0 (9 + 0) ≠ 0 ∧ s.qTask 0 (9 + 0) = s.cTask 0 0) ∧
    ((shq (wMove + 2 ^ 21)).get (Reg.FRM_SQ_FAULT_VALID 0) = 0 ∧ ((shq (wMove + 2 ^ 21)).sh 0 0).word = none ∧
      (shq (wMove + 2 ^ 21)).get (Reg.FRM_SQj_STATE_CANCEL_BUSY 0 0) = 0 ∧ sxferBad (shq (wMove + 2 ^ 21)) 0 (wMove + 2 ^ 21) = true) := by
  unfold Ready Running
  decide +kernel

/-- Queue 0 of Frame 0 10 ms after it issued the requests of `x`. -/
def overdueAt (x : ShutSt) : State := { moving wMove x with master := 10 * 1024000 * 4294967296 }

theorem witness_CancelsAndFaults_timeout : ∀ x ∈ [{ ShutSt.empty with reqT := some 0 }, { ShutSt.empty with batT := some 0 },
      { ShutSt.empty with asked := [⟨0, 64, 0, true⟩] }, { ShutSt.empty with unacked := [⟨0, 0, 0, true⟩] }],
    (overdueAt x).now = 10 * 1024000 ∧ freqStopped (overdueAt x) = false ∧ (overdueAt x).get (Reg.FRM_SQj_STATE_CANCEL_BUSY 0 0) = 0 ∧
      (overdueAt x).get (Reg.FRM_SQ_FAULT_VALID 0) = 0 ∧ (((overdueAt x).sh 0 0).reqT = some 0 ∨ ((overdueAt x).sh 0 0).batT = some 0 ∨
        (∃ r ∈ ((overdueAt x).sh 0 0).asked, r.t = 0) ∨ ∃ r ∈ ((overdueAt x).sh 0 0).unacked, r.timed = true ∧ r.t = 0) := by decide +kernel

/-! ## The Palette and LPDDR -/

/-- Channel 0 in state `st`, with `n` writes in its queue, and a repair of it under way. -/
def chan0 (st n : Nat) : State := { (svc.put (Reg.MEM_CHc_MAP_STATE 0) st).setRepair 0 ⟨0, 0⟩ with chanQ := [(0, n)] }

theorem witness_LpddrBlocks : (64 < lpddrSize svc ∧ chanPaused svc 0 = false ∧ chanFull svc 0 = false ∧ blockWf 63 [7] = true ∧ isBad svc 63 = false ∧
      blockWf 0 (List.replicate 64 1) = true ∧ chanOf 0 = 0 ∧
      (let s : State := { svc with bad := [(0, true)] }
       isBad s 0 = true ∧ chanPaused s 0 = false ∧ chanFull s 0 = false) ∧
      (chanPaused (chan0 1 511) 0 = true ∧ chanFull (chan0 1 511) 0 = false ∧ chanFull (chan0 1 512) 0 = true ∧ chanPaused (chan0 2 0) 0 = false ∧
        repairOf (chan0 2 0) 0 = some ⟨0, 0⟩)) ∧
    readTries (rawBytes svc 0 64) 0 [] 4 0 = some (0, rawBytes svc 0 64) ∧
    readTries (rawBytes svc 0 64) 0 (List.replicate 4 [(0, 1)]) 4 0 = none := by decide +kernel

theorem test_lpddr_reread : readTries (rawBytes svc 0 64) 0 (List.replicate 3 [(63, 0x80)]) 4 0 = some (3, rawBytes svc 0 64) := by decide +kernel

/-- A line of granule 0 in way 0 of slice 0. -/
def lined (dirty : Bool) : State := svc.setLine 0 0 0 ⟨true, 0, dirty, List.replicate 256 0⟩
def rdAcc : Access := ⟨false, 0, 8, [], 0⟩
def wrAcc : Access := ⟨true, 248, 8, [1, 2, 3, 4, 5, 6, 7, 8], 0⟩

def lineAcc : Access := ⟨true, 0, 256, List.replicate 256 7, 0⟩
/-- A miss on granule 0 is outstanding. -/
def missing : State := { svc with misses := [(0, [⟨0, [rdAcc]⟩])] }
/-- Way 0 of slice 0, with a dirty line, leaves the cache role. -/
def leaves : State := { lined true with leaving := [(0, 1)] }

theorem witness_PaletteLines : (rdAcc.wf = true ∧ wrAcc.wf = true ∧ lineAcc.wf = true ∧ stopped svc = false ∧ 256 < lpddrSize svc ∧ sliceOf 0 = 0 ∧
      frameStill svc 0 = false ∧ lookup (lined false) 0 = some 0 ∧ lookup svc 0 = none ∧ waysOf svc 0 .cache ≠ [] ∧ sget [] svc.misses 0 = [] ∧
      dirtyVictim svc 0 = none ∧ (sget [] missing.misses 0).length < 64 ∧ (∃ m ∈ sget [] missing.misses 0, m.gran = 0) ∧ lookup missing 0 = none) ∧
    ((sget [] missing.misses 0).find? (fun m => fillReady missing m.gran) = some ⟨0, [rdAcc]⟩ ∧ frameStill missing 0 = false) ∧
    ((List.range 16).find? (fun w => bit (sget 0 leaves.leaving 0) w) = some 0 ∧ frameStill leaves 0 = false ∧
      backRoom leaves (wayLines leaves 0 0) = true) ∧
    (hostOpen svc 0x501000 = true ∧ svc.job.loaded = false ∧ wayRole svc 0 0 = .cache ∧ regRole 1 0 0 ≠ .cache) ∧
    hostOpen run 0x501000 = true ∧ run.job.loaded = true := by decide +kernel

theorem test_palette_hit : nextHas (exec (.paletteAccess 0 wrAcc .ok) (lined false)) (fun t =>
    (t.lineAt 0 0 0).dirty && (t.lineAt 0 0 0).data.drop 248 = [1, 2, 3, 4, 5, 6, 7, 8]) = true := by decide +kernel

/-- A maintenance operation of two granules is under way. -/
def flushing (op : Nat) : State := { lined true with flush := some ⟨op, some (255, 2), none⟩ }

theorem witness_CacheMaintenance : (hostOpen svc 0x500100 = true ∧ svc.flush = none) ∧
    ∀ op ∈ [0, 1, 2], (flushing op).flush = some ⟨op, some (255, 2), none⟩ ∧ freqStopped (flushing op) = false ∧
      flushCovers ⟨op, some (255, 2), none⟩ ((flushing op).lineAt 0 0 0) = true ∧
      backRoom (flushing op) ((flushing op).lines.filter (fun e => flushCovers ⟨op, some (255, 2), none⟩ e.2)) = true := by decide +kernel

/-- Channel 5 in state `st`, with spare 128 in its group. -/
def chan (st : Nat) : State :=
  ((svc.put (Reg.MEM_CHc_MAP_STATE 5) st).put (Reg.MEM_GRPm_SPARE_AVAIL 0) 1).put (Reg.MEM_GRPm_SPARE_PHYS 0) 128
def copying (st n : Nat) : State := (chan st).setRepair 0 ⟨5, n⟩

/-- The policy's threshold is reached on channel 5. -/
def due5 (s : State) : State :=
  { ((s.put Reg.MEM_REPAIR_POL_AUTO 1).put Reg.MEM_REPAIR_POL_THRESH 2).put Reg.MEM_REPAIR_POL_WINDOW 1 with reread := [(5, [1024000000, 0])] }
def isDue (s : State) : Bool := s.get Reg.MEM_REPAIR_POL_AUTO = 1 && repairDue s 5 && !sget false s.autoTry 5

theorem witness_RetrainAndRepair : (∀ st ∈ [0, 2], let s : State := { chan st with master := 4096 * 1024000 * 4294967296 }
      s.get (Reg.MEM_CHc_MAP_STATE 5) = st ∧ sget 0 s.chT 5 + min 4096 (max 16 (s.get Reg.MEM_RETRAIN_CFG_INTERVAL)) * 1024000 ≤ s.now ∧
        ∀ c : Fin 128, s.get (Reg.MEM_CHc_MAP_STATE c) ≠ 1) ∧
    ((chan 1).get (Reg.MEM_CHc_MAP_STATE 5) = 1 ∧ (copying 1 0).get (Reg.MEM_CHc_MAP_STATE 5) = 1 ∧ (repairOf (copying 1 0) 0).isSome = true) ∧
    (repairOf (chan 0) 0 = none ∧ (chan 0).get (Reg.MEM_GRPm_SPARE_AVAIL 0) = 1 ∧ hostOpen svc 0x503104 = true) ∧
    (let s := due5 (chan 0)
     isDue s = true ∧ repairOf s 0 = none ∧ s.get (Reg.MEM_GRPm_SPARE_AVAIL 0) = 1) ∧
    (let s := due5 (copying 2 0)
     isDue s = true ∧ (repairOf s 0).isSome = true) ∧
    (let s := due5 ((chan 0).put (Reg.MEM_GRPm_SPARE_AVAIL 0) 0)
     isDue s = true ∧ repairOf s 0 = none ∧ s.get (Reg.MEM_GRPm_SPARE_AVAIL 0) = 0) ∧
    (∀ n ∈ [0, chanGrans svc - 1], repairOf (copying 2 n) 0 = some ⟨5, n⟩ ∧ (copying 2 n).get (Reg.MEM_CHc_MAP_STATE 5) = 2 ∧
      firstBad (copying 2 n) (blocksOf (256 * chanGran 5 n) 256) = none) ∧
    (let s : State := { copying 2 0 with bad := [(4 * chanGran 5 0 + 3, true)] }
     firstBad s (blocksOf (256 * chanGran 5 0) 256) = some (256 * chanGran 5 0 + 192)) ∧
    (repairOf (copying 3 (chanGrans svc)) 0 = some ⟨5, chanGrans svc⟩ ∧ (copying 3 (chanGrans svc)).get (Reg.MEM_CHc_MAP_STATE 5) = 3 ∧
      ofChan svc 5 (256 * chanGran 5 0) = true ∧ ofChan svc 5 0 = false) := by
  decide +kernel

theorem test_map_switch : nextHas (exec (.mapSwitch 0) (copying 3 (chanGrans svc))) (fun t =>
    t.get (Reg.MEM_CHc_MAP_PHYS 5) = 128 && t.get (Reg.MEM_CHc_MAP_STATE 5) = 0) = true := by decide +kernel


/-! ## Clocks and time -/


theorem witness_FrequencyChange : (hostOpen svc 0x300004 = true ∧ svc.get Reg.CLK_STAT_SAFE ≠ 1 ∧ svc.freq = none) ∧
    (let s : State := { atTime (50 * 1024) svc with heldGo := some 2250, restartT := some 0 }
     s.freq = none ∧ s.heldGo = some 2250 ∧ (∀ r, s.restartT = some r → r + 50 * 1024 ≤ s.now) ∧ 2250 ≠ s.get Reg.CLK_FREQ_CUR_MHZ) ∧
    (let s : State := { atTime 4096 svc with freq := some ⟨800, 4096, false, false, false⟩ }
     s.freq = some ⟨800, 4096, false, false, false⟩ ∧ 4096 ≤ s.now) ∧
    (let s : State := { atTime (4096 + 1536) svc with freq := some ⟨800, 4096, true, false, false⟩ }
     4096 + 1536 ≤ s.now ∧ s.freq = some ⟨800, 4096, true, false, false⟩ ∧ s.get (Reg.CLK_GENg_STAT_HOLD 63) = 0) := by
  refine ⟨by decide +kernel, ⟨rfl, rfl, ?_, by decide +kernel⟩, by decide +kernel, by decide +kernel⟩
  intro r h
  cases h
  decide +kernel

theorem test_target_floor : nextHas (exec (.freqGo 799) svc) (fun t => t.heldGo = some 800) = true := by decide +kernel

/-- Generator 71 is in holdover since tick 0, on the backup tree where `b` is 1. -/
def held (b : Nat) : State := ((svc.put (Reg.CLK_GENg_STAT_HOLD 71) 1).put Reg.CLK_STAT_BACKUP b)

theorem witness_References : (svc.get (Reg.CLK_GENg_STAT_HOLD 71) = 0 ∧ svc.get Reg.CLK_STAT_BACKUP = 0) ∧
    (let s := atTime 1023999 (held 0)
     s.get (Reg.CLK_GENg_STAT_HOLD 71) = 1 ∧ s.now < (s.gen 71).holdT + 1024000) ∧
    (let s := atTime 1024000 (held 0)
     (s.gen 71).holdT + 1024000 ≤ s.now ∧ s.get Reg.CLK_STAT_BACKUP = 0 ∧ freqStopped s = false) ∧
    (let s := atTime (100 * 1024000) (held 1)
     hostOpen s 0x30000C = true ∧ s.get Reg.CLK_STAT_BACKUP = 1 ∧ (∀ k : Fin 72, (s.gen k).lost = false ∧ (s.gen k).presentT + 100 * 1024000 ≤ s.now) ∧
       s.freq = none) ∧
    (let s : State := { held 1 with gens := [(71, { GenSt.empty with lost := true })] }
     hostOpen s 0x30000C = true ∧ s.get Reg.CLK_STAT_BACKUP = 1 ∧ (s.gen 71).lost = true) ∧
    (false = (held 0).on Reg.CLK_STAT_BACKUP ∧ true = (held 1).on Reg.CLK_STAT_BACKUP ∧ false ≠ (held 1).on Reg.CLK_STAT_BACKUP ∧
      true ≠ (held 0).on Reg.CLK_STAT_BACKUP) := by decide +kernel

/-- A TIME record of port 0, a request or an answer. -/
def timeRec (v : Nat) : Record := ⟨10, 15, 1, 2, 0, v, List.replicate 16 0⟩

theorem witness_TimeIsKept : ((∀ c ∈ [936, 960, 1088, 1089], let s : State := { atTime 1024 svc with regions := [(71, { RegionSt.empty with cnt := c * 4294967296 })] }
      s.beaconK < s.now / 1024 ∧ s.get (Reg.CLK_GENg_STAT_HOLD 71) ≠ 1 ∧ (s.region 71).cnt = c * 4294967296) ∧
      (let s := atTime 1024 (held 0)
       s.beaconK < s.now / 1024 ∧ s.get (Reg.CLK_GENg_STAT_HOLD 71) = 1)) ∧
    (∀ n ∈ [1024000000 - 65, 1024000000 - 64, 1024000000 + 64, 1024000000 + 65],
      let s : State := { atTime n (svc.put Reg.CLK_TSYNC_SRC 2) with ppsT := some 0, source := 921600000 }
      s.get Reg.CLK_TSYNC_SRC = 2 ∧ (match s.ppsT with | some p => p + 921600000 ≤ s.source | none => True)) ∧
    (let s := atTime 1024000000 svc
     s.ppsOut < s.now / 1024000000) ∧
    (let s := svc.put Reg.PWR_DROOP_CFG_MAXSTRETCH 4
     (s.region 0).skip = 0 ∧ freqStopped s = false ∧ 0 < s.get Reg.PWR_DROOP_CFG_MAXSTRETCH) ∧
    (let s := atTime 1024000 ((svc.put Reg.CLK_TSYNC_SRC 1).put (Reg.LNK_PORTp_STAT_STATE 0) 2)
     let s := s.put Reg.LNK_MODID_ID 7
     parentPort s = some 0 ∧ s.get Reg.CLK_TSYNC_SRC = 1 ∧ s.timeT + 1024000 ≤ s.now ∧ carries s 0 = true ∧
       parentPort (s.put (Reg.LNK_PORTp_STAT_STATE 0) 0) = some 0 ∧ carries (s.put (Reg.LNK_PORTp_STAT_STATE 0) 0) 0 = false) ∧
    (let s : State := { (svc.put Reg.CLK_TSYNC_SRC 1).put (Reg.LNK_PORTp_STAT_STATE 0) 2 with timeReq := some (0, 5) }
     RecordReady s 0 10 (timeRec 0) ∧ RecordReady s 0 10 (timeRec 1) ∧ s.timeReq = some (0, 5)) ∧ (timeRec 1).data.length = 16 := by unfold RecordReady; decide +kernel

/-! ## The mesh -/

/-- A packet of one add of 1 for Knot 7 of Frame `d`. -/
def pkt (d : Nat) : MeshPkt := ⟨[.frame d], .kadd (256 * d + 7) 1, .none, 0, false, 0⟩

/-- A packet for two Frames, which part at the router of Frame 0. -/
def pkt2 : MeshPkt := { pkt 9 with dsts := [.frame 1, .frame 8] }

/-- A packet that leaves by Weft port 0. -/
def pktOut : MeshPkt := { pkt 9 with dsts := [.weft 0] }

theorem witness_ModuleStops : svc.get Reg.STU_ERR_STAT_MSTOP = 0 ∧
    (let s := atTime (100 * 1024) (svc.setMeshQ 0 4 0 [pkt 9])
     s.get Reg.STU_ERR_STAT_MSTOP = 0 ∧ freqStopped s = false ∧ s.meshQ 0 4 0 = [pkt 9] ∧ (pkt 9).t + 100 * 1024 ≤ s.now ∧
       waitsRetry s (pkt 9) = false) := by decide +kernel

/-- The next buffers on the way of `pkt 63` are full. -/
def crowded : State := (svc.setMeshQ 0 0 0 [pkt 63]).setMeshQ 1 3 0 (List.replicate 8 (pkt 63))

theorem witness_MeshForwards : (let s := svc.setMeshQ 63 0 0 [pkt 63]
      s.meshQ 63 0 0 = [pkt 63] ∧ frameStill s 63 = false ∧ (pkt 63).dsts = [.frame 63] ∧ (pkt 63).op = .kadd (256 * 63 + 7) 1 ∧
        (pkt 63).who = .none ∧ (pkt 63).bad = false ∧ s.knot 63 7 + 1 < 2 ^ 32) ∧
    (∀ p ∈ [pkt 63, pkt2], let s := svc.setMeshQ 0 0 0 [p]
      s.meshQ 0 0 0 = [p] ∧ frameStill s 0 = false ∧ (∀ d ∈ p.dsts, d.router ≠ 0) ∧ branchRoom s 0 0 p = true) ∧
    branches 0 pkt2 = [(1, 3), (8, 4)] ∧
    (crowded.meshQ 0 0 0 = [pkt 63] ∧ branchRoom crowded 0 0 (pkt 63) = false) ∧
    frameStill { crowded with freq := some ⟨800, 0, true, false, false⟩ } 0 = true := by decide +kernel

theorem test_mesh_x_first : nextHas (exec (.meshPacket 0 0 0 .ok .ok) (svc.setMeshQ 0 0 0 [pkt 63])) (fun t =>
    (t.meshQ 1 3 0).map (fun p => p.dsts) = [[.frame 63]]) = true := by decide +kernel

theorem test_mesh_edge : nextHas (exec (.meshPacket 0 0 0 .ok .ok) (svc.setMeshQ 0 0 0 [pktOut])) (fun t =>
    (t.meshQ 0 0 0).isEmpty) = true := by decide +kernel


/-! ## The Weft -/

/-- Module 0 of a fabric of 8, with port `p` up. -/
def weft (p : Nat) : State := svc.put (Reg.LNK_PORTp_STAT_STATE p) 2
/-- A flit of port 3 with sequence number 0 and an empty body; `idle` carries no number of its own. -/
def flit0 (idle : Nat) : List Byte :=
  let b := toLE 508 (fieldsOf [(24, idle)])
  b ++ toLE 4 (flitCrc b 0 0 3)

set_option maxRecDepth 100000 in
theorem witness_FlitsInOrder : ((weft 3).port 3).retrain = none ∧ portUp (weft 3) 3 = true ∧ stopped (weft 3) = false ∧
    (∀ i ∈ [0, 1], (flit0 i).length = 512 ∧
      leAt (flit0 i) 508 4 = flitCrc ((flit0 i).take 508) ((weft 3).port 3).rxSeq (weft 3).myId 3 ∧ bit (leAt (flit0 i) 0 4) 24 = decide (i = 1)) ∧
    (∀ c ∈ [(⟨15, true⟩ : Codeword)], c.errs ≤ 15) ∧ (∃ c ∈ [(⟨16, true⟩ : Codeword)], 15 < c.errs) ∧
    (List.replicate 512 (0 : Byte)).length = 512 ∧
    leAt (List.replicate 512 0) 508 4 ≠ flitCrc ((List.replicate 512 0).take 508) ((weft 3).port 3).rxSeq (weft 3).myId 3 ∧
    (let s := atTime 2048 ((weft 3).setPort 3 { PortSt.empty with discard := true })
     (s.port 3).discard = true ∧ (s.port 3).nakT + 2 * 1024 ≤ s.now) := by decide +kernel

/-- `weft p` with the role of a port of the hank. -/
def role1 (p : Nat) : State := (weft p).put (Reg.LNK_PORTp_CFG_ROLE p) 1
/-- What port 3 meets: module `m`, `n` lanes that train. -/
def meets3 (m : Fin 65536) (n : Fin 6) : Peer := ⟨m, 3, [4, 3, 2, 1, 0].take n, n⟩
/-- Port 3 of a module of the hank has been down for 100 ms. -/
def down3 : State := atTime (100 * 1024000) ((role1 3).put (Reg.LNK_PORTp_STAT_STATE 3) 0)
/-- Whether the far end that port 3 meets is the right one. -/
def right3 (y : Peer) : Bool := peerOk ((down3.put (Reg.LNK_PORTp_PEER_MOD 3) y.mod).put (Reg.LNK_PORTp_PEER_PORT 3) y.port) 3 y

theorem witness_PortsChange : (portUp (weft 3) 3 = true ∧
      (let s := atTime 1024000 ((weft 3).setPort 3 { PortSt.empty with replay := [(0, [])] })
       portUp s 3 = true ∧ (s.port 3).replay ≠ [] ∧ (s.port 3).ackT + 1024000 ≤ s.now) ∧ hostOpen (weft 3) 0x601008 = true ∧
      hasPeer (role1 3) 3 = true ∧ hasPeer (weft 3) 3 = false ∧ (role1 3).get (Reg.LNK_PORTp_CTL_DISABLE 3) = 0) ∧
    (∀ p ∈ [(0, 5), (1, 4), (3, 3), (7, 2)], let s := (weft 3).put (Reg.LNK_PORTp_STAT_LANE_BAD 3) p.1
     portUp s 3 = true ∧ bit (s.get (Reg.LNK_PORTp_STAT_LANE_BAD 3)) 4 = false ∧ s.get (Reg.LNK_PORTp_STAT_LANE_BAD 3) < 32 ∧
       (goodLanes s 3).length = p.2 ∧ s.get (Reg.LNK_PORTp_STAT_STATE 3) = 2 ∧ (s.port 3).retrain ≠ some 2) ∧
    ((weft 3).setPort 3 { PortSt.empty with retrain := some 2 }).port 3 = { PortSt.empty with retrain := some 2 } ∧
    (∀ k ∈ [4, 2], (((weft 3).setPort 3 { PortSt.empty with retrain := some k }).port 3).retrain = some k) ∧
    (portUp down3 3 = false ∧ hasPeer down3 3 = true ∧ down3.get (Reg.LNK_PORTp_CTL_DISABLE 3) = 0 ∧ stopped down3 = false ∧
      portsRetry down3 = true ∧ down3.get Reg.STU_PINS_PERST ≠ 1 ∧ (down3.port 3).downT + 100 * 1024000 ≤ down3.now) ∧
    (∀ n ∈ [2, 3, 4, 5], right3 (meets3 4 n) = true ∧ right3 (meets3 5 n) = false ∧
      2 ≤ min ((meets3 4 n).lanes.map (fun i => i.val)).eraseDups.length (meets3 4 n).far) ∧
    min ((meets3 4 1).lanes.map (fun i => i.val)).eraseDups.length (meets3 4 1).far < 2 := by decide +kernel

/-- A record of type `t` from module 1 to `d` that carries `v` and `data`. -/
def rec_ (t d a v : Nat) (data : List Byte) : Record := ⟨t, if data = [] then 0 else data.length - 1, d, 1, a, v, data⟩
/-- `rec_` for module 2, in the shape of its type. -/
def rec2 (t : Nat) : Record :=
  if t = 1 then rec_ 1 2 0 0 [7] else if t = 2 then rec_ 2 2 0 0 [] else if t = 3 then rec_ 3 2 0 0 [7]
  else if t = 6 then rec_ 6 2 0 0 [0, 0, 0, 0] else if t = 9 then rec_ 9 2 0 0 [7] else rec_ t 2 0 1 []
/-- Ports 0 and 1 up. -/
def weft2 : State := (weft 0).put (Reg.LNK_PORTp_STAT_STATE 1) 2

/-- A multicast write of group 5 to the Frames' memory. -/
def mrec : Record := rec_ 8 5 (frameBase + 0x3FFFFFFF) 0 [7]
/-- Group 5 has the ports of `m`, and `l` for LOCAL. -/
def group5 (m l : Nat) : State := (weft2.put (Reg.LNK_MGRPg_PORTS 5) m).put (Reg.LNK_MGRPg_LOCAL 5) l
/-- `mrec` has come over the mesh to the edge of port 1. -/
def atEdge1 : State := (group5 2 0).setMeshQ 8 5 0 [⟨[.weft 1], .send mrec, .weft 0 mrec, 0, false, 0⟩]

theorem witness_RecordsForward : (∀ t ∈ [1, 2, 3, 4, 5, 6, 7, 9], RecordReady weft2 0 t (rec2 t) ∧ (rec2 t).dest ≠ weft2.myId ∧
      inFabric weft2 (rec2 t).dest = true ∧ (forward (rxConsume weft2 0 (rec2 t)) (rec2 t)).isSome = true) ∧
    (inFabric weft2 8 = false ∧ forward ((rxConsume weft2 0 (rec2 1)).put (Reg.LNK_PORTp_STAT_STATE 1) 0) (rec2 1) = none) ∧
    (rec_ 1 2 0 0 []).wfAs 1 = false ∧
    (∀ l ∈ [0, 1], let s := group5 2 l
     RecordReady s 0 8 mrec ∧ edgeRoom s 0 = true ∧ mcastUp s 5 = true ∧ s.get (Reg.LNK_MGRPg_LOCAL 5) = l ∧ mcastPorts s 5 = [1] ∧
       frameBase ≤ mrec.addr ∧ mrec.addr + mrec.data.length ≤ frameBase + 0x40000000) ∧
    (RecordReady (group5 6 0) 0 8 mrec ∧ edgeRoom (group5 6 0) 0 = true ∧ mcastUp (group5 6 0) 5 = false) ∧
    (atEdge1.meshQ 8 5 0 = [⟨[.weft 1], .send mrec, .weft 0 mrec, 0, false, 0⟩] ∧ frameStill atEdge1 8 = false ∧ weftFrame 1 = 8 ∧
      sget [] atEdge1.edgeOut 1 = [] ∧ portFree atEdge1 1 (mcastVc atEdge1 1 mrec.src) = true) := by unfold RecordReady; decide +kernel

/-- A write of the last byte of Frame 63's memory has come over the mesh to it. -/
def arrived : MeshPkt := ⟨[.frame 63], .write (frameBase + 0x3FFFFFFF) [7], .weft 0 (rec_ 1 0 (frameBase + 0x3FFFFFFF) 0 [7]), 0, false, 0⟩

theorem witness_RequestsServed : (let a := frameBase + 0x3FFFFFFF
      RecordReady weft2 0 1 (rec_ 1 0 a 0 [7]) ∧ (rec_ 1 0 a 0 [7]).dest = weft2.myId ∧ frameBase ≤ a ∧ a + 1 ≤ frameBase + 0x40000000 ∧
        a % 256 + 1 ≤ 256 ∧ edgeRoom weft2 0 = true ∧ RecordReady weft2 0 2 (rec_ 2 0 a 0 [])) ∧
    (RecordReady weft2 0 1 (rec_ 1 0 0x0B0000000000 0 [7]) ∧ backed weft2 0x0B0000000000 1 = false) ∧
    (let a := 2 ^ 48 - 1
     RecordReady weft2 0 2 (rec_ 2 0 a 0 []) ∧ hostBase ≤ a ∧ a + 1 ≤ 2 ^ 48) := by unfold RecordReady; decide +kernel

theorem witness_RequestsServed_knots : (∀ k ∈ [16383, 16384], RecordReady weft2 0 7 (rec_ 7 0 k 1 []) ∧ undelivered weft2 1 = false ∧ weft2.knot 63 255 + 1 < 2 ^ 32) ∧
    RecordReady weft2 0 9 (rec_ 9 0 0 0 [7]) ∧
    (let s := weft2.setMeshQ 63 0 0 [arrived]
     s.meshQ 63 0 0 = [arrived] ∧ frameStill s 63 = false ∧ arrived.bad = false ∧ serveRoom s 63 arrived = true) ∧
    (hostOpen weft2 0x600008 = true ∧ weft2.myId = 0) ∧
    (match sendReq weft2 { typ := 7, len1 := 0, dest := 1, src := weft2.myId, addr := 5, val := 1, data := [] } .knot with
      | .sent _ => true | _ => false) = true := by unfold RecordReady; decide +kernel

theorem test_write_lands : nextHas (exec (.meshPacket 63 0 0 .ok .ok) (weft2.setMeshQ 63 0 0 [arrived])) (fun t =>
    sget 0 t.mem (frameBase + 0x3FFFFFFF) = 7) = true := by decide +kernel

/-- A request to module 1 is unanswered at port 0. -/
def asked (t : Nat) (w : Origin) : State :=
  (weft2.setPort 0 { PortSt.empty with reqs := [⟨t, 1, 64, w⟩] }).setSh 2 3
    { ShutSt.empty with word := some wMove, asked := [⟨placeKey (some 1) 64, 1, 0, true⟩], unacked := [⟨placeKey (some 1) 64, 0, 0, true⟩] }

theorem witness_AnswersReturn : (let s := asked 2 (.shuttle 2 3)
      let r := rec_ 3 0 64 0 [7]
      RecordReady s 0 3 r ∧ r.dest = s.myId ∧ (popReq (rxConsume s 0 r) (fun x => x.typ = 2 && x.dest = r.src && x.addr = r.addr)).any
        (fun p => p.1.who = .shuttle 2 3 && (p.2.sh 2 3).asked.any (fun a => a.key = placeKey (some r.src) r.addr && a.len = r.len1 + 1) &&
          p.2.get (Reg.FRM_SQj_STATE_CANCEL_BUSY 2 3) ≠ 1) = true) ∧
    (let s := asked 1 (.shuttle 2 3)
     let r := rec_ 4 0 0 1 []
     RecordReady s 0 4 r ∧ r.val = 1 ∧
       (popReq (rxConsume s 0 r) (fun x => x.dest = r.src && x.typ ≠ 2)).any (fun p => p.1.who = .shuttle 2 3) = true) ∧
    (let s := asked 7 .knot
     let r := rec_ 5 0 64 4 []
     RecordReady s 0 5 r ∧ s.get Reg.LNK_ERRLOG_VALID = 0 ∧
       (popReq (rxConsume s 0 r) (fun x => x.dest = r.src && x.addr = r.addr)).any (fun p => p.1.who = .knot) = true) := by
  unfold RecordReady; decide +kernel

/-! ## The Ply units, the step and Glazes -/

/-- A shard of 32 elements that module 0 owns, with contributions of modules 1 and 0. -/
def shard1 : Shard := ⟨3, 0, 1, 32, [(1, 0), (0, 32)], 0, 0, 0, 0x0A0000010000, 0x0A0000020000, 0, 0⟩
/-- A piece of rank 0 of line 0 for attempt `a` of step 0. -/
def acc1 (a : Nat) : Record := rec_ 6 0 3 (a * 2 ^ 28) (List.replicate 128 0)
def plied : State := { weft2 with shards := [shard1] }

theorem witness_PiecesAreAdded : (RecordReady plied 0 6 (acc1 2) ∧ (acc1 2).dest = plied.myId ∧ shardOf plied (accShard (acc1 2)) = some shard1 ∧
      accBad plied (acc1 2) = false ∧ (acc1 2).data.length ≤ 128 ∧ plied.withheld = [] ∧
      ((firstPiece (acc1 2)).step, (firstPiece (acc1 2)).att) ≠ curAtt plied ∧ ((firstPiece (acc1 2)).step, (firstPiece (acc1 2)).att) ≠ nextAtt plied) ∧
    (let r := acc1 0
     let x := firstPiece r
     let u := openReq plied 0 r 1
     let h := devRead u (shard1.lbase + 8 * x.line) 8
     RecordReady plied 0 6 r ∧ accBad plied r = false ∧ (x.step, x.att) = curAtt plied ∧ h.err = none ∧ hdrOf (ofLE h.data) = ⟨x.step, x.att, x.rank⟩ ∧
       (devRead h.st (shard1.abase + 256 * x.line) 256).err = none ∧ x.rank + 1 < shard1.ranks.length ∧
       ∀ y ∈ plied.held, y.shard ≠ x.shard ∨ y.line ≠ x.line) := by unfold RecordReady; decide +kernel

/-- `run` in state `st` of its step. -/
def stepping (st : Nat) : State := run.put Reg.PLY_STEP_STATE st
/-- Step Knot `i` of `s` at `v`. -/
def knotted (s : State) (i v : Nat) : State := setStepCount s i v
/-- `run`'s job in the last of its two steps. -/
def lastStep : State := knotted ((stepping 2).put Reg.PLY_STEP_STEP 1) 5 1

theorem witness_StepsCommit : ((stepping 1).get Reg.PLY_STEP_STATE = 1 ∧ (stepping 1).get Reg.PLY_ATHR_COUNT ≤ stepCount (stepping 1) 0 ∧
      rootId (stepping 1) = (stepping 1).myId ∧ stepCount (stepping 1) 2 < 2 ^ 32 - 1 ∧
      (let s := atTime (600000000 * 1024) (stepping 1)
       s.stepSt.runT + min 600000000 (max 1000 (s.get Reg.PLY_STEPCFG_DEADLINE)) * 1024 ≤ s.now)) ∧
    (∀ st ∈ [1, 2], let s := knotted (stepping st) 5 1
      s.stepSt.ccom < stepCount s 5 ∧ s.job.loaded = true ∧ s.get Reg.PLY_STEP_STATE = st) ∧
    (lastStep.stepSt.ccom < stepCount lastStep 5 ∧ lastStep.get Reg.PLY_STEP_STATE = 2 ∧
      lastStep.get Reg.PLY_STEP_STEP = (lastStep.job.first + lastStep.job.nstep - 1) % 2 ^ 32) := by decide +kernel

theorem witness_StepsReplay : (∀ st ∈ [1, 3], let s := (knotted (stepping st) 6 1).put Reg.PLY_STEPCFG_MAXREPLAY 1
      s.stepSt.crep < stepCount s 6 ∧ s.job.loaded = true ∧ s.get Reg.PLY_STEP_STATE = st ∧ s.get Reg.PLY_STEP_ATTEMPT < s.get Reg.PLY_STEPCFG_MAXREPLAY) ∧
    (let s := (knotted (stepping 3) 6 1).put Reg.PLY_STEPCFG_MAXREPLAY 0
     s.stepSt.crep < stepCount s 6 ∧ s.get Reg.PLY_STEPCFG_MAXREPLAY ≤ s.get Reg.PLY_STEP_ATTEMPT) ∧
    ((stepping 4).get Reg.PLY_STEP_STATE = 4 ∧ (stepping 4).aborts = [] ∧ (stepping 4).glazeReq = none) ∧
    (let s := knotted (stepping 5) 7 1
     s.stepSt.cres < stepCount s 7 ∧ s.job.loaded = true ∧ s.get Reg.PLY_STEP_STATE = 5 ∧ s.withheld = [] ∧
       (∀ sh ∈ s.shards, (rankOf sh s.myId).all (fun p => p.2 ≠ 0) = true) ∧ s.cTask 0 0 ≠ 0) := by decide +kernel

/-- The job of `run` when the root has sent `crepT`. -/
def rooted (st : Nat) (dec : Bool) (t : Option Nat) : State :=
  { stepping st with job := { run.job with ranks := [0] }, stepSt := { (stepping st).stepSt with decided := dec, crepT := t } }

theorem witness_RootDecides : (let s := knotted (rooted 2 false none) 2 1
      isRoot s = true ∧ s.stepSt.decided = false ∧ s.job.nmod ≤ stepCount s 2 ∧ s.job.ranks.count s.myId = 1 ∧ stepCount s 5 < 2 ^ 32 - 1) ∧
    (let s := knotted (rooted 3 false none) 3 1
     isRoot s = true ∧ s.get Reg.PLY_STEP_STATE ≤ 3 ∧ stepCount s 2 < s.job.nmod ∧ stepCount s 3 ≠ 0) ∧
    (let s := atTime (600000000 * 1024 + 1024000) (rooted 1 false none)
     isRoot s = true ∧ s.stepSt.runT + min 600000000 (max 1000 (s.get Reg.PLY_STEPCFG_DEADLINE)) * 1024 + 1024000 ≤ s.now) ∧
    (let s := knotted (rooted 5 true (some 0)) 4 1
     isRoot s = true ∧ s.stepSt.crepT.isSome = true ∧ s.job.nmod ≤ stepCount s 4 ∧ stepCount s 7 + s.job.ranks.length < 2 ^ 32) ∧
    (let s := atTime (100 * 1024000) (rooted 5 true (some 0))
     isRoot s = true ∧ s.stepSt.crepT = some 0 ∧ stepCount s 4 < s.job.nmod ∧ 0 + 100 * 1024000 ≤ s.now) ∧
    (let s := atTime (200 * 1024000) (stepping 5)
     s.job.loaded = true ∧ rootSilent s = true ∧ rootQuiet s = true) := by decide +kernel

/-- A job with one Glaze whose request Knot 9 has reached 1, and the request word `w` at 64. -/
def glazed (w : Nat) : State :=
  let s := (run.put (Reg.FRM_KNOTk_VALUE 0 9) 1).put Reg.PLY_STEP_STATE 1
  ({ s with job := { s.job with glazes := [[]], reqK := 9, ackK := 10, reqA := 64 } }).setBytes (fmAddr 0 64) (toLE 8 w)

theorem witness_GlazesSwitch : (∀ w ∈ [2 ^ 32, 2 * 2 ^ 32], let s := glazed w
      freqStopped s = false ∧ s.job.loaded = true ∧ s.job.nextG = 1 ∧ s.glazeReq = none ∧ s.get Reg.PLY_STEP_STATE = 1 ∧
        s.job.nextG ≤ s.knot (s.job.reqK / 256) (s.job.reqK % 256) ∧ requestWord s = w ∧ w % 2 ^ 32 < s.job.glazes.length ∧ w % 2 ^ 32 < 32) ∧
    (let s : State := { glazed (2 ^ 32) with glazeReq := some (0, 2 ^ 32) }
     s.glazeReq = some (0, 2 ^ 32) ∧ ringsEmpty s = true ∧ freqStopped s = false ∧ flexDown s = none ∧
       s.knot (s.job.ackK / 256) (s.job.ackK % 256) < 2 ^ 32 - 1) := by decide +kernel

/-! ## Power -/

/-- A measurement of equal Frames at `tj` °C. -/
def meas (tj : Nat) : Meas := ⟨700, 600, 700, 600, List.replicate 64 9, List.replicate 64 tj⟩
/-- Cooling class A. -/
def cooled : State := sampleClass svc 6

theorem witness_PowerIsGoverned : hostOpen cooled 0x400000 = true ∧ hostOpen cooled 0x400004 = true ∧ powered cooled = true ∧ samples cooled = true ∧
    cooled.get Reg.STU_PINS_PGOOD ≠ 0 ∧ hasClass svc = false ∧ (∀ tj ∈ [0, 99, 100, 105, 255], (meas tj).wf = true) ∧ hasClass cooled = true ∧
    (atTime 102400 cooled).gov.govK < (atTime 102400 cooled).now / 102400 ∧
    (let s : State := { atTime 102400 cooled with gov := { cooled.gov with edges := [(0, 1)] } }
     stretched s = true) ∧
    (let s := atTime 10240 cooled
     s.gov.fastK < s.now / 10240 ∧ effCap s < 65535 ∧ 100 * 0 < 97 * effCap s) ∧
    (let s : State := { atTime 1024000 cooled with gov := { cooled.gov with badWin := 9 } }
     s.gov.winK < s.now / 1024000 ∧ 15 * 100 < 100 * ((0 : Int) - 100).natAbs ∧ ¬ 15 * 100 < 100 * ((115 : Int) - 100).natAbs ∧
       s.gov.badWin = 9 ∧ s.get Reg.PWR_STAT_MODEL_MISMATCH = 0 ∧ s.gov.coolK < s.now / 1024000 ∧ (5#3).toNat ≠ s.get Reg.PWR_CLASS_COOL_ID) := by
  decide +kernel

theorem test_hold_rises : nextHas (exec (.fastLimiter 4801 0) (atTime 10240 cooled)) (fun t => t.get Reg.PWR_HOLD_HOLD = 2) = true := by decide +kernel
theorem test_hold_stays : nextHas (exec (.fastLimiter 4800 0) (atTime 10240 (cooled.put Reg.PWR_HOLD_HOLD 3))) (fun t =>
    t.get Reg.PWR_HOLD_HOLD = 3) = true := by decide +kernel
theorem test_cap_floor : nextHas (exec (.pwrCapUserWrite 799) cooled) (fun t => t.get Reg.PWR_CAP_USER_CAP_W = 800) = true := by decide +kernel


/-! ## Host rings -/

/-- Ring 63 with 16 entries and state `r`. -/
def ringed (r : HostRing) : State := (svc.put (Reg.HIF_RINGn_CFG_EN 63) 1).setRing 63 r
/-- The same with one waiting command of bytes `b` and count 0. -/
def cmd (b : List Nat) : HostCmd := ⟨0, (b ++ List.replicate (64 - b.length) 0).map (BitVec.ofNat 8), false, 0, none, none⟩
def host (c : HostCmd) : State := ringed { HostRing.empty with tail := 1, head := 1, used := 1, cmds := [c] }

theorem witness_RingsKeepCounts : (let s := ringed HostRing.empty
      hostOpen s (0x2000000 + 0x1000 * 63) = true ∧ ringOn s 63 = true ∧ (s.ring 63).stopped = false ∧ ringSize s 63 = 16 ∧
        hostOpen s (0x2000008 + 0x1000 * 63) = true) ∧
    (let s := ringed { HostRing.empty with tail := 2 ^ 32 + 16, head := 2 ^ 32, fetchT := some 0 }
     (s.ring 63).fetchT.isSome = true ∧ fetchable s 63 = 16) ∧
    (let s := atTime (50 * 1024000) (ringed { HostRing.empty with tail := 1, fetchT := some 0 })
     (s.ring 63).fetchT = some 0 ∧ 0 + 50 * 1024000 ≤ s.now) ∧
    (hostOpen svc (0x1010 + 0x40 * 63) = true ∧ ringLocked svc 63 = false) ∧
    (let s := atTime 1024 ((ringed { HostRing.empty with times := [0] }).put (Reg.HIF_RINGn_IRQ_TIME 63) 1)
     (s.ring 63).times = [0] ∧ s.get (Reg.HIF_RINGn_IRQ_TIME 63) ≠ 0 ∧ 0 + s.get (Reg.HIF_RINGn_IRQ_TIME 63) * 1024 ≤ s.now) := by decide +kernel

theorem test_tail_wraps : nextHas (exec (.sqTail 63 15#32) (ringed { HostRing.empty with tail := 2 ^ 32 - 1, head := 2 ^ 32 - 1 })) (fun t =>
    (t.ring 63).tail = 2 ^ 32 + 15) = true := by decide +kernel
theorem test_tail_beyond : nextHas (exec (.sqTail 63 16#32) (ringed { HostRing.empty with tail := 2 ^ 32 - 1, head := 2 ^ 32 - 1 })) (fun t =>
    (t.ring 63).stopped && t.get (Reg.HIF_RINGn_STAT_ERR 63) = 1) = true := by decide +kernel

/-- A COPY of 8 bytes from host address 4096 to Frame memory. -/
def copyCmd : HostCmd := cmd ([2, 0, 0, 0, 0, 0, 0, 0, 0, 16, 0, 0, 0, 128, 0, 0, 0, 0, 0, 0, 0, 10, 0, 0, 8])
def started (c : HostCmd) : HostCmd := { c with start := true }
def ended (c : HostCmd) (st d : Nat) : HostCmd := { c with start := true, result := some (st, d) }

theorem witness_HostCommandsRun : CmdReady (host (cmd [1])) 63 0 (cmd [1]) 1 0 ∧
    (let c := cmd [3, 0, 0, 0, 0, 0, 0, 0, 0xFF, 0x3F, 0, 0, 1]
     CmdReady (host c) 63 0 c 3 0 ∧ stopped (host c) = false ∧ leAt c.bytes 8 2 = 16383 ∧ (host c).knot 63 255 + leAt c.bytes 0xC 4 < 2 ^ 32) ∧
    (CmdReady (host (cmd [4])) 63 0 (cmd [4]) 4 0 ∧ (host (cmd [4])).flush = none) ∧
    (CmdReady (host copyCmd) 63 0 copyCmd 2 0 ∧ copyCmd.moved < cpLen copyCmd ∧ cpLen copyCmd = 8 ∧ hostBase ≤ cpSrc copyCmd ∧
      cpSrc copyCmd + cpLen copyCmd ≤ 2 ^ 48 ∧ frameBase ≤ cpDst copyCmd ∧ cpDst copyCmd + cpLen copyCmd ≤ frameBase + 0x40000000 ∧ freqStopped (host copyCmd) = false) ∧
    (let c := { started copyCmd with moved := 7 }
     cmdOf (host c) 63 0 = some c ∧ leAt c.bytes 0 1 = 2 ∧ c.result = none ∧ c.moved < cpLen c ∧ cpSrc c < 2 ^ 48) ∧
    (∀ fl ∈ [0, 2], ∀ st ∈ [0, 2], let c := ended (cmd [1, fl]) st 0
      cmdOf (host c) 63 0 = some c ∧ c.result = some (st, 0) ∧ mayComplete (host c) c = true ∧ bit (leAt c.bytes 1 1) 1 = decide (fl = 2)) ∧
    (let c := { started copyCmd with readT := some 0 }
     let s := atTime (8 * 1024000) (host c)
     cmdOf s 63 0 = some c ∧ leAt c.bytes 0 1 = 2 ∧ c.result = none ∧ c.readT = some 0 ∧ 0 + 8 * 1024000 ≤ s.now) ∧
    (let r := rec_ 2 0 hostBase 0 []
     let s := atTime (8 * 1024000) (weft2.setPort 0 { PortSt.empty with inb := [⟨r, none, 1, [], none, 0⟩] })
     r.wfAs 2 = true ∧ 0 + 8 * 1024000 ≤ s.now ∧
       (s.port 0).inb.find? (fun x => x.req = r && x.ans.isNone && regionOf s r.addr = .host) = some ⟨r, none, 1, [], none, 0⟩) ∧
    (let s := (atTime (8 * 1024000) (moving wMove { ShutSt.empty with act := some (item wMove), reqT := some 0 })).put (Reg.FRM_SEGs_BASE_BASE 0 1) hostBase
     (s.sh 0 0).word = some wMove ∧ (s.sh 0 0).act = some (item wMove) ∧ (s.sh 0 0).reqT = some 0 ∧ 0 + 8 * 1024000 ≤ s.now ∧
       hostItem s 0 wMove (item wMove) = true) := by
  unfold CmdReady
  refine ⟨?_, ?_, ?_, ?_, ?_, ?_, ?_, ?_, ?_⟩ <;> decide +kernel

theorem test_completion_phase : nextHas (exec (.hostCommandComplete 63 0) (host (ended (cmd [1]) 0 0))) (fun t =>
    sget 0 t.mem (hostBase + 10) = 1 && (t.ring 63).written = 1) = true := by decide +kernel


/-! ## Registers, resets, attestation -/

/-- An offset where a register of 32 bits stands whose write has no further effect, one where the register is not 64 bits wide, and one with no register. -/
theorem witness_RegisterWrites : ((0x12345678 : Nat) < 2 ^ 32 ∧ agentOpen svc .host 0x300008 = true ∧ 0x300008 < 0x2000000 ∧
      (findReg 0x300008).isSome = true ∧
      (findReg 0x300008).all (fun d => d.1.width = 32 && d.1.base ∉ [0x8, 0x1000, 0x1008, 0x1010, 0x10000C, 0x200000, 0x203004, 0x20300C, 0x204000,
        0x205004, 0x300004, 0x30000C, 0x400004, 0x40000C, 0x400020, 0x400028, 0x500004, 0x500100, 0x501000, 0x503104, 0x600000, 0x600008, 0x601004,
        0x601008, 0x602000, 0x700008, 0x700010, 0x700014, 0x1008804, 0x100C700, 0x100A104]) = true ∧ svc.sealed = false) ∧
    (findReg 0x4).all (fun d => d.1.width ≠ 64) = true ∧ (findReg 0x4).isSome = true ∧ findReg 0x1FFFFF8 = none ∧
    (agentOpen svc .studio 0x100A104 = true ∧ (findReg 0x100A104).isSome = true ∧ frameStill svc 0 = false ∧ svc.ctlIn = [] ∧
      frameStill { svc with freq := some ⟨800, 0, true, false, false⟩ } 0 = true) := by decide +kernel

theorem witness_HostAccesses : agentOpen svc .studio 0x204000 = true ∧ hostOpen svc 0x205000 = true ∧ hostOpen svc 4 = true ∧
    (let s := svc.put Reg.STU_FW_CTL_STAGED 2
     hostOpen s 0x10000C = true ∧ s.get Reg.STU_FW_CTL_STAGED = 2) ∧
    hostOpen svc 0 = true ∧ svc.job.loaded = false ∧ ({ svc with fit2T := false } : State).fit2T = false ∧
    (let s : State := { svc.put Reg.STU_BOOT_STAT_PHASE 7 with bar2Size := 2 ^ 30 }
     bar2Open s (2 ^ 30 - 1) 1 = true ∧ s.get Reg.HIF_BAR2_BASE_BASE + (2 ^ 30 - 1) + 1 ≤ lpddrSize s ∧ s.bad = [] ∧
       (gransOf (s.get Reg.HIF_BAR2_BASE_BASE + (2 ^ 30 - 1)) 1).all (fun g => !chanPaused s g && !chanFull s g) = true) := by decide +kernel

theorem witness_ResetsAndPins : (State.reset.standby = false ∧ svc.standby = true ∧ svc.get Reg.STU_PINS_PERST = 0) ∧
    (let s := svc.put Reg.STU_PINS_PERST 1
     s.standby = true ∧ s.get Reg.STU_PINS_PERST = 1 ∧ s.pwrStage ≠ 4 ∧ s.log.length + (s.errArea.map (fun e => e.1.length)).sum < 4096 ∧
     ({ s with stopHeld := true }.put Reg.STU_PINS_PGOOD 0).stopHeld = true ∧
     ({ s with stopHeld := true }.put Reg.STU_PINS_PGOOD 0).get Reg.STU_PINS_PGOOD = 0 ∧ ({ s with pwrStage := 4 } : State).pwrStage = 4) ∧
    (svc.get Reg.STU_PINS_PWREN = 0 ∧ (svc.put Reg.STU_PINS_PWREN 1).get Reg.STU_PINS_PWREN = 1) ∧
    (∀ k ∈ [1, 2], ({ svc with pwrStage := k } : State).pwrStage = k) ∧ hostOpen svc 0 = true := by decide +kernel

theorem test_pwr_en : nextHas (exec .pwrEnAssert svc) (fun t => t.pwrStage = 1 && t.get Reg.STU_PINS_PWREN = 1) = true := by decide +kernel

/-- `svc` with both transports at stage `k`, phase 1 ended and one measurement. -/
def spdm (k : Nat) : State :=
  { svc with spdmVdm := ⟨k, none⟩, spdmBus := ⟨k, none⟩, boot := { svc.boot with done1 := true, meas := [[1]] },
             flash := { svc.flash with certs := [7] } }

theorem witness_SpdmResponder : (∀ tr ∈ [Transport.pcieVdm, .smbus], spdmHears svc tr = true ∧ svc.boot.done1 = false ∧
      ∀ k ∈ [1, 2, 3], spdmHears (spdm k) tr = true ∧ (spdm k).boot.done1 = true ∧ (spdmConn (spdm k) tr).stage = k) ∧
    0 < (certChain (spdm 3)).length ∧ (spdm 3).boot.meas.length = 1 := by
  refine ⟨by decide +kernel, ?_, rfl⟩
  simp [certChain, spdm]

theorem test_spdm_order : nextHas (exec (.getDigests .smbus) (spdm 2)) (fun t => (spdmConn t .smbus).reply = some .unexpected) = true := by
  decide +kernel

/-! ## Boot and trust

The key pair of the images is the curve's base point with the private key 1, and every body is empty; the digests and signatures were computed outside
the model, from FIPS 180 and FIPS 186. -/

/-- The base point, as KEY has it. -/
def pubKey : List Byte := toBE 48 p384Gx ++ toBE 48 p384Gy

/-- A signed header with an empty body: type, key slot, lowest version it allows of type 1, the signature. -/
def signedImage (typ key lo r s : Nat) : Image :=
  ⟨toLE 4 0x4D493744 ++ toLE 4 (typ + 256 * key + 0x1000000) ++ toLE 4 1 ++ toLE 4 1 ++ toLE 8 0 ++
    toBE 48 0x38b060a751ac96384cd9327eb1b1e36a21fdb71114be07434c0cc7bf63f6e1da274edebfe76f65fbd51ad2f14898b95b ++
    (List.range 8).flatMap (fun j => toLE 4 (if j = 1 then lo else 0) ++ toLE 4 0xFFFFFFFF) ++ pubKey ++ toLE 24 0 ++ toBE 48 r ++ toBE 48 s, []⟩

/-- Fuses with the hash of that key in slots 0 to 2. -/
def fz : Fuses :=
  let h : List Byte := toBE 48 0xa19d4db171b582eb8052b0cfe555e17894aa22d1c8a9770950697dd8f796d2fa4bf0a56ad80006b7ea08e1191f814b65
  { Fuses.fitted with hash := [h, h, h, List.replicate 48 0] }

def im1 : Image := signedImage 1 0 0
  0x77a41d4606ffa1464793c7e5fdc7d98cb9d3910202dcd06bea4f240d3566da6b408bbae5026580d02d7e5c70500c831
  0x1624680dab44d5b16c1b1b9a51a8548c3585bc75dc606c423c695f23ca9320fc55b2e559d2416055cc3072874d9582b8
def im2 : Image := signedImage 2 0 0
  0x138251cd52ac9298c1c8aad977321deb97e709bd0b4ca0aca55dc8ad51dcfc9d1589a1597e3a5120e1efd631c63e1835
  0x3237a71f4a50767cc3d6f0a3128c76ef8f02516fc8dce2f5af10317dde723f03d0f42111e3a9544ae9c86b4f513650e4
def im3 : Image := signedImage 3 0 0
  0x11de24a2c251c777573cac5ea025e467f208e51dbff98fc54f6661cbe56583b037882f4a1ca297e60abcdbc3836d84bc
  0x71c0d92a0119c6ca7255d9290650e46c6c0c7b8494ffb111e3db25593ee1af9c4f829f71b3270bb2616bebe2f79d1756
def im4 : Image := signedImage 4 0 0
  0x627be1acd064d2b2226fe0d26f2d15d3c33ebcbb7f0f5da51cbd41f26257383021317d7202ff30e50937f0854e35c5df
  0x347227a82b7a183ea3168194a43a369b244c11a9e30c72a3d2e4babaae09119020eb71549bb55df95a3876663837f821
def im5 : Image := signedImage 5 0 0
  0x283c1d7365ce4788f29f8ebf234edffead6fe997fbea5ffa2d58cc9dfa7b1c508b05526f55b9ebb2040f05b48fb6d0e1
  0x642688a70962cea549cdf2e066d08b5d3c942b838f021be7a1ad76e143284e8d5265e169549d92dcaf722a40c443e194
def im6 : Image := signedImage 6 1 0
  0x1692778ea596e0be75114297a6fa383445bf227fbe58190a900c3c73256f11fb5a3258d6f403d5ece6e9b269d822c87d
  0xcf9ed142013ab1f7a67a53f23553fad8d2d192c307d8fffb1383c0eeabbb24c65420faecb01612ce2d3725eb152db224
def im7 : Image := signedImage 7 2 0
  0x8f0a39a4049bcb3ef1bf29b8b025b78f2216f7291e6fd3bac6cb1ee285fb6e21c388528bfee2b9535c55e4461079118b
  0x39a776de63443bf0dc50f3a04a9117f695ff542ff170f8af3db2f7ea431ed341b5bf50d8645c5dc58d6b789182ee323
/-- An image of type 3 that allows no version 1 of type 1. -/
def im3b : Image := signedImage 3 0 2
  0x99056e27da7b998da1eeec2904816c57fe935ed5837c37456c9fd14892d3f8c4749b66e3afb81d626356f3b55b4ddd8
  0x872a4efea06bc049fda94a21305f27fdb392ba508f9f7ce308e4367b0cef06e157eedf7fa03d5fe51e3271fa5cea9ec5

theorem test_image1_verifies : imageFault fz im1 1 = none := by decide +kernel
theorem test_image2_verifies : imageFault fz im2 2 = none := by decide +kernel
theorem test_image3_verifies : imageFault fz im3 3 = none := by decide +kernel
theorem test_image4_verifies : imageFault fz im4 4 = none := by decide +kernel
theorem test_image5_verifies : imageFault fz im5 5 = none := by decide +kernel
theorem test_image6_verifies : imageFault fz im6 6 = none := by decide +kernel
theorem test_image7_verifies : imageFault fz im7 7 = none := by decide +kernel
theorem test_image3b_verifies : imageFault fz im3b 3 = none := by decide +kernel
theorem test_image_of_wrong_type : imageFault fz im1 2 = some 1 := by decide +kernel
/-- Seven images that verify, and the same with the other image of type 3. -/
def goodSlot : Slot := ⟨true, [(1, im1), (2, im2), (3, im3), (4, im4), (5, im5), (6, im6), (7, im7)]⟩
def pairSlot : Slot := ⟨true, [(1, im1), (2, im2), (3, im3b), (4, im4), (5, im5), (6, im6), (7, im7)]⟩

theorem goodSlot_ok : slotOk fz goodSlot = true := by
  have h : List.range 7 = [0, 1, 2, 3, 4, 5, 6] := rfl
  simp only [slotOk, h, List.all_cons, List.all_nil]
  simp only [show goodSlot.dir = true from rfl, show goodSlot.img (0 + 1) = im1 from rfl, show goodSlot.img (1 + 1) = im2 from rfl,
    show goodSlot.img (2 + 1) = im3 from rfl, show goodSlot.img (3 + 1) = im4 from rfl, show goodSlot.img (4 + 1) = im5 from rfl,
    show goodSlot.img (5 + 1) = im6 from rfl, show goodSlot.img (6 + 1) = im7 from rfl]
  rw [test_image1_verifies, test_image2_verifies, test_image3_verifies, test_image4_verifies, test_image5_verifies, test_image6_verifies,
    test_image7_verifies]
  rfl

theorem pairSlot_ok : slotOk fz pairSlot = true := by
  have h : List.range 7 = [0, 1, 2, 3, 4, 5, 6] := rfl
  simp only [slotOk, h, List.all_cons, List.all_nil]
  simp only [show pairSlot.dir = true from rfl, show pairSlot.img (0 + 1) = im1 from rfl, show pairSlot.img (1 + 1) = im2 from rfl,
    show pairSlot.img (2 + 1) = im3b from rfl, show pairSlot.img (3 + 1) = im4 from rfl, show pairSlot.img (4 + 1) = im5 from rfl,
    show pairSlot.img (5 + 1) = im6 from rfl, show pairSlot.img (6 + 1) = im7 from rfl]
  rw [test_image1_verifies, test_image2_verifies, test_image3b_verifies, test_image4_verifies, test_image5_verifies, test_image6_verifies,
    test_image7_verifies]
  rfl

/-- An image whose range for the ROM is full allows every ROM. -/
theorem romTested (x : Slot) (i : Nat) (h : ((x.img i).u 0x48 4, (x.img i).u 0x4C 4) = (0, 2 ^ 32 - 1)) : tested x i 0 = true := by
  have hv := Config.romVersion.isLt
  simp only [Prod.mk.injEq] at h
  simp [tested, compat, versionOf, h.1, h.2]
  omega

theorem goodSlot_tested : untested goodSlot = none := by
  have h0 : ∀ i ∈ [1, 2, 3, 4, 5, 6, 7], ((goodSlot.img i).u 0x48 4, (goodSlot.img i).u 0x4C 4) = (0, 2 ^ 32 - 1) := by decide +kernel
  have h1 : ∀ i ∈ [1, 2, 3, 4, 5, 6, 7], ∀ j ∈ [1, 2, 3, 4, 5, 6, 7], tested goodSlot i j = true := by decide +kernel
  simp only [untested, List.find?_eq_none, List.mem_flatMap, List.mem_map, List.mem_range]
  rintro ⟨i, j⟩ ⟨a, ha, b, hb, he⟩
  obtain ⟨rfl, rfl⟩ := Prod.mk.inj he
  have hi : a + 1 ∈ [1, 2, 3, 4, 5, 6, 7] := by simp only [List.mem_cons, List.not_mem_nil]; omega
  by_cases hj : b = 0
  · subst hj; simp [romTested _ _ (h0 _ hi)]
  · have hj' : b ∈ [1, 2, 3, 4, 5, 6, 7] := by simp only [List.mem_cons, List.not_mem_nil]; omega
    simp [h1 _ hi _ hj']

theorem pairSlot_untested : untested pairSlot = some (1, 3) := by
  have h0 : tested pairSlot 1 0 = true := romTested _ _ (by decide +kernel)
  have h2 : tested pairSlot 1 2 = true := by decide +kernel
  have h3 : tested pairSlot 1 3 = false := by decide +kernel
  have hl : (List.range 7).flatMap (fun i => (List.range 8).map (fun j => (i + 1, j))) =
    (1, 0) :: (1, 1) :: (1, 2) :: (1, 3) :: ((List.range 7).flatMap (fun i => (List.range 8).map (fun j => (i + 1, j)))).drop 4 := by decide +kernel
  rw [untested, hl, List.find?_cons_of_neg (by simp [h0]), List.find?_cons_of_neg (by simp), List.find?_cons_of_neg (by simp [h2]),
    List.find?_cons_of_pos (by simp [h3])]

/-- Phase `p` of a boot with the slots `a` (and none in B), the power good. -/
def booting (p : Nat) (a : Slot) : State :=
  { (((svc.put Reg.PWR_CLASS_CLASS 0).put Reg.STU_BOOT_STAT_MODE 0).put Reg.STU_BOOT_STAT_PHASE p).put Reg.HIF_LINK_GEN 0 with
      fuses := fz, flash := { svc.flash with a := a, b := Slot.empty, pref := 0, pend := none } }

theorem goodBoot_choose : chooseSlot (booting 1 goodSlot) = some 0 := by
  have h : slotOk (booting 1 goodSlot).fuses ((booting 1 goodSlot).flash.slot 0) = true := goodSlot_ok
  simp only [chooseSlot, show (booting 1 goodSlot).flash.pend.getD (booting 1 goodSlot).flash.pref = 0 from rfl, h, if_pos]
theorem pairBoot_choose : chooseSlot (booting 1 pairSlot) = some 0 := by
  have h : slotOk (booting 1 pairSlot).fuses ((booting 1 pairSlot).flash.slot 0) = true := pairSlot_ok
  simp only [chooseSlot, show (booting 1 pairSlot).flash.pend.getD (booting 1 pairSlot).flash.pref = 0 from rfl, h, if_pos]

/-- The fields' bytes of a factory part of a 2 TiB module of class 0 with the factory channel map, and of a deployment part of module 0 of a torus of
8 modules. -/
def factoryFields : List Byte :=
  ([1, 0, 0] ++ List.replicate 13 0 ++ (List.range 128).map (fun c => 17 * (c / 16) + c % 16) ++ (List.range 8).map (fun m => 17 * m + 16)).flatMap (toLE 4)
def deployFields : List Byte := [0, 0, 0, 0, 0, 16, 0, 1, 1, 1].flatMap (toLE 4)

/-- Phase 6 with the bodies that spell those fields, whatever the layout is. -/
def applying (d6 d7 : List Byte) : State :=
  booting 6 ⟨true, [(6, ⟨[], (layoutOf 6).body d6⟩), (7, ⟨[], (layoutOf 7).body d7⟩)]⟩

theorem part6 (d6 d7 : List Byte) (i : Nat) : part (applying d6 d7) 6 i = leAt d6 (4 * i) 4 := by
  show leAt ((layoutOf 6).fields ((layoutOf 6).body d6)) (4 * i) 4 = _
  rw [(layoutOf 6).fields_body]
theorem part7 (d6 d7 : List Byte) (i : Nat) : part (applying d6 d7) 7 i = leAt d7 (4 * i) 4 := by
  show leAt ((layoutOf 7).fields ((layoutOf 7).body d7)) (4 * i) 4 = _
  rw [(layoutOf 7).fields_body]

/-- No bypass word is listed in a body of 608 bytes. -/
theorem bypass_ok (d : List Byte) (h : d.length = 608) : (List.range 576).all (fun k => leAt d (4 * (0x100 + 5 * k + 4)) 4 < 16) = true := by
  simp only [List.all_eq_true, decide_eq_true_eq]
  intro k _
  rw [leAt, List.drop_eq_nil_of_le (by omega)]
  decide

theorem applying_ok : partsOk (applying factoryFields deployFields) = true := by
  simp only [partsOk, part6, part7, bypass_ok factoryFields (by decide +kernel)]; decide +kernel

theorem applying_maps : mapOk16 (applying factoryFields deployFields) = true := by
  have h : bootMap (applying factoryFields deployFields) = fun c => leAt factoryFields (4 * (0x10 + c)) 4 := by
    funext c; simp only [bootMap, show (applying factoryFields deployFields).boot.chans = [] from rfl, List.contains_nil, Bool.false_and]
    exact part6 _ _ _
  simp only [mapOk16, h, spareOf, part6]; decide +kernel

/-- The clauses of APPLY: parts in order, a part of another class (2), and a part with a field out of range. -/
theorem witness_BootPhases_apply : (let s := applying factoryFields deployFields;
      inPhase s 6 = true ∧ partsOk s = true ∧ part s 6 2 = s.get Reg.PWR_CLASS_CLASS ∧ part s 6 0 = b2n s.fit2T ∧ mapOk16 s = true) ∧
    (let s := applying (factoryFields.set 8 2) deployFields;
      inPhase s 6 = true ∧ partsOk s = true ∧ part s 6 2 ≠ s.get Reg.PWR_CLASS_CLASS) ∧
    (let s := applying (factoryFields.set 8 3) deployFields;
      inPhase s 6 = true ∧ partsOk s = false) := by
  refine ⟨⟨by decide +kernel, applying_ok, ?_, ?_, applying_maps⟩, ⟨by decide +kernel, ?_, ?_⟩, by decide +kernel, ?_⟩
  · simp only [part6]; decide +kernel
  · simp only [part6]; decide +kernel
  · simp only [partsOk, part6, part7, bypass_ok (factoryFields.set 8 2) (by decide +kernel)]; decide +kernel
  · simp only [part6]; decide +kernel
  · simp only [partsOk, part6, part7]; decide +kernel

theorem witness_BootPhases : (inPhase (booting 1 goodSlot) 1 = true ∧ (booting 1 goodSlot).flash.pend = none ∧
      chooseSlot (booting 1 goodSlot) = some 0 ∧ untested ((booting 1 goodSlot).flash.slot 0) = none) ∧
    (chooseSlot (booting 1 pairSlot) = some 0 ∧ untested ((booting 1 pairSlot).flash.slot 0) = some (1, 3) ∧ overridden (booting 1 pairSlot) = false ∧
      inPhase (booting 1 pairSlot) 1 = true) ∧
    (chooseSlot (booting 1 Slot.empty) = none ∧ inPhase (booting 1 Slot.empty) 1 = true) ∧
    (let s := booting 2 goodSlot;
      inPhase s 2 = true ∧ s.get Reg.STU_PINS_PGOOD ≠ 0 ∧ s.get Reg.HIF_LINK_GEN = 0 ∧
        (coolClass (6#3).toNat).isSome = true ∧ coolClass (7#3).toNat = none) ∧
    (inPhase (booting 3 goodSlot) 3 = true ∧ inPhase (booting 4 goodSlot) 4 = true ∧ inPhase (booting 5 goodSlot) 5 = true ∧
      inPhase (booting 7 goodSlot) 7 = true) ∧
    (twoFailed [16, 17] = false ∧ twoFailed [0, 16] = true ∧ portUp svc 15 = false) ∧
    (let s := atTime (4 * 1024000000 + 1) (booting 2 goodSlot);
      inPhase s (s.get Reg.STU_BOOT_STAT_PHASE) = true ∧ overrun s = true ∧ overrun (atTime (4 * 1024000000) s) = false) :=
  ⟨⟨by decide +kernel, rfl, goodBoot_choose, goodSlot_tested⟩,
    ⟨pairBoot_choose, pairSlot_untested, by decide +kernel, by decide +kernel⟩, by decide +kernel, by decide +kernel, by decide +kernel,
    by decide +kernel, by decide +kernel⟩

/-- The boot of `pairSlot` on a module for development whose override is set. -/
def overriding : State :=
  let s := (booting 1 pairSlot).put Reg.STU_FW_CTL_OVERRIDE 1
  { s with fuses := { fz with dev := true } }

theorem overriding_choose : chooseSlot overriding = some 0 := by
  have h : slotOk overriding.fuses (overriding.flash.slot 0) = true := pairSlot_ok
  simp only [chooseSlot, show overriding.flash.pend.getD overriding.flash.pref = 0 from rfl, h, if_pos]

/-- Phase `p` of a boot, later than every limit. -/
def late (p : Nat) : State := atTime (90 * 1024000000 + 1) (booting p goodSlot)

theorem witness_BootPhases_ends : (inPhase overriding 1 = true ∧ overrun overriding = false ∧ overriding.flash.pend = none ∧
      chooseSlot overriding = some 0 ∧ untested (overriding.flash.slot 0) = some (1, 3) ∧ overridden overriding = true) ∧
    (∀ p ∈ [1, 2, 3, 4, 5, 6], inPhase (late p) p = true ∧ overrun (late p) = true ∧ (late p).get Reg.STU_PINS_PGOOD ≠ 0 ∧
      (late p).get Reg.HIF_LINK_GEN = 0 ∧ overrun (booting p goodSlot) = false) ∧ overrun (late 7) = false :=
  ⟨⟨by decide +kernel, by decide +kernel, rfl, overriding_choose, pairSlot_untested, by decide +kernel⟩, by decide +kernel, by decide +kernel⟩

theorem test_ready_is_service : nextHas (exec .ready (booting 7 Slot.empty)) (fun t => t.get Reg.STU_BOOT_STAT_MODE = 1) = true := by decide +kernel

/-! ## The mailbox -/

/-- A mailbox command with its arguments. -/
def mbox (sub : Nat) (args : List Nat) : HostCmd := cmd ([0x20] ++ List.replicate 7 0 ++ [sub] ++ List.replicate 7 0 ++ args.flatMap (fun x => (toLE 8 x).map (fun b => b.toNat)))

/-- Shard 7: 64 elements on this module, version 0 at LPDDR address 512. -/
def oneShard : Shard := ⟨7, 0, 1, 64, [(0, 64)], 512, 1024, 0, 0, 0, 0, 0⟩
/-- A loaded job with that shard, and at host address 4096 a field list of one entry: shard 7, elements of one byte, offset 0. -/
def snapping : State :=
  let s := host (mbox 2 [4096, 1, 8192])
  { s with job := { JobSt.none with loaded := true, nmod := 1 }, shards := [oneShard], mem := [(512, 5), (hostBase + 4096, 7), (hostBase + 4098, 1)] }

def snapped : SnapPart :=
  snapStream (setCmd snapping 63 (started (mbox 2 [4096, 1, 8192]))) (snapping.get Reg.PLY_STEP_STEP) 0
    ((List.range (mbArg (mbox 2 [4096, 1, 8192]) 1)).map (fun i => sgetList 0 snapping.mem (hostBase + mbArg (mbox 2 [4096, 1, 8192]) 0 + 16 * i) 16)) []

/-- Bytes 0 to 64 are the section's header (Table 13-4), the rest the elements. -/
theorem test_snapshot_section : (match snapped with
    | .part _ d => decide (d.length = 128 ∧ leAt d 4 2 = 7 ∧ leAt d 6 1 = 1 ∧ leAt d 24 8 = 64 ∧ leAt d 64 1 = 5)
    | _ => false) = true := by decide +kernel

/-- Windows of 1 ms at host address 4096, with a counter base `b` and sequence number `q`; ENTRIES is 1 and HEAD 0. -/
def telem (b : Option Latch) (q : Nat) : State :=
  { atTime 2048000 svc with telem := some ⟨4096, 1024000, 2, [], b, q, 0, 800, 800, 0, 0, 0, 0, false, 0, 0⟩, mem := [(hostBase + 4096, 1)] }

theorem witness_MailboxAnswers : (host (mbox 1 [4096])).snap = none ∧
    CmdReady (host (mbox 1 [4096])) 63 0 (mbox 1 [4096]) 0x20 1 ∧ CmdReady (host (mbox 3 [4096, 2])) 63 0 (mbox 3 [4096, 2]) 0x20 3 ∧
    (CmdReady snapping 63 0 (mbox 2 [4096, 1, 8192]) 0x20 2 ∧ memoryWaits snapping = false ∧ snapping.job.loaded = true ∧ mbArg (mbox 2 [4096, 1, 8192]) 2 ≠ 0) ∧
    (∀ p ∈ [0, 1024000, 61440000000], CmdReady (host (mbox 5 [4096, p])) 63 0 (mbox 5 [4096, p]) 0x20 5 ∧ mbArg (mbox 5 [4096, p]) 1 = p ∧
      p % 1024000 = 0 ∧ p ≤ 60 * 1024000000) ∧
    (∀ b ∈ [none, some ⟨[], []⟩], ∀ q ∈ [0, 1], ∃ x, (telem b q).telem = some x ∧ x.next * x.period ≤ (telem b q).now ∧ x.base = b ∧
      leAt (sgetList 0 (telem b q).mem (hostBase + x.addr) 4) 0 4 = 1 ∧
      (x.seq + 2 ^ 32 - leAt (sgetList 0 (telem b q).mem (hostBase + (x.addr + 4)) 4) 0 4 % 2 ^ 32) % 2 ^ 32 = q) ∧
    (let s : State := { svc with snap := some ⟨63, 0, 0, false⟩ }
     snapOut s = false) := by
  unfold CmdReady
  refine ⟨rfl, by decide +kernel, by decide +kernel, by decide +kernel, by decide +kernel, ?_, by decide +kernel⟩
  intro b hb q hq
  simp only [List.mem_cons, List.not_mem_nil, or_false] at hb hq
  rcases hb with rfl | rfl <;> rcases hq with rfl | rfl <;> exact ⟨_, rfl, by decide +kernel⟩

/-- A bundle of one image in host memory, over the running slot A. -/
def staging : State :=
  let s := host (mbox 4 [4096, 352])
  { s with fuses := fz, flash := { s.flash with a := goodSlot, pref := 0, pend := none }, boot := { s.boot with slot := some 0 },
           mem := sputList 0 [] (hostBase + 4096) im7.hdr }

theorem staging_bundle : bundleGo (sgetList 0 staging.mem (hostBase + mbArg (mbox 4 [4096, 352]) 0) (mbArg (mbox 4 [4096, 352]) 1)) 7 [] = some [im7] := by
  have h0 : mbArg (mbox 4 [4096, 352]) 0 = 4096 := by decide +kernel
  have hl : im7.hdr.length = 352 := by decide +kernel
  have h1 : mbArg (mbox 4 [4096, 352]) 1 = im7.hdr.length := by rw [hl]; decide +kernel
  have hz : leAt im7.hdr 0x10 8 = 0 := by decide +kernel
  have he : im7.hdr.isEmpty = false := by decide +kernel
  rw [h0, h1, show staging.mem = sputList 0 [] (hostBase + 4096) im7.hdr by simp only [staging], sgetList_sputList]
  simp [bundleGo, he, hl, hz, List.drop_eq_nil_of_le (Nat.le_of_eq hl), List.take_of_length_le (Nat.le_of_eq hl)]
  rfl

theorem staging_candidate : candidate goodSlot [im7] = goodSlot := by
  have h : im7.typ = 7 := by decide +kernel
  simp only [candidate, List.foldl_cons, List.foldl_nil, h]
  decide +kernel

theorem staging_passes : stageFault fz (candidate goodSlot [im7]) = none := by
  have hs : ¬ slotSize < imageBytes goodSlot := by decide +kernel
  have hi : (List.range 7).findSome? (fun i => (imageFault fz (goodSlot.img (i + 1)) (i + 1)).map (fun c => (c, i + 1))) = none := by
    rw [List.findSome?_eq_none_iff]
    intro i hi
    have h := (Bool.and_eq_true_iff.1 goodSlot_ok).2
    have h := List.all_eq_true.1 h i hi
    rw [Option.isNone_iff_eq_none.1 h]; rfl
  rw [staging_candidate]
  simp only [stageFault, if_neg hs, hi, goodSlot_tested]
  rfl

theorem witness_MailboxAnswers_stage : CmdReady staging 63 0 (mbox 4 [4096, 352]) 0x20 4 ∧ staging.snap = none ∧
    mbArg (mbox 4 [4096, 352]) 1 ≤ slotSize ∧
    bundleGo (sgetList 0 staging.mem (hostBase + mbArg (mbox 4 [4096, 352]) 0) (mbArg (mbox 4 [4096, 352]) 1)) 7 [] = some [im7] ∧ [im7] ≠ [] ∧
    (1 ≤ im7.typ ∧ im7.typ ≤ 7) ∧
    (let old := match staging.boot.slot with | some m => staging.flash.slot m | none => Slot.empty
     stageFault staging.fuses (candidate old [im7]) = none) :=
  ⟨by unfold CmdReady; decide +kernel, rfl, by decide +kernel, staging_bundle, List.cons_ne_nil _ _, by decide +kernel, staging_passes⟩

/-! ## Jobs -/

/-- A Skein header of 208 bytes (Table 10-8): one task, segment 0 of no bytes at 128, the Frame load table and the tokens at 208, and at 160 a Glaze table
of Knots 9 and 10 with one Glaze of 16 bytes at 192; the digest is of a module without a shape record, SHA-384 of no bytes, computed outside the model. -/
def skHead : List Byte :=
  toLE 4 0x324E4B53 ++ toLE 4 0x20001 ++ toLE 8 20688 ++ toBE 8 0x38b060a751ac9638 ++ toLE 4 0 ++ toLE 4 0x01010100 ++ toLE 4 0 ++ toLE 4 128 ++
    toLE 4 208 ++ toLE 8 0 ++ toLE 4 208 ++ toLE 8 0 ++ toLE 4 160 ++ toLE 60 0 ++ toLE 32 0 ++ toLE 16 (9 + 10 * 65536) ++
    toLE 16 (192 + 16 * 2 ^ 32) ++ toLE 16 0
def skArg : LoadArg := ⟨skHead ++ List.replicate 20480 0, 1, [0], 0, [], (0, 0), 0⟩

/-- A JOB_POST of the record at host address 4096: job 7 of one module and one step, its rank map at 8192, its Skein entry at 12288, the image at 16384. -/
def postCmd : HostCmd := cmd ([0x10, 0, 0, 0, 0, 0, 0, 0] ++ [0, 16])
def jobRecord : List Byte :=
  toLE 4 7 ++ toLE 4 1 ++ toLE 4 0 ++ toLE 4 1 ++ toLE 4 1000 ++ toLE 1 2 ++ toLE 1 1 ++ toLE 2 0 ++ toLE 8 0 ++ toLE 8 8192 ++ toLE 8 12288 ++ toLE 80 0
def posting : State :=
  { host postCmd with mem := sputList 0 (sputList 0 (sputList 0 [] (hostBase + 16384) (skHead ++ List.replicate 20480 0)) (hostBase + 12288)
    (toBE 8 0x38b060a751ac9638 ++ toLE 8 16384 ++ toLE 16 20688)) (hostBase + 4096) jobRecord }
/-- The state in which its load begins. -/
def loading : State :=
  { setCmd posting 63 { postCmd with start := true } with
      shape := setAt posting.shape 4 (BitVec.ofNat 8 (defaultOvf 1)), job := { JobSt.none with id := 7 } }

theorem ofLE_zeros (n : Nat) : ofLE (List.replicate n 0) = 0 := by
  induction n with
  | zero => rfl
  | succ n ih => simp only [List.replicate_succ, ofLE, ih]; rfl

theorem sk_tail (o n : Nat) (h : 208 ≤ o) : (skArg.img.drop o).take n = List.replicate (min n (20480 - (o - 208))) 0 := by
  have hl : skHead.length = 208 := by decide +kernel
  simp only [skArg, List.drop_append, List.drop_eq_nil_of_le (show skHead.length ≤ o by omega), hl, List.nil_append, List.drop_replicate,
    List.take_replicate]
theorem sk_u (o n : Nat) (h : 208 ≤ o) : skArg.u o n = 0 := by
  simp only [LoadArg.u, leAt, sk_tail o n h, ofLE_zeros]
theorem sk_zero (o n : Nat) (h : 208 ≤ o) : skArg.zero o n = true := by
  simp only [LoadArg.zero, sk_tail o n h, List.all_replicate]; split <;> simp

theorem sdel_absent_id {α : Type} (m : Sparse α) (k : Nat) (h : ∀ p ∈ m, p.1 ≠ k) : sdel k m = m := by
  induction m with
  | nil => rfl
  | cons p r ih =>
    obtain ⟨j, v⟩ := p
    simp only [sdel]
    rw [if_neg (h (j, v) (List.mem_cons_self ..)), ih (fun q hq => h q (List.mem_cons_of_mem _ hq))]

/-- The registers are as before the load. -/
def Same (s : State) : Prop := s.regs = loading.regs

theorem Same.put {s : State} (h : Same s) (r : Ref) (hr : r.reset = 0) (hk : 64 * 0x1000000 ≤ r.key) : Same (s.put r 0) := by
  have hl : ∀ p ∈ loading.regs, p.1 < 64 * 0x1000000 := by decide +kernel
  show sput 0 s.regs r.key (0 % 2 ^ r.width ^^^ r.reset) = _
  rw [hr, Nat.zero_mod, show s.regs = loading.regs from h]
  exact sdel_absent_id _ _ (fun p hp he => by have := hl p hp; omega)

theorem Same.fold {α : Type} {g : State → α → State} (hg : ∀ s x, Same s → Same (g s x)) (l : List α) {s : State} (h : Same s) : Same (l.foldl g s) := by
  induction l generalizing s with
  | nil => exact h
  | cons x r ih => exact ih (hg s x h)

theorem sk_ents : segEnts skArg = [⟨0, 0, 0, 0, 0, 0, 0, 0⟩] := by
  have h1 : skNseg skArg = 1 := by decide +kernel
  have h2 : segEnt skArg 0 = ⟨0, 0, 0, 0, 0, 0, 0, 0⟩ := by decide +kernel
  simp only [segEnts, h1, List.range_one, List.map_cons, List.map_nil, h2, List.mergeSort_singleton]

theorem sk_base (f : Nat) : segBase skArg [⟨0, 0, 0, 0, 0, 0, 0, 0⟩] ⟨0, 0, 0, 0, 0, 0, 0, 0⟩ f = 0 := rfl
theorem sk_len : skArg.img.length = 20688 := by
  have hl : skHead.length = 208 := by decide +kernel
  simp only [skArg, List.length_append, hl, List.length_replicate]

theorem take_all (a : LoadArg) (h : a.u 8 8 = a.img.length) : { a with img := a.img.take (a.u 8 8) } = a := by
  rw [h, List.take_length]

theorem Same.writeSegs {s : State} (h : Same s) : Same (writeSegs s skArg [⟨0, 0, 0, 0, 0, 0, 0, 0⟩]) := by
  refine Same.fold (fun s x h => ?_) _ h
  by_cases hn : x % 16 = 0
  · simp only [hn, entOf, List.find?_cons, sk_base, decide_true]
    exact (((h.put _ rfl (by simp only [Reg.FRM_SEGs_BASE_BASE]; omega)).put _ rfl (by simp only [Reg.FRM_SEGs_LIM_LIMIT]; omega)).put _ rfl
      (by simp only [Reg.FRM_SEGs_LIM_KIND]; omega)).put _ rfl (by simp only [Reg.FRM_SEGs_LIM_MGRP]; omega)
  · simp only [entOf, List.find?_cons, List.find?_nil, decide_eq_false (show ¬ 0 = x % 16 from fun e => hn e.symm)]
    exact (((h.put _ rfl (by simp only [Reg.FRM_SEGs_BASE_BASE]; omega)).put _ rfl (by simp only [Reg.FRM_SEGs_LIM_LIMIT]; omega)).put _ rfl
      (by simp only [Reg.FRM_SEGs_LIM_KIND]; omega)).put _ rfl (by simp only [Reg.FRM_SEGs_LIM_MGRP]; omega)

theorem sk_fill (s : State) : fillSeg skArg [⟨0, 0, 0, 0, 0, 0, 0, 0⟩] s ⟨0, 0, 0, 0, 0, 0, 0, 0⟩ = s := by
  simp only [fillSeg, List.take_zero, devWrite, devWriteGo, List.isEmpty_nil, if_pos]

theorem sk_frame (f : Nat) : 208 ≤ frameEnt skArg f := by
  have h : skFrame skArg = 208 := by decide +kernel
  simp only [frameEnt, h]; omega

theorem Same.loadFrame {s : State} (h : Same s) (f : Nat) : Same (loadFrame skArg s f) := by
  have ho := sk_frame f
  have ht : skToken skArg = 208 := by decide +kernel
  unfold Machine.loadFrame
  dsimp only
  refine ((Same.put (Same.put (Same.put ?_ _ rfl ?_) _ rfl ?_) _ rfl ?_))
  · have hsp : ∀ (s : State) (n : Nat), Same s → Same (s.setSpin f n { s.spin f n with tiles := [], blocks := [], sel := none, retry := none, open_ := [] }) :=
      fun s n h => (Eq.trans rfl h : (s.setSpin f n _).regs = loading.regs)
    refine Same.fold hsp _ ?_
    refine Same.fold (fun s p h => ?_) _ ?_
    · simp only [sk_u (skToken skArg + p) 1 (by omega), Nat.zero_div, Nat.zero_mod]
      exact (h.put _ rfl (by simp only [Reg.FRM_TOKp_BR]; omega)).put _ rfl (by simp only [Reg.FRM_TOKp_SPD]; omega)
    refine Same.fold (fun s q h => ?_) _ ?_
    · simp only [sk_u (frameEnt skArg f + 0x20 + q) 1 (by omega)]
      exact ((Same.put (s := s.setQueue f q QueueSt.empty) h _ rfl (by simp only [Reg.FRM_Qq_TASK_TASK]; omega)).put _ rfl
        (by simp only [Reg.FRM_Qq_ISSUED_COUNT]; omega)).put _ rfl (by simp only [Reg.FRM_Qq_DONE_COUNT]; omega)
    refine Same.fold (fun s k h => ?_) _ h
    simp only [sk_u (frameEnt skArg f + 0x40 + k) 1 (by omega), Nat.zero_div, Nat.zero_mod]
    exact ((h.put _ rfl (by simp only [Reg.FRM_KCFGk_TASK]; omega)).put _ rfl (by simp only [Reg.FRM_KCFGk_CLASS]; omega)).put _ rfl
      (by simp only [Reg.FRM_KNOTk_VALUE]; omega)
  all_goals first | (simp only [Reg.FRM_PHASE_ID]; omega) | (simp only [Reg.FRM_PHASE_HINT]; omega) | (simp only [Reg.FRM_PHASE_CORE]; omega)

theorem Same.loadCores {s : State} (h : Same s) (l : List SegEnt) : Same (loadCores s skArg l) := by
  have hv : loadOvf skArg = 0 := by decide +kernel
  unfold Machine.loadCores
  refine Same.fold (fun s f h => ?_) _ (Same.fold (fun s k h => ?_) _ h)
  · rw [hv]; exact h.put _ rfl (by simp only [Reg.FRM_NUMMODE_OVF_MODE]; omega)
  · have ho := sk_frame (k / 4)
    simp only [loadCoreEnt, sk_u (frameEnt skArg (k / 4) + k % 4) 1 (by omega), sk_u (frameEnt skArg (k / 4) + 0x10 + 4 * (k % 4)) 4 (by omega)]
    exact ((Same.put (s := s.setCore _ _ _) h _ rfl (by simp only [Reg.FRM_COREc_STATE_TASK]; omega)).put _ rfl
      (by simp only [Reg.FRM_COREc_STATE_STATE]; omega)).put _ rfl (by simp only [Reg.FRM_COREc_PC_PC]; omega)

theorem sk_frames (s : State) (f : Nat) : frameOk s skArg f = true := by
  have ho := sk_frame f
  have h1 : skTask skArg = 1 := by decide +kernel
  simp [frameOk, sk_zero (frameEnt skArg f + 4) 12 (by omega), sk_zero (frameEnt skArg f + 0x3B) 5 (by omega),
    fun c => sk_u (frameEnt skArg f + c) 1 (by omega), fun c => sk_u (frameEnt skArg f + 0x10 + c) 4 (by omega),
    fun c => sk_u (frameEnt skArg f + 0x20 + c) 1 (by omega), fun c => sk_u (frameEnt skArg f + 0x40 + c) 1 (by omega), h1]

theorem sk_tokens : tokensOk skArg = true := by
  have ht : skToken skArg = 208 := by decide +kernel
  simp [tokensOk, ht, fun p => sk_u (208 + p) 1 (by omega)]

/-- What an empty Glaze's checks look at. -/
def glazeBase (s : State) : State := glazeRest (takeShadows (glazeShadows s [])) []

theorem puts_regs (l : List Nat) (r : Nat → Ref) (s t : State) (h : s.regs = t.regs ∧ s.force = t.force) :
    (l.foldl (fun s p => s.put (r p) 0) s).regs = (l.foldl (fun s p => s.put (r p) 0) t).regs ∧
      (l.foldl (fun s p => s.put (r p) 0) s).force = (l.foldl (fun s p => s.put (r p) 0) t).force := by
  induction l generalizing s t with
  | nil => exact h
  | cons x l ih => exact ih _ _ ⟨congrArg (fun m => sput 0 m (r x).key (0 % 2 ^ (r x).width ^^^ (r x).reset)) h.1, h.2⟩

theorem glazed_regs {s t : State} (h : s.regs = t.regs) : (glazeBase s).regs = (glazeBase t).regs ∧ (glazeBase s).force = (glazeBase t).force := by
  unfold glazeBase glazeRest
  dsimp only [List.foldl_nil]
  refine puts_regs _ Reg.PWR_PHASEp_TABLE_MHZ _ _ ⟨?_, ?_⟩ <;> simp only [takeShadows, glazeShadows, List.foldl_nil, h]

theorem rings_reads (t : State) : ringsOk t = ringsOk { State.reset with regs := t.regs, force := t.force } := by unfold ringsOk; rfl
theorem flex_reads (t : State) : flexOk t = flexOk { State.reset with regs := t.regs, force := t.force } := by unfold flexOk; rfl
theorem mcast_reads (t : State) : mcastOk t = mcastOk { State.reset with regs := t.regs, force := t.force } := by unfold mcastOk; rfl
theorem knot_reads (t : State) (k : Nat) : glazeKnotOk t k = glazeKnotOk { State.reset with regs := t.regs } k := by unfold glazeKnotOk; rfl

/-- The checks of an empty Glaze read the registers alone. -/
theorem Same.glaze {s : State} (h : Same s) : glazeOk s [] = true := by
  obtain ⟨hr, hf⟩ := glazed_regs (s := s) (t := loading) h
  have h0 : glazeOk loading [] = true := by decide +kernel
  have e1 : ∀ t : State, glazeOk t [] = (ringsOk (glazeBase t) && flexOk (glazeBase t) && mcastOk (glazeBase t)) := fun _ => rfl
  rw [e1, rings_reads, flex_reads, mcast_reads] at h0 ⊢
  rw [hr, hf]
  exact h0

theorem sk_glazes {s : State} (h : Same s) : imgGlazes s skArg ≠ none := by
  have hg : (List.range (skNglaze skArg)).map (imgGlaze skArg) = [some []] := by
    have h1 : List.range (skNglaze skArg) = [0] := by decide +kernel
    simp only [h1, List.map_cons, List.map_nil, imgGlaze, sk_len]; decide +kernel
  have hk : ∀ k ∈ [9, 10], glazeKnotOk s k = true := by
    intro k hk
    have h0 : ∀ k ∈ [9, 10], glazeKnotOk loading k = true := by decide +kernel
    have h0 := h0 k hk
    rw [knot_reads] at h0 ⊢
    rw [show s.regs = loading.regs from h]
    exact h0
  have h1 : skArg.u (skGlaze skArg) 2 = 9 := by decide +kernel
  have h2 : skArg.u (skGlaze skArg + 2) 2 = 10 := by decide +kernel
  have h3 : skArg.u (skGlaze skArg + 4) 4 = 0 := by decide +kernel
  have h4 : skArg.zero (skGlaze skArg + 9) 7 = true := by decide +kernel
  have h5 : skArg.u (skGlaze skArg + 8) 1 < skNglaze skArg := by decide +kernel
  unfold imgGlazes
  simp only [hg, h1, h2, h3, h4, h5, hk 9 (by simp), hk 10 (by simp), List.all_cons, List.all_nil, h.glaze]
  simp

theorem sk_hi : { skArg with img := skArg.img.take (skArg.u 8 8) } = skArg := by
    refine take_all skArg ?_
    rw [sk_len]; decide +kernel

theorem sk_hh : headerOk skArg = true := by simp only [headerOk, tableOk, sk_len]; decide +kernel

theorem sk_hd : skArg.u 0x10 8 = shapeDigest loading := by decide +kernel

theorem sk_hw : applyWays loading skArg = loading := by
    have h : skPal skArg = 0 := by decide +kernel
    simp only [applyWays, h, if_pos]

theorem sk_ht : segTableOk skArg [⟨0, 0, 0, 0, 0, 0, 0, 0⟩] = true := by simp only [segTableOk, List.all_cons, List.all_nil, segEntOk, sk_len]; decide +kernel

theorem sk_hb : segsBacked loading skArg [⟨0, 0, 0, 0, 0, 0, 0, 0⟩] = true := by decide +kernel

theorem sk_hn : skNshard skArg = 0 := by decide +kernel

theorem sk_dir : directory skArg = [] := by simp [directory, sk_hn]

theorem sk_hp : skNpatch skArg = 0 := by decide +kernel

/-- A load that passes the first checks goes on with its segments in place. -/
theorem load_passes (s : State) (a : LoadArg) (e : SegEnt) (hi : { a with img := a.img.take (a.u 8 8) } = a) (hh : headerOk a = true)
    (hd : a.u 0x10 8 = shapeDigest s) (hw : applyWays s a = s) (he : segEnts a = [e]) (ht : segTableOk a [e] = true) (hb : segsBacked s a [e] = true)
    (hf : ∀ t, fillSeg a [e] t e = t) (u : State) (hu : zeroSpad (Machine.writeSegs s a [e]) = u) (hs : shardsOk u a = true)
    (hl : placeDirectory u a [e] = u) :
    loadSkein s a = loadRest u a [e] := by
  unfold loadSkein
  rw [hi]
  simp only [hh, hd, hw, he, ht, hb]
  simp only [List.foldl_cons, List.foldl_nil, hf, hu, hs, hl]
  simp

theorem rest_passes (u : State) (a : LoadArg) (l : List SegEnt) (hp : skNpatch a = 0) (ht : tokensOk a = true)
    (hf : (List.range 64).all (frameOk u a) = true) (v : State) (hv : Machine.loadCores ((List.range 64).foldl (Machine.loadFrame a) u) a l = v)
    (hg : imgGlazes v a ≠ none) : (loadRest u a l).refuse = none := by
  simp only [loadRest, hp, patchGo, ht, hf, hv]
  simp only [Bool.true_eq_false, or_self, if_false]
  split
  · next e => exact absurd e hg
  · rfl

theorem Same.spad {s : State} (h : Same s) : Same (zeroSpad s) := h
theorem same_loading : Same loading := rfl

theorem sk_loads : (loadSkein loading skArg).refuse = none := by
  obtain ⟨u, hu⟩ : ∃ u, zeroSpad (Machine.writeSegs loading skArg [⟨0, 0, 0, 0, 0, 0, 0, 0⟩]) = u := ⟨_, rfl⟩
  have hs : Same u := by
    rw [← hu]
    exact (Same.writeSegs same_loading).spad
  rw [load_passes loading skArg _ sk_hi sk_hh sk_hd sk_hw sk_ents sk_ht sk_hb sk_fill u hu
    (by simp only [shardsOk, sk_hn, List.range_zero, List.all_nil]) (by simp [placeDirectory, sk_dir, devWrite, devWriteGo])]
  exact rest_passes u skArg _ sk_hp sk_tokens (by simp only [List.all_eq_true]; exact fun f _ => sk_frames u f) _ rfl
    (sk_glazes (Same.loadCores (Same.fold (fun s x h => Same.loadFrame h x) (List.range 64) hs) _))
theorem posting_read (a : Nat) (d : List Byte) (m : Sparse Byte) (h : posting.mem = sputList 0 m a d) : sgetList 0 posting.mem a d.length = d := by
  rw [h, sgetList_sputList]

theorem sgetList_other (m : Sparse Byte) (a k n : Nat) (d : List Byte) (h : k + n ≤ a ∨ a + d.length ≤ k) :
    sgetList 0 (sputList 0 m a d) k n = sgetList 0 m k n := by
  induction n generalizing k with
  | zero => rfl
  | succ n ih =>
    simp only [sgetList]
    rw [sget_sputList_other, ih (k + 1) (by omega)]
    omega

theorem posting_mem : posting.mem = sputList 0 (sputList 0 (sputList 0 [] (hostBase + 16384) (skHead ++ List.replicate 20480 0)) (hostBase + 12288)
    (toBE 8 0x38b060a751ac9638 ++ toLE 8 16384 ++ toLE 16 20688)) (hostBase + 4096) jobRecord := by simp only [posting]

/-- What the post reads: its record, its rank map (module 0), its Skein entry and the image. -/
theorem posting_reads : sgetList 0 posting.mem (hostBase + 4096) 128 = jobRecord ∧ sgetList 0 posting.mem (hostBase + 8192) 8 = List.replicate 8 0 ∧
    sgetList 0 posting.mem (hostBase + 12288) 32 = toBE 8 0x38b060a751ac9638 ++ toLE 8 16384 ++ toLE 16 20688 ∧
    sgetList 0 posting.mem (hostBase + 16384) 20688 = skArg.img := by
  have h1 : jobRecord.length = 128 := by decide +kernel
  have h2 : (toBE 8 0x38b060a751ac9638 ++ toLE 8 16384 ++ toLE 16 20688).length = 32 := by decide +kernel
  have h3 : (skHead ++ List.replicate 20480 (0 : Byte)).length = 20688 := sk_len
  rw [posting_mem]
  generalize hr : jobRecord = r at *
  generalize hx : skHead ++ List.replicate 20480 (0 : Byte) = x at *
  generalize hy : toBE 8 0x38b060a751ac9638 ++ toLE 8 16384 ++ toLE 16 20688 = y at *
  refine ⟨?_, ?_, ?_, ?_⟩
  · rw [← h1, sgetList_sputList]
  · rw [sgetList_other _ _ _ _ _ (by omega), sgetList_other _ _ _ _ _ (by omega), sgetList_other _ _ _ _ _ (by omega)]; decide +kernel
  · rw [sgetList_other _ _ _ _ _ (by omega), ← h2, sgetList_sputList]
  · rw [sgetList_other _ _ _ _ _ (by omega), sgetList_other _ _ _ _ _ (by omega), ← h3, sgetList_sputList, ← hx]; rfl

theorem sgetList_part (m : Sparse Byte) (a n o k : Nat) (h : o + k ≤ n) : sgetList 0 m (a + o) k = ((sgetList 0 m a n).drop o).take k := by
  induction o generalizing a n with
  | zero =>
    simp only [Nat.add_zero, List.drop_zero]
    induction k generalizing a n with
    | zero => rfl
    | succ k ih =>
      obtain ⟨n', rfl⟩ : ∃ n', n = n' + 1 := ⟨n - 1, by omega⟩
      simp only [sgetList, List.take_succ_cons, ih (a + 1) n' (by omega)]
  | succ o ih =>
    obtain ⟨n', rfl⟩ : ∃ n', n = n' + 1 := ⟨n - 1, by omega⟩
    simp only [sgetList, List.drop_succ_cons]
    rw [← ih (a + 1) n' (by omega)]
    congr 1
    omega

/-- The clauses of JOB_POST: a job is loaded already, and a post all of whose reads and whose load are in order. -/
theorem witness_JobsBeginAndEnd_post :
    (let s := { host postCmd with job := { JobSt.none with loaded := true } }
     CmdReady s 63 0 postCmd 0x10 0 ∧ s.aborts = [] ∧ memoryWaits s = false ∧ s.job.loaded = true) ∧
    CmdReady posting 63 0 postCmd 0x10 0 ∧ posting.aborts = [] ∧ memoryWaits posting = false ∧ posting.job.loaded = false ∧
    (let b := sgetList 0 posting.mem (hostBase + leAt postCmd.bytes 8 8) 128
     let r := jobRec b
     let rd (a l : Nat) := sgetList 0 posting.mem (hostBase + a) l
     let ids := (List.range r.nmod).map (fun j => leAt (rd (r.rmap + 8 * j) 2) 0 2)
     let vals := (List.range r.njv).map (fun j => leAt (rd (r.jobval + 8 * j) 8) 0 8)
     let ents := (List.range r.nskein).map (fun i => rd (r.skeins + 32 * i) 32)
     let e := toBE 8 0x38b060a751ac9638 ++ toLE 8 16384 ++ toLE 16 20688
     let w : State := { setCmd posting 63 { postCmd with start := true } with
       shape := setAt posting.shape 4 (BitVec.ofNat 8 (defaultOvf r.nmod)), job := { JobSt.none with id := r.id } }
     jobRecOk b = true ∧ (∀ j, j < r.nmod → leAt (rd (r.rmap + 8 * j + 2) 6) 0 6 = 0) ∧ (∀ x ∈ ents, leAt x 24 8 = 0) ∧
       mapOk ids r.q = true ∧ ids.findIdx? (fun m => m = posting.myId) = some 0 ∧ ents.find? (fun x => leAt x 0 8 = shapeDigest w) = some e ∧
       (loadSkein w ⟨rd (leAt e 8 8) (leAt e 16 8), r.nmod, ids, 0, vals, (r.gbase, r.glen), r.hbase⟩).refuse = none) := by
  obtain ⟨h1, h2, h3, h4⟩ := posting_reads
  have hc : leAt postCmd.bytes 8 8 = 4096 := by decide +kernel
  have hj : jobRec jobRecord = ⟨7, 1, 0, 1, 1000, 2, 1, 1, 0, 8192, 12288, 0, 0, 0, 0⟩ := by decide +kernel
  have ha : sgetList 0 posting.mem (hostBase + 8192) 2 = [0, 0] := by
    rw [show hostBase + 8192 = hostBase + 8192 + 0 from rfl, sgetList_part _ _ 8 0 2 (by omega), h2]; rfl
  have hb : sgetList 0 posting.mem (hostBase + (8192 + 2)) 6 = List.replicate 6 0 := by
    rw [show hostBase + (8192 + 2) = hostBase + 8192 + 2 from rfl, sgetList_part _ _ 8 2 6 (by omega), h2]; rfl
  have he : leAt (toBE 8 0x38b060a751ac9638 ++ toLE 8 16384 ++ toLE 16 20688) 8 8 = 16384 ∧
    leAt (toBE 8 0x38b060a751ac9638 ++ toLE 8 16384 ++ toLE 16 20688) 16 8 = 20688 ∧
    leAt (toBE 8 0x38b060a751ac9638 ++ toLE 8 16384 ++ toLE 16 20688) 24 8 = 0 ∧
    leAt (toBE 8 0x38b060a751ac9638 ++ toLE 8 16384 ++ toLE 16 20688) 0 8 = shapeDigest loading := by decide +kernel
  obtain ⟨e1, e2, e3, e4⟩ := he
  have hm : posting.myId = 0 := by decide +kernel
  refine ⟨by unfold CmdReady; decide +kernel, by unfold CmdReady; decide +kernel, rfl, by decide +kernel, rfl, ?_⟩
  simp only [hc, h1, hj, List.range_one, List.map_cons, List.map_nil, Nat.mul_zero, Nat.add_zero, ha, h3, List.range_zero, e1, e2, h4]
  refine ⟨by decide +kernel, ?_, ?_, by decide +kernel, ?_, ?_, sk_loads⟩
  · intro j hj
    obtain rfl : j = 0 := by omega
    rw [Nat.mul_zero, Nat.add_zero, hb]; decide
  · intro x hx
    rw [List.mem_singleton.1 hx, e3]
  · rw [hm]; rfl
  · exact List.find?_cons_of_pos (decide_eq_true e4)

theorem witness_JobsBeginAndEnd : (let c := cmd [0x11]
      let s := { host c with job := { JobSt.none with loaded := true, ring := 0, k := 5 } }
      CmdReady s 63 0 c 0x11 0 ∧ s.job.loaded = true ∧ (s.job.ring, s.job.k) ≠ (63, 0) ∧ CmdReady (host c) 63 0 c 0x11 0) ∧
    (let s : State := { svc with aborts := [⟨3, 0, 0, 0⟩] }
     s.aborts.find? (fun a => a.task = 3) = some ⟨3, 0, 0, 0⟩ ∧ cancelsDone s 3 = true) ∧
    (let s : State := { (svc.put (Reg.FRM_SQj_STATE_CANCEL_BUSY 0 0) 1).put (Reg.FRM_Qq_TASK_TASK 0 9) 3 with
       aborts := [⟨3, 0, 0, 0⟩], regions := [(71, { RegionSt.empty with cnt := 10 * 1024000 * 4294967296 })] }
     cancelsDone s 3 = false ∧ 0 + 10 * 1024000 ≤ s.timeOf 71) := by
  unfold CmdReady
  refine ⟨by decide +kernel, by decide +kernel, by decide +kernel⟩


end Sys2Proof.Tests
end

section
/-! PROOFS. Scope: register writes and reads by their access codes (R6 to R10, R223), writes with rows of their own
(R342, R352, R360, R362, R384) and BAR2 (R3, R203, R340). -/
namespace Sys2Proof.Machine

/-! ## Rules for register effects -/

theorem Sets.refl (s : State) : Sets s s [] := ⟨fun _ hp => absurd hp List.not_mem_nil, fun _ _ => rfl⟩

/-- One more register write, to a field that was not set before. -/
theorem Sets.put {s t : State} {l : List (Ref × Nat)} (h : Sets s t l) (r : Ref) {v x : Nat} (hx : v % 2 ^ r.width = x)
    (hne : ∀ p ∈ l, p.1.key ≠ r.key) : Sets s (t.put r v) (l ++ [(r, x)]) := by
  obtain ⟨hset, hsame⟩ := h
  refine ⟨fun p hp => ?_, fun q hq => ?_⟩
  · rcases List.mem_append.1 hp with hp | hp
    · rw [State.get_put_other _ _ _ _ (hne p hp), hset p hp]
    · obtain rfl := List.mem_singleton.1 hp
      rw [State.get_put_same, hx]
  · simp only [List.map_append, List.mem_append, not_or, List.map_cons, List.map_nil, List.mem_singleton] at hq
    rw [State.get_put_other _ _ _ _ hq.2, hsame q hq.1]

/-- A command whose own change is to registers only has that change as its whole effect; the event controller follows. -/
theorem finish_regEffect {s : State} {m : Sparse Nat} {l : List (Ref × Nat)} (h : Sets s { s with regs := m } l) :
    RegEffect s l (finish { s with regs := m }) := by
  obtain ⟨hset, hsame⟩ := h
  refine ⟨_, rfl, ⟨fun p hp => ?_, fun q hq => ?_⟩, ?_⟩
  · rw [State.get_evRefresh, hset p hp]
  · rw [State.get_evRefresh, hsame q hq]
  · obtain ⟨a, w, r, x, p, he⟩ := evRefresh_eq { s with regs := m }
    unfold OnlyRegs
    rw [he]

/-! ## Where registers lie -/

/-- The register that is found at an offset is one of the map, and the offset is one of its own. -/
theorem findRegIn_mem {l : List RegDesc} {off : Nat} {d : RegDesc} {ix : List Nat} (h : findRegIn l off = some (d, ix)) :
    d ∈ l ∧ d.indices off = some ix := by
  induction l with
  | nil => cases h
  | cons e l ih =>
    simp only [findRegIn] at h
    split at h
    · next hix =>
      cases h
      exact ⟨List.mem_cons_self, hix⟩
    · obtain ⟨hm, hi⟩ := ih h
      exact ⟨List.mem_cons_of_mem _ hm, hi⟩

theorem findReg_mem {off : Nat} {d : RegDesc} {ix : List Nat} (h : findReg off = some (d, ix)) :
    d ∈ allRegs ∧ d.indices off = some ix := findRegIn_mem h

/-- A register of a table lies a multiple of `n` beyond the first one where every stride is a multiple of `n`. -/
theorem dvd_of_dimIndices {n : Nat} {dims : List (Nat × Nat)} :
    ∀ {o : Nat} {ix : List Nat}, (∀ p ∈ dims, n ∣ p.2) → dimIndices o dims = some ix → n ∣ o := by
  induction dims with
  | nil =>
    intro o ix _ h
    simp only [dimIndices] at h
    split at h
    · next ho => exact ho ▸ Nat.dvd_zero n
    · cases h
  | cons p dims ih =>
    intro o ix hs h
    obtain ⟨cnt, stride⟩ := p
    simp only [dimIndices] at h
    split at h
    · obtain ⟨ix', h', -⟩ := Option.map_eq_some_iff.1 h
      have hrest : n ∣ o % stride := ih (fun q hq => hs q (List.mem_cons_of_mem _ hq)) h'
      exact (Nat.dvd_mod_iff (hs _ List.mem_cons_self)).1 hrest
    · cases h

/-- A register's width is one that an access can have, and its base and strides are aligned to it (R10). -/
def RegDesc.placed (d : RegDesc) : Prop :=
  (d.width = 32 ∨ d.width = 64) ∧ d.width / 8 ∣ d.base ∧ ∀ p ∈ d.dims, d.width / 8 ∣ p.2

theorem allRegs_placed : ∀ d ∈ allRegs, d.placed := by unfold RegDesc.placed; decide +kernel

theorem findReg_aligned {off : Nat} {d : RegDesc} {ix : List Nat} (h : findReg off = some (d, ix)) :
    (d.width = 32 ∨ d.width = 64) ∧ off % (d.width / 8) = 0 := by
  obtain ⟨hm, hi⟩ := findReg_mem h
  obtain ⟨hw, hbase, hdims⟩ := allRegs_placed d hm
  refine ⟨hw, Nat.mod_eq_zero_of_dvd ?_⟩
  unfold RegDesc.indices at hi
  split at hi
  · next hle => exact (Nat.dvd_sub_iff_left hle hbase).1 (dvd_of_dimIndices hdims hi)
  · cases hi

/-- No two fields of a register begin at the same bit. -/
theorem allRegs_fields_nodup : ∀ d ∈ allRegs, (d.fields.map Field.lo).Nodup := by decide +kernel

/-! ## A field's write by its access code (R7, R9) -/

/-- The value of a field after a write of `x` to it, by its access code. -/
def fieldAfter (s : State) (fl : Field) (off x : Nat) : Nat :=
  match fl.acc with
  | .rw => x
  | .rws => x
  | .rwl => x
  | .w1c => (s.get (fl.ref off) ^^^ (s.get (fl.ref off) &&& x)) % 2 ^ fl.width
  | .w1s => (s.get (fl.ref off) ||| x) % 2 ^ fl.width
  | .ro => s.get (fl.ref off)
  | .wo => s.get (fl.ref off)

theorem fieldAfter_congr {s t : State} {fl : Field} {off x : Nat} (h : t.get (fl.ref off) = s.get (fl.ref off)) :
    fieldAfter t fl off x = fieldAfter s fl off x := by
  unfold fieldAfter
  rw [h]

/-- A write of a field changes registers only. -/
theorem writeField_eq (s : State) (fl : Field) (off x : Nat) :
    ∃ m, writeField s fl off x = { s with regs := m } := by
  unfold writeField
  cases fl.acc with
  | rwl =>
    dsimp only
    split
    · exact ⟨s.regs, rfl⟩
    · exact ⟨_, rfl⟩
  | ro | wo => exact ⟨s.regs, rfl⟩
  | _ => exact ⟨_, rfl⟩

theorem writeField_sealed (s : State) (fl : Field) (off x : Nat) : (writeField s fl off x).sealed = s.sealed := by
  obtain ⟨m, h⟩ := writeField_eq s fl off x
  rw [h]

/-- A write of a field leaves every other field alone. -/
theorem get_writeField_other (s : State) (fl : Field) (off x : Nat) {q : Ref} (h : q.key ≠ (fl.ref off).key) :
    (writeField s fl off x).get q = s.get q := by
  have hput (v : Nat) : (s.put (fl.ref off) v).get q = s.get q := State.get_put_other s _ q v h
  unfold writeField
  cases fl.acc with
  | rwl => cases hs : s.sealed <;> simp [hput]
  | ro | wo => rfl
  | _ => exact hput _

/-- What a field holds after its write. -/
theorem get_writeField_same (s : State) (fl : Field) (off : Nat) {x : Nat} (hx : x < 2 ^ fl.width)
    (hs : s.sealed = false ∨ fl.acc ≠ .rwl) : (writeField s fl off x).get (fl.ref off) = fieldAfter s fl off x := by
  have hput (v : Nat) : (s.put (fl.ref off) v).get (fl.ref off) = v % 2 ^ fl.width := State.get_put_same s _ v
  unfold writeField fieldAfter
  cases ha : fl.acc with
  | rw | rws => simp [hput, Nat.mod_eq_of_lt hx]
  | rwl =>
    have hopen : s.sealed = false := hs.resolve_right (fun hne => hne ha)
    simp [hopen, hput, Nat.mod_eq_of_lt hx]
  | w1c | w1s => exact hput _
  | ro | wo => rfl

/-! ## A register's write, field by field -/

theorem writeFields_cons (s : State) (fl : Field) (fs : List Field) (off v : Nat) :
    writeFields s (fl :: fs) off v = writeFields (writeField s fl off (v / 2 ^ fl.lo % 2 ^ fl.width)) fs off v := rfl

/-- A write of a register changes registers only. -/
theorem writeFields_eq (fs : List Field) (off v : Nat) :
    ∀ s : State, ∃ m, writeFields s fs off v = { s with regs := m } := by
  induction fs with
  | nil => exact fun s => ⟨s.regs, rfl⟩
  | cons fl fs ih =>
    intro s
    obtain ⟨m, h⟩ := writeField_eq s fl off (v / 2 ^ fl.lo % 2 ^ fl.width)
    obtain ⟨n, k⟩ := ih { s with regs := m }
    exact ⟨n, by rw [writeFields_cons, h, k]⟩

/-- A write of a register changes no field but its own. -/
theorem get_writeFields_other {fs : List Field} {off v : Nat} {q : Ref} (h : ∀ fl ∈ fs, q.key ≠ (fl.ref off).key) :
    ∀ s : State, (writeFields s fs off v).get q = s.get q := by
  induction fs with
  | nil => intro s; rfl
  | cons fl fs ih =>
    intro s
    rw [writeFields_cons, ih (fun g hg => h g (List.mem_cons_of_mem _ hg)), get_writeField_other _ _ _ _ (h fl List.mem_cons_self)]

theorem ref_key_ne {a b : Field} (h : a.lo ≠ b.lo) (off : Nat) : (a.ref off).key ≠ (b.ref off).key := by
  simp only [Field.ref, ne_eq, Nat.add_left_cancel_iff]
  exact h

/-- Each field of a written register takes its part of the value by its access code. -/
theorem get_writeFields_mem {fs : List Field} {off v : Nat} {fl : Field} (hd : (fs.map Field.lo).Nodup) (hm : fl ∈ fs) :
    ∀ s : State, (s.sealed = false ∨ fl.acc ≠ .rwl) →
      (writeFields s fs off v).get (fl.ref off) = fieldAfter s fl off (v / 2 ^ fl.lo % 2 ^ fl.width) := by
  induction fs with
  | nil => exact absurd hm List.not_mem_nil
  | cons g fs ih =>
    intro s hs
    obtain ⟨hg, hd⟩ := List.nodup_cons.1 hd
    have hne {x : Field} (hx : x ∈ fs) : g.lo ≠ x.lo := fun e => hg (e ▸ List.mem_map_of_mem hx)
    rw [writeFields_cons]
    rcases List.mem_cons.1 hm with rfl | hm
    · rw [get_writeFields_other (fun x hx => ref_key_ne (hne hx) off), get_writeField_same s fl off (Nat.mod_lt _ (Nat.two_pow_pos _)) hs]
    · rw [ih hd hm _ (by rwa [writeField_sealed]), fieldAfter_congr (get_writeField_other _ _ _ _ (ref_key_ne (hne hm).symm off))]

/-! ## A write to a register whose table gives it no further effect -/

/-- The base offsets of the registers whose tables give a write a further effect, or bounds for its value. -/
def effectBases : List Nat :=
  [0x8, 0x1000, 0x1008, 0x1010, 0x10000C, 0x200000, 0x203004, 0x20300C, 0x204000, 0x205004, 0x300004, 0x30000C, 0x400004, 0x40000C,
    0x400020, 0x400028, 0x500004, 0x500100, 0x501000, 0x503104, 0x600000, 0x600008, 0x601004, 0x601008, 0x602000, 0x700008, 0x700010,
    0x700014, 0x1008804, 0x100C700, 0x100A104]

theorem ne_of_not_effectBases {b c : Nat} (h : b ∉ effectBases) (hc : c ∈ effectBases) : b ≠ c := fun e => h (e ▸ hc)

theorem jobRefuses_plain {b : Nat} (h : b ∉ effectBases) (s : State) (g : Agent) : jobRefuses s g b = false := by
  have hne (c : Nat) (hc : c ∈ effectBases) : b ≠ c := ne_of_not_effectBases h hc
  simp [jobRefuses, hne 0x501000 (by decide), hne 0x602000 (by decide), hne 0x700008 (by decide), hne 0x700010 (by decide),
    hne 0x700014 (by decide)]

theorem heldValue_plain {b : Nat} (h : b ∉ effectBases) (s : State) (v : Nat) : heldValue s b v = v := by
  unfold heldValue
  split
  case h_7 => rfl
  all_goals exact absurd (by decide) h

theorem writeEffect_plain {b : Nat} (h : b ∉ effectBases) (s : State) (i j v : Nat) : writeEffect s b i j v = s := by
  unfold writeEffect
  split
  case h_11 => rfl
  all_goals exact absurd (by decide) h

theorem noteWritten_eq (s : State) (d : RegDesc) (off : Nat) : ∃ x, noteWritten s d off = { s with telem := x } := by
  unfold noteWritten
  split
  · exact ⟨_, rfl⟩
  · exact ⟨_, rfl⟩

/-- Such a write gives the fields their values, which telemetry notes, and does no more. -/
theorem writeReg_plain {d : RegDesc} (h : d.base ∉ effectBases) (s : State) (g : Agent) (ix : List Nat) (off v : Nat)
    (hs : s.sealed = false ∨ ∀ fl ∈ d.fields, fl.acc ≠ .rwl) :
    writeReg s g d ix off v = noteWritten (writeFields s d.fields off v) d off := by
  have hseal : (s.sealed && d.fields.any (fun fl => fl.acc = .rwl)) = false := by
    rcases hs with hs | hs
    · rw [hs, Bool.false_and]
    · rw [List.any_eq_false.2 (fun fl hfl => by simp [hs fl hfl]), Bool.and_false]
  unfold writeReg
  simp only [jobRefuses_plain h, Bool.false_eq_true, if_false]
  split
  case h_14 => simp only [hseal, heldValue_plain h, writeEffect_plain h, Bool.false_eq_true, if_false]
  all_goals next he => exact absurd (by rw [he]; decide) h

/-! ## REGISTER_WRITE and register reads -/

theorem exec_registerWrite (g : Agent) (off width v : Nat) (s : State) :
    exec (.registerWrite g off width v) s = execRegisterWrite g off width v s := rfl

/-- A write of a register's own width below 32 MiB writes it, a Frame's through the FIFO. -/
theorem execRegisterWrite_found {s : State} {g : Agent} {off v : Nat} {d : RegDesc} {ix : List Nat} (hv : v < 2 ^ d.width)
    (ho : agentOpen s g off = true) (hlow : off < 0x2000000) (hf : findReg off = some (d, ix)) :
    execRegisterWrite g off d.width v s =
      if 0x1000000 ≤ off ∧ off < 0x1400000 then
        viaCtl s g ((off - 0x1000000) / 0x10000) off v (finish (writeReg s g d ix off v))
      else finish (writeReg s g d ix off v) := by
  have hbar4 : ¬ bar4Base ≤ off := by unfold bar4Base; omega
  simp [execRegisterWrite, Nat.not_le.2 hv, ho, hbar4, Nat.not_le.2 hlow, hf]

/-- A Frame's register is written at once where its Frame has a clock edge and no write waits. -/
theorem viaCtl_now {s : State} {f : Nat} (hf : frameStill s f = false) (hc : s.ctlIn = []) (g : Agent) (off v : Nat)
    (op : Host.Outcome State Fault Refusal) : viaCtl s g f off v op = op := by
  simp [viaCtl, hf, hc]

/-- A write waits in the FIFO where its Frame has no clock edge or earlier ones wait (R223, R226). -/
theorem viaCtl_waits {s : State} {f : Nat} (hw : frameStill s f = true ∨ s.ctlIn ≠ []) (hroom : s.ctlIn.length < 16) (g : Agent)
    (off v : Nat) (op : Host.Outcome State Fault Refusal) :
    viaCtl s g f off v op = .next { s with ctlIn := s.ctlIn ++ [(g, off, v)] } := by
  have hcond : (frameStill s f || !s.ctlIn.isEmpty) = true := by
    rcases hw with hw | hw
    · simp [hw]
    · simp [hw]
  simp only [viaCtl, hcond, if_true, fifoDepth, hroom]

/-- A write of another width, or where no register is, changes nothing (R10). -/
theorem execRegisterWrite_dropped {s : State} {g : Agent} {off width v : Nat} (hv : v < 2 ^ width)
    (hf : ∀ (d : RegDesc) (ix : List Nat), findReg off = some (d, ix) → width ≠ d.width) (hhigh : 0x2000000 ≤ off → width ≠ 32) :
    execRegisterWrite g off width v s = .next s := by
  unfold execRegisterWrite
  rw [if_neg (Nat.not_le.2 hv)]
  split
  · rfl
  by_cases hlow : off < 0x2000000
  · have hbar4 : ¬ bar4Base ≤ off := by unfold bar4Base; omega
    rw [if_neg hbar4, if_neg (Nat.not_le.2 hlow)]
    split
    · rfl
    · next d ix he => rw [if_pos (hf d ix he)]
  · have hw : width ≠ 32 := hhigh (Nat.not_lt.1 hlow)
    simp [hw, Nat.not_lt.1 hlow]

/-- A read of another width, or where no register is, returns 0 (R10). -/
theorem readReg_dropped {s : State} {g : Agent} {off width : Nat}
    (hf : ∀ (d : RegDesc) (ix : List Nat), findReg off = some (d, ix) → width ≠ d.width) (hhigh : 0x2000000 ≤ off → width ≠ 32) :
    readReg s g off width = 0 := by
  unfold readReg
  split
  · rfl
  by_cases hbar4 : bar4Base ≤ off
  · have hw : width ≠ 32 := hhigh (by unfold bar4Base at hbar4; omega)
    simp [hbar4, hw]
  · rw [if_neg hbar4]
    split
    · rfl
    · next d ix he => rw [if_pos (hf d ix he)]

/-- What a write of a register without a further effect leaves, said of the state that its command answers. -/
theorem evRefresh_writeReg_plain {s : State} {g : Agent} {off v : Nat} {d : RegDesc} {ix : List Nat} (hm : d ∈ allRegs)
    (hb : d.base ∉ effectBases) (hs : s.sealed = false ∨ ∀ fl ∈ d.fields, fl.acc ≠ .rwl) :
    let t := evRefresh (writeReg s g d ix off v)
    SameRegs s t (d.fields.map (fun fl => (fl.ref off).key)) ∧ t.mem = s.mem ∧ t.log = s.log ∧
      ∀ fl ∈ d.fields, t.get (fl.ref off) = fieldAfter s fl off (v / 2 ^ fl.lo % 2 ^ fl.width) := by
  obtain ⟨x, hx⟩ := noteWritten_eq (writeFields s d.fields off v) d off
  obtain ⟨m, hw⟩ := writeFields_eq d.fields off v s
  have hget (q : Ref) : (evRefresh (writeReg s g d ix off v)).get q = (writeFields s d.fields off v).get q := by
    rw [State.get_evRefresh, writeReg_plain hb s g ix off v hs, hx]
    rfl
  refine ⟨fun q hq => ?_, ?_, ?_, fun fl hfl => ?_⟩
  · rw [hget, get_writeFields_other (fun fl hfl e => hq (e ▸ List.mem_map_of_mem hfl))]
  · rw [evRefresh_mem, writeReg_plain hb s g ix off v hs, hx, hw]
  · rw [evRefresh_log, writeReg_plain hb s g ix off v hs, hx, hw]
  · rw [hget, get_writeFields_mem (allRegs_fields_nodup d hm) hfl s (hs.imp_right (fun h => h fl hfl))]

/-- Settles O55, field by field: the fields of a register begin at distinct bits, so each write of one leaves the others alone, and a
register outside `effectBases` is written by its access codes only. -/
theorem registerWrites : Obligations.RegisterWrites := by
  intro s g off width v hv ho
  refine ⟨?_, ?_, ?_, fun d ix hf => findReg_aligned hf⟩
  · rintro d ix hlow hf rfl hb hs hclk
    refine ⟨_, ?_, evRefresh_writeReg_plain (g := g) (ix := ix) (findReg_mem hf).1 hb hs⟩
    rw [exec_registerWrite, execRegisterWrite_found hv ho hlow hf]
    split
    · next hframe =>
      obtain ⟨hstill, hctl⟩ := hclk hframe.1
      rw [viaCtl_now hstill hctl, finish]
    · rfl
  · rintro d ix hlo hhi hf rfl hw hroom
    rw [exec_registerWrite, execRegisterWrite_found hv ho (by omega) hf, if_pos ⟨hlo, hhi⟩, viaCtl_waits hw hroom]
  · intro hf hhigh
    exact ⟨execRegisterWrite_dropped hv hf hhigh, readReg_dropped hf hhigh⟩

/-! ## Writes with rows of their own -/

/-- KWATCH sets both fields of INT_KWATCHw (R360). -/
theorem exec_kwatch_effect {s : State} (ho : agentOpen s .studio 0x204000 = true) (w : Fin 256) (v : BitVec 64) :
    RegEffect s [(Reg.INT_KWATCHw_THRESH w, v.toNat / 2 ^ 32), (Reg.INT_KWATCHw_KNOT w, v.toNat % 2 ^ 14)] (exec (.kwatch w v) s) := by
  have he : exec (.kwatch w v) s = finish (setKwatch s w v.toNat) := if_pos ho
  have hv : v.toNat / 2 ^ 32 < 2 ^ 32 := Nat.div_lt_of_lt_mul v.isLt
  rw [he]
  refine finish_regEffect (m := (setKwatch s w v.toNat).regs) ?_
  refine ((Sets.refl s).put (Reg.INT_KWATCHw_THRESH w) (Nat.mod_eq_of_lt hv) (by simp)).put (Reg.INT_KWATCHw_KNOT w)
    (Nat.mod_mod _ _) ?_
  simp [Reg.INT_KWATCHw_THRESH, Reg.INT_KWATCHw_KNOT]

/-- SWSET sets bits of INT_SWSETr (R362). -/
theorem exec_swset_effect {s : State} (ho : hostOpen s 0x205000 = true) (r : Fin 8) (v : BitVec 32) :
    RegEffect s [(Reg.INT_SWSETr_BITS r, (s.get (Reg.INT_SWSETr_BITS r) ||| v.toNat) % 2 ^ 32)] (exec (.swset r v) s) := by
  have he : exec (.swset r v) s = finish (s.put (Reg.INT_SWSETr_BITS r) (s.get (Reg.INT_SWSETr_BITS r) ||| v.toNat)) := if_pos ho
  rw [he]
  exact finish_regEffect ((Sets.refl s).put _ rfl (by simp))

/-- READY_ACK sets its bit (R352). -/
theorem exec_readyAck_effect {s : State} (ho : hostOpen s 4 = true) : RegEffect s [(Reg.HIF_CTL_READY_ACK, 1)] (exec .readyAck s) := by
  have he : exec .readyAck s = finish (s.put Reg.HIF_CTL_READY_ACK 1) := if_pos ho
  rw [he]
  exact finish_regEffect ((Sets.refl s).put _ rfl (by simp))

/-- ACTIVATE marks the staged slot pending, in its register and in the flash (R384). -/
theorem exec_activate_staged {s : State} (ho : hostOpen s 0x10000C = true) (hst : s.get Reg.STU_FW_CTL_STAGED = 2) :
    Answers .activate s (fun t => Sets s t [(Reg.STU_FW_CTL_PENDING, 1)] ∧
      t = { s with regs := t.regs, flash := { s.flash with pend := some (1 - s.boot.slot.getD 0) } }) := by
  have he : exec .activate s = .next (activateStaged s) := if_pos ho
  have ha : activateStaged s = { s.put Reg.STU_FW_CTL_PENDING 1 with
      flash := { s.flash with pend := some (1 - s.boot.slot.getD 0) } } := if_pos hst
  exact ⟨_, he.trans (congrArg _ ha), (Sets.refl s).put (v := 1) Reg.STU_FW_CTL_PENDING rfl (by simp), rfl⟩

/-! ## BAR2: its size (R3, R340) -/

theorem mem_bar2Sizes {s : State} {n : Nat} : n ∈ bar2Sizes s ↔ ∃ i, i < (if s.fit2T then 12 else 11) ∧ 2 ^ (30 + i) = n := by
  simp [bar2Sizes]

theorem exec_bar2Resize_offered {s : State} (ho : hostOpen s 0 = true) {n : Nat} (hn : n ∈ bar2Sizes s) :
    exec (.bar2Resize n) s = .next { s with bar2Size := n } :=
  if_pos ⟨ho, List.contains_iff_mem.2 hn⟩

theorem exec_bar2Resize_refused {s : State} {n : Nat} (hn : n ∉ bar2Sizes s) : exec (.bar2Resize n) s = .next s :=
  if_neg (fun h => hn (List.contains_iff_mem.1 h.2))

/-- The 1 TiB variants offer no size above 1 TiB. -/
theorem bar2Sizes_le {s : State} (h : s.fit2T = false) {n : Nat} (hn : n ∈ bar2Sizes s) : n ≤ 2 ^ 40 := by
  obtain ⟨i, hi, rfl⟩ := mem_bar2Sizes.1 hn
  simp only [h, Bool.false_eq_true, if_false] at hi
  exact Nat.pow_le_pow_right (by omega) (by omega)

/-! ## BAR2: reads of good blocks (R203) -/

/-- Every block that a range touches holds an address of the range. -/
theorem exists_of_mem_blocksOf {a n b : Nat} (h : b ∈ blocksOf a n) : ∃ x, a ≤ x ∧ x < a + n ∧ x / 64 = b / 64 := by
  unfold blocksOf at h
  split at h
  · exact absurd h List.not_mem_nil
  · obtain ⟨i, hi, rfl⟩ := List.mem_map.1 h
    have hi := List.mem_range.1 hi
    exact ⟨max a (64 * (a / 64 + i)), by omega, by omega, by omega⟩

theorem blocksOf_good {s : State} {a n : Nat} (h : ∀ x, a ≤ x → x < a + n → isBad s x = false) :
    ∀ b ∈ blocksOf a n, isBad s b = false := by
  intro b hb
  obtain ⟨x, hlo, hhi, hx⟩ := exists_of_mem_blocksOf hb
  have hgood := h x hlo hhi
  unfold isBad at hgood ⊢
  rwa [← hx]

theorem firstBad_none {s : State} {bl : List Nat} (h : ∀ b ∈ bl, isBad s b = false) : firstBad s bl = none :=
  List.find?_eq_none.2 (fun b hb => by simp [h b hb])

theorem countBad_none {s : State} {bl : List Nat} (h : ∀ b ∈ bl, isBad s b = false) : countBad s bl = s := by
  unfold countBad
  induction bl with
  | nil => rfl
  | cons b bl ih =>
    rw [List.foldl_cons, if_neg (by simp [h b List.mem_cons_self])]
    exact ih (fun c hc => h c (List.mem_cons_of_mem _ hc))

/-- Within LPDDR memory holds the bytes at their own addresses. -/
theorem rawBytes_lpddr {s : State} {a n : Nat} (h : a + n ≤ lpddrSize s) : rawBytes s a n = sgetList 0 s.mem a n := by
  induction n generalizing a with
  | zero => rfl
  | succ n ih =>
    have hreg : regionOf s a = .lpddr := if_pos (by omega)
    simp only [rawBytes, sgetList, rawByte, hreg, ih (show a + 1 + n ≤ lpddrSize s by omega)]

theorem chanRead_good {s : State} {a n : Nat} (hsize : a + n ≤ lpddrSize s) (h : ∀ x, a ≤ x → x < a + n → isBad s x = false) :
    chanRead s a n = ⟨s, sgetList 0 s.mem a n, none⟩ := by
  have hgood := blocksOf_good h
  simp only [chanRead, countBad_none hgood, rawBytes_lpddr hsize, firstBad_none hgood]

theorem bar2Held_read {s : State} {a n : Nat} (h : ∀ g ∈ gransOf a n, chanPaused s g = false) : bar2Held s a n false = false :=
  List.any_eq_false.2 (fun g hg => by simp [h g hg])

theorem bar2Held_write {s : State} {a n : Nat} (h : ∀ g ∈ gransOf a n, chanFull s g = false) : bar2Held s a n true = false :=
  List.any_eq_false.2 (fun g hg => by simp [h g hg])

/-! ## BAR2: writes of good blocks (R203) -/

theorem sputList_append {α : Type} [DecidableEq α] (z : α) (d e : List α) :
    ∀ (m : Sparse α) (k : Nat), sputList z m k (d ++ e) = sputList z (sputList z m k d) (k + d.length) e := by
  induction d with
  | nil => intro m k; rfl
  | cons v d ih =>
    intro m k
    simp only [List.cons_append, sputList, ih, List.length_cons]
    rw [Nat.add_right_comm, Nat.add_assoc]

theorem mirror_eq (s : State) (a : Nat) (d : List Byte) : ∃ p, mirror s a d = { s with spare := p } := by
  unfold mirror
  split
  · split
    · exact ⟨_, rfl⟩
    · exact ⟨_, rfl⟩
  · exact ⟨_, rfl⟩

theorem queueWrite_eq (s : State) (g : Nat) : ∃ q, queueWrite s g = { s with chanQ := q } := by
  unfold queueWrite
  split
  · exact ⟨_, rfl⟩
  · exact ⟨_, rfl⟩

/-- `s` after a write of `d` at `a` beneath the cache: of all else only the check of written blocks and a spare under repair may differ. -/
def Written (s t : State) (a : Nat) (d : List Byte) : Prop :=
  t = { s with mem := sputList 0 s.mem a d, bad := t.bad, spare := t.spare } ∧ ∀ x, isBad s x = false → isBad t x = false

theorem Written.nil (s : State) (a : Nat) : Written s s a [] := ⟨rfl, fun _ h => h⟩

theorem Written.append {s t u : State} {a : Nat} {d e : List Byte} (h : Written s t a d) (k : Written t u (a + d.length) e) :
    Written s u a (d ++ e) := by
  obtain ⟨ht, hbt⟩ := h
  obtain ⟨hu, hbu⟩ := k
  refine ⟨?_, fun x hx => hbu x (hbt x hx)⟩
  rw [sputList_append, hu, ht]

/-- A block that passes its check takes its bytes. -/
theorem chanWriteBlock_good {s : State} {a : Nat} (d : List Byte) (h : isBad s a = false) :
    ∃ t, chanWriteBlock s a d = ⟨t, [], none⟩ ∧ Written s t a d := by
  obtain ⟨p, hp⟩ := mirror_eq s a d
  unfold chanWriteBlock
  rw [hp]
  split
  · refine ⟨_, rfl, rfl, fun x hx => ?_⟩
    unfold isBad at hx ⊢
    simp only [sget_sput, hx, ite_self]
  · rw [if_neg (by simp [h])]
    exact ⟨_, rfl, rfl, fun _ hx => hx⟩

/-- A write whose blocks all pass their check stores its bytes, with fuel for every block it touches. -/
theorem chanWriteGo_good {fuel : Nat} : ∀ {s : State} {a : Nat} {d : List Byte}, d.length ≤ 64 * fuel - a % 64 →
    (∀ x, a ≤ x → x < a + d.length → isBad s x = false) →
    ∃ t, chanWriteGo s a d none fuel = ⟨t, [], none⟩ ∧ Written s t a d := by
  induction fuel with
  | zero =>
    intro s a d hlen _
    obtain rfl : d = [] := List.eq_nil_of_length_eq_zero (by omega)
    exact ⟨s, rfl, Written.nil s a⟩
  | succ k ih =>
    intro s a d hlen hgood
    cases hd : d with
    | nil => exact ⟨s, rfl, Written.nil s a⟩
    | cons b r =>
      rw [← hd]
      have hpos : 0 < d.length := by simp [hd]
      have hne : d.isEmpty = false := by simp [hd]
      obtain ⟨n, hn⟩ : ∃ n, n = min d.length (64 - a % 64) := ⟨_, rfl⟩
      have htake : (d.take n).length = n := by rw [List.length_take]; omega
      obtain ⟨t, hblock, hst⟩ := chanWriteBlock_good (d.take n) (hgood a (Nat.le_refl a) (by omega))
      have hrest : ∀ x, a + n ≤ x → x < a + n + (d.drop n).length → isBad t x = false := by
        intro x hlo hhi
        rw [List.length_drop] at hhi
        obtain ⟨-, hstill⟩ := hst
        exact hstill x (hgood x (by omega) (by omega))
      obtain ⟨u, hgo, htu⟩ := ih (s := t) (a := a + n) (d := d.drop n) (by rw [List.length_drop]; omega) hrest
      refine ⟨u, ?_, ?_⟩
      · simp only [chanWriteGo, hne, Bool.false_eq_true, if_false, ← hn, hblock, Option.or_none]
        exact hgo
      · rw [← List.take_append_drop n d]
        exact hst.append (by rwa [htake])

/-- A write at the controller whose blocks all pass their check. -/
theorem chanWrite_good {s : State} {a : Nat} {d : List Byte} (h : ∀ x, a ≤ x → x < a + d.length → isBad s x = false) :
    ∃ t, chanWrite s a d = ⟨t, [], none⟩ ∧ t.mem = sputList 0 s.mem a d ∧ t.regs = s.regs ∧ t.log = s.log := by
  obtain ⟨q, hq⟩ := queueWrite_eq s (a / 256)
  obtain ⟨t, hgo, ht, -⟩ := chanWriteGo_good (s := { s with chanQ := q }) (a := a) (d := d) (fuel := d.length / 64 + 2) (by omega) h
  refine ⟨t, ?_, ?_, ?_, ?_⟩
  · rw [chanWrite, hq, hgo]
  all_goals rw [ht]

/-! ## BAR2: the commands -/

theorem exec_bar2Read (ofs n : Nat) (s : State) : exec (.bar2Read ofs n) s = execBar2Read ofs n s := rfl

theorem exec_bar2Write (ofs : Nat) (d : List Byte) (s : State) : exec (.bar2Write ofs d) s = execBar2Write ofs d s := rfl

/-- A read through BAR2 of good blocks within LPDDR. -/
theorem exec_bar2Read_good {s : State} {ofs n : Nat} (ho : bar2Open s ofs n = true)
    (hsize : s.get Reg.HIF_BAR2_BASE_BASE + ofs + n ≤ lpddrSize s)
    (hgood : ∀ x, s.get Reg.HIF_BAR2_BASE_BASE + ofs ≤ x → x < s.get Reg.HIF_BAR2_BASE_BASE + ofs + n → isBad s x = false)
    (hrun : ∀ g ∈ gransOf (s.get Reg.HIF_BAR2_BASE_BASE + ofs) n, chanPaused s g = false) :
    exec (.bar2Read ofs n) s =
      .next { s with hostRead := sgetList 0 s.mem (s.get Reg.HIF_BAR2_BASE_BASE + ofs) n, hostAbort := false } := by
  simp only [exec_bar2Read, execBar2Read, ho, Nat.not_lt.2 hsize, bar2Held_read hrun, chanRead_good hsize hgood,
    Bool.true_eq_false, Bool.false_eq_true, if_false, setRead]

/-- A write through BAR2 of good blocks within LPDDR. -/
theorem exec_bar2Write_good {s : State} {ofs : Nat} {d : List Byte} (ho : bar2Open s ofs d.length = true)
    (hsize : s.get Reg.HIF_BAR2_BASE_BASE + ofs + d.length ≤ lpddrSize s)
    (hgood : ∀ x, s.get Reg.HIF_BAR2_BASE_BASE + ofs ≤ x → x < s.get Reg.HIF_BAR2_BASE_BASE + ofs + d.length → isBad s x = false)
    (hroom : ∀ g ∈ gransOf (s.get Reg.HIF_BAR2_BASE_BASE + ofs) d.length, chanFull s g = false) :
    Answers (.bar2Write ofs d) s (fun t => Stored s t (s.get Reg.HIF_BAR2_BASE_BASE + ofs) d ∧ SameRegs s t [] ∧ t.log = s.log) := by
  obtain ⟨t, hw, hmem, hregs, hlog⟩ := chanWrite_good hgood
  refine ⟨t, ?_, ⟨?_, fun x hx => ?_⟩, fun q _ => ?_, hlog⟩
  · simp only [exec_bar2Write, execBar2Write, ho, Nat.not_lt.2 hsize, bar2Held_write hroom, hw, Bool.true_eq_false, Bool.false_eq_true, if_false]
  · rw [hmem, sgetList_sputList]
  · rw [hmem, sget_sputList_other _ _ _ _ _ hx]
  · rw [State.get, hregs, State.get]

/-- Settles O56, a clause for each command; a BAR2 access of good blocks counts no error, and a write's blocks join up to its bytes. -/
theorem hostAccesses : Obligations.HostAccesses := by
  intro s
  refine ⟨exec_kwatch_effect, exec_swset_effect, exec_readyAck_effect, exec_activate_staged, ?_, ?_, ?_, ?_, ?_⟩
  · intro ho hjob
    exact if_neg (by simp [ho, hjob])
  · intro ho i hi
    exact exec_bar2Resize_offered ho (mem_bar2Sizes.2 ⟨i, hi, rfl⟩)
  · intro h1T n hn
    exact exec_bar2Resize_refused (fun hmem => Nat.not_le.2 hn (bar2Sizes_le h1T hmem))
  · intro ofs n
    exact exec_bar2Read_good
  · intro ofs d
    exact exec_bar2Write_good

end Sys2Proof.Machine
end

section
/-! PROOFS. Scope: loads and stores at core addresses, and the accesses and fetches that halt their core (R134, R238, R239). -/
namespace Sys2Proof.Machine

/-! ## The extension of what a load reads -/

theorem signed_eq_toInt (w x : Nat) : signed w x = (BitVec.ofNat w x).toInt := by
  rw [BitVec.toInt_eq_toNat_cond, BitVec.toNat_ofNat]
  rfl

/-- The model's sign extension of the low `w` bits is that of a word of `w` bits. -/
theorem sextN_eq_signExtend (w : Nat) : sextN w = fun v => (BitVec.ofNat w v).signExtend 64 := by
  funext v
  rw [sextN, signed_eq_toInt]
  rfl

/-- A load that extends the sign, in the words of the claim. -/
theorem loadOp_sext_result {s : State} {f : Fin 64} {c : Fin 4} (maj : Nat) (d a : Fin 32) (imm : BitVec 16) (n w : Nat)
    (h : Ready s f c (encI maj d a imm)) :
    LoadResult s f c d (coreAddr s f c a imm) n (fun v => (BitVec.ofNat w v).signExtend 64)
      (loadOp maj f c d a imm n (sextN w) .ok s) := by
  rw [← sextN_eq_signExtend]
  exact loadOp_result maj d a imm n _ h

/-! ## Accesses that halt the core (R238) -/

/-- Table 10-1 gives an address that is misaligned, or in neither memory, no place. -/
theorem placeOf_bad {a : W64} {n : Nat} (hs : ¬ inSram a.toNat n) (hm : ¬ inFmem a.toNat n) : placeOf a n = .bad := by
  unfold placeOf
  by_cases halign : a.toNat % n = 0
  · have hlow : ¬ a.toNat < 0x20000 := fun h => hs ⟨halign, h⟩
    have hframe : ¬ (0x10000000 ≤ a.toNat ∧ a.toNat < 0x11000000) := fun h => hm ⟨halign, h⟩
    simp only [halign, ne_eq, not_true_eq_false, if_false, hlow, hframe]
  · exact if_pos halign

theorem placeOf_effAddr_bad {s : State} {f c a n : Nat} {imm : BitVec 16} (hs : ¬ inSram (coreAddr s f c a imm) n)
    (hm : ¬ inFmem (coreAddr s f c a imm) n) : placeOf (effAddr s f c a imm) n = .bad := placeOf_bad hs hm

/-- A load elsewhere than Table 10-1 halts its core, whatever a check of the memory would have found. -/
theorem loadOp_faults {s : State} {f : Fin 64} {c : Fin 4} (maj : Nat) (d a : Fin 32) (imm : BitVec 16) (n : Nat)
    (ext : Nat → W64) (ecc : Ecc) (h : Ready s f c (encI maj d a imm)) (hs : ¬ inSram (coreAddr s f c a imm) n)
    (hm : ¬ inFmem (coreAddr s f c a imm) n) :
    CoreFaults s f c 1 (coreAddr s f c a imm) (loadOp maj f c d a imm n ext ecc s) := by
  rw [loadOp, coreStep_ready h, placeOf_effAddr_bad hs hm]
  rfl

/-- A store elsewhere than Table 10-1 halts its core. -/
theorem storeOp_faults {s : State} {f : Fin 64} {c : Fin 4} (maj : Nat) (b a : Fin 32) (imm : BitVec 16) (n : Nat)
    (h : Ready s f c (encI maj b a imm)) (hs : ¬ inSram (coreAddr s f c a imm) n) (hm : ¬ inFmem (coreAddr s f c a imm) n) :
    CoreFaults s f c 1 (coreAddr s f c a imm) (storeOp maj f c b a imm n s) := by
  rw [storeOp, coreStep_ready h, placeOf_effAddr_bad hs hm]
  rfl

/-! ## Fetches that halt the core (R239) -/

theorem running_of_clauses {s : State} {f c : Nat} (hrun : s.cState f c = 1) (hpower : s.get (Reg.FRM_PWRCTL_GATED f) = 0)
    (hknot : (s.core f c).kread = none) (hmoves : frameStill s f = false) : running s f c = true := by
  simp [running, hrun, hpower, hknot, hmoves]

theorem fetchOk_eq_false {s : State} {f c : Nat} (h : s.pc f c % 4 ≠ 0 ∨ s.get (Reg.FRM_SEGs_LIM_LIMIT f 0) ≤ s.pc f c) :
    fetchOk s f c = false := by
  rcases h with halign | hlimit
  · simp [fetchOk, halign]
  · simp [fetchOk, Nat.not_lt.2 hlimit]

/-- A running core whose PC may not be fetched from halts, whatever instruction `w` with effect `op` would stand there. -/
theorem coreStep_faults {s : State} {f : Fin 64} {c : Fin 4} (hrun : running s f c = true) (hfetch : fetchOk s f c = false)
    (w : Nat) (op : Host.Outcome State Fault Refusal) : CoreFaults s f c 1 (s.pc f c) (coreStep s f c w op) := by
  simp only [CoreFaults, coreStep, coreRun, hrun, hfetch, if_true, Bool.false_eq_true, if_false, finish]

/-! ## The obligation -/

/-- Settles O8: `exec` of each mnemonic is the shared load, store or core step with that row's major code, width and extension, of which
one law each says what it does and when it halts the core. -/
theorem coreAddresses : Obligations.CoreAddresses := by
  refine ⟨fun s f c d a imm => ?loads, fun s f c b a imm => ?stores, fun s f c d a imm ecc => ⟨?accesses, ?fetches⟩⟩
  case loads =>
    exact ⟨loadOp_sext_result 0x10 d a imm 1 8, loadOp_result 0x11 d a imm 1 zextN, loadOp_sext_result 0x12 d a imm 2 16,
      loadOp_result 0x13 d a imm 2 zextN, loadOp_sext_result 0x14 d a imm 4 32, loadOp_result 0x15 d a imm 4 zextN,
      loadOp_result 0x16 d a imm 8 zextN⟩
  case stores =>
    exact ⟨storeOp_result 0x18 b a imm 1, storeOp_result 0x19 b a imm 2, storeOp_result 0x1A b a imm 4, storeOp_result 0x1B b a imm 8⟩
  case accesses =>
    exact ⟨loadOp_faults 0x10 d a imm 1 (sextN 8) ecc, loadOp_faults 0x11 d a imm 1 zextN ecc,
      loadOp_faults 0x12 d a imm 2 (sextN 16) ecc, loadOp_faults 0x13 d a imm 2 zextN ecc,
      loadOp_faults 0x14 d a imm 4 (sextN 32) ecc, loadOp_faults 0x15 d a imm 4 zextN ecc, loadOp_faults 0x16 d a imm 8 zextN ecc,
      storeOp_faults 0x18 d a imm 1, storeOp_faults 0x19 d a imm 2, storeOp_faults 0x1A d a imm 4, storeOp_faults 0x1B d a imm 8⟩
  case fetches =>
    intro hrun hpower hknot hmoves hpc
    have hsteps := coreStep_faults (running_of_clauses hrun hpower hknot hmoves) (fetchOk_eq_false hpc)
    exact ⟨hsteps _ _, hsteps _ _⟩

end Sys2Proof.Machine
end

section
/-! PROOFS. Scope: claims, completions and messages of the event controller (R355 to R357, R359), and the double words of BAR4. -/
namespace Sys2Proof.Machine

/-! ## Rules for register effects -/

/-- The register effect of a state is read off its registers alone. -/
theorem Sets.of_regs_eq {s t u : State} {l : List (Ref × Nat)} (h : Sets s t l) (hr : u.regs = t.regs) : Sets s u l := by
  obtain ⟨hset, hsame⟩ := h
  have hget (q : Ref) : u.get q = t.get q := by unfold State.get; rw [hr]
  exact ⟨fun p hp => (hget _).trans (hset p hp), fun q hq => (hget q).trans (hsame q hq)⟩

theorem Sets.of_perm {s t : State} {l l' : List (Ref × Nat)} (h : Sets s t l) (hl : l.Perm l') : Sets s t l' := by
  obtain ⟨hset, hsame⟩ := h
  exact ⟨fun p hp => hset p (hl.mem_iff.2 hp), fun q hq => hsame q (fun hm => hq ((hl.map _).mem_iff.1 hm))⟩

theorem SameRegs.of_regs_eq {s t : State} (h : t.regs = s.regs) (ks : List Nat) : SameRegs s t ks := by
  intro q _
  unfold State.get
  rw [h]

/-! ## The claim of the best source (R356) -/

/-- In a map of canonical form the keys rise. -/
theorem lt_of_sabove {α : Type} {b : Nat} {m : Sparse α} (h : sabove b m = true) : ∀ p ∈ m, b < p.1 := by
  induction m with
  | nil => exact fun p hp => absurd hp List.not_mem_nil
  | cons q m ih =>
    obtain ⟨k, v⟩ := q
    simp only [sabove, Bool.and_eq_true, decide_eq_true_eq] at h
    obtain ⟨hk, hm⟩ := h
    intro p hp
    rcases List.mem_cons.1 hp with rfl | hp
    · exact hk
    · exact ih hm p hp

theorem pairwise_of_scanon {α : Type} [DecidableEq α] {d : α} {m : Sparse α} (h : scanon d m = true) :
    m.Pairwise (fun p q => p.1 < q.1) := by
  induction m with
  | nil => exact List.Pairwise.nil
  | cons q m ih =>
    obtain ⟨k, v⟩ := q
    simp only [scanon, Bool.and_eq_true] at h
    obtain ⟨⟨habove, -⟩, hm⟩ := h
    exact List.Pairwise.cons (lt_of_sabove habove) (ih hm)

/-- The sources with a priority stand in rising order, as their registers do. -/
theorem prioSources_ascend {s : State} (h : scanon 0 s.regs = true) : (prioSources s).Pairwise (· < ·) := by
  refine (pairwise_of_scanon h).filterMap _ (fun p q hlt x hx y hy => ?_)
  simp only [Option.ite_none_right_eq_some, Option.some.injEq] at hx hy
  obtain ⟨⟨_, _, _⟩, rfl⟩ := hx
  obtain ⟨⟨_, _, _⟩, rfl⟩ := hy
  omega

theorem deliverables_ascend {s : State} (h : scanon 0 s.regs = true) (t : Nat) : (deliverables s t).Pairwise (· < ·) :=
  (prioSources_ascend h).filter _

/-- `x` is the source of the highest PRIO in `l` and, of those, the lowest number. -/
def BestOf (s : State) (l : List Nat) (x : Nat) : Prop :=
  x ∈ l ∧ ∀ y ∈ l, srcPrio s y < srcPrio s x ∨ (srcPrio s y = srcPrio s x ∧ x ≤ y)

/-- The best source of a list is the best of each part of it that holds it. -/
theorem BestOf.of_subset {s : State} {l l' : List Nat} {x : Nat} (h : BestOf s l x) (hx : x ∈ l') (hl : l' ⊆ l) : BestOf s l' x :=
  ⟨hx, fun y hy => h.2 y (hl hy)⟩

/-- The search goes on with the better of the best so far and the next source: the later one only where its PRIO is higher. -/
theorem bestSource_eq_of_bestOf {s : State} {x : Nat} {l : List Nat} :
    ∀ {b : Nat}, (b :: l).Pairwise (· < ·) → BestOf s (b :: l) x → bestSource s l (some b) = some x := by
  induction l with
  | nil =>
    intro b _ h
    obtain ⟨hx, -⟩ := h
    rw [List.mem_singleton.1 hx]
    rfl
  | cons y l ih =>
    intro b hasc h
    obtain ⟨hx, hbest⟩ := h
    have hby : b < y := List.rel_of_pairwise_cons hasc List.mem_cons_self
    simp only [bestSource]
    split
    · next hlt =>
      have hne : x ≠ b := by
        rintro rfl
        have := hbest y (by simp)
        omega
      exact ih hasc.of_cons (BestOf.of_subset ⟨hx, hbest⟩ ((List.mem_cons.1 hx).resolve_left hne) (by simp))
    · next hle =>
      have hne : x ≠ y := by
        rintro rfl
        have := hbest b (by simp)
        omega
      have hmem : x ∈ b :: l := by simpa [hne] using hx
      exact ih (hasc.sublist (by simp)) (BestOf.of_subset ⟨hx, hbest⟩ hmem (by simp))

theorem claim_none {s : State} {t : Nat} (h : deliverables s t = []) : claim s t = ({ s with active := s.active }, none) := by
  simp [claim, h, bestSource]

theorem claim_best {s : State} {t x : Nat} (hs : scanon 0 s.regs = true) (h : BestOf s (deliverables s t) x) :
    claim s t = ({ s with active := s.active ++ [⟨x, t, false⟩] }, some x) := by
  have hasc := deliverables_ascend hs t
  have hsome : bestSource s (deliverables s t) none = some x := by
    cases hl : deliverables s t with
    | nil =>
      rw [hl] at h
      exact absurd h.1 List.not_mem_nil
    | cons b l =>
      rw [hl] at h hasc
      exact bestSource_eq_of_bestOf hasc h
  simp only [claim, hsome]

/-! ## Completions (R357) -/

/-- A completion of a source that its target has claimed takes the claim away; of the registers it writes at most the source's PRIO
and TARGET, where a write to them has waited. -/
theorem complete_claimed {s : State} {t x : Nat} (h : ∃ a ∈ s.active, a.src = x ∧ a.target = t) :
    (complete s t x).active = s.active.filter (fun a => a.src ≠ x) ∧
      ∀ q : Ref, q.key ≠ (Reg.INT_SRCs_CFG_PRIO x).key → q.key ≠ (Reg.INT_SRCs_CFG_TARGET x).key →
        (complete s t x).get q = s.get q := by
  have hany : s.active.any (fun a => a.src = x && a.target = t) = true := by simpa using h
  simp only [complete, hany, if_true]
  split
  · exact ⟨rfl, fun _ _ _ => rfl⟩
  · refine ⟨rfl, fun q hprio htarget => ?_⟩
    rw [setSrcCfg, State.get_put_other _ _ _ _ htarget, State.get_put_other _ _ _ _ hprio]
    rfl

theorem complete_spurious {s : State} {t x : Nat} (h : ∀ a ∈ s.active, ¬ (a.src = x ∧ a.target = t)) :
    complete s t x = s.bump Reg.INT_SPURIOUS_DONE_COUNT 1 :=
  if_neg (by simpa using h)

/-! ## The refresh keeps claims and messages -/

/-- The claims that stand: each source with the target that has claimed it. -/
def State.claims (s : State) : List (Nat × Nat) := s.active.map (fun a => (a.src, a.target))

/-- The refresh notes which claimed sources have dropped; the claims stay. -/
@[simp] theorem evRefresh_claims (s : State) : (evRefresh s).claims = s.claims := by
  have hactive : (evRefresh s).active = s.active.map (fun a => if srcLevel s a.src then a else { a with dropped := true }) := by
    unfold evRefresh
    extract_lets act t now u
    obtain ⟨w, hw⟩ := latchWakes_eq { s with active := act }
    have ht : t.active = act := by simp only [t, hw]
    have hu : u.active = t.active := by
      simp only [u]
      split
      · obtain ⟨m, p, h⟩ := sendMsixs_eq (fun s x => s.get (Reg.INT_SRCs_CFG_VEC x)) (now.filter (fun x => !t.ready.contains x)) t
        rw [h]
      · rfl
    exact hu.trans ht
  rw [State.claims, hactive, List.map_map]
  refine List.map_congr_left (fun a _ => ?_)
  simp only [Function.comp_apply]
  split <;> rfl

/-- Every message that `s` has sent, and every one that it holds pending, is still there in `t`. -/
def KeepsMessages (s t : State) : Prop :=
  (∀ m ∈ s.msix, m ∈ t.msix) ∧ ∀ v, sget false s.msixPend v = true → sget false t.msixPend v = true

theorem KeepsMessages.refl (s : State) : KeepsMessages s s := ⟨fun _ h => h, fun _ h => h⟩

theorem KeepsMessages.trans {s t u : State} (h : KeepsMessages s t) (k : KeepsMessages t u) : KeepsMessages s u :=
  ⟨fun m hm => k.1 m (h.1 m hm), fun v hv => k.2 v (h.2 v hv)⟩

theorem sendMsix_keepsMessages (s : State) (v : Nat) : KeepsMessages s (sendMsix s v) := by
  unfold sendMsix
  split
  · refine ⟨fun _ h => h, fun w hw => ?_⟩
    simp only [sget_sput, hw, ite_self]
  · exact ⟨fun _ h => List.mem_cons_of_mem _ h, fun _ h => h⟩

theorem sendMsixs_keepsMessages (g : State → Nat → Nat) (l : List Nat) :
    ∀ s : State, KeepsMessages s (l.foldl (fun s x => sendMsix s (g s x)) s) := by
  induction l with
  | nil => exact KeepsMessages.refl
  | cons x l ih => exact fun s => (sendMsix_keepsMessages s _).trans (ih _)

theorem evRefresh_keepsMessages (s : State) : KeepsMessages s (evRefresh s) := by
  unfold evRefresh
  extract_lets act t now u
  obtain ⟨w, hw⟩ := latchWakes_eq { s with active := act }
  have ht : KeepsMessages s t := by
    simp only [t, hw]
    exact KeepsMessages.refl s
  have hu : KeepsMessages t u := by
    simp only [u]
    split
    · exact sendMsixs_keepsMessages (fun s x => s.get (Reg.INT_SRCs_CFG_VEC x)) _ t
    · exact KeepsMessages.refl t
  exact ht.trans hu

/-! ## Claims and completions by a core -/

/-- The word that a claim gives a core: the source's number, or all ones. -/
def claimWord (x : Option Nat) : W64 :=
  match x with
  | some n => BitVec.ofNat 64 n
  | none => BitVec.allOnes 64

theorem exec_sysrdClaim {s : State} {f : Fin 64} {c : Fin 4} (d : Fin 32) (h : Ready s f c (encI 0x3B d 0 8)) :
    exec (.sysrdClaim f c d) s =
      finish (advance ((claim s (4 * f + c)).1.setGreg f c d (claimWord (claim s (4 * f + c)).2)) f c) := coreStep_ready h

theorem exec_evdone {s : State} {f : Fin 64} {c : Fin 4} (a : Fin 32) (h : Ready s f c (encR 0x3C 0 a 0 0)) :
    exec (.evdone f c a) s = finish (complete (advance s f c) (4 * f + c) ((s.greg f c a).toNat % 1024)) := coreStep_ready h

/-- A claim that leaves the claims `l` gives the core its word and goes on. -/
theorem exec_sysrdClaim_effect {s : State} {f : Fin 64} {c : Fin 4} (d : Fin 32) (h : Ready s f c (encI 0x3B d 0 8))
    {l : List ActiveSrc} {x : Option Nat} (hc : claim s (4 * f + c) = ({ s with active := l }, x)) :
    ∃ t, exec (.sysrdClaim f c d) s = .next t ∧ t.greg f c d = (if d.val = 0 then 0 else claimWord x) ∧
      Sets s t [(Reg.FRM_COREc_PC_PC f c, (s.pc f c + 4) % 2 ^ 64)] ∧ t.claims = l.map (fun a => (a.src, a.target)) := by
  obtain ⟨t, ht, hgreg, hpc, -, hsame, -, honly⟩ := result_advance { s with active := l } f c d (claimWord x)
  refine ⟨evRefresh t, ?_, ?_, ?_, ?_⟩
  · rw [exec_sysrdClaim d h, hc]
    exact congrArg (Host.Outcome.next ∘ evRefresh) (Host.Outcome.next.inj ht)
  · rw [State.greg_evRefresh, hgreg]
  · have hsets : Sets s t [(Reg.FRM_COREc_PC_PC f c, (s.pc f c + 4) % 2 ^ 64)] := ⟨List.forall_mem_singleton.2 hpc, hsame⟩
    exact hsets.of_regs_eq (evRefresh_regs t)
  · rw [evRefresh_claims, honly]
    rfl

theorem pc_key_ne_srcCfg (f : Fin 64) (c : Fin 4) {x : Nat} (hx : x < 1024) :
    (Reg.FRM_COREc_PC_PC f c).key ≠ (Reg.INT_SRCs_CFG_PRIO x).key ∧ (Reg.FRM_COREc_PC_PC f c).key ≠ (Reg.INT_SRCs_CFG_TARGET x).key := by
  simp only [Reg.FRM_COREc_PC_PC, Reg.INT_SRCs_CFG_PRIO, Reg.INT_SRCs_CFG_TARGET]
  omega

theorem exec_evdone_claimed {s : State} {f : Fin 64} {c : Fin 4} (a : Fin 32) (h : Ready s f c (encR 0x3C 0 a 0 0)) {x : Nat}
    (hx : (s.greg f c a).toNat % 1024 = x) (hclaim : ∃ e ∈ s.active, e.src = x ∧ e.target = 4 * f.val + c.val) :
    ∃ t, exec (.evdone f c a) s = .next t ∧ t.pc f c = (s.pc f c + 4) % 2 ^ 64 ∧
      t.claims = (s.active.filter (fun e => e.src ≠ x)).map (fun e => (e.src, e.target)) := by
  obtain ⟨hactive, hget⟩ := complete_claimed (s := advance s f c) hclaim
  obtain ⟨hprio, htarget⟩ := pc_key_ne_srcCfg f c (x := x) (by omega)
  refine ⟨_, exec_evdone a h, ?_, ?_⟩
  · rw [hx, State.pc, State.get_evRefresh, hget _ hprio htarget]
    exact advance_pc s f c
  · rw [hx, evRefresh_claims, State.claims, hactive]
    rfl

/-- A spurious completion after other register effects counts itself, and is otherwise without effect. -/
theorem finish_spurious {s : State} {m : Sparse Nat} {l : List (Ref × Nat)} (h : Sets s { s with regs := m } l)
    (hl : ∀ p ∈ l, p.1.key ≠ Reg.INT_SPURIOUS_DONE_COUNT.key) {t x : Nat} (hnone : ∀ a ∈ s.active, ¬ (a.src = x ∧ a.target = t)) :
    ∃ u, finish (complete { s with regs := m } t x) = .next u ∧
      Sets s u ((Reg.INT_SPURIOUS_DONE_COUNT, min (s.get Reg.INT_SPURIOUS_DONE_COUNT + 1) (2 ^ 32 - 1)) :: l) ∧
      OnlyRegs s u ∧ u.claims = s.claims := by
  have hcount : State.get { s with regs := m } Reg.INT_SPURIOUS_DONE_COUNT = s.get Reg.INT_SPURIOUS_DONE_COUNT := by
    refine h.2 _ (fun hmem => ?_)
    obtain ⟨p, hp, he⟩ := List.mem_map.1 hmem
    exact hl p hp he
  have hput := h.put Reg.INT_SPURIOUS_DONE_COUNT
    (v := min (State.get { s with regs := m } Reg.INT_SPURIOUS_DONE_COUNT + 1) (2 ^ 32 - 1))
    (Nat.mod_eq_of_lt (Nat.lt_of_le_of_lt (Nat.min_le_right _ _) (by decide))) hl
  rw [hcount] at hput
  obtain ⟨u, hu, hsets, honly⟩ := finish_regEffect hput
  rw [complete_spurious (s := { s with regs := m }) hnone, State.bump, hcount]
  refine ⟨u, hu, hsets.of_perm (List.perm_append_singleton _ _), honly, ?_⟩
  obtain rfl := Host.Outcome.next.inj hu
  exact evRefresh_claims _

theorem exec_evdone_spurious {s : State} {f : Fin 64} {c : Fin 4} (a : Fin 32) (h : Ready s f c (encR 0x3C 0 a 0 0))
    (hnone : ∀ e ∈ s.active, ¬ (e.src = (s.greg f c a).toNat % 1024 ∧ e.target = 4 * f.val + c.val)) :
    ∃ t, exec (.evdone f c a) s = .next t ∧
      Sets s t [(Reg.INT_SPURIOUS_DONE_COUNT, min (s.get Reg.INT_SPURIOUS_DONE_COUNT + 1) (2 ^ 32 - 1)),
        (Reg.FRM_COREc_PC_PC f c, (s.pc f c + 4) % 2 ^ 64)] ∧ OnlyRegs s t ∧ t.claims = s.claims := by
  have hpc : Sets s (advance s f c) [(Reg.FRM_COREc_PC_PC f c, (s.pc f c + 4) % 2 ^ 64)] := (Sets.refl s).put _ rfl (by simp)
  rw [exec_evdone a h]
  refine finish_spurious hpc (List.forall_mem_singleton.2 ?_) hnone
  simp only [Reg.FRM_COREc_PC_PC, Reg.INT_SPURIOUS_DONE_COUNT]
  omega

/-! ## Claims and completions by the host -/

theorem exec_hostClaim {s : State} (ho : hostOpen s 0x203000 = true) :
    exec (.hostClaim 32) s = finish (setRead (claim s 258).1 (toLE 4 ((claim s 258).2.getD 0xFFFFFFFF)) false) :=
  if_neg (by simp [ho])

theorem exec_hostDone {s : State} (ho : hostOpen s 0x203004 = true) (v : BitVec 32) :
    exec (.hostDone v) s = finish (complete s 258 (v.toNat % 1024)) := if_pos ho

/-- A claim that leaves the claims `l` gives the host the source's number, or all ones. -/
theorem exec_hostClaim_effect {s : State} (ho : hostOpen s 0x203000 = true) {l : List ActiveSrc} {x : Option Nat}
    (hc : claim s 258 = ({ s with active := l }, x)) :
    Answers (.hostClaim 32) s (fun t => t.hostRead = toLE 4 (x.getD 0xFFFFFFFF) ∧ t.claims = l.map (fun a => (a.src, a.target)) ∧
      SameRegs s t []) := by
  refine ⟨_, exec_hostClaim ho, ?_, ?_, SameRegs.of_regs_eq ?_ _⟩
  · rw [evRefresh_hostRead, hc]
    rfl
  · rw [evRefresh_claims, hc]
    rfl
  · rw [evRefresh_regs, hc]
    rfl

theorem exec_hostDone_claimed {s : State} (ho : hostOpen s 0x203004 = true) (v : BitVec 32)
    (hclaim : ∃ a ∈ s.active, a.src = v.toNat % 1024 ∧ a.target = 258) :
    Answers (.hostDone v) s (fun t =>
      t.claims = (s.active.filter (fun a => a.src ≠ v.toNat % 1024)).map (fun a => (a.src, a.target))) := by
  refine ⟨_, exec_hostDone ho v, (evRefresh_claims _).trans ?_⟩
  rw [State.claims, (complete_claimed hclaim).1]

theorem exec_hostDone_spurious {s : State} (ho : hostOpen s 0x203004 = true) (v : BitVec 32)
    (hnone : ∀ a ∈ s.active, ¬ (a.src = v.toNat % 1024 ∧ a.target = 258)) :
    Answers (.hostDone v) s (fun t => t.claims = s.claims ∧ OnlyRegs s t ∧
      Sets s t [(Reg.INT_SPURIOUS_DONE_COUNT, min (s.get Reg.INT_SPURIOUS_DONE_COUNT + 1) (2 ^ 32 - 1))]) := by
  obtain ⟨t, ht, hsets, honly, hclaims⟩ := finish_spurious (Sets.refl s) (by simp) hnone
  exact ⟨t, (exec_hostDone ho v).trans ht, hclaims, honly, hsets⟩

/-! ## What a source's level reads (Table 15-9) -/

theorem allRegs_fields_lo_lt : ∀ d ∈ allRegs, ∀ fl ∈ d.fields, fl.lo < 64 := by decide +kernel

/-- The word of a register whose fields all lie elsewhere does not see a write. -/
theorem foldl_fields_put_other (s : State) {r : Ref} (v : Nat) {off : Nat} {fs : List Field} (h : ∀ fl ∈ fs, (fl.ref off).key ≠ r.key) :
    ∀ a : Nat, fs.foldl (fun a fl => a + (s.put r v).get (fl.ref off) * 2 ^ fl.lo) a =
      fs.foldl (fun a fl => a + s.get (fl.ref off) * 2 ^ fl.lo) a := by
  induction fs with
  | nil => exact fun _ => rfl
  | cons fl fs ih =>
    intro a
    obtain ⟨hfl, hfs⟩ := List.forall_mem_cons.1 h
    rw [List.foldl_cons, List.foldl_cons, State.get_put_other _ _ _ _ hfl, ih hfs]

theorem storedWord_put_other (s : State) (r : Ref) (v : Nat) {off : Nat} (h : r.key / 64 ≠ off) :
    storedWord (s.put r v) off = storedWord s off := by
  unfold storedWord
  split
  · next d ix hd =>
    refine foldl_fields_put_other s v (fun fl hfl => ?_) 0
    have hlo := allRegs_fields_lo_lt d (findReg_mem hd).1 fl hfl
    simp only [Field.ref]
    omega
  · rfl

/-- No level rests on MSIX_EN: each register that a level reads lies at another offset. -/
theorem srcLevel_put_msixEn (s : State) (v src : Nat) : srcLevel (s.put Reg.INT_HOSTCFG_MSIX_EN v) src = srcLevel s src := by
  have hword (off : Nat) (h : Reg.INT_HOSTCFG_MSIX_EN.key / 64 ≠ off) :
      storedWord (s.put Reg.INT_HOSTCFG_MSIX_EN v) off = storedWord s off := storedWord_put_other s _ v h
  unfold srcLevel
  simp (disch := with_unfolding_all (change 64 * _ + _ ≠ 64 * _ + _); omega) only [frameFault, numFlag, coalesced, anySet,
    State.on, State.cState, State.knot, List.any_cons, List.any_nil, State.get_put_other, hword 0x100000 (by decide),
    hword 0x10000C (by decide)]
  rfl

theorem srcPrio_put_msixEn (s : State) (v x : Nat) : srcPrio (s.put Reg.INT_HOSTCFG_MSIX_EN v) x = srcPrio s x :=
  State.get_put_other _ _ _ _ (by simp only [Reg.INT_SRCs_CFG_PRIO, Reg.INT_HOSTCFG_MSIX_EN]; omega)

theorem srcTarget_put_msixEn (s : State) (v x : Nat) : srcTarget (s.put Reg.INT_HOSTCFG_MSIX_EN v) x = srcTarget s x :=
  State.get_put_other _ _ _ _ (by simp only [Reg.INT_SRCs_CFG_TARGET, Reg.INT_HOSTCFG_MSIX_EN]; omega)

theorem srcVec_put_msixEn (s : State) (v x : Nat) :
    (s.put Reg.INT_HOSTCFG_MSIX_EN v).get (Reg.INT_SRCs_CFG_VEC x) = s.get (Reg.INT_SRCs_CFG_VEC x) :=
  State.get_put_other _ _ _ _ (by simp only [Reg.INT_SRCs_CFG_VEC, Reg.INT_HOSTCFG_MSIX_EN]; omega)

theorem srcState_put_msixEn (s : State) (v x : Nat) : srcState (s.put Reg.INT_HOSTCFG_MSIX_EN v) x = srcState s x := by
  unfold srcState
  rw [srcLevel_put_msixEn]
  rfl

theorem runPrio_put_msixEn (s : State) (v t : Nat) : runPrio (s.put Reg.INT_HOSTCFG_MSIX_EN v) t = runPrio s t := by
  simp only [runPrio, State.put_active, srcPrio_put_msixEn]

theorem deliverable_put_msixEn (s : State) (v : Nat) {x : Nat} (hx : srcTarget s x = 258) :
    deliverable (s.put Reg.INT_HOSTCFG_MSIX_EN v) x = deliverable s x := by
  have hthr : (s.put Reg.INT_HOSTCFG_MSIX_EN v).get (Reg.INT_TGTt_THR_THR 258) = s.get (Reg.INT_TGTt_THR_THR 258) :=
    State.get_put_other _ _ _ _ (by decide)
  simp only [deliverable, srcState_put_msixEn, runPrio_put_msixEn, srcPrio_put_msixEn, srcTarget_put_msixEn, hx, hthr]

theorem filterMap_sdel {α β : Type} {g : Nat × α → Option β} {k : Nat} (hg : ∀ v, g (k, v) = none) (m : Sparse α) :
    (sdel k m).filterMap g = m.filterMap g := by
  induction m with
  | nil => rfl
  | cons p m ih =>
    obtain ⟨k', v⟩ := p
    simp only [sdel]
    split
    · next he => rw [ih, he, List.filterMap_cons_none (hg v)]
    · simp only [List.filterMap_cons, ih]

theorem filterMap_sins {α β : Type} {g : Nat × α → Option β} {k : Nat} (hg : ∀ v, g (k, v) = none) (v : α) (m : Sparse α) :
    (sins k v m).filterMap g = m.filterMap g := by
  induction m with
  | nil => exact List.filterMap_cons_none (hg v)
  | cons p m ih =>
    obtain ⟨k', v'⟩ := p
    simp only [sins]
    split
    · exact List.filterMap_cons_none (hg v)
    · simp only [List.filterMap_cons, ih]

/-- What is gathered from a map's entries does not see a write to a key from which nothing is gathered. -/
theorem filterMap_sput {α β : Type} [DecidableEq α] {g : Nat × α → Option β} {k : Nat} (hg : ∀ v, g (k, v) = none) (z v : α)
    (m : Sparse α) : (sput z m k v).filterMap g = m.filterMap g := by
  unfold sput
  split
  · exact filterMap_sdel hg m
  · rw [filterMap_sins hg, filterMap_sdel hg]

theorem prioSources_put_msixEn (s : State) (v : Nat) : prioSources (s.put Reg.INT_HOSTCFG_MSIX_EN v) = prioSources s :=
  filterMap_sput (fun _ => if_neg (by decide)) _ _ _

theorem deliverables_put_msixEn (s : State) (v : Nat) : deliverables (s.put Reg.INT_HOSTCFG_MSIX_EN v) 258 = deliverables s 258 := by
  unfold deliverables
  rw [prioSources_put_msixEn]
  refine List.filter_congr (fun x _ => ?_)
  rw [srcTarget_put_msixEn]
  by_cases hx : srcTarget s x = 258
  · rw [deliverable_put_msixEn s v hx]
  · simp [hx]

/-! ## Messages (R359) -/

/-- In `t` the message for vector `v` of `s` has been sent, or is pending where BAR4 masks it. -/
def Told (s t : State) (v : Nat) : Prop :=
  (sget true s.msixMask v = false → ⟨v, sget 0 s.msixAddr v, sget 0 s.msixData v⟩ ∈ t.msix) ∧
    (sget true s.msixMask v = true → sget false t.msixPend v = true)

theorem Told.keeps {s t u : State} {v : Nat} (h : Told s t v) (k : KeepsMessages t u) : Told s u v :=
  ⟨fun hm => k.1 _ (h.1 hm), fun hm => k.2 _ (h.2 hm)⟩

theorem sendMsix_told (s : State) (v : Nat) : Told s (sendMsix s v) v := by
  unfold sendMsix
  split
  · next hm => exact ⟨fun hm' => by simp [hm] at hm', fun _ => by simp⟩
  · next hm => exact ⟨fun _ => List.mem_cons_self, fun hm' => absurd hm' hm⟩

/-- A message for every vector of a list tells each of them. -/
theorem sendMsixs_told {vs : List Nat} {v : Nat} (hv : v ∈ vs) : ∀ s : State, Told s (vs.foldl sendMsix s) v := by
  induction vs with
  | nil => exact absurd hv List.not_mem_nil
  | cons w vs ih =>
    intro s
    rw [List.foldl_cons]
    by_cases hw : v = w
    · subst hw
      exact (sendMsix_told s v).keeps (sendMsixs_keepsMessages (fun _ x => x) vs _)
    · have htold := ih ((List.mem_cons.1 hv).resolve_left hw) (sendMsix s w)
      rw [Told, sendMsix_eq] at htold
      rw [Told, sendMsix_eq]
      exact htold

/-- The vectors of the deliverable host sources, each once. -/
def dueVectors (s : State) : List Nat := ((deliverables s 258).map (fun x => s.get (Reg.INT_SRCs_CFG_VEC x))).eraseDups

theorem enableMsix_off {s : State} (h : s.get Reg.INT_HOSTCFG_MSIX_EN = 0) :
    enableMsix s = { (dueVectors s).foldl sendMsix (s.put Reg.INT_HOSTCFG_MSIX_EN 1) with ready := deliverables s 258 } := by
  have hoff : s.on Reg.INT_HOSTCFG_MSIX_EN = false := by simp [State.on, h]
  simp only [enableMsix, hoff, Bool.false_eq_true, if_false, deliverables_put_msixEn, srcVec_put_msixEn, dueVectors]

theorem enableMsix_regs {s : State} (h : s.get Reg.INT_HOSTCFG_MSIX_EN = 0) :
    (enableMsix s).regs = (s.put Reg.INT_HOSTCFG_MSIX_EN 1).regs := by
  obtain ⟨m, p, hsent⟩ := sendMsixs_eq (fun _ v => v) (dueVectors s) (s.put Reg.INT_HOSTCFG_MSIX_EN 1)
  rw [enableMsix_off h]
  exact (congrArg State.regs hsent :)

theorem enableMsix_told {s : State} (h : s.get Reg.INT_HOSTCFG_MSIX_EN = 0) {x : Nat} (hx : x ∈ deliverables s 258) :
    Told s (enableMsix s) (s.get (Reg.INT_SRCs_CFG_VEC x)) := by
  have hv : s.get (Reg.INT_SRCs_CFG_VEC x) ∈ dueVectors s := List.mem_eraseDups.2 (List.mem_map_of_mem hx)
  rw [enableMsix_off h]
  exact sendMsixs_told hv (s.put Reg.INT_HOSTCFG_MSIX_EN 1)

theorem exec_msixEn {s : State} (ho : hostOpen s 0x20300C = true) : exec .msixEn s = finish (enableMsix s) := if_pos ho

theorem exec_msixEn_effect {s : State} (ho : hostOpen s 0x20300C = true) (h : s.get Reg.INT_HOSTCFG_MSIX_EN = 0) :
    Answers .msixEn s (fun t => Sets s t [(Reg.INT_HOSTCFG_MSIX_EN, 1)] ∧
      ∀ x ∈ deliverables s 258, Told s t (s.get (Reg.INT_SRCs_CFG_VEC x))) := by
  refine ⟨_, exec_msixEn ho, ?_, fun x hx => (enableMsix_told h hx).keeps (evRefresh_keepsMessages _)⟩
  exact ((Sets.refl s).put (v := 1) Reg.INT_HOSTCFG_MSIX_EN rfl (by simp)).of_regs_eq ((evRefresh_regs _).trans (enableMsix_regs h))

/-- An unmask changes the vector's mask; beyond it, messages only. -/
theorem unmask_eq (s : State) (v : Nat) :
    ∃ m p, unmask s v = { s with msixMask := sput true s.msixMask v false, msix := m, msixPend := p } := by
  unfold unmask
  extract_lets u w
  split
  · split
    · rw [sendMsix_eq]
      exact ⟨_, _, rfl⟩
    · exact ⟨_, _, rfl⟩
  · exact ⟨_, _, rfl⟩

/-- An unmask sends the vector's pending message where one of its sources is deliverable. -/
theorem unmask_due {s : State} {v : Nat} (hpend : sget false s.msixPend v = true) (hen : s.get Reg.INT_HOSTCFG_MSIX_EN = 1)
    (hdue : ∃ x ∈ deliverables s 258, s.get (Reg.INT_SRCs_CFG_VEC x) = v) :
    unmask s v = sendMsix { s with msixMask := sput true s.msixMask v false, msixPend := sput false s.msixPend v false } v := by
  have hon : s.on Reg.INT_HOSTCFG_MSIX_EN = true := by simp [State.on, hen]
  have hany : (deliverables s 258).any (fun x => s.get (Reg.INT_SRCs_CFG_VEC x) = v) = true := by simpa using hdue
  exact (if_pos ⟨hpend, hon⟩).trans (if_pos hany)

theorem unmask_sends {s : State} {v : Nat} (hpend : sget false s.msixPend v = true) (hen : s.get Reg.INT_HOSTCFG_MSIX_EN = 1)
    (hdue : ∃ x ∈ deliverables s 258, s.get (Reg.INT_SRCs_CFG_VEC x) = v) :
    ⟨v, sget 0 s.msixAddr v, sget 0 s.msixData v⟩ ∈ (unmask s v).msix := by
  rw [unmask_due hpend hen hdue]
  exact (sendMsix_told { s with msixMask := sput true s.msixMask v false, msixPend := sput false s.msixPend v false } v).1
    (by simp)

theorem exec_msixUnmask {s : State} (ho : hostOpen s 0x203000 = true) (v : Fin 64) :
    exec (.msixUnmask v) s = finish (unmask s v) := if_pos ho

theorem exec_msixUnmask_sends {s : State} (ho : hostOpen s 0x203000 = true) (v : Fin 64) (hpend : sget false s.msixPend v = true)
    (hen : s.get Reg.INT_HOSTCFG_MSIX_EN = 1) (hdue : ∃ x ∈ deliverables s 258, s.get (Reg.INT_SRCs_CFG_VEC x) = v) :
    Answers (.msixUnmask v) s (fun t => ⟨v.val, sget 0 s.msixAddr v, sget 0 s.msixData v⟩ ∈ t.msix ∧
      sget true t.msixMask v = false ∧ SameRegs s t []) := by
  obtain ⟨m, p, he⟩ := unmask_eq s v
  refine ⟨_, exec_msixUnmask ho v, (evRefresh_keepsMessages _).1 _ (unmask_sends hpend hen hdue), ?_, SameRegs.of_regs_eq ?_ _⟩
  · simp only [evRefresh_msixMask, he, sget_sput_same]
  · rw [evRefresh_regs, he]

/-! ## BAR4's double words (assumption 34) -/

/-- `t` has the registers of `s`, and BAR4's words of every vector but `n`. -/
def OnlyVector (n : Fin 64) (s t : State) : Prop :=
  SameRegs s t [] ∧ ∀ m : Fin 64, m ≠ n → sget 0 t.msixAddr m = sget 0 s.msixAddr m ∧
    sget 0 t.msixData m = sget 0 s.msixData m ∧ sget true t.msixMask m = sget true s.msixMask m

theorem OnlyVector.evRefresh {n : Fin 64} {s t : State} (h : OnlyVector n s t) : OnlyVector n s (evRefresh t) := by
  obtain ⟨hregs, hothers⟩ := h
  refine ⟨fun q hq => (State.get_evRefresh t q).trans (hregs q hq), fun m hm => ?_⟩
  rw [evRefresh_msixAddr, evRefresh_msixData, evRefresh_msixMask]
  exact hothers m hm

theorem onlyVector_addr (s : State) (n : Fin 64) (v : Nat) : OnlyVector n s { s with msixAddr := sput 0 s.msixAddr n v } :=
  ⟨fun _ _ => rfl, fun _ hm => ⟨sget_sput_other _ _ _ (Fin.val_ne_of_ne hm), rfl, rfl⟩⟩

theorem onlyVector_data (s : State) (n : Fin 64) (v : Nat) : OnlyVector n s { s with msixData := sput 0 s.msixData n v } :=
  ⟨fun _ _ => rfl, fun _ hm => ⟨rfl, sget_sput_other _ _ _ (Fin.val_ne_of_ne hm), rfl⟩⟩

theorem onlyVector_mask {s : State} {n : Fin 64} {b : Sparse Bool} (h : ∀ j : Nat, j ≠ n → sget true b j = sget true s.msixMask j)
    (m : List Msix) (p : Sparse Bool) : OnlyVector n s { s with msixMask := b, msix := m, msixPend := p } :=
  ⟨fun _ _ => rfl, fun _ hj => ⟨rfl, rfl, h _ (Fin.val_ne_of_ne hj)⟩⟩

theorem hostOpen_bar4 (s : State) (o : Nat) : hostOpen s (0x4000000 + o) = hostOpen s 0x4000000 := by
  have hlow : ¬ 0x4000000 + o < 0x600000 := by omega
  have hlow' : ¬ 0x4000000 + o < 0x300000 := by omega
  simp [hostOpen, hlow, hlow']

/-- A 32-bit write of the host from 64 MiB on is a write of BAR4. -/
theorem exec_registerWrite_bar4 {s u : State} (ho : hostOpen s 0x4000000 = true) {o : Nat} {x : BitVec 32}
    (hu : writeBar4 s o x.toNat = u) : exec (.registerWrite .host (0x4000000 + o) 32 x.toNat) s = finish u := by
  have hopen : agentOpen s .host (0x4000000 + o) = true := (hostOpen_bar4 s o).trans ho
  simp [exec_registerWrite, execRegisterWrite, Nat.not_le.2 x.isLt, hopen, bar4Base, hu]

/-- Where the double word `k` of vector `n` lies. -/
theorem bar4_place {n : Fin 64} {k o : Nat} (hk : k < 4) (ho : o = 16 * n + 4 * k) :
    ¬ (1024 ≤ o ∨ o % 4 ≠ 0) ∧ o / 16 = n ∧ o % 16 / 4 = k := by omega

theorem writeBar4_addrLow (s : State) (n : Fin 64) (v : Nat) :
    writeBar4 s (16 * n) v = { s with msixAddr := sput 0 s.msixAddr n (sget 0 s.msixAddr n / 2 ^ 32 * 2 ^ 32 + v / 4 * 4) } := by
  obtain ⟨hin, hn, hk⟩ := bar4_place (n := n) (o := 16 * n) (k := 0) (by decide) rfl
  simp only [writeBar4, hin, hn, hk, if_false]

theorem writeBar4_addrHigh (s : State) (n : Fin 64) (v : Nat) :
    writeBar4 s (16 * n + 4) v = { s with msixAddr := sput 0 s.msixAddr n (v * 2 ^ 32 + sget 0 s.msixAddr n % 2 ^ 32) } := by
  obtain ⟨hin, hn, hk⟩ := bar4_place (n := n) (o := 16 * n + 4) (k := 1) (by decide) rfl
  simp only [writeBar4, hin, hn, hk, if_false]

theorem writeBar4_data (s : State) (n : Fin 64) (v : Nat) :
    writeBar4 s (16 * n + 8) v = { s with msixData := sput 0 s.msixData n v } := by
  obtain ⟨hin, hn, hk⟩ := bar4_place (n := n) (o := 16 * n + 8) (k := 2) (by decide) rfl
  simp only [writeBar4, hin, hn, hk, if_false]

/-- The vector's mask becomes bit 0; a message that an unmask sends is the only other change. -/
theorem writeBar4_mask (s : State) (n : Fin 64) (v : Nat) :
    ∃ b m p, writeBar4 s (16 * n + 12) v = { s with msixMask := b, msix := m, msixPend := p } ∧
      sget true b n = decide (v % 2 = 1) ∧ ∀ j : Nat, j ≠ n → sget true b j = sget true s.msixMask j := by
  obtain ⟨hin, hn, hk⟩ := bar4_place (n := n) (o := 16 * n + 12) (k := 3) (by decide) rfl
  have hbit : bit v 0 = decide (v % 2 = 1) := rfl
  simp only [writeBar4, hin, hn, hk, if_false, hbit]
  split
  · next hv => exact ⟨_, _, _, rfl, by simpa using hv, fun j hj => sget_sput_other _ _ _ hj⟩
  next hv =>
  split
  · obtain ⟨m, p, he⟩ := unmask_eq s n
    exact ⟨_, m, p, he, by simpa using hv, fun j hj => sget_sput_other _ _ _ hj⟩
  · next hm => exact ⟨s.msixMask, _, _, rfl, (eq_false_of_ne_true hm).trans (by simpa using hv), fun _ _ => rfl⟩

/-- The four double words of a vector take what the host writes. -/
theorem exec_registerWrite_vector {s : State} (ho : hostOpen s 0x4000000 = true) (n : Fin 64) (x : BitVec 32) :
    Answers (.registerWrite .host (0x4000000 + 16 * n) 32 x.toNat) s (fun t =>
      sget 0 t.msixAddr n = sget 0 s.msixAddr n / 2 ^ 32 * 2 ^ 32 + x.toNat / 4 * 4 ∧ OnlyVector n s t) ∧
    Answers (.registerWrite .host (0x4000000 + 16 * n + 4) 32 x.toNat) s (fun t =>
      sget 0 t.msixAddr n = x.toNat * 2 ^ 32 + sget 0 s.msixAddr n % 2 ^ 32 ∧ OnlyVector n s t) ∧
    Answers (.registerWrite .host (0x4000000 + 16 * n + 8) 32 x.toNat) s (fun t =>
      sget 0 t.msixData n = x.toNat ∧ OnlyVector n s t) ∧
    Answers (.registerWrite .host (0x4000000 + 16 * n + 12) 32 x.toNat) s (fun t =>
      sget true t.msixMask n = (x.toNat % 2 = 1) ∧ OnlyVector n s t) := by
  obtain ⟨b, m, p, hmask, hb, hothers⟩ := writeBar4_mask s n x.toNat
  refine ⟨⟨_, exec_registerWrite_bar4 ho (writeBar4_addrLow s n _), ?_, (onlyVector_addr s n _).evRefresh⟩,
    ⟨_, exec_registerWrite_bar4 ho (writeBar4_addrHigh s n _), ?_, (onlyVector_addr s n _).evRefresh⟩,
    ⟨_, exec_registerWrite_bar4 ho (writeBar4_data s n _), ?_, (onlyVector_data s n _).evRefresh⟩,
    ⟨_, exec_registerWrite_bar4 ho hmask, ?_, (onlyVector_mask hothers m p).evRefresh⟩⟩
  · rw [evRefresh_msixAddr, sget_sput_same]
  · rw [evRefresh_msixAddr, sget_sput_same]
  · rw [evRefresh_msixData, sget_sput_same]
  · simp only [evRefresh_msixMask, hb, decide_eq_true_eq]

/-! ## The obligation -/

/-- Settles O15: the best source is the one that the search over the rising sources finds; the refresh that ends each command keeps
the claims and the messages; and no level rests on MSIX_EN, so its write tells the sources that were deliverable before it. -/
theorem eventsAreClaimed : Obligations.EventsAreClaimed := by
  refine ⟨fun s f c d a hs => ⟨fun hready => ⟨fun hnone => ?coreIdle, fun x hx hbest => ?coreClaim⟩,
      fun hready => ⟨fun hclaim => ?coreDone, fun hnone => ?coreSpurious⟩⟩,
    fun s hs => ⟨fun ho => ⟨fun hnone => ?hostIdle, fun x hx hbest => ?hostClaim, fun v hpend hen hdue => ?unmask⟩,
      fun ho v => ⟨fun hclaim => ?hostDone, fun hnone => ?hostSpurious⟩, fun ho hoff => ?enable, fun ho n x => ?bar4⟩⟩
  case coreIdle => exact exec_sysrdClaim_effect d hready (claim_none hnone)
  case coreClaim =>
    obtain ⟨t, ht, hgreg, hsets, hclaims⟩ := exec_sysrdClaim_effect d hready (claim_best hs ⟨hx, hbest⟩)
    exact ⟨t, ht, hgreg, hsets, hclaims.trans List.map_append⟩
  case coreDone => exact exec_evdone_claimed a hready rfl hclaim
  case coreSpurious => exact exec_evdone_spurious a hready hnone
  case hostIdle => exact exec_hostClaim_effect ho (claim_none hnone)
  case hostClaim =>
    obtain ⟨t, ht, hread, hclaims, hregs⟩ := exec_hostClaim_effect ho (claim_best hs ⟨hx, hbest⟩)
    exact ⟨t, ht, hread, hclaims.trans List.map_append, hregs⟩
  case unmask => exact exec_msixUnmask_sends ho v hpend hen hdue
  case hostDone => exact exec_hostDone_claimed ho v hclaim
  case hostSpurious => exact exec_hostDone_spurious ho v hnone
  case enable => exact exec_msixEn_effect ho hoff
  case bar4 => exact exec_registerWrite_vector ho n x

end Sys2Proof.Machine
end
